-- ==== Sys2Proof/Word.lean ====
section
/-! DEFINITION. The word types of the device (R11: every multi-byte structure is little-endian, bit 0 the least significant) and
their plainest arithmetic. -/

namespace Sys2Proof

/-- A 32-bit register word of BAR2 (R53). -/
abbrev Word := BitVec 32

/-- One byte of storage. -/
abbrev Byte := BitVec 8

/-- The field `[lsb + width - 1 : lsb]` of a number (R11: both ends included). -/
def bits (n lsb width : Nat) : Nat := (n >>> lsb) % 2 ^ width

/-- `n` with its field `[lsb + width - 1 : lsb]` replaced by the low `width` bits of `v`. -/
def setBits (n lsb width v : Nat) : Nat :=
  n % 2 ^ lsb + (v % 2 ^ width) * 2 ^ lsb + (n >>> (lsb + width)) * 2 ^ (lsb + width)

/-- Bit `i` of a number. -/
def bit (n i : Nat) : Bool := n.testBit i

/-- 1 for true, 0 for false: a status bit. -/
def b2n (b : Bool) : Nat := if b then 1 else 0

/-- Addition that stops at `top` (saturating counters). -/
def satAdd (top a b : Nat) : Nat := min top (a + b)

/-- `n` with bit `i` set. -/
def setBit (n i : Nat) : Nat := n ||| (1 <<< i)

/-- `n` with bit `i` cleared. -/
def clrBit (n i : Nat) : Nat := if n.testBit i then n - 2 ^ i else n

/-- The numbers below `k` whose bit is set in `n`, ascending. -/
def bitList (k n : Nat) : List Nat := (List.range k).filter (fun i => n.testBit i)

/-- The number with exactly the listed bits set. -/
def bitMask (is : List Nat) : Nat := is.foldl setBit 0

/-- `n` with every bit of `m` cleared (a W1C write, R15). -/
def clearBits (n m : Nat) : Nat := n - (n &&& m)

end Sys2Proof
end

