-- ==== Sys2Proof/Syntax.lean ====
section
/-! DEFINITION. The commands of the block: one constructor of `Instr` for each row of the opcode table, with the operands that the
command carries from outside (an address, a value, what a link partner sent, what a physical medium or a random source gave). The table
gives its rows no operands and no bits: the operands here are read from the rule each row names. -/

namespace Sys2Proof

/-- Who makes a register access (R53): a host through a logical device, firmware on a management core, the debug port, the Strongroom. -/
inductive Agent where
  | ld (n : Nat)
  | core (n : Nat)
  | debug
  | strongroom
  deriving DecidableEq, Repr

/-- Which part of a 64-bit register a write covers (R54). -/
inductive Half64 where
  | lo | hi | both
  deriving DecidableEq, Repr

/-- An asynchronous input that no command of its own brings (R26): warm_rst_n (source 0x400, `active` while it is low), an error of a
management core (sources 0x030 to 0x032) with the core and the address that its capture holds, or "NOC trace full". -/
structure InputSample where
  src : Nat
  active : Bool
  core : Nat := 0
  addr : Nat := 0
  deriving DecidableEq, Repr

/-- What a channel's DRAM answers to the mode-register read of R281: three bits per rank. -/
structure Mr4Read where
  ch : Nat
  mr4 : BitVec 24
  deriving DecidableEq, Repr

/-- What a read of stored lines meets in the DRAM array (R243, R246): whether the device parity of the captured line is consistent,
whether its tag is right, and, where it is not, how many of the nine erasure candidates rebuild a line whose tag is right, and whether
the line's tag device is the one that failed. -/
structure LineFault where
  parityOk : Bool
  tagOk : Bool
  candidates : Nat
  device : Nat
  deriving DecidableEq, Repr

/-- A line fault met at one line of a range: the line's number in a page, or, for a ring job, its LD offset over 64. -/
structure LineFaultAt where
  line : Nat
  fault : LineFault
  deriving DecidableEq, Repr

/-- The value of a HDM decoder as the host commits it (R88). -/
structure HdmDecoder where
  base : Nat
  size : Nat
  ways : Nat
  gran : Nat
  pos : Nat
  skip : Nat
  bi : Bool
  lock : Bool
  deriving DecidableEq, Repr

/-- QoS Control of the FM API (R86). -/
structure QosControl where
  egressControl : Bool
  tempThrottle : Bool
  modPct : Nat
  sevPct : Nat
  interval : Nat
  deriving DecidableEq, Repr

/-- A management command that the FM API tunnels to one LD (R85). -/
inductive TunnelledCommand where
  | identify | getHealth | getLdInfo | other (opcode : BitVec 16)
  deriving DecidableEq, Repr

/-- An extent of dynamic capacity: DPA offset and length in bytes (R91). -/
structure DcExtent where
  start : Nat
  length : Nat
  deriving DecidableEq, Repr

/-- The Dynamic Capacity management of the FM API (R85). -/
inductive DcdCommand where
  | getInfo
  | getConfig (ld : Nat)
  | setConfig (ld : Nat) (room : Nat) (rooms : Nat)
  | getExtents (ld : Nat)
  | add (ld : Nat) (extents : List DcExtent)
  | release (ld : Nat) (extents : List DcExtent)
  deriving DecidableEq, Repr

/-- The event logs of an LD (R99). -/
inductive EventLog where
  | info | warn | fail | fatal | dc
  deriving DecidableEq, Repr

/-- The logs that Get Log reads (R95). -/
inductive SupportedLog where
  | cel | vendor | unknown
  deriving DecidableEq, Repr

/-- A firmware image as R502 to R504 check it: the fields the checks read, and which checks its signatures and digests pass. -/
structure FwImage where
  version : Nat
  svn : Nat
  entry : Nat
  digest : BitVec 256
  minStep : Nat
  lcMask : Nat
  magicOk : Bool
  lengthOk : Bool
  halvasSigned : Bool
  ownerSigned : Bool
  digestOk : Bool
  deriving DecidableEq, Repr

/-- One entry of a port allocation (R94): MSI-X vectors and HDM decoders of one LD-ID. -/
structure AllocEntry where
  vectors : Nat
  decoders : Nat
  apply : Bool
  deriving DecidableEq, Repr

/-- The meta value and snoop type of a CXL.mem request (R141). -/
inductive MetaValue where
  | invalid | any | shared
  deriving DecidableEq, Repr

/-- A CXL.mem request: the port and half it enters, the LD-ID it carries, the host address of its line, its meta value and tag. -/
structure MemReq where
  port : Nat
  half : Nat
  ldId : Nat
  addr : Nat
  metaVal : MetaValue
  tag : Nat
  deriving DecidableEq, Repr

/-- What ended the copy phase of a page (R185, R186, R188): its reads with the line faults they met, a block that failed its paired check, or
a write error at a destination cartridge. -/
inductive CopyResult where
  | ok (faults : List LineFaultAt)
  | mismatch (block : Nat)
  | writeFailed
  deriving DecidableEq, Repr

/-- The bank timings of one command slot of a subchannel (R276): which of the queued candidates the DRAM timings allow, by queue id. -/
structure DdrReady where
  ready : List Nat
  readBus : Bool
  writeBus : Bool
  deriving DecidableEq, Repr

/-- Why a received packet is dropped (R391). -/
inductive BadPacket where
  | crc | length | type | seqGap | duplicate | tag
  deriving DecidableEq, Repr

/-- A training proposal (R400): speed code (0 fastest), width code and the usable lanes. -/
structure Proposal where
  speed : Nat
  width : Nat
  lanes : Nat
  deriving DecidableEq, Repr

/-- The header of a Yarn packet (R384) with the result of the link tag check of R389. -/
structure YarnHeader where
  seq : BitVec 12
  tag : Nat
  ack : Option (BitVec 12)
  tagOk : Bool
  deriving DecidableEq, Repr

/-- The body of IDENTIFY (R409, R417). -/
structure IdentifyBody where
  serial : BitVec 128
  extents : Nat
  maxCmds : Nat
  window : Nat
  budget : Nat
  wear : Nat
  readOnly : Bool
  degraded : Bool
  chainLen : Nat
  deriving DecidableEq, Repr

/-- The body of RSP (R416): status code, LINES, the mask of home lines that could not be read, and of the directory line a read returns:
whether its tag verifies, its FORMAT and its L (R411, R412). -/
structure RspBody where
  status : Nat
  count : Nat
  mask : BitVec 64
  dirOk : Bool
  format : Nat
  dirLines : Nat
  deriving DecidableEq, Repr

/-- One line of a slot that a cartridge sends (R415, R248): the data that the device decrypts, its poison bit, generation bit and
whether its tag is right. -/
structure CartLine where
  data : BitVec 512
  poison : Bool
  gen : Bool
  tagOk : Bool
  deriving DecidableEq, Repr

/-- The body of WEAR (R424). -/
structure WearBody where
  wear : Nat
  budget : Nat
  readOnly : Bool
  degraded : Bool
  deriving DecidableEq, Repr

/-- What a router finds wrong with a header flit (R439). -/
inductive FlitError where
  | corrected | uncorrectable
  deriving DecidableEq, Repr

/-- The strap balls at the rising edge of por_n (R580): hpN_bif, twin_role, vs_gate. -/
structure Straps where
  bifurcate : BitVec 4
  twinRole : Bool
  vsGate : Bool
  deriving DecidableEq, Repr

/-- The transport an SPDM message arrives on (R508). -/
inductive Transport where
  | doe (ld : Nat) | mctp
  deriving DecidableEq, Repr

/-- A secured request of the Strongroom (R509): its session, the nonce it carries, whether it is signed, the SM3 of its SIGNER key, whether
the signature verifies with the device serial as identifier, and its arguments (R510): a slot or first room, a value or level, a last
room, a duration, a digest. -/
structure SecureReq where
  session : Nat
  nonce : BitVec 256
  signed : Bool
  signer : BitVec 256
  signatureOk : Bool
  slot : Nat
  value : Nat
  aux : Nat
  dur : Nat
  digest : BitVec 256
  deriving DecidableEq, Repr

/-- What blowing a fuse item came to (R514). -/
inductive FuseResult where
  | ok | failed (item : Nat)
  deriving DecidableEq, Repr

/-- The body of HELLO (R532). -/
structure HelloBody where
  serial : BitVec 128
  role : Bool
  part : Nat
  state : Nat
  epoch : Nat
  owner : BitVec 256
  fence : Nat
  silence : Nat
  deriving DecidableEq, Repr

/-- The body of SOURCE (R533). -/
structure SourceBody where
  state : Nat
  epoch : Nat
  deriving DecidableEq, Repr

/-- The body of MWR (R537). -/
structure MwrBody where
  mid : Nat
  dpa : Nat
  enables : BitVec 64
  data : BitVec 512
  echo : Bool
  poison : Bool
  cls : Nat
  deriving DecidableEq, Repr

/-- The body of SYNC_LINE (R554, R541). -/
structure SyncBody where
  mid : Nat
  dpa : Nat
  data : BitVec 512
  poison : Bool
  zero : Bool
  repair : Bool
  deriving DecidableEq, Repr

/-- IDE key management messages (R100). -/
inductive IdeCommand where
  | query
  | keyProg (stream : Nat) (rx : Bool)
  | setGo (stream : Nat) (rx : Bool)
  | setStop (stream : Nat) (rx : Bool)
  deriving DecidableEq, Repr

/-- The commands, in the order of the opcode table. -/
inductive Instr where
  /-- STITCH_BOUNDARY (R40): Every 256 fabric cycles SN advances, sources are sampled, stitch-aligned writes take effect and the Gauge plan for the stitch takes force. -/
  | stitchBoundary (inputs : List InputSample) (planComplete : Bool)
  /-- EVENT_DISPATCH (R34): One sampled or carried-over event is dispatched in its slot and its owning block acts on it. -/
  | eventDispatch
  /-- STUCK_INPUT_MASK (R36): A source active for L + 1 consecutive samples is masked and raises the STC stuck input source. -/
  | stuckInputMask (src : Nat)
  /-- SOURCE_QUARANTINE (R37): The (M + 1)-th assertion of a source in one rate window is not dispatched and the source is quarantined. -/
  | sourceQuarantine (src : Nat)
  /-- STC_MASKED_RELEASE (R36): A write of 1 to a bit of STC_MASKED releases a masked source and clears its consecutive count. -/
  | stcMaskedRelease (a : Agent) (word : Nat) (v : BitVec 32)
  /-- STC_QUAR_RELEASE (R37): A write of 1 to a bit of STC_QUAR releases a quarantined source and clears its rate-window count. -/
  | stcQuarRelease (a : Agent) (word : Nat) (v : BitVec 32)
  /-- REFERENCE_CLOCK_LOSS (R24): With the fabric clock stopped and refclk absent, SN is kept on the internal oscillator and SN_APPROX is set. -/
  | referenceClockLoss
  /-- GAUGE_WINDOW_END (R310): At each SN that is a multiple of 64 a Gauge window ends, use counts reset and accepted sets and scales take effect. -/
  | gaugeWindowEnd (mr4 : List Mr4Read)
  /-- REGISTER_WRITE (R55): A write to a register field with no behaviour of its own stores the value under its access type. -/
  | registerWrite (a : Agent) (off : Nat) (width : Nat) (v : BitVec 64)
  /-- BAR2_READ (R53): A BAR2 read with read side effects, such as latching the upper word of a 64-bit register. -/
  | bar2Read (a : Agent) (off : Nat) (width : Nat)
  /-- BAR2_ACCESS_COMPLETE (R56): An access that woke a powered-off domain completes once the page's READY reads 1. -/
  | bar2AccessComplete (id : Nat)
  /-- BAR2_DOMAIN_TIMEOUT (R56): An access whose page is not READY within 1024 stitches is given up and raises BAR2 domain timeout. -/
  | bar2DomainTimeout (id : Nat)
  /-- PG_ENABLE_WRITE (R64): A write to PG_CTL.ENABLE stops or resumes acceptance of new work by the block. -/
  | pgEnableWrite (a : Agent) (page : Nat) (on : Bool)
  /-- PG_FROG_WRITE (R65): A write of 1 to PG_CTL.FROG requests an abort of the page's function. -/
  | pgFrogWrite (a : Agent) (page : Nat)
  /-- PG_TEST_INT_WRITE (R67): A write to PG_CTL.TEST_INT forces or releases the page's pending state. -/
  | pgTestIntWrite (a : Agent) (page : Nat) (on : Bool)
  /-- PG_INT_STS_CLEAR (R68): A W1C write to PG_INT_STS clears bits and sends an interrupt if the page stays pending. -/
  | pgIntStsClear (a : Agent) (page : Nat) (v : BitVec 32) (coincident : BitVec 32)
  /-- PG_INT_EN_WRITE (R68): A write to PG_INT_EN changes the enabled bits and sends an interrupt if the page is then pending. -/
  | pgIntEnWrite (a : Agent) (page : Nat) (v : BitVec 32)
  /-- PG_INT_SET_WRITE (R69): A write to PG_INT_SET sets status bits for test outside the dispatch order. -/
  | pgIntSetWrite (a : Agent) (page : Nat) (v : BitVec 32)
  /-- GEN_IRQ_ROUTE_WRITE (R73): A write to GEN_IRQ_ROUTE changes a page's route; clearing MASK on a pending page sends an interrupt. -/
  | genIrqRouteWrite (a : Agent) (v : BitVec 32)
  /-- GEN_ACC_WRITE (R61): A write to GEN_ACC changes a page's access mode and owner, stitch-aligned. -/
  | genAccWrite (a : Agent) (v : BitVec 32)
  /-- GEN_MGMT_LD_WRITE (R73): A write to GEN_MGMT_LD changes the management LDs unless it would leave none. -/
  | genMgmtLdWrite (a : Agent) (h : Half64) (v : BitVec 64)
  /-- TAL_SEL_WRITE (R561): A write to TAL_SELn.EVENT chooses the event counted from the next cycle. -/
  | talSelWrite (a : Agent) (page : Nat) (n : Nat) (event : BitVec 16)
  /-- TAL_CLEAR (R561): A write with TAL_SELn.CLEAR set makes the counter 0. -/
  | talClear (a : Agent) (page : Nat) (n : Nat) (event : BitVec 16)
  /-- TAL_OVF_CLEAR (R562): A W1C write to TAL_OVF clears sticky wrap bits. -/
  | talOvfClear (a : Agent) (page : Nat) (v : BitVec 32) (coincident : BitVec 4)
  /-- TALLY_COUNTER_WRAP (R562): A page counter passes 2^48 − 1, sets its TAL_OVF bit and latches the group's Tally source if the bit was clear. -/
  | tallyCounterWrap (page : Nat) (n : Nat) (occurrences : Nat)
  /-- HOST_LINK_UP (R79): A host port half trains up and raises its link-state source. -/
  | hostLinkUp (port : Nat) (half : Nat) (speed : Nat) (width : Nat) (mldCapable : Bool)
  /-- HOST_LINK_DOWN (R80): A host port half goes down; accepted requests complete internally and responses are discarded. -/
  | hostLinkDown (port : Nat) (half : Nat)
  /-- HOST_LINK_CHANGE (R79): A host link changes speed or width without going down. -/
  | hostLinkChange (port : Nat) (half : Nat) (speed : Nat) (width : Nat)
  /-- L0P_REQUEST (R78): The link partner requests an L0p width change, accepted while L0P_EN is 1. -/
  | l0pRequest (port : Nat) (half : Nat) (width : Nat)
  /-- HOST_L1_EXIT_WAKE (R492): The partner requests L1 exit or asserts perst, a wake source of the power controller. -/
  | hostL1ExitWake (port : Nat) (half : Nat)
  /-- CONVENTIONAL_RESET (R82): hpN_perst_n asserted or a hot reset resets all LDs of the port and takes its links down. -/
  | conventionalReset (port : Nat) (byPerst : Bool)
  /-- PERST_DEASSERT (R585): hpN_perst_n rising lets the port's links begin training. -/
  | perstDeassert (port : Nat)
  /-- FUNCTION_LEVEL_RESET (R82): The FLR bit of an LD resets its CXL.io state only. -/
  | functionLevelReset (ld : Nat)
  /-- CXL_RESET (R82): A CXL Reset of an LD resets its CXL.mem state and, with Memory Clear, clears its skeins. -/
  | cxlReset (ld : Nat) (memoryClear : Bool)
  /-- CXL_RESET_COMPLETE (R82): A CXL Reset completes within 65536 stitches. -/
  | cxlResetComplete (ld : Nat)
  /-- LD_BIND (R84): The first configuration request for an LD-ID after link-up makes that LD bound in MLD mode. -/
  | ldBind (port : Nat) (ldId : Nat)
  /-- HDM_DECODER_COMMIT (R88): A host commits an HDM decoder of an LD, optionally locking it and setting BI. -/
  | hdmDecoderCommit (ld : Nat) (index : Nat) (d : HdmDecoder)
  /-- HP_VEC_ALLOC_WRITE (R94): A write to HP_VEC_ALLOCn changes an LD's MSI-X count unless R94 refuses it. -/
  | hpVecAllocWrite (a : Agent) (port : Nat) (n : Nat) (v : BitVec 32)
  /-- HP_HDM_ALLOC_WRITE (R94): A write to HP_HDM_ALLOCn changes an LD's decoder count unless R94 refuses it. -/
  | hpHdmAllocWrite (a : Agent) (port : Nat) (n : Nat) (v : BitVec 32)
  /-- IDE_INTEGRITY_FAILURE (R100): An IDE integrity failure sets IDE_FAIL and takes the link to the insecure state. -/
  | ideIntegrityFailure (port : Nat) (half : Nat)
  /-- LINK_REPLAY_THRESHOLD (R106): Link-layer replays of a half reach HP_REPLAY_THR in one window and set REPLAY_THR. -/
  | linkReplayThreshold (port : Nat) (half : Nat) (replays : Nat)
  /-- GET_LD_INFO (R85): FM API command returning LD information of an MLD port. -/
  | getLdInfo (port : Nat)
  /-- GET_LD_ALLOCATIONS (R85): FM API command returning the capacity allocation of each LD. -/
  | getLdAllocations (port : Nat) (start : Nat) (count : Nat)
  /-- SET_LD_ALLOCATIONS (R135): FM API command setting LD capacity quotas in 1 GiB units. -/
  | setLdAllocations (port : Nat) (start : Nat) (gib : List Nat)
  /-- GET_QOS_CONTROL (R86): FM API command returning the QoS control parameters. -/
  | getQosControl (port : Nat)
  /-- SET_QOS_CONTROL (R86): FM API command setting QoS control parameters. -/
  | setQosControl (port : Nat) (c : QosControl)
  /-- GET_QOS_STATUS (R87): FM API command returning QoS status. -/
  | getQosStatus (port : Nat)
  /-- GET_QOS_ALLOCATED_BW (R86): FM API command returning allocated bandwidth fractions, reported back from the Gauge. -/
  | getQosAllocatedBw (port : Nat) (start : Nat) (count : Nat)
  /-- SET_QOS_ALLOCATED_BW (R86): FM API command turning bandwidth fractions into Kitchen guarantees through a Gauge commit. -/
  | setQosAllocatedBw (port : Nat) (start : Nat) (fractions : List (BitVec 8))
  /-- GET_QOS_BW_LIMIT (R86): FM API command returning bandwidth limits. -/
  | getQosBwLimit (port : Nat) (start : Nat) (count : Nat)
  /-- SET_QOS_BW_LIMIT (R86): FM API command turning bandwidth limits into LD ceilings. -/
  | setQosBwLimit (port : Nat) (start : Nat) (fractions : List (BitVec 8))
  /-- TUNNEL_MANAGEMENT (R85): FM API tunnel management command. -/
  | tunnelManagement (port : Nat) (ldId : Nat) (inner : TunnelledCommand)
  /-- DCD_MANAGEMENT (R85): FM API Dynamic Capacity Device management command. -/
  | dcdManagement (port : Nat) (c : DcdCommand)
  /-- DOE_DISCOVERY (R101): A DOE Discovery request to an LD's DOE mailbox. -/
  | doeDiscovery (ld : Nat) (index : Nat)
  /-- CDAT_READ (R101): A CDAT read through DOE returning DSMAS and DSLBIS entries. -/
  | cdatRead (ld : Nat) (entry : Nat)
  /-- GET_EVENT_RECORDS (R99): Mailbox command returning records of an LD's event log. -/
  | getEventRecords (ld : Nat) (log : EventLog)
  /-- CLEAR_EVENT_RECORDS (R99): Mailbox command clearing records of an LD's event log. -/
  | clearEventRecords (ld : Nat) (log : EventLog) (handles : List Nat) (all : Bool)
  /-- GET_EVENT_INTERRUPT_POLICY (R95): Mailbox command returning the event interrupt policy. -/
  | getEventInterruptPolicy (ld : Nat)
  /-- SET_EVENT_INTERRUPT_POLICY (R95): Mailbox command setting the event interrupt policy. -/
  | setEventInterruptPolicy (ld : Nat) (policy : BitVec 40)
  /-- GET_FW_INFO (R517): Mailbox command reporting slots, running and active slot and online activation. -/
  | getFwInfo (ld : Nat)
  /-- TRANSFER_FW (R517): Mailbox command writing image data to the slot not running and checking it on the last part. -/
  | transferFw (ld : Nat) (slot : Nat) (last : Bool) (image : FwImage)
  /-- ACTIVATE_FW_ON_RESET (R517): Mailbox command naming a checked slot in the active-slot record. -/
  | activateFwOnReset (ld : Nat) (slot : Nat)
  /-- ACTIVATE_FW_ONLINE (R518): Mailbox command staging a checked image and scheduling the live activation pause at P. -/
  | activateFwOnline (ld : Nat) (slot : Nat) (digestOk : Bool)
  /-- GET_TIMESTAMP (R98): Mailbox command returning the device timestamp. -/
  | getTimestamp (ld : Nat)
  /-- SET_TIMESTAMP (R98): Mailbox command from a management LD setting the device timestamp. -/
  | setTimestamp (ld : Nat) (t : BitVec 64)
  /-- GET_SUPPORTED_LOGS (R95): Mailbox command listing supported logs. -/
  | getSupportedLogs (ld : Nat)
  /-- GET_LOG (R95): Mailbox command reading the Command Effects Log or the Halvas debug log. -/
  | getLog (ld : Nat) (log : SupportedLog) (offset : Nat) (length : Nat)
  /-- GET_SUPPORTED_FEATURES (R95): Mailbox command listing supported features. -/
  | getSupportedFeatures (ld : Nat)
  /-- GET_FEATURE (R95): Mailbox command reading a feature. -/
  | getFeature (ld : Nat) (id : Nat)
  /-- SET_FEATURE (R95): Mailbox command setting a feature. -/
  | setFeature (ld : Nat) (id : Nat) (data : BitVec 64)
  /-- IDENTIFY_MEMORY_DEVICE (R95): Mailbox command returning the memory device identity, volatile capacity only. -/
  | identifyMemoryDevice (ld : Nat)
  /-- GET_HEALTH_INFO (R95): Mailbox command returning health information. -/
  | getHealthInfo (ld : Nat)
  /-- GET_ALERT_CONFIGURATION (R95): Mailbox command returning alert configuration. -/
  | getAlertConfiguration (ld : Nat)
  /-- SET_ALERT_CONFIGURATION (R95): Mailbox command setting alert configuration. -/
  | setAlertConfiguration (ld : Nat) (config : BitVec 96)
  /-- SANITIZE (R96): Background mailbox command clearing every skein of the issuing LD and freeing its extents. -/
  | sanitize (ld : Nat)
  /-- SECURE_ERASE (R96): Background mailbox command with the same effect as Sanitize. -/
  | secureErase (ld : Nat)
  /-- BACKGROUND_COMMAND_COMPLETE (R96): A background command such as Sanitize or Scan Media completes within its bound. -/
  | backgroundCommandComplete (ld : Nat)
  /-- GET_POISON_LIST (R615): Mailbox command reporting poisoned LD offsets of the issuing LD. -/
  | getPoisonList (ld : Nat) (start : Nat) (length : Nat)
  /-- INJECT_POISON (R616): Mailbox command writing a line with poison as a write of the issuing LD. -/
  | injectPoison (ld : Nat) (offset : Nat)
  /-- CLEAR_POISON (R616): Mailbox command writing supplied data to a line without poison. -/
  | clearPoison (ld : Nat) (offset : Nat) (data : BitVec 512)
  /-- POISON_WRITE_VISIBLE (R616): The write of Inject or Clear Poison reaches its point of visibility or is discarded and the command completes. -/
  | poisonWriteVisible (ld : Nat)
  /-- GET_SCAN_MEDIA_CAPABILITIES (R615): Mailbox command returning scan media capabilities. -/
  | getScanMediaCapabilities (ld : Nat) (start : Nat) (length : Nat)
  /-- SCAN_MEDIA (R96): Mailbox command checking each line of a range and adding failing lines to the poison list. -/
  | scanMedia (ld : Nat) (start : Nat) (length : Nat) (faults : List LineFaultAt)
  /-- GET_SCAN_MEDIA_RESULTS (R615): Mailbox command returning scan media results. -/
  | getScanMediaResults (ld : Nat)
  /-- GET_DC_CONFIGURATION (R91): Mailbox command returning Dynamic Capacity configuration. -/
  | getDcConfiguration (ld : Nat)
  /-- GET_DC_EXTENT_LIST (R91): Mailbox command returning the Dynamic Capacity extent list. -/
  | getDcExtentList (ld : Nat)
  /-- ADD_DC_RESPONSE (R131): Mailbox command accepting extents, setting DC_ACC on their skeins. -/
  | addDcResponse (ld : Nat) (extents : List DcExtent)
  /-- RELEASE_DC (R131): Mailbox command releasing extents: migrations aborted, storage freed, skeins zero-pending, DC_ACC cleared. -/
  | releaseDc (ld : Nat) (extents : List DcExtent)
  /-- UNSUPPORTED_COMMAND (R95): A mailbox command of an unsupported set or unlisted opcode returns Unsupported. -/
  | unsupportedCommand (ld : Nat) (opcode : BitVec 16)
  /-- GET_DEVICE_INFO (R104): Vendor command 0xC000 returning part, state, Furiast version, SN and LD numbers. -/
  | getDeviceInfo (ld : Nat) (len : Nat)
  /-- GET_STITCH_NUMBER (R104): Vendor command 0xC001 returning SN and the timestamp of the same stitch. -/
  | getStitchNumber (ld : Nat) (len : Nat)
  /-- GET_STC_SOURCE (R104): Vendor command 0xC010 returning the per-source STC registers. -/
  | getStcSource (ld : Nat) (len : Nat) (src : Nat)
  /-- SET_STC_SOURCE (R104): Vendor command 0xC011 writing STC_SRC_CFG and STC_SRC_RATE of a source. -/
  | setStcSource (ld : Nat) (len : Nat) (src : Nat) (cfg : BitVec 32) (rate : BitVec 32)
  /-- RELEASE_STC_SOURCE (R104): Vendor command 0xC012 releasing a source's mask or quarantine. -/
  | releaseStcSource (ld : Nat) (len : Nat) (src : Nat) (mask : Bool) (quarantine : Bool)
  /-- GET_INTERRUPT_ROUTE (R104): Vendor command 0xC020 returning a page's interrupt route. -/
  | getInterruptRoute (ld : Nat) (len : Nat) (page : Nat)
  /-- SET_INTERRUPT_ROUTE (R104): Vendor command 0xC021 writing a page's interrupt route. -/
  | setInterruptRoute (ld : Nat) (len : Nat) (page : Nat) (v : BitVec 32)
  /-- GET_PAGE_ACCESS (R104): Vendor command 0xC022 returning a page's access entry. -/
  | getPageAccess (ld : Nat) (len : Nat) (page : Nat)
  /-- SET_PAGE_ACCESS (R104): Vendor command 0xC023 writing a page's access entry. -/
  | setPageAccess (ld : Nat) (len : Nat) (page : Nat) (v : BitVec 32)
  /-- FROG (R105): Vendor command 0xC030 aborting a ring, channel, migration, LD, Yarn port or CMP instance. -/
  | frog (ld : Nat) (len : Nat) (kind : Nat) (index : Nat)
  /-- GET_PORT_ALLOCATION (R104): Vendor command 0xC040 returning MSI-X and decoder counts of a port's LDs. -/
  | getPortAllocation (ld : Nat) (len : Nat) (port : Nat)
  /-- SET_PORT_ALLOCATION (R104): Vendor command 0xC041 applying several allocation counts at once, all or none. -/
  | setPortAllocation (ld : Nat) (len : Nat) (port : Nat) (entries : List AllocEntry)
  /-- SET_MANAGEMENT_LDS (R104): Vendor command 0xC050 writing GEN_MGMT_LD. -/
  | setManagementLds (ld : Nat) (len : Nat) (mask : BitVec 64)
  /-- MEM_RD (R143): A host MemRd of one line, checked under R112 and served by the flow of its skein's state. -/
  | memRd (r : MemReq)
  /-- MEM_RD_DATA (R141): A host MemRdData of one line, treated as a read. -/
  | memRdData (r : MemReq)
  /-- MEM_INV (R162): A MemInv or MemInvNT acting on the directory of a shared room. -/
  | memInv (r : MemReq)
  /-- MEM_CLN_EVCT (R162): A MemClnEvct removing the LD as holder of a line. -/
  | memClnEvct (r : MemReq)
  /-- MEM_SPEC_RD (R141): A MemSpecRd hint installing the skein entry in the Pattern cache. -/
  | memSpecRd (r : MemReq)
  /-- MEM_WR (R146): A host full-line write reaching the write queue as its point of visibility. -/
  | memWr (r : MemReq) (data : BitVec 512) (poison : Bool)
  /-- MEM_WR_PTL (R148): A host partial write read, merged and written under R148 and R249. -/
  | memWrPtl (r : MemReq) (data : BitVec 512) (enables : BitVec 64)
  /-- BI_CONFLICT (R163): A BIConflict from a host answered with BIConflictAck. -/
  | biConflict (r : MemReq)
  /-- BI_RSP (R162): A host's BIRsp to a back-invalidate snoop lets waiting requests proceed. -/
  | biRsp (ld : Nat) (line : Nat)
  /-- UNSUPPORTED_MEM_OPCODE (R141): An unsupported M2S opcode is answered as CXL lays down and raises its source. -/
  | unsupportedMemOpcode (r : MemReq) (opcode : Nat)
  /-- PATTERN_MISS_INSTALL (R128): A skein table line read for a Pattern miss returns and the entry is installed; waiting requests resume. -/
  | patternMissInstall (skein : Nat) (integrityOk : Bool)
  /-- DRAM_LINE_CAPTURE (R243): A DRAM line is captured by the read engine, parity-checked, decrypted and forwarded or sent to correction. -/
  | dramLineCapture (id : Nat) (f : LineFault)
  /-- MAC_LATE_ALARM (R245): A tag check that lands after data left fails; the line is rewritten poisoned and the severity applied. -/
  | macLateAlarm (id : Nat)
  /-- GATE_RELEASE (R313): A request waiting at the Gauge gate finds an allowance and passes. -/
  | gateRelease (sub : Nat)
  /-- INGRESS_HOLD_RELEASE (R150): A request held at the head of its LD queue finds a park, gate or miss entry and proceeds. -/
  | ingressHoldRelease (ld : Nat)
  /-- PARK_RELEASE (R157): The cause of a parked request ends and the request re-enters the flow of its current state. -/
  | parkRelease (id : Nat)
  /-- BACKING_WAIT_TIMEOUT (R130): A write parked for backing for 3907 stitches is discarded and raises backing exhausted. -/
  | backingWaitTimeout (id : Nat)
  /-- LARDER_READ_TIMEOUT (R154): A parked Larder read reaches arrival SN + 3905 and is answered with poison. -/
  | larderReadTimeout (id : Nat)
  /-- LARDER_WRITE_TIMEOUT (R154): A parked Larder write reaches arrival SN + 3905 and is discarded with Cmp. -/
  | larderWriteTimeout (id : Nat)
  /-- BI_RESPONSE_TIMEOUT (R165): A BISnp unanswered for 1024 stitches is treated as answered and the holder made viral. -/
  | biResponseTimeout (ld : Nat) (line : Nat)
  /-- ROOM_READ (R115): PAT_ROOM_CMD OP 1 loads PAT_ROOM_CFG with a room entry or is refused. -/
  | roomRead (a : Agent)
  /-- ROOM_WRITE (R115): PAT_ROOM_CMD OP 2 checks and starts a room write or refuses it with RESULT. -/
  | roomWrite (a : Agent)
  /-- ROOM_WRITE_COMPLETE (R116): A room write finishes copying attributes or leaving service and clears BUSY. -/
  | roomWriteComplete
  /-- PAT_CACHE_FLUSH (R129): A write of 1 to PAT_CACHE_CTL.FLUSH writes back every changed entry. -/
  | patCacheFlush (a : Agent)
  /-- PAT_CACHE_FLUSH_DONE (R139): The flush write-backs complete and FLUSH reads 0. -/
  | patCacheFlushDone (failed : List Nat)
  /-- PAT_PROBE (R140): A write of 1 to PAT_PROBE_CMD.GO copies a skein entry into PAT_PROBE_ENT0–3. -/
  | patProbe (a : Agent)
  /-- SCANNER_VISIT (R180): The scanner visits a skein, decays its heat and starts the action of the first applicable row. -/
  | scannerVisit
  /-- PACK_TRIAL_COMPLETE (R182): A pack trial has qualified all 512 pages and chooses 4:1, 2:1, Split or decline. -/
  | packTrialComplete (skein : Nat) (mismatches : List Nat)
  /-- MIGRATION_START (R184): A migration with all resources reserved sets the skein or page In-motion. -/
  | migrationStart
  /-- COPY_PHASE_END (R185): A page copy phase writes the destination and raises PROGRESS. -/
  | copyPhaseEnd (id : Nat) (r : CopyResult)
  /-- MIGRATION_SETTLE (R189): A failed or aborted migration is settled to its source, or to Split at its progress. -/
  | migrationSettle (id : Nat) (reason : Nat)
  /-- PROMOTION_RETRY (R191): Each stitch the engine retries promotion of a touched Larder page with parked writes. -/
  | promotionRetry
  /-- FETCH_BUFFER_FREED (R192): A fetch buffer frees and the oldest waiting fetch is issued. -/
  | fetchBufferFreed
  /-- FRAME_PRESSURE_PASS (R195): While free frames are below TIR_FRAME_LOW a pressure pass demotes and packs skeins at the current cut. -/
  | framePressurePass
  /-- SQUEEZE_WALK (R196): A walk of an over-quota LD's squeezable rooms demotes skeins at or below the cut. -/
  | squeezeWalk (ld : Nat)
  /-- TIR_EVAC_REQUEST (R197): A write of 1 to a bit of TIR_EVAC.REQ starts evacuation of a cartridge. -/
  | tirEvacRequest (a : Agent) (v : BitVec 32)
  /-- FILL_ENGINE_WINDOW (R201): The fill engine writes up to TIR_WIPE_CFG.LINES unmarked lines of the oldest filling frames. -/
  | fillEngineWindow
  /-- FILL_SLOT_FREED (R200): A fill slot frees and a write waiting for one proceeds to its point of visibility. -/
  | fillSlotFreed
  /-- COMPRESSOR_BLOCK_DONE (R218): A compressor finishes encoding, checking and comparing a block. -/
  | compressorBlockDone (inst : Nat) (checkOk : Bool)
  /-- INLINE_DECOMPRESSOR_FREE (R221): A busy inline decompressor frees and a waiting block is decoded. -/
  | inlineDecompressorFree (inst : Nat)
  /-- REKNIT_START (R252): A write of 1 to CRY_REKNIT_CTL.START requests a Re-knit, accepted or refused. -/
  | reknitStart (a : Agent)
  /-- REKNIT_AUTO_START (R252): With AUTO_REKNIT set, CRY_REKNIT_PERIOD elapses since the reference stitch and a Re-knit starts. -/
  | reknitAutoStart
  /-- REKNIT_ACTIVATE (R253): With the new keys loaded, REKNIT_ACTIVE sets and both knit lines are placed at a boundary. -/
  | reknitActivate
  /-- REKNIT_ITEM (R255): The walk reads, holds and rewrites one item under g + 1 and advances the knit line. -/
  | reknitItem (fault : LineFault)
  /-- REKNIT_END (R253): At the boundary after the walk ends g rises, the old generation is retired and Re-knit done is raised. -/
  | reknitEnd
  /-- REKNIT_PAUSE_WRITE (R253): A write to CRY_REKNIT_CTL.PAUSE stops or resumes the walk at an item boundary. -/
  | reknitPauseWrite (a : Agent) (on : Bool)
  /-- DDR_COMMAND_SLOT (R276): In each command slot a subchannel issues the one command its keys choose. -/
  | ddrCommandSlot (ch : Nat) (sub : Nat) (ready : DdrReady)
  /-- BANK_IDLE_CLOSE (R277): A bank idle for T fabric cycles closes its row. -/
  | bankIdleClose (ch : Nat) (sub : Nat) (bank : Nat)
  /-- REFRESH_INTERVAL (R281): A refresh interval elapses, owing REFsb per bank index and making the oldest owed mandatory past POSTPONE. -/
  | refreshInterval (ch : Nat) (sub : Nat) (rank : Nat)
  /-- OSCILLATOR_READ (R282): Every 1024 stitches a subchannel reads the DQS interval oscillator of each rank. -/
  | oscillatorRead (ch : Nat) (sub : Nat) (rank : Nat) (count : BitVec 16)
  /-- ZQ_CALIBRATION (R282): Every 7813 stitches a subchannel runs ZQ calibration on each rank. -/
  | zqCalibration (ch : Nat) (sub : Nat) (rank : Nat)
  /-- PATROL_SCRUB (R284): The channel scrubs DC_SCRUB_CFG.LINES lines per window, correcting or poisoning failures. -/
  | patrolScrub (ch : Nat) (faults : List LineFaultAt)
  /-- DDR_ALERT (R287): alert_n falls for a CA parity or write CRC error and both subchannels start a replay. -/
  | ddrAlert (ch : Nat)
  /-- REPLAY_COMPLETE (R288): A command replay ends, normal issue resumes and command retry is raised. -/
  | replayComplete (ch : Nat) (sub : Nat)
  /-- DC_RESTART (R289): A write of DC_CFG.RESTART ends a halt and lets requests resume. -/
  | dcRestart (a : Agent) (ch : Nat)
  /-- PPR_START (R290): A write of 1 to DC_PPR_CTL.GO starts a soft or hard row repair. -/
  | pprStart (a : Agent) (ch : Nat) (v : BitVec 32)
  /-- PPR_COMPLETE (R290): A repair writes the row back and raises PPR done or PPR failed. -/
  | pprComplete (ch : Nat) (ok : Bool)
  /-- RANK_SPARING_START (R292): DC_SPARE_CTL.START with KIND 0 starts copying a rank to the spare. -/
  | rankSparingStart (a : Agent) (ch : Nat) (v : BitVec 32)
  /-- CHANNEL_SPARING_START (R293): DC_SPARE_CTL.START with KIND 1 starts copying a channel to its remap targets, or is refused. -/
  | channelSparingStart (a : Agent) (ch : Nat) (v : BitVec 32)
  /-- SPARE_COPY_LINE (R292): One line is copied to the spare or target and the copy pointer advances. -/
  | spareCopyLine (ch : Nat) (fault : LineFault)
  /-- DC_ILV_ENABLE (R268): A write of 1 to DC_ILV.EN puts the interleave in force or is refused. -/
  | dcIlvEnable (a : Agent) (v : BitVec 32)
  /-- DC_CHSPARE_WRITE (R294): A firmware write restoring a channel replacement, accepted only as R294 sets out. -/
  | dcChspareWrite (a : Agent) (v : BitVec 32)
  /-- GAU_COMMIT_GO (R308): A write of 1 to GAU_COMMIT.GO starts the admission check of the staged set. -/
  | gauCommitGo (a : Agent)
  /-- ADMISSION_CHECK_DONE (R309): The admission check ends with a RESULT, accepting the set as pending or refusing it. -/
  | admissionCheckDone
  /-- SQ_TAIL_DOORBELL (R341): A write of SQ_TAIL sets the pair's pending bit and latches its group's doorbell source. -/
  | sqTailDoorbell (ld : Nat) (slot : Nat) (v : BitVec 16)
  /-- CQ_HEAD_WRITE (R341): A write of CQ_HEAD frees completion entries or halts the pair. -/
  | cqHeadWrite (ld : Nat) (slot : Nat) (v : BitVec 16)
  /-- RING_ENABLE (R340): A write setting RING_CFG.EN enables the pair or is refused with ERR 6. -/
  | ringEnable (ld : Nat) (slot : Nat) (v : BitVec 32)
  /-- RING_DISABLE (R340): A write clearing RING_CFG.EN stops fetching; jobs in flight finish. -/
  | ringDisable (ld : Nat) (slot : Nat) (v : BitVec 32)
  /-- QP_ASSIGN_WRITE (R332): A write to QMG_QP_ASSIGN changes a disabled pair's LD, group, class or rights. -/
  | qpAssignWrite (a : Agent) (v : BitVec 32)
  /-- DESCRIPTOR_FETCHED (R347): A descriptor fetch returns and the descriptor is checked for its job. -/
  | descriptorFetched (pair : Nat) (f : LineFault)
  /-- JOB_START (R343): A job starts once earlier jobs started, fence and global limit allow and a CQ entry is reserved. -/
  | jobStart (pair : Nat)
  /-- JOB_COMPLETE (R338): A job ends and its completion is written after its writes are visible. -/
  | jobComplete (job : Nat) (f : LineFault)
  /-- COALESCE_TIMER (R346): COAL_STITCH stitches pass since the first counted completion and an interrupt falls due. -/
  | coalesceTimer (pair : Nat)
  /-- NO_OP (R348): Opcode 0x00 completes with Success. -/
  | noOp (job : Nat)
  /-- MOVE (R349): Opcode 0x01 copies the source to the destination as it stood. -/
  | move (job : Nat) (faults : List LineFaultAt)
  /-- FILL (R349): Opcode 0x02 writes the 8-byte pattern over the destination. -/
  | fill (job : Nat) (faults : List LineFaultAt)
  /-- COMPARE (R349): Opcode 0x03 compares two ranges and reports the first difference. -/
  | compare (job : Nat) (faults : List LineFaultAt)
  /-- CABLE_TRANSFORM (R373): Opcode 0x04 applies a de-interleave, re-interleave or bit-plane transform. -/
  | cableTransform (job : Nat) (faults : List LineFaultAt)
  /-- COMPRESS (R227): Opcode 0x05 encodes the source into fixed-ratio slots. -/
  | compress (job : Nat) (mismatch : Option Nat) (faults : List LineFaultAt)
  /-- DECOMPRESS (R228): Opcode 0x06 decodes slots into 256-byte blocks. -/
  | decompress (job : Nat) (faults : List LineFaultAt)
  /-- PROMOTE (R350): Opcode 0x08 moves Packed, Split and Larder skeins of the range to Open. -/
  | promote (job : Nat)
  /-- DEMOTE (R350): Opcode 0x09 moves Open skeins to Packed or Larder. -/
  | demote (job : Nat)
  /-- PIN (R350): Opcode 0x0A sets PINNED on each owned room of the range by room writes. -/
  | pin (job : Nat)
  /-- UNPIN (R350): Opcode 0x0B clears PINNED on each owned room of the range. -/
  | unpin (job : Nat)
  /-- CHECKSUM (R349): Opcode 0x0C computes CRC-32C with a seed or an SM3 digest. -/
  | checksum (job : Nat) (faults : List LineFaultAt)
  /-- INVALID_OPCODE (R348): A descriptor with an unlisted opcode completes with Invalid opcode. -/
  | invalidOpcode (job : Nat)
  /-- DMV_CHANNEL_ENABLE (R376): A write setting DMV_CH_CTL.EN enables a channel, clearing its counts, or is refused. -/
  | dmvChannelEnable (a : Agent) (v : BitVec 32)
  /-- DMV_CHANNEL_DISABLE (R376): A write clearing EN discards pending triggers; the running round completes. -/
  | dmvChannelDisable (a : Agent) (v : BitVec 32)
  /-- DMV_GO (R364): A write of 1 to DMV_CH_CTL.GO counts one trigger. -/
  | dmvGo (a : Agent) (v : BitVec 32)
  /-- DMV_TIMER_FIRE (R365): A Data Mover timer's COUNT reaches 0, it fires and reloads PERIOD. -/
  | dmvTimerFire (t : Nat)
  /-- DMV_BEAT (R366): At each beat boundary an engine issues the next beat of the highest-level ready channel. -/
  | dmvBeat (engine : Nat) (f : LineFault)
  /-- DMV_ROUND_COMPLETE (R368): The read-back of a round's last line returns; positions advance and the completion source latches. -/
  | dmvRoundComplete (ch : Nat) (f : LineFault)
  /-- YARN_RX_NOP (R393): A NOP with its acknowledgement is received, freeing acknowledged stored packets. -/
  | yarnRxNop (link : Nat) (ack : Option (BitVec 12))
  /-- YARN_RX_NAK (R396): A NAK is received, frees earlier packets and starts a replay from its SEQ. -/
  | yarnRxNak (link : Nat) (seq : BitVec 12) (ack : Option (BitVec 12))
  /-- YARN_RX_BAD_PACKET (R391): A packet failing CRC, header form or link tag is discarded, resynchronised and a NAK made due. -/
  | yarnRxBadPacket (link : Nat) (why : BadPacket)
  /-- YARN_ACK_DUE (R392): DELAY fabric cycles after an accept an acknowledgement is sent in a NOP if no packet started. -/
  | yarnAckDue (link : Nat)
  /-- YARN_REPLAY_TIMEOUT (R396): The replay timer reaches ACK_TO and the sender replays, retrains or goes Down under R397. -/
  | yarnReplayTimeout (link : Nat)
  /-- YARN_DETECT_TIMER (R399): DETECT_INT stitches in Down with AUTO_UP set start Detect. -/
  | yarnDetectTimer (link : Nat)
  /-- YARN_TS1_RECEIVED (R399): TS1 from the partner moves a port to Detect, Train or Retrain. -/
  | yarnTs1Received (link : Nat) (retrain : Bool) (p : Proposal)
  /-- YARN_TS2_AGREED (R400): Eight consecutive TS2 each way bring the link to Active with the agreed speed, width and lanes. -/
  | yarnTs2Agreed (link : Nat) (p : Proposal)
  /-- YARN_TRAIN_TIMEOUT (R399): TRAIN_TO stitches pass in Detect, Train or Retrain and the port goes Down. -/
  | yarnTrainTimeout (link : Nat)
  /-- YARN_SILENCE_TIMEOUT (R399): No good packet for SILENCE stitches takes an Active port to Retrain. -/
  | yarnSilenceTimeout (link : Nat)
  /-- YARN_LOSS_OF_LOCK (R399): Loss of lock on an active lane takes the port to Retrain. -/
  | yarnLossOfLock (link : Nat) (lane : Nat)
  /-- YARN_CTL_RETRAIN (R399): A write of YP_CTL.RETRAIN takes an Active port to Retrain. -/
  | yarnCtlRetrain (a : Agent) (link : Nat)
  /-- YARN_CTL_DOWN (R399): A write of YP_CTL.DOWN takes the port to Down, discarding replay buffer and session. -/
  | yarnCtlDown (a : Agent) (link : Nat)
  /-- YARN_DOZE_ENTRY (R399): DOZE_IDLE stitches idle with DOZE_EN set, or a power request, take the port to Doze. -/
  | yarnDozeEntry (link : Nat) (powerRequest : Bool)
  /-- YARN_WAKE_RECEIVED (R399): A WAKE pattern or a packet to send takes a dozing port back toward Active. -/
  | yarnWakeReceived (link : Nat)
  /-- YARN_DOZE_RESYNC (R399): Resynchronisation from Doze completes to Active or fails to Retrain. -/
  | yarnDozeResync (link : Nat) (ok : Bool)
  /-- YARN_DOMAIN_POWER (R399): The Yarn cluster or Hallway domain powers on to Down or off to Off. -/
  | yarnDomainPower (domain : Nat) (on : Bool)
  /-- CTG_ATTACH_WRITE (R409): A write of 1 to a bit of CTG_ATTACH starts attach on a Yarn port. -/
  | ctgAttachWrite (a : Agent) (v : BitVec 32)
  /-- IDENTIFY (R409): An IDENTIFY message from the cartridge is checked at step 1. -/
  | identify (port : Nat) (h : YarnHeader) (b : IdentifyBody)
  /-- CERT (R409): A CERT message delivers part of the chain, checked at step 2 when complete. -/
  | cert (port : Nat) (h : YarnHeader) (bytes : Nat) (verdict : Nat)
  /-- SIGNATURE (R409): A SIGNATURE message is verified under the cartridge key at step 3. -/
  | signature (port : Nat) (h : YarnHeader) (ok : Bool)
  /-- CARTRIDGE_KEY_RESPONSE (R409): KEY 0x02 from the cartridge completes the SM2 exchange and loads K_S. -/
  | cartridgeKeyResponse (port : Nat) (h : YarnHeader) (ok : Bool)
  /-- CTG_ATTACH_TIMEOUT (R409): Step 5 is not reached within CTG_ATTACH_TO and the cartridge is rejected. -/
  | ctgAttachTimeout (port : Nat)
  /-- CTG_ADMIT_WRITE (R409): A write of 1 to a bit of CTG_ADMIT puts an authenticated cartridge in service. -/
  | ctgAdmitWrite (a : Agent) (v : BitVec 32)
  /-- YARN_RX_RSP (R416): An RSP ends a READ_SLOT, WRITE_SLOT or DEALLOC transaction. -/
  | yarnRxRsp (port : Nat) (h : YarnHeader) (b : RspBody)
  /-- YARN_RX_DATA (R415): A DATA packet of read data lands in its transaction's buffer. -/
  | yarnRxData (port : Nat) (h : YarnHeader) (lines : List CartLine)
  /-- WEAR (R424): A WEAR message updates wear and flags and acts on crossings of R425. -/
  | wear (port : Nat) (h : YarnHeader) (b : WearBody)
  /-- RETIRE_ACK (R426): A RETIRE_ACK lets the manager take the port Down and retire the cartridge. -/
  | retireAck (port : Nat) (h : YarnHeader)
  /-- RETIRE_TIMEOUT (R426): No RETIRE_ACK within CTG_ATTACH_TO stitches; retirement proceeds. -/
  | retireTimeout (port : Nat)
  /-- RECLAIM_WINDOW (R423): In each window DEALLOC is sent for up to CTG_RECLAIM free unclean extents per port. -/
  | reclaimWindow
  /-- CTG_TXN_TIMEOUT (R423): A command unanswered for CTG_TXN_TO is detached and reissued, or the port taken Down. -/
  | ctgTxnTimeout (port : Nat) (tag : Nat)
  /-- WEAR_POLL (R424): Every CTG_WEAR_POLL stitches the device sends WEAR_REQ. -/
  | wearPoll
  /-- NOC_RT_SWAP_WRITE (R443): A write of 1 to NOC_RT_CTL.SWAP requests an epoch swap, refused with RESULT if not allowed. -/
  | nocRtSwapWrite (a : Agent)
  /-- NOC_EPOCH_DRAINED (R446): The last old-epoch packet is delivered and the old epoch drains. -/
  | nocEpochDrained
  /-- NOC_RT_COPY (R442): NOC_RT_CMD OP 1 copies every live table into the shadow. -/
  | nocRtCopy (a : Agent)
  /-- NOC_RT_FILL (R442): NOC_RT_CMD OP 2 fills the shadow of one network with one plane. -/
  | nocRtFill (a : Agent) (net : Nat) (plane : Nat)
  /-- NOC_PLANE_CFG_WRITE (R447): A write to NOC_PLANE_CFG enables or clears planes, ignoring clears of planes in use. -/
  | nocPlaneCfgWrite (a : Agent) (v : BitVec 32)
  /-- NOC_PLANE_FAULT (R447): Correctable errors of a plane reach NOC_PLANE_THR in one window. -/
  | nocPlaneFault (net : Nat) (plane : Nat) (errors : Nat)
  /-- NOC_HEADER_ERROR (R439): A router detects a flit ECC error, correcting it or dropping the packet for a header double-bit error. -/
  | nocHeaderError (router : Nat) (port : Nat) (kind : FlitError) (request : Option Nat)
  /-- NOC_WAKE_TIMEOUT (R441): A held packet undelivered NOC_WAKE_TO stitches after its wake is answered by the edge router. -/
  | nocWakeTimeout (id : Nat)
  /-- DOMAIN_READY (R440): A woken domain reports READY and its held packets are delivered in triple order. -/
  | domainReady (domain : Nat)
  /-- TRIMMED_DOMAIN_WAKE (R495): Traffic reaching a trimmed domain in Trim wakes that domain alone. -/
  | trimmedDomainWake (domain : Nat)
  /-- FCU_STS_CLEAR (R463): A write of 1 to an FCU_STS bit clears SET and the capture of a source. -/
  | fcuStsClear (a : Agent) (word : Nat) (v : BitVec 32)
  /-- FCU_INJECT (R469): A write of 1 to FCU_INJ.GO asserts a source at the next boundary with ACC 14. -/
  | fcuInject (a : Agent) (v : BitVec 32)
  /-- FROG_COMPLETE (R470): A Frog's target has ended its work and completion SN is reported. -/
  | frogComplete (id : Nat)
  /-- PWR_MODE_REQUEST (R484): A write of PWR_MODE with GO makes a power request pending, replacing a pending one. -/
  | pwrModeRequest (a : Agent) (v : BitVec 32) (afterCommit : Bool)
  /-- CORE_WAIT (R484): A management core executes WAIT and fetches nothing until an interrupt arrives. -/
  | coreWait (core : Nat)
  /-- HUSH_ENTRY_COMPLETE (R487): Work drained and channels, ports and Hallway low, the fabric clock stops and STATE reads Hush. -/
  | hushEntryComplete
  /-- TRIM_ENTRY_COMPLETE (R483): The domains in PWR_TRIM_DOM are off and the device is in Trim. -/
  | trimEntryComplete
  /-- RECOVERY_SLEEP_ENTRY (R489): Every domain but AON is powered off within 64 stitches. -/
  | recoverySleepEntry
  /-- HUSH_WAKE (R488): An enabled wake sampled in Hush starts the exit: clock restart and domains leaving retention. -/
  | hushWake (src : Nat)
  /-- HUSH_EXIT_COMPLETE (R488): Channels and ports are back, STATE takes the return state and the cores leave WAIT. -/
  | hushExitComplete
  /-- POWER_TRANSITION_OVERRUN (R487): A step of a transition overruns its bound and raises the overrun source. -/
  | powerTransitionOverrun (step : Nat)
  /-- VSENSE_CROSSING (R494): vsense passes THRESH in direction DIR after hysteresis, latching source 0x440. -/
  | vsenseCrossing (above : Bool)
  /-- WAKE_TIMER (R492): SN reaches PWR_WAKE_SN and the wake timer source asserts. -/
  | wakeTimer
  /-- MCTP_WAKE (R492): An MCTP packet on SMBus or I3C addressed to the device arrives, a wake source. -/
  | mctpWake
  /-- THERMAL_TRIP (R609): The hot-spot sensor reads 125 °C; thermtrip_n falls, the clock stops and domains are held in reset. -/
  | thermalTrip
  /-- COLD_RESET (R575): por_n low or vdd_aon loss resets every domain including AON. -/
  | coldReset
  /-- POR_RELEASE (R581): por_n rises, straps are sampled and SN starts at 0 on refclk. -/
  | porRelease (straps : Straps)
  /-- PLL_LOCK (R581): The fabric PLL locks and the fabric clock starts aligned to a stitch boundary. -/
  | pllLock
  /-- PLL_LOCK_RETRY (R581): The PLL has not locked within 7813 stitches; PLL_RETRY sets and the lock is retried. -/
  | pllLockRetry
  /-- BOOT_START (R577): Domains reset and warm_rst_n high, the boot chain starts at a boundary. -/
  | bootStart
  /-- BOOT_ROM_DONE (R505): The boot ROM has read the fuse shadow and completed any interrupted life-cycle entry. -/
  | bootRomDone (chainOk : Bool)
  /-- TRNG_DRAW_DONE (R505): TRNG tests pass, the memory secret is drawn, keys loaded and KEYS_READY set. -/
  | trngDrawDone (failing : Option Nat)
  /-- IMAGE_CHECK_DONE (R504): The check of an image slot ends; failure tries the other slot or enters ROM recovery. -/
  | imageCheckDone
  /-- CORE_RELEASE (R505): The body is copied, measurements and alias key set, and the cores released at ENTRY. -/
  | coreRelease
  /-- SPDM_GET_VERSION (R508): SPDM GET_VERSION answered by the Strongroom. -/
  | spdmGetVersion (t : Transport)
  /-- SPDM_GET_CAPABILITIES (R508): SPDM GET_CAPABILITIES answered by the Strongroom. -/
  | spdmGetCapabilities (t : Transport)
  /-- SPDM_NEGOTIATE_ALGORITHMS (R508): SPDM NEGOTIATE_ALGORITHMS selecting the SM suite. -/
  | spdmNegotiateAlgorithms (t : Transport) (offersSm : Bool)
  /-- SPDM_GET_DIGESTS (R508): SPDM GET_DIGESTS of the certificate slots. -/
  | spdmGetDigests (t : Transport)
  /-- SPDM_GET_CERTIFICATE (R508): SPDM GET_CERTIFICATE of slot 0 or 1. -/
  | spdmGetCertificate (t : Transport) (slot : Nat)
  /-- SPDM_CHALLENGE (R508): SPDM CHALLENGE signed by the identity or alias key. -/
  | spdmChallenge (t : Transport) (slot : Nat)
  /-- SPDM_GET_MEASUREMENTS (R507): SPDM GET_MEASUREMENTS returning the measurement blocks. -/
  | spdmGetMeasurements (t : Transport) (index : Nat) (signed : Bool)
  /-- SPDM_KEY_EXCHANGE (R508): SPDM KEY_EXCHANGE opening a secured session. -/
  | spdmKeyExchange (t : Transport) (slot : Nat) (ok : Bool)
  /-- SPDM_FINISH (R508): SPDM FINISH completing session establishment. -/
  | spdmFinish (session : Nat) (ok : Bool)
  /-- SPDM_HEARTBEAT (R508): SPDM HEARTBEAT of a session. -/
  | spdmHeartbeat (session : Nat)
  /-- SPDM_KEY_UPDATE (R508): SPDM KEY_UPDATE of a session. -/
  | spdmKeyUpdate (session : Nat)
  /-- SPDM_END_SESSION (R508): SPDM END_SESSION closing a session. -/
  | spdmEndSession (session : Nat)
  /-- GET_NONCE (R510): Halvas request 0x01 returning a fresh nonce. -/
  | getNonce (session : Nat)
  /-- TAKE_OWNERSHIP (R512): Halvas request 0x02 moving Provisioned to Deployed with a new owner. -/
  | takeOwnership (q : SecureReq) (fuse : FuseResult)
  /-- TRANSFER_OWNERSHIP (R512): Halvas request 0x03 naming a new owner in Deployed. -/
  | transferOwnership (q : SecureReq) (fuse : FuseResult)
  /-- RELEASE (R512): Halvas request 0x04 moving Deployed to Returned. -/
  | release (q : SecureReq) (fuse : FuseResult)
  /-- REFURBISH (R512): Halvas request 0x05 moving Returned to Provisioned. -/
  | refurbish (q : SecureReq) (fuse : FuseResult)
  /-- DECOMMISSION (R513): Halvas request 0x06 blowing every seed bit. -/
  | decommission (q : SecureReq) (fuse : FuseResult)
  /-- DEBUG_UNLOCK (R523): Halvas request 0x07 granting a debug level capped by state and token. -/
  | debugUnlock (q : SecureReq)
  /-- INSTALL_ANCHOR (R510): Halvas request 0x08 programming a cartridge trust anchor. -/
  | installAnchor (q : SecureReq) (fuse : FuseResult)
  /-- REVOKE_ANCHOR (R510): Halvas request 0x09 revoking an anchor slot. -/
  | revokeAnchor (q : SecureReq) (fuse : FuseResult)
  /-- COMMIT_SVN (R510): Halvas request 0x0A raising the fused minimum SVN. -/
  | commitSvn (q : SecureReq) (fuse : FuseResult)
  /-- PROVISION (R512): Halvas request 0x0B moving Manufacture to Provisioned. -/
  | provision (q : SecureReq) (fuse : FuseResult)
  /-- NONCE_EXPIRY (R509): A nonce unused for 78,125,000 stitches becomes invalid. -/
  | nonceExpiry (session : Nat)
  /-- ACTIVATION_PAUSE_BEGIN (R518): At boundary P the live activation pause begins and the cores restart in the new image. -/
  | activationPauseBegin
  /-- ACT_READY_WRITE (R518): A write of STR_ACT_CTL.READY by the running image ends the pause at the next boundary. -/
  | actReadyWrite (a : Agent)
  /-- ACTIVATION_RESUME (R518): At boundary E parked requests are released and the slot, measurements and alias key updated. -/
  | activationResume
  /-- ACTIVATION_REVERT (R519): No READY by P + 11718; the cores restart in the old image and REVERTED sets. -/
  | activationRevert
  /-- ACTIVATION_FAIL (R519): No READY by P + 15624; the pause ends and activation failed is raised at fatal. -/
  | activationFail
  /-- STR_RIGHT_REQUEST (R521): A write of STR_RIGHT_CTL.GO asks the Strongroom to write or refuse a rights table entry. -/
  | strRightRequest (a : Agent) (v : BitVec 32)
  /-- DBG_UNLOCK (R524): A write of DBG_CTL.UNLOCK checks DBG_TOKEN and grants or refuses a level. -/
  | dbgUnlock (a : Agent) (signatureOk : Bool)
  /-- DBG_LOCK (R523): A write of DBG_CTL.LOCK ends the debug grant. -/
  | dbgLock (a : Agent)
  /-- DBG_PORT_DISABLE (R523): A write of 1 to DBG_CTL.PORT_DIS ends the grant and refuses port unlocks. -/
  | dbgPortDisable (a : Agent)
  /-- DEBUG_GRANT_EXPIRY (R523): DURATION ends and the grant ends, invalidating entries 60–62. -/
  | debugGrantExpiry
  /-- DBG_MEM_READ (R525): DBG_MEM_CTL OP 1 reads one line or ciphertext record as master 0x84. -/
  | dbgMemRead (a : Agent) (v : BitVec 32) (f : LineFault)
  /-- DBG_MEM_WRITE (R525): DBG_MEM_CTL OP 2 writes one line as master 0x84. -/
  | dbgMemWrite (a : Agent) (v : BitVec 32) (f : LineFault)
  /-- HELLO (R532): A MGMT HELLO from the peer is checked at step 1 of pairing. -/
  | hello (h : YarnHeader) (b : HelloBody)
  /-- PEER_IDENTITY_CHALLENGE (R532): The peer's identity chain and signature are checked at step 2. -/
  | peerIdentityChallenge (h : YarnHeader) (ok : Bool)
  /-- HALLWAY_KEY (R532): KEY messages of the SM2 exchange yield K_H and the salt. -/
  | hallwayKey (h : YarnHeader) (ok : Bool)
  /-- SOURCE (R553): MGMT SOURCE fixes owner and resynchronisation source and sets TWN_EPOCH. -/
  | source (h : YarnHeader) (b : SourceBody)
  /-- PAIRING_TIMEOUT (R532): Step 5 not reached within 78,125 stitches ends the pairing attempt. -/
  | pairingTimeout
  /-- ROOM (R538): MGMT ROOM reports a peer's change of MIRRORED or IN_SERVICE of a room. -/
  | room (h : YarnHeader) (drn : Nat) (mirrored : Bool) (inService : Bool)
  /-- MWR (R539): A mirrored write from the peer is performed or merged and echoed. -/
  | mwr (h : YarnHeader) (b : MwrBody)
  /-- MACK (R537): A MACK names MIDs whose lines the peer performed, completing mirrored writes. -/
  | mack (h : YarnHeader) (mids : List Nat)
  /-- SYNC_LINE (R554): A resynchronisation or repair line from the peer is written locally. -/
  | syncLine (h : YarnHeader) (b : SyncBody)
  /-- LREQ (R541): A peer's request for a line is answered with SYNC_LINE REPAIR. -/
  | lreq (h : YarnHeader) (dpa : Nat)
  /-- SYNC_DONE (R554): MGMT SYNC_DONE from the source is answered with SYNC_ACK. -/
  | syncDone (h : YarnHeader)
  /-- SYNC_ACK (R554): MGMT SYNC_ACK makes the source Paired and sends PAIRED. -/
  | syncAck (h : YarnHeader)
  /-- PAIRED (R554): MGMT PAIRED makes the destination Paired. -/
  | paired (h : YarnHeader)
  /-- TWIN_RESYNC_WINDOW (R554): The source copies up to TWN_SYNC_CFG.LINES lines of mirror-live rooms per window. -/
  | twinResyncWindow
  /-- MIRROR_REPAIR_TIMEOUT (R541): No repair answer within 64 stitches; R246 applies to the line. -/
  | mirrorRepairTimeout (dpa : Nat)
  /-- HEARTBEAT_RECEIVED (R544): A good heartbeat from the peer updates TWN_PEER_STS. -/
  | heartbeatReceived (bytes : BitVec 128)
  /-- HEARTBEAT_SILENCE (R545): No good heartbeat for SILENCE stitches detects a split. -/
  | heartbeatSilence
  /-- HALLWAY_DOWN_LIMIT (R545): The Hallway not Active for DOWN_LIM stitches, or entering Down, detects a split. -/
  | hallwayDownLimit
  /-- TWIN_EN_CLEAR (R545): A write of 0 to TWN_CFG.EN while Syncing or Paired acts as split detection. -/
  | twinEnClear (a : Agent) (v : BitVec 32)
  /-- TWIN_WITNESS_WRITE (R547): A write to TWN_WITNESS submits a witness token, accepted or refused. -/
  | twinWitnessWrite (a : Agent) (h : Half64) (v : BitVec 64)
  /-- TWIN_DECISION (R548): At stitch D each member becomes Alone or Fenced by token and role. -/
  | twinDecision
  /-- TWIN_SOLO (R548): At stitch E an Alone member releases its parked writes and serves rooms alone. -/
  | twinSolo
  /-- TWIN_FORFEIT (R553): A write of TWN_CTL.FORFEIT while Alone makes the member Fenced and restarts pairing. -/
  | twinForfeit (a : Agent)
  /-- PROF_COUNTER_WRAP (R572): A management core profiling counter wraps, records EPC and may raise the profiling interrupt. -/
  | profCounterWrap (core : Nat) (k : Nat) (occurrences : Nat) (pc : BitVec 64)
  /-- PROF_CLEAR (R573): A write with MGC_PROF_CTL.CLEAR sets a profiling counter to 0. -/
  | profClear (a : Agent) (core : Nat) (k : Nat) (v : BitVec 32)
  /-- REFERENCE_CLOCK_RETURN (R24): The reference clock comes back while the fabric clock is stopped, and the AON domain goes back to keeping SN on it, with REF_OK reading 1 again. -/
  | referenceClockReturn
  /-- HOST_LINK_L1_ENTRY (R487): A host link enters ASPM L1 after the port's request, at the moment the link partner agrees. -/
  | hostLinkL1Entry (port : Nat) (half : Nat)
  /-- ALERT_N_RELEASE (R287): alert_n of a channel returns high, and both subchannels precharge and reissue their retry buffers. -/
  | alertNRelease (ch : Nat)
  /-- MSIX_VECTOR_UNMASK (R71): A host clears the mask bit of an MSI-X entry whose pending bit is set, and the held message is sent. -/
  | msixVectorUnmask (ld : Nat) (vector : Nat)
  /-- IDE_KEY_MANAGEMENT (R100): A CXL IDE key management message inside an SPDM session programs, starts or stops IDE keys of a link or stream. -/
  | ideKeyManagement (session : Nat) (port : Nat) (half : Nat) (c : IdeCommand)
  /-- FULL_ENTRY_COMPLETE (R482): A requested transition from Trim to Full completes once the trimmed domains are powered and ready, raising transition complete. -/
  | fullEntryComplete
  deriving DecidableEq, Repr

end Sys2Proof
end

