-- ==== Sys2Proof/Decode.lean ====
section
/-! DEFINITION. The command that a word spells. The opcode table gives no row any bits: the device takes commands over its interfaces, not
as encoded words, so no word spells a command. -/

namespace Sys2Proof

/-- The command whose row of the opcode table has `nbits` bits and the bits `w`: none, since no row of the table gives bits. -/
def decodeTableWord (_nbits _w : Nat) : Option Instr := none

end Sys2Proof
end

