-- ==== Sys2Proof/Machine/Codec.lean ====
section
/-! DEFINITION. The fixed-ratio code of chapter 7: blocks of 32 little-endian words, slots of 128 or 64 bytes, the encoder's fixed order
(R213) and the decoder with its format checks (R215, R216). -/

namespace Sys2Proof.Machine

/-- Fields of `k` bits, the first in the least significant place (R211). -/
def packBits (k : Nat) : List Nat → Nat
  | [] => 0
  | d :: ds => d % 2 ^ k + 2 ^ k * packBits k ds

/-- The first `n` fields of `k` bits of a number. -/
def unpackBits (k : Nat) : Nat → Nat → List Nat
  | 0, _ => []
  | n + 1, x => x % 2 ^ k :: unpackBits k n (x / 2 ^ k)

/-- The `n` little-endian bytes of a number. -/
def leBytes (n x : Nat) : List Nat := unpackBits 8 n x

/-- The number that little-endian bytes spell. -/
def ofBytes (l : List Nat) : Nat := packBits 8 l

/-- R211: a 64-bit word fits `k` bits signed. -/
def fitsBits (k v : Nat) : Bool := decide (v < 2 ^ (k - 1)) || decide (2 ^ 64 - 2 ^ (k - 1) ≤ v)

/-- R211: a difference of words modulo 2^64. -/
def wsub (a b : Nat) : Nat := (a + (2 ^ 64 - b % 2 ^ 64)) % 2 ^ 64

/-- A delta field of `k` bits, sign-extended to a word. -/
def sextWord (k d : Nat) : Nat := if d < 2 ^ (k - 1) then d else d + (2 ^ 64 - 2 ^ k)

/-- R212: base 1 of DUAL-BASE: the first word that does not fit base 0, 0 if none. -/
def dualBase (k : Nat) : List Nat → Nat
  | [] => 0
  | v :: vs => if fitsBits k v then dualBase k vs else v

/-- The bitmap of the words that satisfy `p`, bit i for word i (R210). -/
def wordMap (p : Nat → Bool) : List Nat → Nat
  | [] => 0
  | v :: vs => (if p v then 1 else 0) + 2 * wordMap p vs

/-- R210: scheme ZERO. -/
def encZero (w : List Nat) : Option (List Nat) := if w.all (· == 0) then some [0x00] else none

/-- R210: scheme REPEAT. -/
def encRepeat (w : List Nat) : Option (List Nat) :=
  let v := w.headD 0
  if w.all (· == v) then some (0x10 :: leBytes 8 v) else none

/-- R210: scheme SPARSE. -/
def encSparse (w : List Nat) : Option (List Nat) :=
  some (0x40 :: leBytes 4 (wordMap (· != 0) w) ++ (w.filter (· != 0)).flatMap (leBytes 8))

/-- R210: scheme BASE-DELTA with deltas of `k` bits. -/
def encBase (k : Nat) (w : List Nat) : Option (List Nat) :=
  let b := w.headD 0
  if w.all (fun v => fitsBits k (wsub v b)) then
    some ((0x20 + k / 4) :: leBytes 8 b ++ leBytes (4 * k) (packBits k (w.map (fun v => wsub v b))))
  else none

/-- R212: scheme DUAL-BASE with deltas of `k` bits. -/
def encDual (k : Nat) (w : List Nat) : Option (List Nat) :=
  let b := dualBase k w
  let far := fun v => !fitsBits k v
  if w.all (fun v => fitsBits k v || fitsBits k (wsub v b)) then
    some ((0x30 + k / 4) :: leBytes 8 b ++ leBytes 4 (wordMap far w) ++
      leBytes (4 * k) (packBits k (w.map (fun v => if far v then wsub v b else v))))
  else none

/-- R213: the candidates in the encoder's order. -/
def candidates (w : List Nat) : List (Option (List Nat)) :=
  [encZero w, encRepeat w, encSparse w, encBase 4 w, encBase 8 w, encBase 16 w, encBase 24 w, encDual 8 w, encDual 16 w, encDual 24 w]

/-- The first candidate whose condition holds and that fits `target` bytes. -/
def firstFit (target : Nat) : List (Option (List Nat)) → Option (List Nat)
  | [] => none
  | none :: cs => firstFit target cs
  | some p :: cs => if p.length ≤ target then some p else firstFit target cs

/-- R213, R209: the slot of a block for a target of 64 or 128 bytes; `none` where the block does not fit. -/
def encodeSlot (target : Nat) (w : List Nat) : Option (List Nat) :=
  (firstFit target (candidates w)).map (fun p => p ++ List.replicate (target - p.length) 0)

/-- The words of a SPARSE payload: the next stored word for each bit set. -/
def sparseWords : Nat → Nat → List Nat → List Nat
  | 0, _, _ => []
  | n + 1, map, ws =>
    if map % 2 = 1 then ws.headD 0 :: sparseWords n (map / 2) ws.tail else 0 :: sparseWords n (map / 2) ws

/-- The words of a DUAL-BASE payload. -/
def dualWords (k b : Nat) : Nat → List Nat → List Nat
  | _, [] => []
  | mask, d :: ds => ((if mask % 2 = 1 then b else 0) + sextWord k d) % 2 ^ 64 :: dualWords k b (mask / 2) ds

/-- R216: the number of bits set in a bitmap. -/
def popCount : Nat → Nat → Nat
  | 0, _ => 0
  | n + 1, m => m % 2 + popCount n (m / 2)

/-- R210, R216: the length of a slot's encoding by its header, `none` where scheme or parameter is not one that R210 allows. -/
def slotLength (s : List Nat) : Option Nat :=
  match s.headD 0 with
  | 0x00 => some 1
  | 0x10 => some 9
  | 0x40 => some (5 + 8 * popCount 32 (ofBytes ((s.drop 1).take 4)))
  | 0x21 => some 25 | 0x22 => some 41 | 0x24 => some 73 | 0x26 => some 105
  | 0x32 => some 45 | 0x34 => some 77 | 0x36 => some 109
  | _ => none

/-- R215: the words of a well-formed slot. -/
def slotWords (s : List Nat) : List Nat :=
  let h := s.headD 0
  let k := 4 * (h % 16)
  match h / 16 with
  | 1 => List.replicate 32 (ofBytes ((s.drop 1).take 8))
  | 4 => sparseWords 32 (ofBytes ((s.drop 1).take 4)) (unpackBits 64 32 (ofBytes (s.drop 5)))
  | 2 =>
    let b := ofBytes ((s.drop 1).take 8)
    (unpackBits k 32 (ofBytes ((s.drop 9).take (4 * k)))).map (fun d => (b + sextWord k d) % 2 ^ 64)
  | 3 =>
    let b := ofBytes ((s.drop 1).take 8)
    dualWords k b (ofBytes ((s.drop 9).take 4)) (unpackBits k 32 (ofBytes ((s.drop 13).take (4 * k))))
  | _ => List.replicate 32 0

/-- R215, R216: the block that a slot holds, `none` where the slot is malformed. -/
def decodeSlot (s : List Nat) : Option (List Nat) :=
  match slotLength s with
  | none => none
  | some n => if n ≤ s.length ∧ (s.drop n).all (· == 0) then some (slotWords s) else none

/-- The target size of a ratio code (R119): 1 128 bytes, 2 64 bytes. -/
def slotSize (ratio : Nat) : Nat := if ratio = 2 then 64 else 128

/-- A block from its 256 bytes, and its bytes. -/
def blockWords (bytes : List Nat) : List Nat := unpackBits 64 32 (ofBytes bytes)
def blockBytes (w : List Nat) : List Nat := w.flatMap (leBytes 8)

/-- R217: the best ratio of a page of 16 blocks: 2 (4:1), 1 (2:1) or 0 (Open). -/
def pageRatio (blocks : List (List Nat)) : Nat :=
  if blocks.all (fun b => (encodeSlot 64 b).isSome) then 2
  else if blocks.all (fun b => (encodeSlot 128 b).isSome) then 1 else 0

end Sys2Proof.Machine
end

