-- ==== Sys2Proof/Config.lean ====
section
/-! DEFINITION. What an implementation fixes and what the spec leaves open: free values. Every constant here is opaque: nothing in Lean
can evaluate it, so a theorem about the machine holds whatever it is. A value that is fresh at each use is applied to the counter
`Dev.fresh` of the state, which the step that draws it advances. -/

namespace Sys2Proof.Config

/-- The memory secret of the n-th draw of the TRNG since power was first applied (R233). -/
opaque memorySecret : Nat → BitVec 256

/-- The n-th 256-bit number drawn from the TRNG for a nonce or a session key (R509, R524). -/
opaque nonce : Nat → BitVec 256

/-- A 512-bit value that the spec leaves unspecified (contents of a destination after a failed job, R227, R344). -/
opaque freeLine : Nat → BitVec 512

/-- A number that the spec leaves unspecified. -/
opaque freeNat : Nat → Nat

/-- The fabric cycle within the stitch at which a register access happens to read STC_PHASE (R45). -/
opaque cycle : Nat → BitVec 8

/-- SM3 digest of the boot ROM (R507, measurement 1): a property of the part. -/
opaque romDigest : BitVec 256

/-- The key stream and signature values of the secured protocols that the manual names by their standards only. -/
opaque sm2Value : Nat → BitVec 512

/-- What a mode-register or PHY register of a DRAM channel reads (R297: reached by firmware only, contents not given). -/
opaque phyRegister : Nat → BitVec 32

/-- What a word of a NOC probe's count or of the trace buffer reads (R448, R449: flits in flight are not part of the model). -/
opaque nocTrace : Nat → BitVec 32

/-- NOC_EP_INFO [8:0] of each endpoint, its edge router and local port (R432, R451: fixed by hardware, values not given). -/
opaque endpointPort : Nat → BitVec 9

/-- The bytes and the sizes of the Command Effects Log (0) and the vendor debug log (1) (R95: contents not given). -/
opaque logByte : Nat → Nat → BitVec 8
opaque logSize : Nat → Nat

/-- The standard features that the device implements (R95: not listed). -/
opaque featureIds : List Nat

end Sys2Proof.Config
end

