-- ==== Sys2Proof/Machine/Entry.lean ====
section
/-! DEFINITION. The layouts that the Pattern keeps in DRAM: skein entries (R119), page entries (R121) and room entries (R114, R139), with
their reading from and writing to the stored words, and the validity rule of R124 as far as an entry alone decides it. -/

namespace Sys2Proof.Machine

/-! ### Skein states (R118) -/

def St.unbacked : Nat := 0
def St.zero : Nat := 1
def St.isOpen : Nat := 2
def St.packed : Nat := 3
def St.split : Nat := 4
def St.larder : Nat := 5
def St.motion : Nat := 6

/-- A skein entry (R119). `loc` and `dstLoc` are the words QW1 and QW3. -/
structure Entry where
  state : Nat := 0
  gen : Bool := false
  ratio : Nat := 0
  owner : Nat := 0
  heat : Nat := 0
  cls : Nat := 0
  pinned : Bool := false
  mirrored : Bool := false
  shared : Bool := false
  compressible : Bool := false
  larderOk : Bool := false
  squeeze : Bool := false
  shareGrp : Nat := 0
  dc : Bool := false
  dcAcc : Bool := false
  locValid : Bool := false
  locKind : Bool := false
  moveId : Nat := 0
  loc : Nat := 0
  srcState : Nat := 0
  dstState : Nat := 0
  dstRatio : Nat := 0
  dstKind : Bool := false
  dstGen : Bool := false
  progress : Nat := 0
  dstLoc : Nat := 0
  deriving DecidableEq, Repr

/-- QW0 of an entry. -/
def Entry.qw0 (e : Entry) : Nat :=
  e.state + b2n e.gen * 2 ^ 3 + e.ratio * 2 ^ 4 + e.owner * 2 ^ 6 + e.heat * 2 ^ 12 + e.cls * 2 ^ 20 + b2n e.pinned * 2 ^ 22 +
    b2n e.mirrored * 2 ^ 23 + b2n e.shared * 2 ^ 24 + b2n e.compressible * 2 ^ 25 + b2n e.larderOk * 2 ^ 26 +
    b2n e.squeeze * 2 ^ 27 + e.shareGrp * 2 ^ 28 + b2n e.dc * 2 ^ 32 + b2n e.dcAcc * 2 ^ 33 + b2n e.locValid * 2 ^ 34 +
    b2n e.locKind * 2 ^ 35 + e.moveId * 2 ^ 36

/-- QW2 of an entry. -/
def Entry.qw2 (e : Entry) : Nat :=
  e.srcState + e.dstState * 2 ^ 3 + e.dstRatio * 2 ^ 6 + b2n e.dstKind * 2 ^ 8 + b2n e.dstGen * 2 ^ 9 + e.progress * 2 ^ 16

/-- The four words of an entry (R119). -/
def Entry.encode (e : Entry) : Nat × Nat × Nat × Nat := (e.qw0, e.loc, e.qw2, e.dstLoc)

/-- The entry that four words spell; reserved bits are not checked (R123). -/
def Entry.decode (q0 q1 q2 q3 : Nat) : Entry where
  state := bits q0 0 3
  gen := bit q0 3
  ratio := bits q0 4 2
  owner := bits q0 6 6
  heat := bits q0 12 8
  cls := bits q0 20 2
  pinned := bit q0 22
  mirrored := bit q0 23
  shared := bit q0 24
  compressible := bit q0 25
  larderOk := bit q0 26
  squeeze := bit q0 27
  shareGrp := bits q0 28 4
  dc := bit q0 32
  dcAcc := bit q0 33
  locValid := bit q0 34
  locKind := bit q0 35
  moveId := bits q0 36 12
  loc := bits q1 0 31
  srcState := bits q2 0 3
  dstState := bits q2 3 3
  dstRatio := bits q2 6 2
  dstKind := bit q2 8
  dstGen := bit q2 9
  progress := bits q2 16 10
  dstLoc := bits q3 0 31

/-- The fields of an entry lie within their widths (R119). -/
def Entry.inRange (e : Entry) : Prop :=
  e.state < 8 ∧ e.ratio < 4 ∧ e.owner < 64 ∧ e.heat < 256 ∧ e.cls < 4 ∧ e.shareGrp < 16 ∧ e.moveId < 4096 ∧ e.loc < 2 ^ 31 ∧
    e.srcState < 8 ∧ e.dstState < 8 ∧ e.dstRatio < 4 ∧ e.progress < 1024 ∧ e.dstLoc < 2 ^ 31

/-- R119: DRAM frame or page map of a location word, and cartridge and extent of a Larder location word. -/
def locFrame (l : Nat) : Nat := bits l 0 24
def locCart (l : Nat) : Nat := bits l 0 4
def locExtent (l : Nat) : Nat := bits l 4 27
/-- The location word of a Larder extent. -/
def larderLoc (cart extent : Nat) : Nat := cart + 16 * extent

/-! ### Page entries (R121) -/

/-- A page entry of a page map (R121). -/
structure PageEntry where
  state : Nat := 0
  gen : Bool := false
  ratio : Nat := 0
  locValid : Bool := false
  locKind : Bool := false
  heat : Nat := 0
  loc : Nat := 0
  srcState : Nat := 0
  deriving DecidableEq, Repr

def PageEntry.encode (e : PageEntry) : Nat :=
  e.state + b2n e.gen * 2 ^ 3 + e.ratio * 2 ^ 4 + b2n e.locValid * 2 ^ 6 + b2n e.locKind * 2 ^ 7 + e.heat * 2 ^ 8 + e.loc * 2 ^ 16 +
    e.srcState * 2 ^ 56

def PageEntry.decode (q : Nat) : PageEntry where
  state := bits q 0 3
  gen := bit q 3
  ratio := bits q 4 2
  locValid := bit q 6
  locKind := bit q 7
  heat := bits q 8 8
  loc := bits q 16 40
  srcState := bits q 56 3

def PageEntry.inRange (e : PageEntry) : Prop :=
  e.state < 8 ∧ e.ratio < 4 ∧ e.heat < 256 ∧ e.loc < 2 ^ 40 ∧ e.srcState < 8

/-- The DRA of a DRAM page, and the page slot of a Larder page (R121). -/
def PageEntry.dra (e : PageEntry) : Nat := bits e.loc 0 33 * 1024
def PageEntry.slot (e : PageEntry) : Nat := bits e.loc 31 9
/-- The LOC of a Larder page. -/
def larderPageLoc (cart extent slot : Nat) : Nat := cart + 16 * extent + slot * 2 ^ 31

/-! ### Room entries (R114, R139) -/

/-- A room entry, in the layout of PAT_ROOM_CFG (R139). -/
structure Room where
  owner : Nat := 0
  cls : Nat := 0
  pinned : Bool := false
  mirrored : Bool := false
  shared : Bool := false
  compressible : Bool := false
  larderOk : Bool := false
  squeeze : Bool := false
  shareGrp : Nat := 0
  dc : Bool := false
  inService : Bool := false
  deriving DecidableEq, Repr

def Room.encode (r : Room) : Nat :=
  r.owner + r.cls * 2 ^ 6 + b2n r.pinned * 2 ^ 8 + b2n r.mirrored * 2 ^ 9 + b2n r.shared * 2 ^ 10 + b2n r.compressible * 2 ^ 11 +
    b2n r.larderOk * 2 ^ 12 + b2n r.squeeze * 2 ^ 13 + r.shareGrp * 2 ^ 14 + b2n r.dc * 2 ^ 18 + b2n r.inService * 2 ^ 19

def Room.decode (w : Nat) : Room where
  owner := bits w 0 6
  cls := bits w 6 2
  pinned := bit w 8
  mirrored := bit w 9
  shared := bit w 10
  compressible := bit w 11
  larderOk := bit w 12
  squeeze := bit w 13
  shareGrp := bits w 14 4
  dc := bit w 18
  inService := bit w 19

def Room.inRange (r : Room) : Prop := r.owner < 64 ∧ r.cls < 4 ∧ r.shareGrp < 16

/-- R116: the attributes of a room copied into a skein entry. -/
def Room.copyTo (r : Room) (e : Entry) : Entry :=
  { e with cls := r.cls, pinned := r.pinned, mirrored := r.mirrored, shared := r.shared, shareGrp := r.shareGrp,
           compressible := r.compressible, larderOk := r.larderOk, squeeze := r.squeeze, dc := r.dc, owner := r.owner }

/-! ### Locations and validity -/

/-- R120: bytes of DRAM that a whole state holds from its frame: Open or Zero-pending 2 MiB, Packed 1 MiB or 512 KiB. -/
def wholeBytes (state ratio : Nat) : Nat :=
  if state = St.packed then (if ratio = 2 then 2 ^ 19 else 2 ^ 20) else 2 ^ 21

/-- R120: frames of a whole state. -/
def wholeFrames (state ratio : Nat) : Nat := wholeBytes state ratio / 2 ^ 19

/-- R121: bytes of a DRAM page. -/
def pageBytes (state ratio : Nat) : Nat :=
  if state = St.packed then (if ratio = 2 then 1024 else 2048) else 4096

/-- R173: units of a DRAM page. -/
def pageUnits (state ratio : Nat) : Nat := pageBytes state ratio / 1024

/-- R124: the location kind that a state needs. -/
def kindOf (state : Nat) : Bool := state == St.larder

/-- R124: a location of a skein in state `st` is aligned and inside the installed DRAM; `mapBase` is the split-map pool. -/
def locOk (installed mapBase st ratio l : Nat) : Bool :=
  if st = St.larder then true
  else if st = St.split then decide (mapBase + 4096 * locFrame l + 4096 ≤ installed)
  else locFrame l % wholeFrames st ratio == 0 && decide (locFrame l * 2 ^ 19 + wholeBytes st ratio ≤ installed)

/-- R124: a skein entry is valid. -/
def Entry.valid (installed mapBase : Nat) (e : Entry) : Bool :=
  decide (e.state < 7) && e.ratio != 3 &&
  (if e.state = St.packed then e.ratio != 0 else true) &&
  (if e.state = St.zero then (!e.locValid || (!e.locKind && locOk installed mapBase St.zero 0 e.loc))
   else if e.state = St.unbacked then true
   else if e.state = St.motion then
     e.locValid && e.locKind == kindOf e.srcState && e.dstKind == kindOf e.dstState &&
       !(e.srcState == St.packed && e.ratio == 0) && !(e.dstState == St.packed && (e.dstRatio == 0 || e.dstRatio == 3)) &&
       locOk installed mapBase e.srcState e.ratio e.loc && locOk installed mapBase e.dstState e.dstRatio e.dstLoc
   else e.locValid && e.locKind == kindOf e.state && locOk installed mapBase e.state e.ratio e.loc)

/-- R124: a page entry is valid. -/
def PageEntry.valid (installed : Nat) (e : PageEntry) : Bool :=
  let st := if e.state = St.motion then e.srcState else e.state
  (e.state == 1 || e.state == 2 || e.state == 3 || e.state == 5 || e.state == 6) && e.ratio != 3 &&
  !(st == St.packed && e.ratio == 0) &&
  (if st = St.zero then !e.locValid
   else e.locValid && e.locKind == kindOf st &&
     (e.locKind ||
       (e.dra % pageBytes st e.ratio == 0 && decide (e.dra + pageBytes st e.ratio ≤ installed) && bits e.loc 33 7 == 0)))

/-! ### Addresses (R109) -/

def dpaSkein (dpa : Nat) : Nat := dpa >>> 21
def dpaPage (dpa : Nat) : Nat := bits dpa 12 9
def dpaLine (dpa : Nat) : Nat := bits dpa 6 6
/-- The DPA of a page of a skein. -/
def pageDpa (skein page : Nat) : Nat := skein * 2 ^ 21 + page * 2 ^ 12
/-- The in-skein offset. -/
def dpaOff (dpa : Nat) : Nat := bits dpa 0 21

/-- R126: the Pattern cache set of a skein. -/
def patSet (s : Nat) : Nat := bits s 0 17 ^^^ bits s 17 14

/-- R161: the directory set of a line number. -/
def dirSet (l : Nat) : Nat := bits l 0 17 ^^^ bits l 17 17

end Sys2Proof.Machine
end

