-- ==== Sys2Proof/Machine/Regs.lean ====
section
/-! DEFINITION. The register fields and register words of BAR2, transcribed from the register tables of the spec (each `Fld` names the
rule whose table gives it). A field's value is held at one place, the register word that contains it. -/

namespace Sys2Proof.Machine

/-- A register field: offset of its register in the page, bit position and width (R11). Fields of registers wider than 32 bits count
their bits from the register's own bit 0. -/
structure Fld where
  off : Nat
  lsb : Nat
  width : Nat
  deriving DecidableEq, Repr

/-- The same field of the register `delta` bytes further on (register arrays). -/
def Fld.sh (f : Fld) (delta : Nat) : Fld := ⟨f.off + delta, f.lsb, f.width⟩

namespace F

/-- R45: STC_SN_LO.SN_LO [31:0] RO. -/
def STC_SN_LO_SN_LO : Fld := ⟨0x100, 0, 32⟩
/-- R45: STC_SN_HI.SN_HI [31:0] RO. -/
def STC_SN_HI_SN_HI : Fld := ⟨0x104, 0, 32⟩
/-- R45: STC_PHASE.CYCLE [7:0] RO. -/
def STC_PHASE_CYCLE : Fld := ⟨0x108, 0, 8⟩
/-- R45: STC_CAP.NSRC [11:0] RO. -/
def STC_CAP_NSRC : Fld := ⟨0x10C, 0, 12⟩
/-- R45: STC_CAP.SLOTS [19:12] RO. -/
def STC_CAP_SLOTS : Fld := ⟨0x10C, 12, 8⟩
/-- R45: STC_CFG.STUCK_EN [0] RW. -/
def STC_CFG_STUCK_EN : Fld := ⟨0x110, 0, 1⟩
/-- R45: STC_CFG.RATE_EN [1] RW. -/
def STC_CFG_RATE_EN : Fld := ⟨0x110, 1, 1⟩
/-- R45: STC_STS.SN_APPROX [0] W1C. -/
def STC_STS_SN_APPROX : Fld := ⟨0x114, 0, 1⟩
/-- R45: STC_STS.REF_OK [1] RO. -/
def STC_STS_REF_OK : Fld := ⟨0x114, 1, 1⟩
/-- R45: STC_STS.ALIGN_PEND [2] RO. -/
def STC_STS_ALIGN_PEND : Fld := ⟨0x114, 2, 1⟩
/-- R45: STC_STS.PLL_RETRY [3] W1C. -/
def STC_STS_PLL_RETRY : Fld := ⟨0x114, 3, 1⟩
/-- R45: STC_CARRY.DEPTH [11:0] RO. -/
def STC_CARRY_DEPTH : Fld := ⟨0x118, 0, 12⟩
/-- R45: STC_OVR_CNT.COUNT [31:0] RO. -/
def STC_OVR_CNT_COUNT : Fld := ⟨0x11C, 0, 32⟩
/-- R45: STC_OVR_SN.SN [63:0] RO. -/
def STC_OVR_SN_SN : Fld := ⟨0x120, 0, 64⟩
/-- R45: STC_SRC_SEL.INDEX [10:0] RW. -/
def STC_SRC_SEL_INDEX : Fld := ⟨0x130, 0, 11⟩
/-- R45: STC_SRC_CFG.STUCK_LIM [15:0] RW. -/
def STC_SRC_CFG_STUCK_LIM : Fld := ⟨0x134, 0, 16⟩
/-- R45: STC_SRC_CFG.RATE_WIN [20:16] RW. -/
def STC_SRC_CFG_RATE_WIN : Fld := ⟨0x134, 16, 5⟩
/-- R45: STC_SRC_CFG.KIND [21] RO. -/
def STC_SRC_CFG_KIND : Fld := ⟨0x134, 21, 1⟩
/-- R45: STC_SRC_CFG.EXEMPT [22] RO. -/
def STC_SRC_CFG_EXEMPT : Fld := ⟨0x134, 22, 1⟩
/-- R45: STC_SRC_RATE.RATE_LIM [15:0] RW. -/
def STC_SRC_RATE_RATE_LIM : Fld := ⟨0x138, 0, 16⟩
/-- R45: STC_SRC_STS.SAMPLE [0] RO. -/
def STC_SRC_STS_SAMPLE : Fld := ⟨0x13C, 0, 1⟩
/-- R45: STC_SRC_STS.MASKED [1] RO. -/
def STC_SRC_STS_MASKED : Fld := ⟨0x13C, 1, 1⟩
/-- R45: STC_SRC_STS.QUAR [2] RO. -/
def STC_SRC_STS_QUAR : Fld := ⟨0x13C, 2, 1⟩
/-- R45: STC_SRC_STS.WAITING [3] RO. -/
def STC_SRC_STS_WAITING : Fld := ⟨0x13C, 3, 1⟩
/-- R45: STC_SRC_STS.CAT [7:4] RO. -/
def STC_SRC_STS_CAT : Fld := ⟨0x13C, 4, 4⟩
/-- R45: STC_SRC_STS.RUN [23:8] RO. -/
def STC_SRC_STS_RUN : Fld := ⟨0x13C, 8, 16⟩
/-- R45: STC_SRC_COUNT.ASSERTS [16:0] RO. -/
def STC_SRC_COUNT_ASSERTS : Fld := ⟨0x140, 0, 17⟩
/-- R45: STC_MASKED0–63.MASK [31:0] W1C, stride 4. -/
def STC_MASKED_MASK : Fld := ⟨0x400, 0, 32⟩
/-- R45: STC_QUAR0–63.QUAR [31:0] W1C, stride 4. -/
def STC_QUAR_QUAR : Fld := ⟨0x500, 0, 32⟩
/-- R62: PG_ID.LAYOUT [7:0] RO. -/
def PG_ID_LAYOUT : Fld := ⟨0x0, 0, 8⟩
/-- R62: PG_ID.INST [15:8] RO. -/
def PG_ID_INST : Fld := ⟨0x0, 8, 8⟩
/-- R62: PG_ID.TYPE [31:16] RO. -/
def PG_ID_TYPE : Fld := ⟨0x0, 16, 16⟩
/-- R62: PG_CAP.CAP [31:0] RO. -/
def PG_CAP_CAP : Fld := ⟨0x4, 0, 32⟩
/-- R62: PG_CTL.ENABLE [0] RW. -/
def PG_CTL_ENABLE : Fld := ⟨0x8, 0, 1⟩
/-- R62: PG_CTL.FROG [1] W1S. -/
def PG_CTL_FROG : Fld := ⟨0x8, 1, 1⟩
/-- R62: PG_CTL.TEST_INT [2] RW. -/
def PG_CTL_TEST_INT : Fld := ⟨0x8, 2, 1⟩
/-- R62: PG_STS.READY [0] RO. -/
def PG_STS_READY : Fld := ⟨0xC, 0, 1⟩
/-- R62: PG_STS.BUSY [1] RO. -/
def PG_STS_BUSY : Fld := ⟨0xC, 1, 1⟩
/-- R62: PG_STS.FROGGED [2] RO. -/
def PG_STS_FROGGED : Fld := ⟨0xC, 2, 1⟩
/-- R62: PG_STS.FAULT [3] RO. -/
def PG_STS_FAULT : Fld := ⟨0xC, 3, 1⟩
/-- R62: PG_INT_STS.STS [31:0] W1C. -/
def PG_INT_STS_STS : Fld := ⟨0x10, 0, 32⟩
/-- R62: PG_INT_EN.EN [31:0] RW. -/
def PG_INT_EN_EN : Fld := ⟨0x14, 0, 32⟩
/-- R62: PG_INT_SET.SET [31:0] W1S. -/
def PG_INT_SET_SET : Fld := ⟨0x18, 0, 32⟩
/-- R62: PG_FLT_BASE.FIRST [9:0] RO. -/
def PG_FLT_BASE_FIRST : Fld := ⟨0x20, 0, 10⟩
/-- R62: PG_FLT_BASE.COUNT [26:16] RO. -/
def PG_FLT_BASE_COUNT : Fld := ⟨0x20, 16, 11⟩
/-- R62: PG_FROG_STS.SN [63:0] RO. -/
def PG_FROG_STS_SN : Fld := ⟨0x40, 0, 64⟩
/-- R62: TAL_SEL0–3.EVENT [15:0] RW, stride 4. -/
def TAL_SEL_EVENT : Fld := ⟨0x80, 0, 16⟩
/-- R62: TAL_SEL0–3.CLEAR [16] WO, stride 4. -/
def TAL_SEL_CLEAR : Fld := ⟨0x80, 16, 1⟩
/-- R62: TAL_CNT0–3.COUNT [47:0] RO, stride 8. -/
def TAL_CNT_COUNT : Fld := ⟨0xA0, 0, 48⟩
/-- R62: TAL_OVF.OVF [3:0] W1C. -/
def TAL_OVF_OVF : Fld := ⟨0xE0, 0, 4⟩
/-- R72: GEN_DEV_ID.PART [15:0] RO. -/
def GEN_DEV_ID_PART : Fld := ⟨0x100, 0, 16⟩
/-- R72: GEN_DEV_ID.STEP [23:16] RO. -/
def GEN_DEV_ID_STEP : Fld := ⟨0x100, 16, 8⟩
/-- R72: GEN_FAM_CAP0.HOST_PORTS [3:0] RO. -/
def GEN_FAM_CAP0_HOST_PORTS : Fld := ⟨0x104, 0, 4⟩
/-- R72: GEN_FAM_CAP0.DRAM_CH [8:4] RO. -/
def GEN_FAM_CAP0_DRAM_CH : Fld := ⟨0x104, 4, 5⟩
/-- R72: GEN_FAM_CAP0.YARN [13:9] RO. -/
def GEN_FAM_CAP0_YARN : Fld := ⟨0x104, 9, 5⟩
/-- R72: GEN_FAM_CAP0.HALLWAY [14] RO. -/
def GEN_FAM_CAP0_HALLWAY : Fld := ⟨0x104, 14, 1⟩
/-- R72: GEN_FAM_CAP0.SRAM_MIB [23:16] RO. -/
def GEN_FAM_CAP0_SRAM_MIB : Fld := ⟨0x104, 16, 8⟩
/-- R72: GEN_FAM_CAP1.QPAIRS [13:0] RO. -/
def GEN_FAM_CAP1_QPAIRS : Fld := ⟨0x108, 0, 14⟩
/-- R72: GEN_FAM_CAP2.DMV_CH [7:0] RO. -/
def GEN_FAM_CAP2_DMV_CH : Fld := ⟨0x10C, 0, 8⟩
/-- R72: GEN_FAM_CAP2.CMP [15:8] RO. -/
def GEN_FAM_CAP2_CMP : Fld := ⟨0x10C, 8, 8⟩
/-- R72: GEN_FAM_CAP2.DCMP [23:16] RO. -/
def GEN_FAM_CAP2_DCMP : Fld := ⟨0x10C, 16, 8⟩
/-- R72: GEN_FAM_CAP2.CRY_ENG [31:24] RO. -/
def GEN_FAM_CAP2_CRY_ENG : Fld := ⟨0x10C, 24, 8⟩
/-- R72: GEN_FAM_CAP3.LDS [6:0] RO. -/
def GEN_FAM_CAP3_LDS : Fld := ⟨0x110, 0, 7⟩
/-- R72: GEN_FAM_CAP3.HDM_PER_PORT [12:8] RO. -/
def GEN_FAM_CAP3_HDM_PER_PORT : Fld := ⟨0x110, 8, 5⟩
/-- R72: GEN_PAGES.LAST [13:0] RO. -/
def GEN_PAGES_LAST : Fld := ⟨0x114, 0, 14⟩
/-- R72: GEN_STS.ALL_READY [0] RO. -/
def GEN_STS_ALL_READY : Fld := ⟨0x118, 0, 1⟩
/-- R72: GEN_IRQ_SEL.PAGE [13:0] RW. -/
def GEN_IRQ_SEL_PAGE : Fld := ⟨0x120, 0, 14⟩
/-- R72: GEN_IRQ_ROUTE.VECTOR [10:0] RW. -/
def GEN_IRQ_ROUTE_VECTOR : Fld := ⟨0x124, 0, 11⟩
/-- R72: GEN_IRQ_ROUTE.LD [21:16] RW. -/
def GEN_IRQ_ROUTE_LD : Fld := ⟨0x124, 16, 6⟩
/-- R72: GEN_IRQ_ROUTE.DEST [25:24] RW. -/
def GEN_IRQ_ROUTE_DEST : Fld := ⟨0x124, 24, 2⟩
/-- R72: GEN_IRQ_ROUTE.CORE [27:26] RW. -/
def GEN_IRQ_ROUTE_CORE : Fld := ⟨0x124, 26, 2⟩
/-- R72: GEN_IRQ_ROUTE.MASK [31] RW. -/
def GEN_IRQ_ROUTE_MASK : Fld := ⟨0x124, 31, 1⟩
/-- R72: GEN_ACC_SEL.PAGE [13:0] RW. -/
def GEN_ACC_SEL_PAGE : Fld := ⟨0x128, 0, 14⟩
/-- R72: GEN_ACC.OWNER [5:0] RW. -/
def GEN_ACC_OWNER : Fld := ⟨0x12C, 0, 6⟩
/-- R72: GEN_ACC.MODE [7:6] RW. -/
def GEN_ACC_MODE : Fld := ⟨0x12C, 6, 2⟩
/-- R72: GEN_MGMT_LD.MGMT [63:0] RW. -/
def GEN_MGMT_LD_MGMT : Fld := ⟨0x130, 0, 64⟩
/-- R72: GEN_PEND0–15.PEND [31:0] RO, stride 4. -/
def GEN_PEND_PEND : Fld := ⟨0x140, 0, 32⟩
/-- R107: HP_CFG.SPLIT [0] RO. -/
def HP_CFG_SPLIT : Fld := ⟨0x100, 0, 1⟩
/-- R107: HP_CFG.MAX_SPEED [2:1] RW. -/
def HP_CFG_MAX_SPEED : Fld := ⟨0x100, 1, 2⟩
/-- R107: HP_CFG.L0P_EN [3] RW. -/
def HP_CFG_L0P_EN : Fld := ⟨0x100, 3, 1⟩
/-- R107: HP_LINK_STS0–1.UP [0] RO, stride 4. -/
def HP_LINK_STS_UP : Fld := ⟨0x104, 0, 1⟩
/-- R107: HP_LINK_STS0–1.SPEED [3:1] RO, stride 4. -/
def HP_LINK_STS_SPEED : Fld := ⟨0x104, 1, 3⟩
/-- R107: HP_LINK_STS0–1.WIDTH [8:4] RO, stride 4. -/
def HP_LINK_STS_WIDTH : Fld := ⟨0x104, 4, 5⟩
/-- R107: HP_LINK_STS0–1.FLIT256 [9] RO, stride 4. -/
def HP_LINK_STS_FLIT256 : Fld := ⟨0x104, 9, 1⟩
/-- R107: HP_LINK_STS0–1.MLD [10] RO, stride 4. -/
def HP_LINK_STS_MLD : Fld := ⟨0x104, 10, 1⟩
/-- R107: HP_LINK_STS0–1.IDE [11] RO, stride 4. -/
def HP_LINK_STS_IDE : Fld := ⟨0x104, 11, 1⟩
/-- R107: HP_LINK_STS0–1.L0P_WIDTH [16:12] RO, stride 4. -/
def HP_LINK_STS_L0P_WIDTH : Fld := ⟨0x104, 12, 5⟩
/-- R107: HP_LD_BOUND.BOUND [15:0] RO. -/
def HP_LD_BOUND_BOUND : Fld := ⟨0x110, 0, 16⟩
/-- R107: HP_VEC_ALLOC0–15.COUNT [11:0] RW, stride 4. -/
def HP_VEC_ALLOC_COUNT : Fld := ⟨0x120, 0, 12⟩
/-- R107: HP_VEC_ALLOC0–15.FIRST [27:16] RO, stride 4. -/
def HP_VEC_ALLOC_FIRST : Fld := ⟨0x120, 16, 12⟩
/-- R107: HP_HDM_ALLOC0–15.COUNT [4:0] RW, stride 4. -/
def HP_HDM_ALLOC_COUNT : Fld := ⟨0x160, 0, 5⟩
/-- R107: HP_HDM_ALLOC0–15.FIRST [12:8] RO, stride 4. -/
def HP_HDM_ALLOC_FIRST : Fld := ⟨0x160, 8, 5⟩
/-- R107: HP_FEC_CNT0–1.COUNT [31:0] W1C, stride 4. -/
def HP_FEC_CNT_COUNT : Fld := ⟨0x1A0, 0, 32⟩
/-- R107: HP_CRC_CNT0–1.COUNT [31:0] W1C, stride 4. -/
def HP_CRC_CNT_COUNT : Fld := ⟨0x1A8, 0, 32⟩
/-- R107: HP_REPLAY_CNT0–1.COUNT [31:0] W1C, stride 4. -/
def HP_REPLAY_CNT_COUNT : Fld := ⟨0x1B0, 0, 32⟩
/-- R107: HP_REPLAY_THR.THR [15:0] RW. -/
def HP_REPLAY_THR_THR : Fld := ⟨0x1B8, 0, 16⟩
/-- R137: LDM_STS.BOUND [0] RO. -/
def LDM_STS_BOUND : Fld := ⟨0x100, 0, 1⟩
/-- R137: LDM_STS.VIRAL [1] RO. -/
def LDM_STS_VIRAL : Fld := ⟨0x100, 1, 1⟩
/-- R137: LDM_STS.OVER_QUOTA [2] RO. -/
def LDM_STS_OVER_QUOTA : Fld := ⟨0x100, 2, 1⟩
/-- R137: LDM_STS.QUOTA_WARN [3] RO. -/
def LDM_STS_QUOTA_WARN : Fld := ⟨0x100, 3, 1⟩
/-- R137: LDM_SHARE_GRPS.GRPS [15:0] RW. -/
def LDM_SHARE_GRPS_GRPS : Fld := ⟨0x108, 0, 16⟩
/-- R137: LDM_SEG0–3_A.LD_ROOM [21:0] RW, stride 16. -/
def LDM_SEG_A_LD_ROOM : Fld := ⟨0x110, 0, 22⟩
/-- R137: LDM_SEG0–3_A.EN [31] RW, stride 16. -/
def LDM_SEG_A_EN : Fld := ⟨0x110, 31, 1⟩
/-- R137: LDM_SEG0–3_A.ROOMS [54:32] RW, stride 16. -/
def LDM_SEG_A_ROOMS : Fld := ⟨0x110, 32, 23⟩
/-- R137: LDM_SEG0–3_B.DRN_BASE [21:0] RW, stride 16. -/
def LDM_SEG_B_DRN_BASE : Fld := ⟨0x118, 0, 22⟩
/-- R137: LDM_QUOTA_DRAM.MIB [23:0] RW. -/
def LDM_QUOTA_DRAM_MIB : Fld := ⟨0x150, 0, 24⟩
/-- R137: LDM_QUOTA_LARDER.EXTENTS [31:0] RW. -/
def LDM_QUOTA_LARDER_EXTENTS : Fld := ⟨0x154, 0, 32⟩
/-- R137: LDM_QUOTA_WARN.PCT [6:0] RW. -/
def LDM_QUOTA_WARN_PCT : Fld := ⟨0x158, 0, 7⟩
/-- R137: LDM_USE_DRAM.KIB [43:0] RO. -/
def LDM_USE_DRAM_KIB : Fld := ⟨0x160, 0, 44⟩
/-- R137: LDM_USE_LARDER.EXTENTS [31:0] RO. -/
def LDM_USE_LARDER_EXTENTS : Fld := ⟨0x168, 0, 32⟩
/-- R137: LDM_REFUSED.COUNT [31:0] W1C. -/
def LDM_REFUSED_COUNT : Fld := ⟨0x170, 0, 32⟩
/-- R137: LDM_DENIED.COUNT [31:0] W1C. -/
def LDM_DENIED_COUNT : Fld := ⟨0x174, 0, 32⟩
/-- R139: PAT_CFG.TBL_VALID [0] RW. -/
def PAT_CFG_TBL_VALID : Fld := ⟨0x100, 0, 1⟩
/-- R139: PAT_TBL_BASE.DRA [42:0] RW. -/
def PAT_TBL_BASE_DRA : Fld := ⟨0x108, 0, 43⟩
/-- R139: PAT_ROOM_TBL_BASE.DRA [42:0] RW. -/
def PAT_ROOM_TBL_BASE_DRA : Fld := ⟨0x110, 0, 43⟩
/-- R139: PAT_WIN_ROOMS.ROOMS [22:0] RW. -/
def PAT_WIN_ROOMS_ROOMS : Fld := ⟨0x118, 0, 23⟩
/-- R139: PAT_CACHE_CTL.FLUSH [0] W1S. -/
def PAT_CACHE_CTL_FLUSH : Fld := ⟨0x120, 0, 1⟩
/-- R139: PAT_CACHE_STS.VALID [20:0] RO. -/
def PAT_CACHE_STS_VALID : Fld := ⟨0x124, 0, 21⟩
/-- R139: PAT_CACHE_LOCKED.LOCKED [20:0] RO. -/
def PAT_CACHE_LOCKED_LOCKED : Fld := ⟨0x128, 0, 21⟩
/-- R139: PAT_ROOM_SEL.DRN [21:0] RW. -/
def PAT_ROOM_SEL_DRN : Fld := ⟨0x130, 0, 22⟩
/-- R139: PAT_ROOM_CMD.OP [1:0] WO. -/
def PAT_ROOM_CMD_OP : Fld := ⟨0x134, 0, 2⟩
/-- R139: PAT_ROOM_CMD.BUSY [8] RO. -/
def PAT_ROOM_CMD_BUSY : Fld := ⟨0x134, 8, 1⟩
/-- R139: PAT_ROOM_CMD.RESULT [15:12] RO. -/
def PAT_ROOM_CMD_RESULT : Fld := ⟨0x134, 12, 4⟩
/-- R139: PAT_ROOM_CFG.OWNER [5:0] RW. -/
def PAT_ROOM_CFG_OWNER : Fld := ⟨0x138, 0, 6⟩
/-- R139: PAT_ROOM_CFG.CLASS [7:6] RW. -/
def PAT_ROOM_CFG_CLASS : Fld := ⟨0x138, 6, 2⟩
/-- R139: PAT_ROOM_CFG.PINNED [8] RW. -/
def PAT_ROOM_CFG_PINNED : Fld := ⟨0x138, 8, 1⟩
/-- R139: PAT_ROOM_CFG.MIRRORED [9] RW. -/
def PAT_ROOM_CFG_MIRRORED : Fld := ⟨0x138, 9, 1⟩
/-- R139: PAT_ROOM_CFG.SHARED [10] RW. -/
def PAT_ROOM_CFG_SHARED : Fld := ⟨0x138, 10, 1⟩
/-- R139: PAT_ROOM_CFG.COMPRESSIBLE [11] RW. -/
def PAT_ROOM_CFG_COMPRESSIBLE : Fld := ⟨0x138, 11, 1⟩
/-- R139: PAT_ROOM_CFG.LARDER_OK [12] RW. -/
def PAT_ROOM_CFG_LARDER_OK : Fld := ⟨0x138, 12, 1⟩
/-- R139: PAT_ROOM_CFG.SQUEEZE [13] RW. -/
def PAT_ROOM_CFG_SQUEEZE : Fld := ⟨0x138, 13, 1⟩
/-- R139: PAT_ROOM_CFG.SHARE_GRP [17:14] RW. -/
def PAT_ROOM_CFG_SHARE_GRP : Fld := ⟨0x138, 14, 4⟩
/-- R139: PAT_ROOM_CFG.DC [18] RW. -/
def PAT_ROOM_CFG_DC : Fld := ⟨0x138, 18, 1⟩
/-- R139: PAT_ROOM_CFG.IN_SERVICE [19] RW. -/
def PAT_ROOM_CFG_IN_SERVICE : Fld := ⟨0x138, 19, 1⟩
/-- R139: PAT_PROBE_DPA.DPA [51:0] RW. -/
def PAT_PROBE_DPA_DPA : Fld := ⟨0x140, 0, 52⟩
/-- R139: PAT_PROBE_CMD.GO [0] WO. -/
def PAT_PROBE_CMD_GO : Fld := ⟨0x148, 0, 1⟩
/-- R139: PAT_PROBE_CMD.BUSY [1] RO. -/
def PAT_PROBE_CMD_BUSY : Fld := ⟨0x148, 1, 1⟩
/-- R139: PAT_PROBE_CMD.HIT [2] RO. -/
def PAT_PROBE_CMD_HIT : Fld := ⟨0x148, 2, 1⟩
/-- R139: PAT_PROBE_ENT0–3.QW [63:0] RO, stride 8. -/
def PAT_PROBE_ENT_QW : Fld := ⟨0x150, 0, 64⟩
/-- R206: TIR_CFG.SCAN_EN [0] RW. -/
def TIR_CFG_SCAN_EN : Fld := ⟨0x100, 0, 1⟩
/-- R206: TIR_CFG.PACK_EN [1] RW. -/
def TIR_CFG_PACK_EN : Fld := ⟨0x100, 1, 1⟩
/-- R206: TIR_CFG.LARDER_EN [2] RW. -/
def TIR_CFG_LARDER_EN : Fld := ⟨0x100, 2, 1⟩
/-- R206: TIR_CFG.OPEN_EN [3] RW. -/
def TIR_CFG_OPEN_EN : Fld := ⟨0x100, 3, 1⟩
/-- R206: TIR_CFG.TOUCH_EN [4] RW. -/
def TIR_CFG_TOUCH_EN : Fld := ⟨0x100, 4, 1⟩
/-- R206: TIR_CFG.EVAC_URGENT [5] RW. -/
def TIR_CFG_EVAC_URGENT : Fld := ⟨0x100, 5, 1⟩
/-- R206: TIR_HEAT_CFG.INC [7:0] RW. -/
def TIR_HEAT_CFG_INC : Fld := ⟨0x104, 0, 8⟩
/-- R206: TIR_HEAT_CFG.DECAY [10:8] RW. -/
def TIR_HEAT_CFG_DECAY : Fld := ⟨0x104, 8, 3⟩
/-- R206: TIR_HEAT_CFG.COUNT_JOBS [11] RW. -/
def TIR_HEAT_CFG_COUNT_JOBS : Fld := ⟨0x104, 11, 1⟩
/-- R206: TIR_HEAT_CFG.PG_SAMPLE [15:12] RW. -/
def TIR_HEAT_CFG_PG_SAMPLE : Fld := ⟨0x104, 12, 4⟩
/-- R206: TIR_CLASS_CFG0–3.PACK_THR [7:0] RW, stride 4. -/
def TIR_CLASS_CFG_PACK_THR : Fld := ⟨0x110, 0, 8⟩
/-- R206: TIR_CLASS_CFG0–3.LARDER_THR [15:8] RW, stride 4. -/
def TIR_CLASS_CFG_LARDER_THR : Fld := ⟨0x110, 8, 8⟩
/-- R206: TIR_CLASS_CFG0–3.OPEN_THR [23:16] RW, stride 4. -/
def TIR_CLASS_CFG_OPEN_THR : Fld := ⟨0x110, 16, 8⟩
/-- R206: TIR_CLASS_CFG0–3.PACK_ON [24] RW, stride 4. -/
def TIR_CLASS_CFG_PACK_ON : Fld := ⟨0x110, 24, 1⟩
/-- R206: TIR_CLASS_CFG0–3.LARDER_ON [25] RW, stride 4. -/
def TIR_CLASS_CFG_LARDER_ON : Fld := ⟨0x110, 25, 1⟩
/-- R206: TIR_CLASS_CFG0–3.OPEN_ON [26] RW, stride 4. -/
def TIR_CLASS_CFG_OPEN_ON : Fld := ⟨0x110, 26, 1⟩
/-- R206: TIR_SCAN_CFG.LINES [15:0] RW. -/
def TIR_SCAN_CFG_LINES : Fld := ⟨0x120, 0, 16⟩
/-- R206: TIR_SCAN_PASS.COUNT [31:0] RO. -/
def TIR_SCAN_PASS_COUNT : Fld := ⟨0x124, 0, 32⟩
/-- R206: TIR_SCAN_POS.SKEIN [30:0] RW. -/
def TIR_SCAN_POS_SKEIN : Fld := ⟨0x128, 0, 31⟩
/-- R206: TIR_MOVE_CFG.MAX [11:0] RW. -/
def TIR_MOVE_CFG_MAX : Fld := ⟨0x130, 0, 12⟩
/-- R206: TIR_MOVE_CFG.COPY_PER_WIN [23:16] RW. -/
def TIR_MOVE_CFG_COPY_PER_WIN : Fld := ⟨0x130, 16, 8⟩
/-- R206: TIR_MOVE_STS.ACTIVE [11:0] RO. -/
def TIR_MOVE_STS_ACTIVE : Fld := ⟨0x134, 0, 12⟩
/-- R206: TIR_MOVE_STS.FETCH [26:16] RO. -/
def TIR_MOVE_STS_FETCH : Fld := ⟨0x134, 16, 11⟩
/-- R206: TIR_SPLIT_MIN.PAGES [9:0] RW. -/
def TIR_SPLIT_MIN_PAGES : Fld := ⟨0x138, 0, 10⟩
/-- R206: TIR_MAP_BASE.DRA [42:0] RW. -/
def TIR_MAP_BASE_DRA : Fld := ⟨0x140, 0, 43⟩
/-- R206: TIR_MAP_CFG.MAPS [24:0] RW. -/
def TIR_MAP_CFG_MAPS : Fld := ⟨0x148, 0, 25⟩
/-- R206: TIR_MAP_RSV.FIT [15:0] RW. -/
def TIR_MAP_RSV_FIT : Fld := ⟨0x14C, 0, 16⟩
/-- R206: TIR_MAP_LOW.MAPS [24:0] RW. -/
def TIR_MAP_LOW_MAPS : Fld := ⟨0x150, 0, 25⟩
/-- R206: TIR_MAP_FREE.MAPS [24:0] RO. -/
def TIR_MAP_FREE_MAPS : Fld := ⟨0x154, 0, 25⟩
/-- R206: TIR_FRAME_TBL_BASE.DRA [42:0] RW. -/
def TIR_FRAME_TBL_BASE_DRA : Fld := ⟨0x158, 0, 43⟩
/-- R206: TIR_FRAME_LOW.FRAMES [24:0] RW. -/
def TIR_FRAME_LOW_FRAMES : Fld := ⟨0x160, 0, 25⟩
/-- R206: TIR_FRAME_RSV.FIT [15:0] RW. -/
def TIR_FRAME_RSV_FIT : Fld := ⟨0x164, 0, 16⟩
/-- R206: TIR_FRAME_FREE.FRAMES [24:0] RO. -/
def TIR_FRAME_FREE_FRAMES : Fld := ⟨0x168, 0, 25⟩
/-- R206: TIR_WIPE_CFG.LINES [15:0] RW. -/
def TIR_WIPE_CFG_LINES : Fld := ⟨0x170, 0, 16⟩
/-- R206: TIR_WIPE_STS.FILLING [11:0] RO. -/
def TIR_WIPE_STS_FILLING : Fld := ⟨0x174, 0, 12⟩
/-- R206: TIR_EVAC.REQ [15:0] W1S. -/
def TIR_EVAC_REQ : Fld := ⟨0x178, 0, 16⟩
/-- R206: TIR_EVAC.ACTIVE [31:16] RO. -/
def TIR_EVAC_ACTIVE : Fld := ⟨0x178, 16, 16⟩
/-- R206: TIR_MOVE_SEL.ID [11:0] RW. -/
def TIR_MOVE_SEL_ID : Fld := ⟨0x180, 0, 12⟩
/-- R206: TIR_MOVE_INFO.SKEIN [30:0] RO. -/
def TIR_MOVE_INFO_SKEIN : Fld := ⟨0x188, 0, 31⟩
/-- R206: TIR_MOVE_INFO.PAGE [39:31] RO. -/
def TIR_MOVE_INFO_PAGE : Fld := ⟨0x188, 31, 9⟩
/-- R206: TIR_MOVE_INFO.PAGE_MOVE [40] RO. -/
def TIR_MOVE_INFO_PAGE_MOVE : Fld := ⟨0x188, 40, 1⟩
/-- R206: TIR_MOVE_INFO.SRC_STATE [43:41] RO. -/
def TIR_MOVE_INFO_SRC_STATE : Fld := ⟨0x188, 41, 3⟩
/-- R206: TIR_MOVE_INFO.DST_STATE [46:44] RO. -/
def TIR_MOVE_INFO_DST_STATE : Fld := ⟨0x188, 44, 3⟩
/-- R206: TIR_MOVE_INFO.CAUSE [50:47] RO. -/
def TIR_MOVE_INFO_CAUSE : Fld := ⟨0x188, 47, 4⟩
/-- R206: TIR_MOVE_INFO.ACTIVE [51] RO. -/
def TIR_MOVE_INFO_ACTIVE : Fld := ⟨0x188, 51, 1⟩
/-- R206: TIR_MOVE_INFO.PROGRESS [61:52] RO. -/
def TIR_MOVE_INFO_PROGRESS : Fld := ⟨0x188, 52, 10⟩
/-- R206: TIR_MOVE_SN.SN [63:0] RO. -/
def TIR_MOVE_SN_SN : Fld := ⟨0x190, 0, 64⟩
/-- R206: TIR_FAIL_INFO.ID [11:0] RO. -/
def TIR_FAIL_INFO_ID : Fld := ⟨0x198, 0, 12⟩
/-- R206: TIR_FAIL_INFO.REASON [15:12] RO. -/
def TIR_FAIL_INFO_REASON : Fld := ⟨0x198, 12, 4⟩
/-- R206: TIR_FAIL_INFO.PROGRESS [25:16] RO. -/
def TIR_FAIL_INFO_PROGRESS : Fld := ⟨0x198, 16, 10⟩
/-- R206: TIR_FAIL_INFO.SKEIN [56:26] RO. -/
def TIR_FAIL_INFO_SKEIN : Fld := ⟨0x198, 26, 31⟩
/-- R206: TIR_FAIL_SN.SN [63:0] RO. -/
def TIR_FAIL_SN_SN : Fld := ⟨0x1A0, 0, 64⟩
/-- R206: TIR_SQUEEZE.LDS [63:0] RO. -/
def TIR_SQUEEZE_LDS : Fld := ⟨0x1A8, 0, 64⟩
/-- R231: CMP_CFG.POOL [1:0] RW. -/
def CMP_CFG_POOL : Fld := ⟨0x100, 0, 2⟩
/-- R231: CMP_CFG.CHK_STOP [2] RW. -/
def CMP_CFG_CHK_STOP : Fld := ⟨0x100, 2, 1⟩
/-- R231: CMP_INFO.CHANNEL [3:0] RO. -/
def CMP_INFO_CHANNEL : Fld := ⟨0x104, 0, 4⟩
/-- R231: CMP_INFO.INLINE [4] RO. -/
def CMP_INFO_INLINE : Fld := ⟨0x104, 4, 1⟩
/-- R231: CMP_STS.ACTIVE [0] RO. -/
def CMP_STS_ACTIVE : Fld := ⟨0x108, 0, 1⟩
/-- R231: CMP_STS.WORK [3:1] RO. -/
def CMP_STS_WORK : Fld := ⟨0x108, 1, 3⟩
/-- R231: CMP_ENC_CNT.COUNT [47:0] RO. -/
def CMP_ENC_CNT_COUNT : Fld := ⟨0x110, 0, 48⟩
/-- R231: CMP_NOFIT_CNT.COUNT [47:0] RO. -/
def CMP_NOFIT_CNT_COUNT : Fld := ⟨0x118, 0, 48⟩
/-- R231: CMP_DEC_CNT.COUNT [47:0] RO. -/
def CMP_DEC_CNT_COUNT : Fld := ⟨0x120, 0, 48⟩
/-- R231: CMP_CHK_CNT.COUNT [31:0] W1C. -/
def CMP_CHK_CNT_COUNT : Fld := ⟨0x130, 0, 32⟩
/-- R231: CMP_FMT_CNT.COUNT [31:0] W1C. -/
def CMP_FMT_CNT_COUNT : Fld := ⟨0x134, 0, 32⟩
/-- R231: CMP_CHK_HDR.HDR [7:0] RO. -/
def CMP_CHK_HDR_HDR : Fld := ⟨0x138, 0, 8⟩
/-- R231: CMP_CHK_HDR.TARGET [8] RO. -/
def CMP_CHK_HDR_TARGET : Fld := ⟨0x138, 8, 1⟩
/-- R231: CMP_CHK_ADDR.ADDR [51:0] RO. -/
def CMP_CHK_ADDR_ADDR : Fld := ⟨0x140, 0, 52⟩
/-- R231: CMP_CHK_SN.SN [63:0] RO. -/
def CMP_CHK_SN_SN : Fld := ⟨0x148, 0, 64⟩
/-- R264: CRY_CFG.HOLD [0] RW. -/
def CRY_CFG_HOLD : Fld := ⟨0x100, 0, 1⟩
/-- R264: CRY_CFG.MACDEV_POLICY [1] RW. -/
def CRY_CFG_MACDEV_POLICY : Fld := ⟨0x100, 1, 1⟩
/-- R264: CRY_CFG.AUTO_REKNIT [2] RW. -/
def CRY_CFG_AUTO_REKNIT : Fld := ⟨0x100, 2, 1⟩
/-- R264: CRY_STS.KEYS_READY [0] RO. -/
def CRY_STS_KEYS_READY : Fld := ⟨0x104, 0, 1⟩
/-- R264: CRY_STS.REKNIT_ACTIVE [1] RO. -/
def CRY_STS_REKNIT_ACTIVE : Fld := ⟨0x104, 1, 1⟩
/-- R264: CRY_STS.PHASE [2] RO. -/
def CRY_STS_PHASE : Fld := ⟨0x104, 2, 1⟩
/-- R264: CRY_GEN.G [31:0] RO. -/
def CRY_GEN_G : Fld := ⟨0x108, 0, 32⟩
/-- R264: CRY_KNIT_LINE.DPA [51:0] RO. -/
def CRY_KNIT_LINE_DPA : Fld := ⟨0x110, 0, 52⟩
/-- R264: CRY_TBL_KNIT.DRA [42:0] RO. -/
def CRY_TBL_KNIT_DRA : Fld := ⟨0x118, 0, 43⟩
/-- R264: CRY_REKNIT_CTL.START [0] W1S. -/
def CRY_REKNIT_CTL_START : Fld := ⟨0x120, 0, 1⟩
/-- R264: CRY_REKNIT_CTL.PAUSE [1] RW. -/
def CRY_REKNIT_CTL_PAUSE : Fld := ⟨0x120, 1, 1⟩
/-- R264: CRY_REKNIT_STS.REFUSED [0] W1C. -/
def CRY_REKNIT_STS_REFUSED : Fld := ⟨0x124, 0, 1⟩
/-- R264: CRY_REKNIT_STS.WAIT_MOVE [1] RO. -/
def CRY_REKNIT_STS_WAIT_MOVE : Fld := ⟨0x124, 1, 1⟩
/-- R264: CRY_REKNIT_STS.WAIT_PORT [2] RO. -/
def CRY_REKNIT_STS_WAIT_PORT : Fld := ⟨0x124, 2, 1⟩
/-- R264: CRY_REKNIT_RATE.LINES [19:0] RW. -/
def CRY_REKNIT_RATE_LINES : Fld := ⟨0x128, 0, 20⟩
/-- R264: CRY_REKNIT_YRATE.LINES [19:0] RW. -/
def CRY_REKNIT_YRATE_LINES : Fld := ⟨0x12C, 0, 20⟩
/-- R264: CRY_REKNIT_PERIOD.SECONDS [31:0] RW. -/
def CRY_REKNIT_PERIOD_SECONDS : Fld := ⟨0x130, 0, 32⟩
/-- R264: CRY_REKNIT_START_SN.SN [63:0] RO. -/
def CRY_REKNIT_START_SN_SN : Fld := ⟨0x138, 0, 64⟩
/-- R264: CRY_REKNIT_END_SN.SN [63:0] RO. -/
def CRY_REKNIT_END_SN_SN : Fld := ⟨0x140, 0, 64⟩
/-- R264: CRY_MACDEV_THR.COUNT [7:0] RW. -/
def CRY_MACDEV_THR_COUNT : Fld := ⟨0x148, 0, 8⟩
/-- R264: CRY_RIGHT_SEL.ENTRY [5:0] RW. -/
def CRY_RIGHT_SEL_ENTRY : Fld := ⟨0x150, 0, 6⟩
/-- R264: CRY_RIGHT.MASTER [7:0] RW. -/
def CRY_RIGHT_MASTER : Fld := ⟨0x158, 0, 8⟩
/-- R264: CRY_RIGHT.RIGHT [9:8] RW. -/
def CRY_RIGHT_RIGHT : Fld := ⟨0x158, 8, 2⟩
/-- R264: CRY_RIGHT.SPACE [10] RW. -/
def CRY_RIGHT_SPACE : Fld := ⟨0x158, 10, 1⟩
/-- R264: CRY_RIGHT.VALID [11] RW. -/
def CRY_RIGHT_VALID : Fld := ⟨0x158, 11, 1⟩
/-- R264: CRY_RIGHT.FIRST [39:16] RW. -/
def CRY_RIGHT_FIRST : Fld := ⟨0x158, 16, 24⟩
/-- R264: CRY_RIGHT.LAST [63:40] RW. -/
def CRY_RIGHT_LAST : Fld := ⟨0x158, 40, 24⟩
/-- R264: CRY_MACDEV_FAIL0–15.RANKS [15:0] RW, stride 4. -/
def CRY_MACDEV_FAIL_RANKS : Fld := ⟨0x180, 0, 16⟩
/-- R299: DC_CFG.RATE [2:0] RW. -/
def DC_CFG_RATE : Fld := ⟨0x100, 0, 3⟩
/-- R299: DC_CFG.WCRC [3] RW. -/
def DC_CFG_WCRC : Fld := ⟨0x100, 3, 1⟩
/-- R299: DC_CFG.CMD_2N [4] RW. -/
def DC_CFG_CMD_2N : Fld := ⟨0x100, 4, 1⟩
/-- R299: DC_CFG.SCRUB_EN [5] RW. -/
def DC_CFG_SCRUB_EN : Fld := ⟨0x100, 5, 1⟩
/-- R299: DC_CFG.TRAINED [6] RW. -/
def DC_CFG_TRAINED : Fld := ⟨0x100, 6, 1⟩
/-- R299: DC_CFG.RESTART [7] WO. -/
def DC_CFG_RESTART : Fld := ⟨0x100, 7, 1⟩
/-- R299: DC_POP.DPC [1:0] RW. -/
def DC_POP_DPC : Fld := ⟨0x104, 0, 2⟩
/-- R299: DC_POP.PKG_RANKS [2] RW. -/
def DC_POP_PKG_RANKS : Fld := ⟨0x104, 2, 1⟩
/-- R299: DC_POP.DENSITY [4:3] RW. -/
def DC_POP_DENSITY : Fld := ⟨0x104, 3, 2⟩
/-- R299: DC_POP.STACK [6:5] RW. -/
def DC_POP_STACK : Fld := ⟨0x104, 5, 2⟩
/-- R299: DC_STS.TRAINED [0] RO. -/
def DC_STS_TRAINED : Fld := ⟨0x108, 0, 1⟩
/-- R299: DC_STS.SELF_REF [1] RO. -/
def DC_STS_SELF_REF : Fld := ⟨0x108, 1, 1⟩
/-- R299: DC_STS.REPLAY [2] RO. -/
def DC_STS_REPLAY : Fld := ⟨0x108, 2, 1⟩
/-- R299: DC_STS.HALTED [3] RO. -/
def DC_STS_HALTED : Fld := ⟨0x108, 3, 1⟩
/-- R299: DC_STS.HOT [4] RO. -/
def DC_STS_HOT : Fld := ⟨0x108, 4, 1⟩
/-- R299: DC_STS.SPARING [5] RO. -/
def DC_STS_SPARING : Fld := ⟨0x108, 5, 1⟩
/-- R299: DC_PLAN.PLAN [7:0] RO. -/
def DC_PLAN_PLAN : Fld := ⟨0x10C, 0, 8⟩
/-- R299: DC_PLAN.OWN_MAINT [15:8] RO. -/
def DC_PLAN_OWN_MAINT : Fld := ⟨0x10C, 8, 8⟩
/-- R299: DC_PLAN.DELIVER [23:16] RO. -/
def DC_PLAN_DELIVER : Fld := ⟨0x10C, 16, 8⟩
/-- R299: DC_TIM0.CL [7:0] RW. -/
def DC_TIM0_CL : Fld := ⟨0x110, 0, 8⟩
/-- R299: DC_TIM0.TRCD [15:8] RW. -/
def DC_TIM0_TRCD : Fld := ⟨0x110, 8, 8⟩
/-- R299: DC_TIM0.TRP [23:16] RW. -/
def DC_TIM0_TRP : Fld := ⟨0x110, 16, 8⟩
/-- R299: DC_TIM0.TRAS [31:24] RW. -/
def DC_TIM0_TRAS : Fld := ⟨0x110, 24, 8⟩
/-- R299: DC_TIM0.TRRD_S [39:32] RW. -/
def DC_TIM0_TRRD_S : Fld := ⟨0x110, 32, 8⟩
/-- R299: DC_TIM0.TRRD_L [47:40] RW. -/
def DC_TIM0_TRRD_L : Fld := ⟨0x110, 40, 8⟩
/-- R299: DC_TIM0.TFAW [55:48] RW. -/
def DC_TIM0_TFAW : Fld := ⟨0x110, 48, 8⟩
/-- R299: DC_TIM0.TCCD_L [63:56] RW. -/
def DC_TIM0_TCCD_L : Fld := ⟨0x110, 56, 8⟩
/-- R299: DC_TIM1.TWR [7:0] RW. -/
def DC_TIM1_TWR : Fld := ⟨0x118, 0, 8⟩
/-- R299: DC_TIM1.TWTR_S [15:8] RW. -/
def DC_TIM1_TWTR_S : Fld := ⟨0x118, 8, 8⟩
/-- R299: DC_TIM1.TWTR_L [23:16] RW. -/
def DC_TIM1_TWTR_L : Fld := ⟨0x118, 16, 8⟩
/-- R299: DC_TIM1.TRTP [31:24] RW. -/
def DC_TIM1_TRTP : Fld := ⟨0x118, 24, 8⟩
/-- R299: DC_TIM1.TCCD_L_WR [39:32] RW. -/
def DC_TIM1_TCCD_L_WR : Fld := ⟨0x118, 32, 8⟩
/-- R299: DC_TIM1.TRFCSB [51:40] RW. -/
def DC_TIM1_TRFCSB : Fld := ⟨0x118, 40, 12⟩
/-- R299: DC_TIM1.TRFCAB [63:52] RW. -/
def DC_TIM1_TRFCAB : Fld := ⟨0x118, 52, 12⟩
/-- R299: DC_REF_CFG.POSTPONE [2:0] RW. -/
def DC_REF_CFG_POSTPONE : Fld := ⟨0x120, 0, 3⟩
/-- R299: DC_REF_CFG.FORCE_HOT [3] RW. -/
def DC_REF_CFG_FORCE_HOT : Fld := ⟨0x120, 3, 1⟩
/-- R299: DC_TEMP.MR4 [23:0] RO. -/
def DC_TEMP_MR4 : Fld := ⟨0x124, 0, 24⟩
/-- R299: DC_PORT0–3_CFG.TARGET [7:0] RW, stride 4. -/
def DC_PORT_CFG_TARGET : Fld := ⟨0x130, 0, 8⟩
/-- R299: DC_PORT0–3_CFG.U1 [15:8] RW, stride 4. -/
def DC_PORT_CFG_U1 : Fld := ⟨0x130, 8, 8⟩
/-- R299: DC_PORT0–3_CFG.U2 [23:16] RW, stride 4. -/
def DC_PORT_CFG_U2 : Fld := ⟨0x130, 16, 8⟩
/-- R299: DC_PORT0–3_CFG.HEARTH_MIN [25:24] RW, stride 4. -/
def DC_PORT_CFG_HEARTH_MIN : Fld := ⟨0x130, 24, 2⟩
/-- R299: DC_PANIC.P1 [9:0] RW. -/
def DC_PANIC_P1 : Fld := ⟨0x140, 0, 10⟩
/-- R299: DC_PANIC.P2 [19:10] RW. -/
def DC_PANIC_P2 : Fld := ⟨0x140, 10, 10⟩
/-- R299: DC_PANIC.P3 [29:20] RW. -/
def DC_PANIC_P3 : Fld := ⟨0x140, 20, 10⟩
/-- R299: DC_WQ_CFG.HI [7:0] RW. -/
def DC_WQ_CFG_HI : Fld := ⟨0x144, 0, 8⟩
/-- R299: DC_WQ_CFG.LO [15:8] RW. -/
def DC_WQ_CFG_LO : Fld := ⟨0x144, 8, 8⟩
/-- R299: DC_HIT_CAP.CAP [4:0] RW. -/
def DC_HIT_CAP_CAP : Fld := ⟨0x148, 0, 5⟩
/-- R299: DC_SCRUB_CFG.LINES [15:0] RW. -/
def DC_SCRUB_CFG_LINES : Fld := ⟨0x14C, 0, 16⟩
/-- R299: DC_SCRUB_POS.SA [37:0] RO. -/
def DC_SCRUB_POS_SA : Fld := ⟨0x150, 0, 38⟩
/-- R299: DC_SCRUB_POS.SUB [38] RO. -/
def DC_SCRUB_POS_SUB : Fld := ⟨0x150, 38, 1⟩
/-- R299: DC_SCRUB_PASS.COUNT [31:0] RO. -/
def DC_SCRUB_PASS_COUNT : Fld := ⟨0x158, 0, 32⟩
/-- R299: DC_RETRY_CFG.LIMIT [3:0] RW. -/
def DC_RETRY_CFG_LIMIT : Fld := ⟨0x15C, 0, 4⟩
/-- R299: DC_RETRY_CNT.COUNT [31:0] W1C. -/
def DC_RETRY_CNT_COUNT : Fld := ⟨0x160, 0, 32⟩
/-- R299: DC_CE_CNT.COUNT [31:0] W1C. -/
def DC_CE_CNT_COUNT : Fld := ⟨0x164, 0, 32⟩
/-- R299: DC_UE_CNT.COUNT [31:0] W1C. -/
def DC_UE_CNT_COUNT : Fld := ⟨0x168, 0, 32⟩
/-- R299: DC_RANK_MAP.MAP [23:0] RW. -/
def DC_RANK_MAP_MAP : Fld := ⟨0x170, 0, 24⟩
/-- R299: DC_RANK_MAP.SPARE [26:24] RW. -/
def DC_RANK_MAP_SPARE : Fld := ⟨0x170, 24, 3⟩
/-- R299: DC_RANK_MAP.SPARE_EN [27] RW. -/
def DC_RANK_MAP_SPARE_EN : Fld := ⟨0x170, 27, 1⟩
/-- R299: DC_RANK_MAP.FAILED [35:28] RW. -/
def DC_RANK_MAP_FAILED : Fld := ⟨0x170, 28, 8⟩
/-- R299: DC_SPARE_CTL.START [0] W1S. -/
def DC_SPARE_CTL_START : Fld := ⟨0x178, 0, 1⟩
/-- R299: DC_SPARE_CTL.KIND [1] RW. -/
def DC_SPARE_CTL_KIND : Fld := ⟨0x178, 1, 1⟩
/-- R299: DC_SPARE_CTL.RANK [4:2] RW. -/
def DC_SPARE_CTL_RANK : Fld := ⟨0x178, 2, 3⟩
/-- R299: DC_SPARE_CTL.REFUSED [5] W1C. -/
def DC_SPARE_CTL_REFUSED : Fld := ⟨0x178, 5, 1⟩
/-- R299: DC_SPARE_CFG.LINES [19:0] RW. -/
def DC_SPARE_CFG_LINES : Fld := ⟨0x17C, 0, 20⟩
/-- R299: DC_SPARE_PTR.SA [37:0] RO. -/
def DC_SPARE_PTR_SA : Fld := ⟨0x180, 0, 38⟩
/-- R299: DC_PPR_CTL.GO [0] W1S. -/
def DC_PPR_CTL_GO : Fld := ⟨0x188, 0, 1⟩
/-- R299: DC_PPR_CTL.HARD [1] RW. -/
def DC_PPR_CTL_HARD : Fld := ⟨0x188, 1, 1⟩
/-- R299: DC_PPR_CTL.RANK [4:2] RW. -/
def DC_PPR_CTL_RANK : Fld := ⟨0x188, 2, 3⟩
/-- R299: DC_PPR_CTL.SUB [5] RW. -/
def DC_PPR_CTL_SUB : Fld := ⟨0x188, 5, 1⟩
/-- R299: DC_PPR_CTL.BG [8:6] RW. -/
def DC_PPR_CTL_BG : Fld := ⟨0x188, 6, 3⟩
/-- R299: DC_PPR_CTL.BANK [10:9] RW. -/
def DC_PPR_CTL_BANK : Fld := ⟨0x188, 9, 2⟩
/-- R299: DC_PPR_CTL.DEV [14:11] RW. -/
def DC_PPR_CTL_DEV : Fld := ⟨0x188, 11, 4⟩
/-- R299: DC_PPR_ROW.ROW [17:0] RW. -/
def DC_PPR_ROW_ROW : Fld := ⟨0x18C, 0, 18⟩
/-- R299: DC_PPR_ROW.FAIL [30] RO. -/
def DC_PPR_ROW_FAIL : Fld := ⟨0x18C, 30, 1⟩
/-- R299: DC_PPR_ROW.BUSY [31] RO. -/
def DC_PPR_ROW_BUSY : Fld := ⟨0x18C, 31, 1⟩
/-- R300: DC_ILV.WLOG [2:0] RW. -/
def DC_ILV_WLOG : Fld := ⟨0x200, 0, 3⟩
/-- R300: DC_ILV.EN [3] RW. -/
def DC_ILV_EN : Fld := ⟨0x200, 3, 1⟩
/-- R300: DC_ILV.REFUSED [4] W1C. -/
def DC_ILV_REFUSED : Fld := ⟨0x200, 4, 1⟩
/-- R300: DC_ILV.LSIZE [24:16] RW. -/
def DC_ILV_LSIZE : Fld := ⟨0x200, 16, 9⟩
/-- R300: DC_INSTALLED.BYTES [43:0] RO. -/
def DC_INSTALLED_BYTES : Fld := ⟨0x208, 0, 44⟩
/-- R300: DC_CHSPARE.CH [3:0] RW. -/
def DC_CHSPARE_CH : Fld := ⟨0x210, 0, 4⟩
/-- R300: DC_CHSPARE.ACTIVE [4] RW. -/
def DC_CHSPARE_ACTIVE : Fld := ⟨0x210, 4, 1⟩
/-- R300: DC_REMAP0–31.TARGET [4:0] RW, stride 4. -/
def DC_REMAP_TARGET : Fld := ⟨0x280, 0, 5⟩
/-- R300: DC_REMAP0–31.VALID [15] RW, stride 4. -/
def DC_REMAP_VALID : Fld := ⟨0x280, 15, 1⟩
/-- R300: DC_REMAP0–31.BASE [24:16] RW, stride 4. -/
def DC_REMAP_BASE : Fld := ⟨0x280, 16, 9⟩
/-- R329: GAU_CFG.MISS_EN [0] RW. -/
def GAU_CFG_MISS_EN : Fld := ⟨0x100, 0, 1⟩
/-- R329: GAU_CFG.FORCE_STANDING [1] RW. -/
def GAU_CFG_FORCE_STANDING : Fld := ⟨0x100, 1, 1⟩
/-- R329: GAU_CFG.HMISS [15:8] RW. -/
def GAU_CFG_HMISS : Fld := ⟨0x100, 8, 8⟩
/-- R329: GAU_ADM_CFG.SKEW [4:0] RW. -/
def GAU_ADM_CFG_SKEW : Fld := ⟨0x108, 0, 5⟩
/-- R329: GAU_ADM_CFG.MR [13:8] RW. -/
def GAU_ADM_CFG_MR : Fld := ⟨0x108, 8, 6⟩
/-- R329: GAU_ADM_CFG.HBURST [19:16] RW. -/
def GAU_ADM_CFG_HBURST : Fld := ⟨0x108, 16, 4⟩
/-- R329: GAU_ADM_CFG.HEARTH_MAX [28:24] RW. -/
def GAU_ADM_CFG_HEARTH_MAX : Fld := ⟨0x108, 24, 5⟩
/-- R329: GAU_CLASS_TGT.T0 [15:0] RW. -/
def GAU_CLASS_TGT_T0 : Fld := ⟨0x110, 0, 16⟩
/-- R329: GAU_CLASS_TGT.T1 [31:16] RW. -/
def GAU_CLASS_TGT_T1 : Fld := ⟨0x110, 16, 16⟩
/-- R329: GAU_CLASS_TGT.T2 [47:32] RW. -/
def GAU_CLASS_TGT_T2 : Fld := ⟨0x110, 32, 16⟩
/-- R329: GAU_CLASS_TGT.T3 [63:48] RW. -/
def GAU_CLASS_TGT_T3 : Fld := ⟨0x110, 48, 16⟩
/-- R329: GAU_WEIGHT.WP [7:0] RW. -/
def GAU_WEIGHT_WP : Fld := ⟨0x118, 0, 8⟩
/-- R329: GAU_WEIGHT.WK [15:8] RW. -/
def GAU_WEIGHT_WK : Fld := ⟨0x118, 8, 8⟩
/-- R329: GAU_WEIGHT.WC [23:16] RW. -/
def GAU_WEIGHT_WC : Fld := ⟨0x118, 16, 8⟩
/-- R329: GAU_POOL_CFG.HWL [9:0] RW. -/
def GAU_POOL_CFG_HWL : Fld := ⟨0x11C, 0, 10⟩
/-- R329: GAU_BUD_SEL.MASTER [7:0] RW. -/
def GAU_BUD_SEL_MASTER : Fld := ⟨0x120, 0, 8⟩
/-- R329: GAU_BUD_SEL.CLASS [9:8] RW. -/
def GAU_BUD_SEL_CLASS : Fld := ⟨0x120, 8, 2⟩
/-- R329: GAU_BUD.GUAR [19:0] RW. -/
def GAU_BUD_GUAR : Fld := ⟨0x128, 0, 20⟩
/-- R329: GAU_BUD.CEIL [51:32] RW. -/
def GAU_BUD_CEIL : Fld := ⟨0x128, 32, 20⟩
/-- R329: GAU_BUD_LIVE.GUAR [19:0] RO. -/
def GAU_BUD_LIVE_GUAR : Fld := ⟨0x130, 0, 20⟩
/-- R329: GAU_BUD_LIVE.CEIL [51:32] RO. -/
def GAU_BUD_LIVE_CEIL : Fld := ⟨0x130, 32, 20⟩
/-- R329: GAU_COMMIT.GO [0] W1S. -/
def GAU_COMMIT_GO : Fld := ⟨0x138, 0, 1⟩
/-- R329: GAU_COMMIT.BUSY [1] RO. -/
def GAU_COMMIT_BUSY : Fld := ⟨0x138, 1, 1⟩
/-- R329: GAU_COMMIT.PENDING [2] RO. -/
def GAU_COMMIT_PENDING : Fld := ⟨0x138, 2, 1⟩
/-- R329: GAU_COMMIT.RESULT [7:4] RO. -/
def GAU_COMMIT_RESULT : Fld := ⟨0x138, 4, 4⟩
/-- R329: GAU_COMMIT.SUB [12:8] RO. -/
def GAU_COMMIT_SUB : Fld := ⟨0x138, 8, 5⟩
/-- R329: GAU_COMMIT.PORT_HALF [18:16] RO. -/
def GAU_COMMIT_PORT_HALF : Fld := ⟨0x138, 16, 3⟩
/-- R329: GAU_COMMIT_SN.SN [63:0] RO. -/
def GAU_COMMIT_SN_SN : Fld := ⟨0x140, 0, 64⟩
/-- R329: GAU_CAP.DELIVER_MIN [7:0] RO. -/
def GAU_CAP_DELIVER_MIN : Fld := ⟨0x148, 0, 8⟩
/-- R329: GAU_CAP.HR [15:8] RO. -/
def GAU_CAP_HR : Fld := ⟨0x148, 8, 8⟩
/-- R329: GAU_SCALE.SP [8:0] RO. -/
def GAU_SCALE_SP : Fld := ⟨0x14C, 0, 9⟩
/-- R329: GAU_SCALE.SK [17:9] RO. -/
def GAU_SCALE_SK : Fld := ⟨0x14C, 9, 9⟩
/-- R329: GAU_SCALE.SC [26:18] RO. -/
def GAU_SCALE_SC : Fld := ⟨0x14C, 18, 9⟩
/-- R329: GAU_SCALE.H_OVER [27] RO. -/
def GAU_SCALE_H_OVER : Fld := ⟨0x14C, 27, 1⟩
/-- R329: GAU_ADM_SUM.GH [15:0] RO. -/
def GAU_ADM_SUM_GH : Fld := ⟨0x150, 0, 16⟩
/-- R329: GAU_ADM_SUM.GP [31:16] RO. -/
def GAU_ADM_SUM_GP : Fld := ⟨0x150, 16, 16⟩
/-- R329: GAU_ADM_SUM.GK [47:32] RO. -/
def GAU_ADM_SUM_GK : Fld := ⟨0x150, 32, 16⟩
/-- R329: GAU_ADM_SUM.GC [63:48] RO. -/
def GAU_ADM_SUM_GC : Fld := ⟨0x150, 48, 16⟩
/-- R329: GAU_WIN_SN.SN [63:0] RO. -/
def GAU_WIN_SN_SN : Fld := ⟨0x158, 0, 64⟩
/-- R329: GAU_STANDING_CNT.COUNT [31:0] W1C. -/
def GAU_STANDING_CNT_COUNT : Fld := ⟨0x160, 0, 32⟩
/-- R329: GAU_MISS_LO.MISS [63:0] RO. -/
def GAU_MISS_LO_MISS : Fld := ⟨0x168, 0, 64⟩
/-- R329: GAU_MISS_HI.MISS [63:0] RO. -/
def GAU_MISS_HI_MISS : Fld := ⟨0x170, 0, 64⟩
/-- R329: GAU_MON_SEL.MASTER [7:0] RW. -/
def GAU_MON_SEL_MASTER : Fld := ⟨0x178, 0, 8⟩
/-- R329: GAU_MON_SEL.CLASS [9:8] RW. -/
def GAU_MON_SEL_CLASS : Fld := ⟨0x178, 8, 2⟩
/-- R329: GAU_MON.USE [19:0] RO. -/
def GAU_MON_USE : Fld := ⟨0x180, 0, 20⟩
/-- R329: GAU_MON.WAIT [39:20] RO. -/
def GAU_MON_WAIT : Fld := ⟨0x180, 20, 20⟩
/-- R329: GAU_MON.MISSED [40] RO. -/
def GAU_MON_MISSED : Fld := ⟨0x180, 40, 1⟩
/-- R329: GAU_HEARTH_LAT.WIN_MAX [11:0] RO. -/
def GAU_HEARTH_LAT_WIN_MAX : Fld := ⟨0x188, 0, 12⟩
/-- R329: GAU_HEARTH_LAT.PEAK [27:16] RO. -/
def GAU_HEARTH_LAT_PEAK : Fld := ⟨0x188, 16, 12⟩
/-- R329: GAU_HEARTH_OVR.COUNT [31:0] W1C. -/
def GAU_HEARTH_OVR_COUNT : Fld := ⟨0x18C, 0, 32⟩
/-- R329: GAU_HEARTH_OUT.COUNT [31:0] W1C. -/
def GAU_HEARTH_OUT_COUNT : Fld := ⟨0x190, 0, 32⟩
/-- R355: QMG_CFG.JOBS [10:0] RW. -/
def QMG_CFG_JOBS : Fld := ⟨0x100, 0, 11⟩
/-- R355: QMG_STS.ACTIVE [10:0] RO. -/
def QMG_STS_ACTIVE : Fld := ⟨0x104, 0, 11⟩
/-- R355: QMG_QP_SEL.PAIR [12:0] RW. -/
def QMG_QP_SEL_PAIR : Fld := ⟨0x108, 0, 13⟩
/-- R355: QMG_QP_ASSIGN.LD [5:0] RW. -/
def QMG_QP_ASSIGN_LD : Fld := ⟨0x10C, 0, 6⟩
/-- R355: QMG_QP_ASSIGN.GROUP [13:8] RW. -/
def QMG_QP_ASSIGN_GROUP : Fld := ⟨0x10C, 8, 6⟩
/-- R355: QMG_QP_ASSIGN.MIN_CLASS [17:16] RW. -/
def QMG_QP_ASSIGN_MIN_CLASS : Fld := ⟨0x10C, 16, 2⟩
/-- R355: QMG_QP_ASSIGN.ATTR_OK [24] RW. -/
def QMG_QP_ASSIGN_ATTR_OK : Fld := ⟨0x10C, 24, 1⟩
/-- R355: QMG_QP_ASSIGN.ENABLED [31] RO. -/
def QMG_QP_ASSIGN_ENABLED : Fld := ⟨0x10C, 31, 1⟩
/-- R355: QMG_QP_STS.SQ_HEAD [15:0] RO. -/
def QMG_QP_STS_SQ_HEAD : Fld := ⟨0x110, 0, 16⟩
/-- R355: QMG_QP_STS.CQ_TAIL [31:16] RO. -/
def QMG_QP_STS_CQ_TAIL : Fld := ⟨0x110, 16, 16⟩
/-- R355: QMG_QP_STS.INFLIGHT [38:32] RO. -/
def QMG_QP_STS_INFLIGHT : Fld := ⟨0x110, 32, 7⟩
/-- R355: QMG_QP_STS.HALTED [39] RO. -/
def QMG_QP_STS_HALTED : Fld := ⟨0x110, 39, 1⟩
/-- R355: QMG_QP_STS.ERR [43:40] RO. -/
def QMG_QP_STS_ERR : Fld := ⟨0x110, 40, 4⟩
/-- R355: QMG_GRP_ARMED.DB [63:0] RO. -/
def QMG_GRP_ARMED_DB : Fld := ⟨0x118, 0, 64⟩
/-- R355: QMG_CQ_ARMED.CQ [63:0] RO. -/
def QMG_CQ_ARMED_CQ : Fld := ⟨0x120, 0, 64⟩
/-- R355: QMG_JOB_CNT.COUNT [47:0] RO. -/
def QMG_JOB_CNT_COUNT : Fld := ⟨0x128, 0, 48⟩
/-- R355: QMG_ERR_CNT.COUNT [31:0] W1C. -/
def QMG_ERR_CNT_COUNT : Fld := ⟨0x130, 0, 32⟩
/-- R355: QMG_HALTED0–255.HALT [31:0] RO, stride 4. -/
def QMG_HALTED_HALT : Fld := ⟨0x400, 0, 32⟩
/-- R379: DMV_STS.RUNNING [6:0] RO. -/
def DMV_STS_RUNNING : Fld := ⟨0x100, 0, 7⟩
/-- R379: DMV_DONE.DONE [63:0] W1C. -/
def DMV_DONE_DONE : Fld := ⟨0x108, 0, 64⟩
/-- R379: DMV_HALT.HALT [63:0] RO. -/
def DMV_HALT_HALT : Fld := ⟨0x110, 0, 64⟩
/-- R379: DMV_RUN.EN [63:0] RO. -/
def DMV_RUN_EN : Fld := ⟨0x118, 0, 64⟩
/-- R379: DMV_CH_SEL.CH [5:0] RW. -/
def DMV_CH_SEL_CH : Fld := ⟨0x120, 0, 6⟩
/-- R379: DMV_CH_CTL.EN [0] RW. -/
def DMV_CH_CTL_EN : Fld := ⟨0x128, 0, 1⟩
/-- R379: DMV_CH_CTL.GO [1] WO. -/
def DMV_CH_CTL_GO : Fld := ⟨0x128, 1, 1⟩
/-- R379: DMV_CH_CTL.LEVEL [3:2] RW. -/
def DMV_CH_CTL_LEVEL : Fld := ⟨0x128, 2, 2⟩
/-- R379: DMV_CH_CTL.CLASS [5:4] RW. -/
def DMV_CH_CTL_CLASS : Fld := ⟨0x128, 4, 2⟩
/-- R379: DMV_CH_CTL.TRIG [7:6] RW. -/
def DMV_CH_CTL_TRIG : Fld := ⟨0x128, 6, 2⟩
/-- R379: DMV_CH_CTL.TRIG_SRC [13:8] RW. -/
def DMV_CH_CTL_TRIG_SRC : Fld := ⟨0x128, 8, 6⟩
/-- R379: DMV_CH_CTL.VIEW [14] RW. -/
def DMV_CH_CTL_VIEW : Fld := ⟨0x128, 14, 1⟩
/-- R379: DMV_CH_CTL.SRC_SPACE [15] RW. -/
def DMV_CH_CTL_SRC_SPACE : Fld := ⟨0x128, 15, 1⟩
/-- R379: DMV_CH_CTL.DST_SPACE [16] RW. -/
def DMV_CH_CTL_DST_SPACE : Fld := ⟨0x128, 16, 1⟩
/-- R379: DMV_CH_XFORM.XFORM [31:0] RW. -/
def DMV_CH_XFORM_XFORM : Fld := ⟨0x12C, 0, 32⟩
/-- R379: DMV_CH_SRC.BASE [51:0] RW. -/
def DMV_CH_SRC_BASE : Fld := ⟨0x130, 0, 52⟩
/-- R379: DMV_CH_SRC.SIZE_LOG [57:52] RW. -/
def DMV_CH_SRC_SIZE_LOG : Fld := ⟨0x130, 52, 6⟩
/-- R379: DMV_CH_DST.BASE [51:0] RW. -/
def DMV_CH_DST_BASE : Fld := ⟨0x138, 0, 52⟩
/-- R379: DMV_CH_DST.SIZE_LOG [57:52] RW. -/
def DMV_CH_DST_SIZE_LOG : Fld := ⟨0x138, 52, 6⟩
/-- R379: DMV_CH_STRIDE.S [39:0] RW. -/
def DMV_CH_STRIDE_S : Fld := ⟨0x140, 0, 40⟩
/-- R379: DMV_CH_ROUND.BYTES [30:0] RW. -/
def DMV_CH_ROUND_BYTES : Fld := ⟨0x148, 0, 31⟩
/-- R379: DMV_CH_ROUND.ROUNDS [63:32] RW. -/
def DMV_CH_ROUND_ROUNDS : Fld := ⟨0x148, 32, 32⟩
/-- R379: DMV_CH_SRC_POS.POS [47:0] RW. -/
def DMV_CH_SRC_POS_POS : Fld := ⟨0x150, 0, 48⟩
/-- R379: DMV_CH_DST_POS.POS [47:0] RW. -/
def DMV_CH_DST_POS_POS : Fld := ⟨0x158, 0, 48⟩
/-- R379: DMV_CH_STS.ACTIVE [0] RO. -/
def DMV_CH_STS_ACTIVE : Fld := ⟨0x160, 0, 1⟩
/-- R379: DMV_CH_STS.PREEMPTED [1] RO. -/
def DMV_CH_STS_PREEMPTED : Fld := ⟨0x160, 1, 1⟩
/-- R379: DMV_CH_STS.HALTED [2] RO. -/
def DMV_CH_STS_HALTED : Fld := ⟨0x160, 2, 1⟩
/-- R379: DMV_CH_STS.FROGGED [3] RO. -/
def DMV_CH_STS_FROGGED : Fld := ⟨0x160, 3, 1⟩
/-- R379: DMV_CH_STS.ERR [7:4] RO. -/
def DMV_CH_STS_ERR : Fld := ⟨0x160, 4, 4⟩
/-- R379: DMV_CH_STS.PEND [11:8] RO. -/
def DMV_CH_STS_PEND : Fld := ⟨0x160, 8, 4⟩
/-- R379: DMV_CH_STS.OVR [12] RO. -/
def DMV_CH_STS_OVR : Fld := ⟨0x160, 12, 1⟩
/-- R379: DMV_CH_STS.POISON [13] RO. -/
def DMV_CH_STS_POISON : Fld := ⟨0x160, 13, 1⟩
/-- R379: DMV_CH_DONE_CNT.COUNT [31:0] RO. -/
def DMV_CH_DONE_CNT_COUNT : Fld := ⟨0x168, 0, 32⟩
/-- R379: DMV_CH_DONE_SN.SN [63:0] RO. -/
def DMV_CH_DONE_SN_SN : Fld := ⟨0x170, 0, 64⟩
/-- R379: DMV_CH_ERR_ADDR.ADDR [51:0] RO. -/
def DMV_CH_ERR_ADDR_ADDR : Fld := ⟨0x178, 0, 52⟩
/-- R379: DMV_TMR0–31.PERIOD [23:0] RW, stride 8. -/
def DMV_TMR_PERIOD : Fld := ⟨0x800, 0, 24⟩
/-- R379: DMV_TMR0–31.EN [24] RW, stride 8. -/
def DMV_TMR_EN : Fld := ⟨0x800, 24, 1⟩
/-- R379: DMV_TMR0–31.COUNT [55:32] RO, stride 8. -/
def DMV_TMR_COUNT : Fld := ⟨0x800, 32, 24⟩
/-- R405: YP_CTL.AUTO_UP [0] RW. -/
def YP_CTL_AUTO_UP : Fld := ⟨0x100, 0, 1⟩
/-- R405: YP_CTL.RETRAIN [1] WO. -/
def YP_CTL_RETRAIN : Fld := ⟨0x100, 1, 1⟩
/-- R405: YP_CTL.DOWN [2] WO. -/
def YP_CTL_DOWN : Fld := ⟨0x100, 2, 1⟩
/-- R405: YP_CTL.DOZE_EN [3] RW. -/
def YP_CTL_DOZE_EN : Fld := ⟨0x100, 3, 1⟩
/-- R405: YP_TRAIN_CFG.MAX_SPEED [1:0] RW. -/
def YP_TRAIN_CFG_MAX_SPEED : Fld := ⟨0x104, 0, 2⟩
/-- R405: YP_TRAIN_CFG.MAX_WIDTH [3:2] RW. -/
def YP_TRAIN_CFG_MAX_WIDTH : Fld := ⟨0x104, 2, 2⟩
/-- R405: YP_TRAIN_CFG.LANE_DIS [7:4] RW. -/
def YP_TRAIN_CFG_LANE_DIS : Fld := ⟨0x104, 4, 4⟩
/-- R405: YP_LINK_STS.STATE [2:0] RO. -/
def YP_LINK_STS_STATE : Fld := ⟨0x108, 0, 3⟩
/-- R405: YP_LINK_STS.SPEED [4:3] RO. -/
def YP_LINK_STS_SPEED : Fld := ⟨0x108, 3, 2⟩
/-- R405: YP_LINK_STS.WIDTH [7:5] RO. -/
def YP_LINK_STS_WIDTH : Fld := ⟨0x108, 5, 3⟩
/-- R405: YP_LINK_STS.LANES [11:8] RO. -/
def YP_LINK_STS_LANES : Fld := ⟨0x108, 8, 4⟩
/-- R405: YP_LINK_STS.SECURE [12] RO. -/
def YP_LINK_STS_SECURE : Fld := ⟨0x108, 12, 1⟩
/-- R405: YP_LINK_STS.SYMMETRIC [13] RO. -/
def YP_LINK_STS_SYMMETRIC : Fld := ⟨0x108, 13, 1⟩
/-- R405: YP_LINK_STS.POST_RETRAIN [14] RO. -/
def YP_LINK_STS_POST_RETRAIN : Fld := ⟨0x108, 14, 1⟩
/-- R405: YP_ACK_CFG.DELAY [7:0] RW. -/
def YP_ACK_CFG_DELAY : Fld := ⟨0x110, 0, 8⟩
/-- R405: YP_ACK_CFG.HOLD [15:8] RW. -/
def YP_ACK_CFG_HOLD : Fld := ⟨0x110, 8, 8⟩
/-- R405: YP_REPLAY_CFG.ACK_TO [7:0] RW. -/
def YP_REPLAY_CFG_ACK_TO : Fld := ⟨0x114, 0, 8⟩
/-- R405: YP_REPLAY_CFG.REPLAY_LIM [11:8] RW. -/
def YP_REPLAY_CFG_REPLAY_LIM : Fld := ⟨0x114, 8, 4⟩
/-- R405: YP_REPLAY_CFG.RETRAIN_LIM [15:12] RW. -/
def YP_REPLAY_CFG_RETRAIN_LIM : Fld := ⟨0x114, 12, 4⟩
/-- R405: YP_TIMER_CFG.TRAIN_TO [15:0] RW. -/
def YP_TIMER_CFG_TRAIN_TO : Fld := ⟨0x118, 0, 16⟩
/-- R405: YP_TIMER_CFG.SILENCE [23:16] RW. -/
def YP_TIMER_CFG_SILENCE : Fld := ⟨0x118, 16, 8⟩
/-- R405: YP_DOWN_CFG.DETECT_INT [15:0] RW. -/
def YP_DOWN_CFG_DETECT_INT : Fld := ⟨0x11C, 0, 16⟩
/-- R405: YP_DOWN_CFG.DOZE_IDLE [31:16] RW. -/
def YP_DOWN_CFG_DOZE_IDLE : Fld := ⟨0x11C, 16, 16⟩
/-- R405: YP_SEQ_STS.NEXT_TX [11:0] RO. -/
def YP_SEQ_STS_NEXT_TX : Fld := ⟨0x120, 0, 12⟩
/-- R405: YP_SEQ_STS.OLDEST [27:16] RO. -/
def YP_SEQ_STS_OLDEST : Fld := ⟨0x120, 16, 12⟩
/-- R405: YP_SEQ_STS.COUNT [31:28] RO. -/
def YP_SEQ_STS_COUNT : Fld := ⟨0x120, 28, 4⟩
/-- R405: YP_RX_STS.NEXT_RX [11:0] RO. -/
def YP_RX_STS_NEXT_RX : Fld := ⟨0x124, 0, 12⟩
/-- R405: YP_RX_STS.LAST_NAK [27:16] RO. -/
def YP_RX_STS_LAST_NAK : Fld := ⟨0x124, 16, 12⟩
/-- R405: YP_REPLAY_STS.BYTES [15:0] RO. -/
def YP_REPLAY_STS_BYTES : Fld := ⟨0x128, 0, 16⟩
/-- R405: YP_REPLAY_STS.PACKETS [27:16] RO. -/
def YP_REPLAY_STS_PACKETS : Fld := ⟨0x128, 16, 12⟩
/-- R405: YP_REPLAY_STS.STALL [28] RO. -/
def YP_REPLAY_STS_STALL : Fld := ⟨0x128, 28, 1⟩
/-- R405: YP_TXN_CFG.MAX_CMDS [8:0] RW. -/
def YP_TXN_CFG_MAX_CMDS : Fld := ⟨0x12C, 0, 9⟩
/-- R405: YP_WRITE_WIN.BYTES [23:0] RW. -/
def YP_WRITE_WIN_BYTES : Fld := ⟨0x130, 0, 24⟩
/-- R405: YP_TXN_STS.OUTSTANDING [8:0] RO. -/
def YP_TXN_STS_OUTSTANDING : Fld := ⟨0x134, 0, 9⟩
/-- R405: YP_RXERR_CNT.COUNT [31:0] W1C. -/
def YP_RXERR_CNT_COUNT : Fld := ⟨0x140, 0, 32⟩
/-- R405: YP_NAK_TX_CNT.COUNT [31:0] W1C. -/
def YP_NAK_TX_CNT_COUNT : Fld := ⟨0x144, 0, 32⟩
/-- R405: YP_NAK_RX_CNT.COUNT [31:0] W1C. -/
def YP_NAK_RX_CNT_COUNT : Fld := ⟨0x148, 0, 32⟩
/-- R405: YP_REPLAY_CNT.COUNT [31:0] W1C. -/
def YP_REPLAY_CNT_COUNT : Fld := ⟨0x14C, 0, 32⟩
/-- R405: YP_TIMEOUT_CNT.COUNT [31:0] W1C. -/
def YP_TIMEOUT_CNT_COUNT : Fld := ⟨0x150, 0, 32⟩
/-- R405: YP_RETRAIN_CNT.COUNT [31:0] W1C. -/
def YP_RETRAIN_CNT_COUNT : Fld := ⟨0x154, 0, 32⟩
/-- R405: YP_TAGFAIL_CNT.COUNT [31:0] W1C. -/
def YP_TAGFAIL_CNT_COUNT : Fld := ⟨0x158, 0, 32⟩
/-- R405: YP_LAST_CHG_SN.SN [63:0] RO. -/
def YP_LAST_CHG_SN_SN : Fld := ⟨0x160, 0, 64⟩
/-- R428: CTG_CFG.AUTO_ATTACH_MASK [15:0] RW. -/
def CTG_CFG_AUTO_ATTACH_MASK : Fld := ⟨0x100, 0, 16⟩
/-- R428: CTG_CFG.RECLAIM_EN [16] RW. -/
def CTG_CFG_RECLAIM_EN : Fld := ⟨0x100, 16, 1⟩
/-- R428: CTG_WEAR_CFG.WARN [9:0] RW. -/
def CTG_WEAR_CFG_WARN : Fld := ⟨0x104, 0, 10⟩
/-- R428: CTG_WEAR_CFG.EVAC [25:16] RW. -/
def CTG_WEAR_CFG_EVAC : Fld := ⟨0x104, 16, 10⟩
/-- R428: CTG_ATTACH_TO.STITCHES [23:0] RW. -/
def CTG_ATTACH_TO_STITCHES : Fld := ⟨0x108, 0, 24⟩
/-- R428: CTG_RECLAIM.EXTENTS [15:0] RW. -/
def CTG_RECLAIM_EXTENTS : Fld := ⟨0x10C, 0, 16⟩
/-- R428: CTG_WEAR_POLL.STITCHES [31:0] RW. -/
def CTG_WEAR_POLL_STITCHES : Fld := ⟨0x110, 0, 32⟩
/-- R428: CTG_TXN_TO.STITCHES [15:0] RW. -/
def CTG_TXN_TO_STITCHES : Fld := ⟨0x114, 0, 16⟩
/-- R428: CTG_ALLOC_BASE.DRA [42:0] RW. -/
def CTG_ALLOC_BASE_DRA : Fld := ⟨0x118, 0, 43⟩
/-- R428: CTG_ATTACH.GO [15:0] W1S. -/
def CTG_ATTACH_GO : Fld := ⟨0x120, 0, 16⟩
/-- R428: CTG_ADMIT.ADMIT [15:0] W1S. -/
def CTG_ADMIT_ADMIT : Fld := ⟨0x124, 0, 16⟩
/-- R428: CTG_STS0–15.STATE [2:0] RO, stride 64. -/
def CTG_STS_STATE : Fld := ⟨0x400, 0, 3⟩
/-- R428: CTG_STS0–15.REASON [11:8] RO, stride 64. -/
def CTG_STS_REASON : Fld := ⟨0x400, 8, 4⟩
/-- R428: CTG_STS0–15.RO [12] RO, stride 64. -/
def CTG_STS_RO : Fld := ⟨0x400, 12, 1⟩
/-- R428: CTG_STS0–15.DEGRADED [13] RO, stride 64. -/
def CTG_STS_DEGRADED : Fld := ⟨0x400, 13, 1⟩
/-- R428: CTG_STS0–15.BOUND [14] RO, stride 64. -/
def CTG_STS_BOUND : Fld := ⟨0x400, 14, 1⟩
/-- R428: CTG_SERIAL_LO0–15.SERIAL [63:0] RO, stride 64. -/
def CTG_SERIAL_LO_SERIAL : Fld := ⟨0x408, 0, 64⟩
/-- R428: CTG_SERIAL_HI0–15.SERIAL [63:0] RO, stride 64. -/
def CTG_SERIAL_HI_SERIAL : Fld := ⟨0x410, 0, 64⟩
/-- R428: CTG_CAP0–15.EXTENTS [27:0] RO, stride 64. -/
def CTG_CAP_EXTENTS : Fld := ⟨0x418, 0, 28⟩
/-- R428: CTG_FREE0–15.EXTENTS [27:0] RO, stride 64. -/
def CTG_FREE_EXTENTS : Fld := ⟨0x41C, 0, 28⟩
/-- R428: CTG_WEAR0–15.WEAR [63:0] RO, stride 64. -/
def CTG_WEAR_WEAR : Fld := ⟨0x420, 0, 64⟩
/-- R428: CTG_BUDGET0–15.BUDGET [63:0] RO, stride 64. -/
def CTG_BUDGET_BUDGET : Fld := ⟨0x428, 0, 64⟩
/-- R428: CTG_ATTACH_SN0–15.SN [63:0] RO, stride 64. -/
def CTG_ATTACH_SN_SN : Fld := ⟨0x430, 0, 64⟩
/-- R428: CTG_UNCLEAN0–15.EXTENTS [27:0] RO, stride 64. -/
def CTG_UNCLEAN_EXTENTS : Fld := ⟨0x438, 0, 28⟩
/-- R451: NOC_CFG.AGE [9:0] RW. -/
def NOC_CFG_AGE : Fld := ⟨0x100, 0, 10⟩
/-- R451: NOC_STS.EPOCH [0] RO. -/
def NOC_STS_EPOCH : Fld := ⟨0x104, 0, 1⟩
/-- R451: NOC_STS.DRAINING [1] RO. -/
def NOC_STS_DRAINING : Fld := ⟨0x104, 1, 1⟩
/-- R451: NOC_RT_CTL.SWAP [0] W1S. -/
def NOC_RT_CTL_SWAP : Fld := ⟨0x108, 0, 1⟩
/-- R451: NOC_RT_CTL.RESULT [3:1] RO. -/
def NOC_RT_CTL_RESULT : Fld := ⟨0x108, 1, 3⟩
/-- R451: NOC_RT_SEL.DEST [9:0] RW. -/
def NOC_RT_SEL_DEST : Fld := ⟨0x10C, 0, 10⟩
/-- R451: NOC_RT_SEL.NET [11:10] RW. -/
def NOC_RT_SEL_NET : Fld := ⟨0x10C, 10, 2⟩
/-- R451: NOC_RT_SEL.ROUTER [16:12] RW. -/
def NOC_RT_SEL_ROUTER : Fld := ⟨0x10C, 12, 5⟩
/-- R451: NOC_RT_ENT.PLANE [0] RW. -/
def NOC_RT_ENT_PLANE : Fld := ⟨0x110, 0, 1⟩
/-- R451: NOC_RT_ENT.LIVE_PLANE [1] RO. -/
def NOC_RT_ENT_LIVE_PLANE : Fld := ⟨0x110, 1, 1⟩
/-- R451: NOC_RT_CMD.OP [1:0] WO. -/
def NOC_RT_CMD_OP : Fld := ⟨0x114, 0, 2⟩
/-- R451: NOC_RT_CMD.NET [3:2] WO. -/
def NOC_RT_CMD_NET : Fld := ⟨0x114, 2, 2⟩
/-- R451: NOC_RT_CMD.PLANE [4] WO. -/
def NOC_RT_CMD_PLANE : Fld := ⟨0x114, 4, 1⟩
/-- R451: NOC_RT_CMD.BUSY [8] RO. -/
def NOC_RT_CMD_BUSY : Fld := ⟨0x114, 8, 1⟩
/-- R451: NOC_PLANE_CFG.EN [7:0] RW. -/
def NOC_PLANE_CFG_EN : Fld := ⟨0x118, 0, 8⟩
/-- R451: NOC_PLANE_THR.COUNT [15:0] RW. -/
def NOC_PLANE_THR_COUNT : Fld := ⟨0x11C, 0, 16⟩
/-- R451: NOC_SWAP_SN.SN [63:0] RO. -/
def NOC_SWAP_SN_SN : Fld := ⟨0x120, 0, 64⟩
/-- R451: NOC_DRAIN_SN.SN [63:0] RO. -/
def NOC_DRAIN_SN_SN : Fld := ⟨0x128, 0, 64⟩
/-- R451: NOC_WAKE_TO.STITCHES [15:0] RW. -/
def NOC_WAKE_TO_STITCHES : Fld := ⟨0x130, 0, 16⟩
/-- R451: NOC_ECC_CNT.COUNT [31:0] W1C. -/
def NOC_ECC_CNT_COUNT : Fld := ⟨0x134, 0, 32⟩
/-- R451: NOC_EP_SEL.EP [9:0] RW. -/
def NOC_EP_SEL_EP : Fld := ⟨0x138, 0, 10⟩
/-- R451: NOC_EP_INFO.ROUTER [4:0] RO. -/
def NOC_EP_INFO_ROUTER : Fld := ⟨0x13C, 0, 5⟩
/-- R451: NOC_EP_INFO.PORT [8:5] RO. -/
def NOC_EP_INFO_PORT : Fld := ⟨0x13C, 5, 4⟩
/-- R451: NOC_EP_INFO.DOMAIN [13:9] RO. -/
def NOC_EP_INFO_DOMAIN : Fld := ⟨0x13C, 9, 5⟩
/-- R451: NOC_EP_INFO.PRESENT [14] RO. -/
def NOC_EP_INFO_PRESENT : Fld := ⟨0x13C, 14, 1⟩
/-- R451: NOC_TRC_CTL.EN [0] RW. -/
def NOC_TRC_CTL_EN : Fld := ⟨0x140, 0, 1⟩
/-- R451: NOC_TRC_CTL.STOP_FULL [1] RW. -/
def NOC_TRC_CTL_STOP_FULL : Fld := ⟨0x140, 1, 1⟩
/-- R451: NOC_TRC_CTL.WRAPPED [2] W1C. -/
def NOC_TRC_CTL_WRAPPED : Fld := ⟨0x140, 2, 1⟩
/-- R451: NOC_TRC_PTR.NEXT [15:0] RO. -/
def NOC_TRC_PTR_NEXT : Fld := ⟨0x144, 0, 16⟩
/-- R451: NOC_TRC_SEL.REC [15:0] RW. -/
def NOC_TRC_SEL_REC : Fld := ⟨0x148, 0, 16⟩
/-- R451: NOC_TRC_DATA0–1.DATA [63:0] RO, stride 8. -/
def NOC_TRC_DATA_DATA : Fld := ⟨0x150, 0, 64⟩
/-- R451: NOC_PRB_CFG0–15.EN [0] RW, stride 32. -/
def NOC_PRB_CFG_EN : Fld := ⟨0x200, 0, 1⟩
/-- R451: NOC_PRB_CFG0–15.ACTION [2:1] RW, stride 32. -/
def NOC_PRB_CFG_ACTION : Fld := ⟨0x200, 1, 2⟩
/-- R451: NOC_PRB_CFG0–15.NET [4:3] RW, stride 32. -/
def NOC_PRB_CFG_NET : Fld := ⟨0x200, 3, 2⟩
/-- R451: NOC_PRB_CFG0–15.ROUTER [9:5] RW, stride 32. -/
def NOC_PRB_CFG_ROUTER : Fld := ⟨0x200, 5, 5⟩
/-- R451: NOC_PRB_CFG0–15.PORT [13:10] RW, stride 32. -/
def NOC_PRB_CFG_PORT : Fld := ⟨0x200, 10, 4⟩
/-- R451: NOC_PRB_CFG0–15.PRIO_MASK [17:14] RW, stride 32. -/
def NOC_PRB_CFG_PRIO_MASK : Fld := ⟨0x200, 14, 4⟩
/-- R451: NOC_PRB_CFG0–15.EPOCH [18] RW, stride 32. -/
def NOC_PRB_CFG_EPOCH : Fld := ⟨0x200, 18, 1⟩
/-- R451: NOC_PRB_CFG0–15.EPOCH_ANY [19] RW, stride 32. -/
def NOC_PRB_CFG_EPOCH_ANY : Fld := ⟨0x200, 19, 1⟩
/-- R451: NOC_PRB_MATCH0–15.S [9:0] RW, stride 32. -/
def NOC_PRB_MATCH_S : Fld := ⟨0x208, 0, 10⟩
/-- R451: NOC_PRB_MATCH0–15.SM [19:10] RW, stride 32. -/
def NOC_PRB_MATCH_SM : Fld := ⟨0x208, 10, 10⟩
/-- R451: NOC_PRB_MATCH0–15.D [29:20] RW, stride 32. -/
def NOC_PRB_MATCH_D : Fld := ⟨0x208, 20, 10⟩
/-- R451: NOC_PRB_MATCH0–15.DM [39:30] RW, stride 32. -/
def NOC_PRB_MATCH_DM : Fld := ⟨0x208, 30, 10⟩
/-- R451: NOC_PRB_MATCH0–15.L [47:40] RW, stride 32. -/
def NOC_PRB_MATCH_L : Fld := ⟨0x208, 40, 8⟩
/-- R451: NOC_PRB_MATCH0–15.LM [55:48] RW, stride 32. -/
def NOC_PRB_MATCH_LM : Fld := ⟨0x208, 48, 8⟩
/-- R451: NOC_PRB_CNT0–15.COUNT [47:0] RO, stride 32. -/
def NOC_PRB_CNT_COUNT : Fld := ⟨0x210, 0, 48⟩
/-- R478: FCU_CFG.FATAL_VIRAL [0] RW. -/
def FCU_CFG_FATAL_VIRAL : Fld := ⟨0x100, 0, 1⟩
/-- R478: FCU_CFG.REC_EN [1] RW. -/
def FCU_CFG_REC_EN : Fld := ⟨0x100, 1, 1⟩
/-- R478: FCU_FATAL.ACTIVE [0] RO. -/
def FCU_FATAL_ACTIVE : Fld := ⟨0x104, 0, 1⟩
/-- R478: FCU_FATAL.MORE [1] RO. -/
def FCU_FATAL_MORE : Fld := ⟨0x104, 1, 1⟩
/-- R478: FCU_FATAL.SRC [25:16] RO. -/
def FCU_FATAL_SRC : Fld := ⟨0x104, 16, 10⟩
/-- R478: FCU_FATAL_SN.SN [63:0] RO. -/
def FCU_FATAL_SN_SN : Fld := ⟨0x108, 0, 64⟩
/-- R478: FCU_SEL.INDEX [9:0] RW. -/
def FCU_SEL_INDEX : Fld := ⟨0x110, 0, 10⟩
/-- R478: FCU_SRC_CFG.SEV [2:0] RW. -/
def FCU_SRC_CFG_SEV : Fld := ⟨0x114, 0, 3⟩
/-- R478: FCU_SRC_STS.SET [0] RO. -/
def FCU_SRC_STS_SET : Fld := ⟨0x118, 0, 1⟩
/-- R478: FCU_SRC_STS.MORE [1] RO. -/
def FCU_SRC_STS_MORE : Fld := ⟨0x118, 1, 1⟩
/-- R478: FCU_SRC_STS.ESC [2] RO. -/
def FCU_SRC_STS_ESC : Fld := ⟨0x118, 2, 1⟩
/-- R478: FCU_SRC_STS.PERSIST [3] RO. -/
def FCU_SRC_STS_PERSIST : Fld := ⟨0x118, 3, 1⟩
/-- R478: FCU_SRC_STS.SEV_CAPT [6:4] RO. -/
def FCU_SRC_STS_SEV_CAPT : Fld := ⟨0x118, 4, 3⟩
/-- R478: FCU_SRC_STS.CARRIED [7] RO. -/
def FCU_SRC_STS_CARRIED : Fld := ⟨0x118, 7, 1⟩
/-- R478: FCU_SRC_STS.ACC [11:8] RO. -/
def FCU_SRC_STS_ACC : Fld := ⟨0x118, 8, 4⟩
/-- R478: FCU_SRC_STS.MASTER [19:12] RO. -/
def FCU_SRC_STS_MASTER : Fld := ⟨0x118, 12, 8⟩
/-- R478: FCU_SRC_ADDR.ADDR [63:0] RO. -/
def FCU_SRC_ADDR_ADDR : Fld := ⟨0x120, 0, 64⟩
/-- R478: FCU_SRC_SN.SN [63:0] RO. -/
def FCU_SRC_SN_SN : Fld := ⟨0x128, 0, 64⟩
/-- R478: FCU_SRC_COUNT.COUNT [31:0] RO. -/
def FCU_SRC_COUNT_COUNT : Fld := ⟨0x130, 0, 32⟩
/-- R478: FCU_SRC_SUPP.COUNT [31:0] W1C. -/
def FCU_SRC_SUPP_COUNT : Fld := ⟨0x134, 0, 32⟩
/-- R478: FCU_INJ.INDEX [9:0] RW. -/
def FCU_INJ_INDEX : Fld := ⟨0x138, 0, 10⟩
/-- R478: FCU_INJ.GO [31] W1S. -/
def FCU_INJ_GO : Fld := ⟨0x138, 31, 1⟩
/-- R478: FCU_INJ_INFO.MASTER [7:0] RW. -/
def FCU_INJ_INFO_MASTER : Fld := ⟨0x13C, 0, 8⟩
/-- R478: FCU_INJ_ADDR.ADDR [63:0] RW. -/
def FCU_INJ_ADDR_ADDR : Fld := ⟨0x140, 0, 64⟩
/-- R478: FCU_VIRAL.LDS [63:0] RO. -/
def FCU_VIRAL_LDS : Fld := ⟨0x148, 0, 64⟩
/-- R478: FCU_STS0–31.SET [31:0] W1C, stride 4. -/
def FCU_STS_SET : Fld := ⟨0x200, 0, 32⟩
/-- R498: PWR_MODE.TARGET [1:0] RW. -/
def PWR_MODE_TARGET : Fld := ⟨0x100, 0, 2⟩
/-- R498: PWR_MODE.GO [2] W1S. -/
def PWR_MODE_GO : Fld := ⟨0x100, 2, 1⟩
/-- R498: PWR_STS.STATE [1:0] RO. -/
def PWR_STS_STATE : Fld := ⟨0x104, 0, 2⟩
/-- R498: PWR_STS.RETURN [3:2] RO. -/
def PWR_STS_RETURN : Fld := ⟨0x104, 2, 2⟩
/-- R498: PWR_STS.PENDING [4] RO. -/
def PWR_STS_PENDING : Fld := ⟨0x104, 4, 1⟩
/-- R498: PWR_STS.IN_PROGRESS [5] RO. -/
def PWR_STS_IN_PROGRESS : Fld := ⟨0x104, 5, 1⟩
/-- R498: PWR_STS.COMMITTED [6] RO. -/
def PWR_STS_COMMITTED : Fld := ⟨0x104, 6, 1⟩
/-- R498: PWR_STS.CANCELLED [7] W1C. -/
def PWR_STS_CANCELLED : Fld := ⟨0x104, 7, 1⟩
/-- R498: PWR_STS.RESULT [10:8] RO. -/
def PWR_STS_RESULT : Fld := ⟨0x104, 8, 3⟩
/-- R498: PWR_TRIM_DOM.OFF [28:0] RW. -/
def PWR_TRIM_DOM_OFF : Fld := ⟨0x108, 0, 29⟩
/-- R498: PWR_DOM_STS.ON [28:0] RO. -/
def PWR_DOM_STS_ON : Fld := ⟨0x10C, 0, 29⟩
/-- R498: PWR_DOM_WOKEN.WOKEN [28:0] W1C. -/
def PWR_DOM_WOKEN_WOKEN : Fld := ⟨0x110, 0, 29⟩
/-- R498: PWR_WAKE_EN.EN [63:0] RW. -/
def PWR_WAKE_EN_EN : Fld := ⟨0x118, 0, 64⟩
/-- R498: PWR_VSENSE_CFG.THRESH [9:0] RW. -/
def PWR_VSENSE_CFG_THRESH : Fld := ⟨0x120, 0, 10⟩
/-- R498: PWR_VSENSE_CFG.DIR [10] RW. -/
def PWR_VSENSE_CFG_DIR : Fld := ⟨0x120, 10, 1⟩
/-- R498: PWR_VSENSE_CFG.HYST [15:11] RW. -/
def PWR_VSENSE_CFG_HYST : Fld := ⟨0x120, 11, 5⟩
/-- R498: PWR_VSENSE_CFG.ARM [16] RW. -/
def PWR_VSENSE_CFG_ARM : Fld := ⟨0x120, 16, 1⟩
/-- R498: PWR_VSENSE_STS.ABOVE [0] RO. -/
def PWR_VSENSE_STS_ABOVE : Fld := ⟨0x124, 0, 1⟩
/-- R498: PWR_VSENSE_STS.CROSSED [1] W1C. -/
def PWR_VSENSE_STS_CROSSED : Fld := ⟨0x124, 1, 1⟩
/-- R498: PWR_WAKE_SN.SN [63:0] RW. -/
def PWR_WAKE_SN_SN : Fld := ⟨0x128, 0, 64⟩
/-- R498: PWR_LAST_WAKE.INDEX [10:0] RO. -/
def PWR_LAST_WAKE_INDEX : Fld := ⟨0x130, 0, 11⟩
/-- R498: PWR_LAST_WAKE_SN.SN [63:0] RO. -/
def PWR_LAST_WAKE_SN_SN : Fld := ⟨0x138, 0, 64⟩
/-- R498: PWR_REQ_SN.SN [63:0] RO. -/
def PWR_REQ_SN_SN : Fld := ⟨0x140, 0, 64⟩
/-- R498: PWR_DONE_SN.SN [63:0] RO. -/
def PWR_DONE_SN_SN : Fld := ⟨0x148, 0, 64⟩
/-- R528: STR_STS.LC [2:0] RO. -/
def STR_STS_LC : Fld := ⟨0x100, 0, 3⟩
/-- R528: STR_STS.OWNED [3] RO. -/
def STR_STS_OWNED : Fld := ⟨0x100, 3, 1⟩
/-- R528: STR_STS.RECOVERY [4] RO. -/
def STR_STS_RECOVERY : Fld := ⟨0x100, 4, 1⟩
/-- R528: STR_STS.TRNG_OK [5] RO. -/
def STR_STS_TRNG_OK : Fld := ⟨0x100, 5, 1⟩
/-- R528: STR_STS.LC_BUSY [6] RO. -/
def STR_STS_LC_BUSY : Fld := ⟨0x100, 6, 1⟩
/-- R528: STR_STS.DEBUG_LEVEL [9:7] RO. -/
def STR_STS_DEBUG_LEVEL : Fld := ⟨0x100, 7, 3⟩
/-- R528: STR_POLICY.OWNER_SIGN [0] RO. -/
def STR_POLICY_OWNER_SIGN : Fld := ⟨0x104, 0, 1⟩
/-- R528: STR_POLICY.OWNER_IDX [3:1] RO. -/
def STR_POLICY_OWNER_IDX : Fld := ⟨0x104, 1, 3⟩
/-- R528: STR_POLICY.OWNERS_USED [7:4] RO. -/
def STR_POLICY_OWNERS_USED : Fld := ⟨0x104, 4, 4⟩
/-- R528: STR_POLICY.REFURB_USED [9:8] RO. -/
def STR_POLICY_REFURB_USED : Fld := ⟨0x104, 8, 2⟩
/-- R528: STR_POLICY.ANCHOR_VALID [17:10] RO. -/
def STR_POLICY_ANCHOR_VALID : Fld := ⟨0x104, 10, 8⟩
/-- R528: STR_POLICY.ANCHOR_REVOKED [25:18] RO. -/
def STR_POLICY_ANCHOR_REVOKED : Fld := ⟨0x104, 18, 8⟩
/-- R528: STR_SERIAL_LO.SERIAL [63:0] RO. -/
def STR_SERIAL_LO_SERIAL : Fld := ⟨0x108, 0, 64⟩
/-- R528: STR_SERIAL_HI.SERIAL [63:0] RO. -/
def STR_SERIAL_HI_SERIAL : Fld := ⟨0x110, 0, 64⟩
/-- R528: STR_FW_RUN.VERSION [31:0] RO. -/
def STR_FW_RUN_VERSION : Fld := ⟨0x118, 0, 32⟩
/-- R528: STR_FW_SVN.SVN [7:0] RO. -/
def STR_FW_SVN_SVN : Fld := ⟨0x11C, 0, 8⟩
/-- R528: STR_FW_SVN.SVN_MIN [15:8] RO. -/
def STR_FW_SVN_SVN_MIN : Fld := ⟨0x11C, 8, 8⟩
/-- R528: STR_FW_SLOT.RUNNING [1:0] RO. -/
def STR_FW_SLOT_RUNNING : Fld := ⟨0x120, 0, 2⟩
/-- R528: STR_FW_SLOT.ACTIVE [3:2] RO. -/
def STR_FW_SLOT_ACTIVE : Fld := ⟨0x120, 2, 2⟩
/-- R528: STR_FW_SLOT.STAGED [5:4] RO. -/
def STR_FW_SLOT_STAGED : Fld := ⟨0x120, 4, 2⟩
/-- R528: STR_ACT_CFG.LEAD [23:0] RW. -/
def STR_ACT_CFG_LEAD : Fld := ⟨0x124, 0, 24⟩
/-- R528: STR_ACT_CTL.READY [0] W1S. -/
def STR_ACT_CTL_READY : Fld := ⟨0x128, 0, 1⟩
/-- R528: STR_ACT_CTL.PENDING [1] RO. -/
def STR_ACT_CTL_PENDING : Fld := ⟨0x128, 1, 1⟩
/-- R528: STR_ACT_CTL.PAUSED [2] RO. -/
def STR_ACT_CTL_PAUSED : Fld := ⟨0x128, 2, 1⟩
/-- R528: STR_ACT_CTL.REVERTED [3] RO. -/
def STR_ACT_CTL_REVERTED : Fld := ⟨0x128, 3, 1⟩
/-- R528: STR_ACT_SN.SN [63:0] RO. -/
def STR_ACT_SN_SN : Fld := ⟨0x130, 0, 64⟩
/-- R528: STR_ACT_END_SN.SN [63:0] RO. -/
def STR_ACT_END_SN_SN : Fld := ⟨0x138, 0, 64⟩
/-- R528: STR_START.CAUSE [2:0] RO. -/
def STR_START_CAUSE : Fld := ⟨0x140, 0, 3⟩
/-- R528: STR_START_SN.SN [63:0] RO. -/
def STR_START_SN_SN : Fld := ⟨0x148, 0, 64⟩
/-- R528: STR_TRNG_FAIL.COUNT [31:0] W1C. -/
def STR_TRNG_FAIL_COUNT : Fld := ⟨0x150, 0, 32⟩
/-- R528: STR_SESS.SESSIONS [3:0] RO. -/
def STR_SESS_SESSIONS : Fld := ⟨0x154, 0, 4⟩
/-- R528: STR_RIGHT_REQ.IMAGE [63:0] RW. -/
def STR_RIGHT_REQ_IMAGE : Fld := ⟨0x158, 0, 64⟩
/-- R528: STR_RIGHT_CTL.ENTRY [5:0] RW. -/
def STR_RIGHT_CTL_ENTRY : Fld := ⟨0x160, 0, 6⟩
/-- R528: STR_RIGHT_CTL.GO [8] W1S. -/
def STR_RIGHT_CTL_GO : Fld := ⟨0x160, 8, 1⟩
/-- R528: STR_RIGHT_CTL.RESULT [9] RO. -/
def STR_RIGHT_CTL_RESULT : Fld := ⟨0x160, 9, 1⟩
/-- R528: STR_MEAS1–5.DIGEST [255:0] RO, stride 32. -/
def STR_MEAS_DIGEST : Fld := ⟨0x180, 0, 256⟩
/-- R529: DBG_STS.LEVEL [2:0] RO. -/
def DBG_STS_LEVEL : Fld := ⟨0x100, 0, 3⟩
/-- R529: DBG_STS.ATTACHED [3] RO. -/
def DBG_STS_ATTACHED : Fld := ⟨0x100, 3, 1⟩
/-- R529: DBG_STS.BUSY [4] RO. -/
def DBG_STS_BUSY : Fld := ⟨0x100, 4, 1⟩
/-- R529: DBG_EXPIRY_SN.SN [63:0] RO. -/
def DBG_EXPIRY_SN_SN : Fld := ⟨0x108, 0, 64⟩
/-- R529: DBG_ROOMS.FIRST [21:0] RO. -/
def DBG_ROOMS_FIRST : Fld := ⟨0x110, 0, 22⟩
/-- R529: DBG_ROOMS.LAST [53:32] RO. -/
def DBG_ROOMS_LAST : Fld := ⟨0x110, 32, 22⟩
/-- R529: DBG_CTL.LOCK [0] WO. -/
def DBG_CTL_LOCK : Fld := ⟨0x118, 0, 1⟩
/-- R529: DBG_CTL.PORT_DIS [1] RW. -/
def DBG_CTL_PORT_DIS : Fld := ⟨0x118, 1, 1⟩
/-- R529: DBG_CTL.UNLOCK [2] WO. -/
def DBG_CTL_UNLOCK : Fld := ⟨0x118, 2, 1⟩
/-- R529: DBG_CHAL0–3.NONCE [63:0] RO, stride 8. -/
def DBG_CHAL_NONCE : Fld := ⟨0x120, 0, 64⟩
/-- R529: DBG_MEM_ADDR.ADDR [51:0] RW. -/
def DBG_MEM_ADDR_ADDR : Fld := ⟨0x140, 0, 52⟩
/-- R529: DBG_MEM_CTL.OP [1:0] WO. -/
def DBG_MEM_CTL_OP : Fld := ⟨0x148, 0, 2⟩
/-- R529: DBG_MEM_CTL.SPACE [2] RW. -/
def DBG_MEM_CTL_SPACE : Fld := ⟨0x148, 2, 1⟩
/-- R529: DBG_MEM_CTL.VIEW [3] RW. -/
def DBG_MEM_CTL_VIEW : Fld := ⟨0x148, 3, 1⟩
/-- R529: DBG_MEM_CTL.BUSY [8] RO. -/
def DBG_MEM_CTL_BUSY : Fld := ⟨0x148, 8, 1⟩
/-- R529: DBG_MEM_CTL.RESULT [10:9] RO. -/
def DBG_MEM_CTL_RESULT : Fld := ⟨0x148, 9, 2⟩
/-- R529: DBG_MEM_DATA0–31.DATA [31:0] RW, stride 4. -/
def DBG_MEM_DATA_DATA : Fld := ⟨0x200, 0, 32⟩
/-- R557: HWL_TRAIN_CFG.MAX_SPEED [1:0] RW. -/
def HWL_TRAIN_CFG_MAX_SPEED : Fld := ⟨0x104, 0, 2⟩
/-- R557: HWL_TRAIN_CFG.MAX_WIDTH [3:2] RW. -/
def HWL_TRAIN_CFG_MAX_WIDTH : Fld := ⟨0x104, 2, 2⟩
/-- R557: HWL_TRAIN_CFG.LANE_DIS [11:4] RW. -/
def HWL_TRAIN_CFG_LANE_DIS : Fld := ⟨0x104, 4, 8⟩
/-- R557: HWL_LINK_STS.STATE [2:0] RO. -/
def HWL_LINK_STS_STATE : Fld := ⟨0x108, 0, 3⟩
/-- R557: HWL_LINK_STS.SPEED [4:3] RO. -/
def HWL_LINK_STS_SPEED : Fld := ⟨0x108, 3, 2⟩
/-- R557: HWL_LINK_STS.WIDTH [8:5] RO. -/
def HWL_LINK_STS_WIDTH : Fld := ⟨0x108, 5, 4⟩
/-- R557: HWL_LINK_STS.LANES [16:9] RO. -/
def HWL_LINK_STS_LANES : Fld := ⟨0x108, 9, 8⟩
/-- R557: HWL_LINK_STS.SECURE [17] RO. -/
def HWL_LINK_STS_SECURE : Fld := ⟨0x108, 17, 1⟩
/-- R557: HWL_LINK_STS.SYMMETRIC [18] RO. -/
def HWL_LINK_STS_SYMMETRIC : Fld := ⟨0x108, 18, 1⟩
/-- R557: HWL_LINK_STS.POST_RETRAIN [19] RO. -/
def HWL_LINK_STS_POST_RETRAIN : Fld := ⟨0x108, 19, 1⟩
/-- R557: HWL_REPLAY_STS.BYTES [16:0] RO. -/
def HWL_REPLAY_STS_BYTES : Fld := ⟨0x128, 0, 17⟩
/-- R557: HWL_REPLAY_STS.PACKETS [27:17] RO. -/
def HWL_REPLAY_STS_PACKETS : Fld := ⟨0x128, 17, 11⟩
/-- R557: HWL_REPLAY_STS.STALL [28] RO. -/
def HWL_REPLAY_STS_STALL : Fld := ⟨0x128, 28, 1⟩
/-- R558: TWN_CFG.EN [0] RW. -/
def TWN_CFG_EN : Fld := ⟨0x100, 0, 1⟩
/-- R558: TWN_CFG.PEER_PIN [1] RW. -/
def TWN_CFG_PEER_PIN : Fld := ⟨0x100, 1, 1⟩
/-- R558: TWN_STS.STATE [2:0] RO. -/
def TWN_STS_STATE : Fld := ⟨0x104, 0, 3⟩
/-- R558: TWN_STS.ROLE [3] RO. -/
def TWN_STS_ROLE : Fld := ⟨0x104, 3, 1⟩
/-- R558: TWN_STS.OWNER [4] RO. -/
def TWN_STS_OWNER : Fld := ⟨0x104, 4, 1⟩
/-- R558: TWN_STS.SOURCE [5] RO. -/
def TWN_STS_SOURCE : Fld := ⟨0x104, 5, 1⟩
/-- R558: TWN_STS.REASON [9:6] RO. -/
def TWN_STS_REASON : Fld := ⟨0x104, 6, 4⟩
/-- R558: TWN_FENCE.STITCHES [23:0] RW. -/
def TWN_FENCE_STITCHES : Fld := ⟨0x108, 0, 24⟩
/-- R558: TWN_SPLIT_CFG.SILENCE [10:0] RW. -/
def TWN_SPLIT_CFG_SILENCE : Fld := ⟨0x10C, 0, 11⟩
/-- R558: TWN_SPLIT_CFG.DOWN_LIM [31:16] RW. -/
def TWN_SPLIT_CFG_DOWN_LIM : Fld := ⟨0x10C, 16, 16⟩
/-- R558: TWN_EPOCH.EPOCH [31:0] RO. -/
def TWN_EPOCH_EPOCH : Fld := ⟨0x110, 0, 32⟩
/-- R558: TWN_PEER_SERIAL_LO.SERIAL [63:0] RW. -/
def TWN_PEER_SERIAL_LO_SERIAL : Fld := ⟨0x118, 0, 64⟩
/-- R558: TWN_PEER_SERIAL_HI.SERIAL [63:0] RW. -/
def TWN_PEER_SERIAL_HI_SERIAL : Fld := ⟨0x120, 0, 64⟩
/-- R558: TWN_WITNESS.EPOCH [31:0] WO. -/
def TWN_WITNESS_EPOCH : Fld := ⟨0x128, 0, 32⟩
/-- R558: TWN_WITNESS.WINNER [32] WO. -/
def TWN_WITNESS_WINNER : Fld := ⟨0x128, 32, 1⟩
/-- R558: TWN_WITNESS_STS.HELD [0] RO. -/
def TWN_WITNESS_STS_HELD : Fld := ⟨0x130, 0, 1⟩
/-- R558: TWN_WITNESS_STS.WINNER [1] RO. -/
def TWN_WITNESS_STS_WINNER : Fld := ⟨0x130, 1, 1⟩
/-- R558: TWN_WITNESS_STS.REFUSED [2] W1C. -/
def TWN_WITNESS_STS_REFUSED : Fld := ⟨0x130, 2, 1⟩
/-- R558: TWN_SPLIT_SN.SN [63:0] RO. -/
def TWN_SPLIT_SN_SN : Fld := ⟨0x138, 0, 64⟩
/-- R558: TWN_DECIDE_SN.SN [63:0] RO. -/
def TWN_DECIDE_SN_SN : Fld := ⟨0x140, 0, 64⟩
/-- R558: TWN_SOLO_SN.SN [63:0] RO. -/
def TWN_SOLO_SN_SN : Fld := ⟨0x148, 0, 64⟩
/-- R558: TWN_PAIR_SN.SN [63:0] RO. -/
def TWN_PAIR_SN_SN : Fld := ⟨0x150, 0, 64⟩
/-- R558: TWN_CTL.FORFEIT [0] WO. -/
def TWN_CTL_FORFEIT : Fld := ⟨0x158, 0, 1⟩
/-- R558: TWN_MWR_CFG.MAX [10:0] RW. -/
def TWN_MWR_CFG_MAX : Fld := ⟨0x15C, 0, 11⟩
/-- R558: TWN_MWR_STS.OUT [10:0] RO. -/
def TWN_MWR_STS_OUT : Fld := ⟨0x160, 0, 11⟩
/-- R558: TWN_MWR_STS.RX [26:16] RO. -/
def TWN_MWR_STS_RX : Fld := ⟨0x160, 16, 11⟩
/-- R558: TWN_SYNC_CFG.LINES [19:0] RW. -/
def TWN_SYNC_CFG_LINES : Fld := ⟨0x168, 0, 20⟩
/-- R558: TWN_SYNC_POS.DPA [51:0] RO. -/
def TWN_SYNC_POS_DPA : Fld := ⟨0x170, 0, 52⟩
/-- R558: TWN_SYNC_POS.ACTIVE [63] RO. -/
def TWN_SYNC_POS_ACTIVE : Fld := ⟨0x170, 63, 1⟩
/-- R558: TWN_ROOMS.LIVE [22:0] RO. -/
def TWN_ROOMS_LIVE : Fld := ⟨0x178, 0, 23⟩
/-- R558: TWN_ROOMS.PEND [54:32] RO. -/
def TWN_ROOMS_PEND : Fld := ⟨0x178, 32, 23⟩
/-- R558: TWN_PEER_STS.STATE [2:0] RO. -/
def TWN_PEER_STS_STATE : Fld := ⟨0x180, 0, 3⟩
/-- R558: TWN_PEER_STS.ROLE [3] RO. -/
def TWN_PEER_STS_ROLE : Fld := ⟨0x180, 3, 1⟩
/-- R558: TWN_PEER_STS.COUNT [15:8] RO. -/
def TWN_PEER_STS_COUNT : Fld := ⟨0x180, 8, 8⟩
/-- R558: TWN_PEER_STS.EPOCH [63:32] RO. -/
def TWN_PEER_STS_EPOCH : Fld := ⟨0x180, 32, 32⟩
/-- R568: HP_BW_RD0–1.BYTES [31:0] RO, stride 4. -/
def HP_BW_RD_BYTES : Fld := ⟨0x1C0, 0, 32⟩
/-- R568: HP_BW_WR0–1.BYTES [31:0] RO, stride 4. -/
def HP_BW_WR_BYTES : Fld := ⟨0x1C8, 0, 32⟩
/-- R568: HP_BW_STS.PARTIAL [0] RO. -/
def HP_BW_STS_PARTIAL : Fld := ⟨0x1D0, 0, 1⟩
/-- R569: DC_BW_RDA.BYTES [31:0] RO. -/
def DC_BW_RDA_BYTES : Fld := ⟨0x190, 0, 32⟩
/-- R569: DC_BW_WRA.BYTES [31:0] RO. -/
def DC_BW_WRA_BYTES : Fld := ⟨0x194, 0, 32⟩
/-- R569: DC_BW_RDB.BYTES [31:0] RO. -/
def DC_BW_RDB_BYTES : Fld := ⟨0x198, 0, 32⟩
/-- R569: DC_BW_WRB.BYTES [31:0] RO. -/
def DC_BW_WRB_BYTES : Fld := ⟨0x19C, 0, 32⟩
/-- R569: DC_BW_MAINT.BYTES [31:0] RO. -/
def DC_BW_MAINT_BYTES : Fld := ⟨0x1A0, 0, 32⟩
/-- R569: DC_BW_STS.PARTIAL [0] RO. -/
def DC_BW_STS_PARTIAL : Fld := ⟨0x1A4, 0, 1⟩
/-- R573: MGC_TAL_GRP.GRP [63:0] W1C. -/
def MGC_TAL_GRP_GRP : Fld := ⟨0x100, 0, 64⟩
/-- R573: MGC_TAL_CFG.SAMPLE_EN [0] RW. -/
def MGC_TAL_CFG_SAMPLE_EN : Fld := ⟨0x108, 0, 1⟩
/-- R573: MGC_PROF_CTLc_0–3.EVENT [7:0] RW, stride 64 and 4. -/
def MGC_PROF_CTL_EVENT : Fld := ⟨0x200, 0, 8⟩
/-- R573: MGC_PROF_CTLc_0–3.EN [8] RW, stride 64 and 4. -/
def MGC_PROF_CTL_EN : Fld := ⟨0x200, 8, 1⟩
/-- R573: MGC_PROF_CTLc_0–3.INT_EN [9] RW, stride 64 and 4. -/
def MGC_PROF_CTL_INT_EN : Fld := ⟨0x200, 9, 1⟩
/-- R573: MGC_PROF_CTLc_0–3.CLEAR [10] WO, stride 64 and 4. -/
def MGC_PROF_CTL_CLEAR : Fld := ⟨0x200, 10, 1⟩
/-- R573: MGC_PROF_CNTc_0–3.COUNT [47:0] RO, stride 64 and 8. -/
def MGC_PROF_CNT_COUNT : Fld := ⟨0x210, 0, 48⟩
/-- R573: MGC_PROF_OVFc.OVF [3:0] W1C, stride 64. -/
def MGC_PROF_OVF_OVF : Fld := ⟨0x230, 0, 4⟩
/-- R573: MGC_PROF_OVFc.MORE [4] W1C, stride 64. -/
def MGC_PROF_OVF_MORE : Fld := ⟨0x230, 4, 1⟩
/-- R573: MGC_PROF_EPCc.ADDR [63:0] RO, stride 64. -/
def MGC_PROF_EPC_ADDR : Fld := ⟨0x238, 0, 64⟩
/-- R339: SQ_TAIL of a BAR4 slot. -/
def SLOT_SQ_TAIL : Fld := ⟨0x0, 0, 16⟩
/-- R339: CQ_HEAD of a BAR4 slot. -/
def SLOT_CQ_HEAD : Fld := ⟨0x4, 0, 16⟩
/-- R339: SQ_BASE of a BAR4 slot. -/
def SLOT_SQ_BASE : Fld := ⟨0x8, 0, 52⟩
/-- R339: CQ_BASE of a BAR4 slot. -/
def SLOT_CQ_BASE : Fld := ⟨0x10, 0, 52⟩
/-- R339: SQ_LOG of a BAR4 slot. -/
def SLOT_SQ_LOG : Fld := ⟨0x18, 0, 5⟩
/-- R339: CQ_LOG of a BAR4 slot. -/
def SLOT_CQ_LOG : Fld := ⟨0x18, 8, 5⟩
/-- R339: DEPTH of a BAR4 slot. -/
def SLOT_DEPTH : Fld := ⟨0x18, 16, 6⟩
/-- R339: EN of a BAR4 slot. -/
def SLOT_EN : Fld := ⟨0x18, 24, 1⟩
/-- R339: IRQ_EN of a BAR4 slot. -/
def SLOT_IRQ_EN : Fld := ⟨0x18, 25, 1⟩
/-- R339: VECTOR of a BAR4 slot. -/
def SLOT_VECTOR : Fld := ⟨0x1C, 0, 11⟩
/-- R339: COAL_CNT of a BAR4 slot. -/
def SLOT_COAL_CNT : Fld := ⟨0x1C, 16, 8⟩
/-- R339: COAL_STITCH of a BAR4 slot. -/
def SLOT_COAL_STITCH : Fld := ⟨0x1C, 24, 8⟩
/-- R339: SQ_HEAD of a BAR4 slot. -/
def SLOT_SQ_HEAD : Fld := ⟨0x20, 0, 16⟩
/-- R339: CQ_TAIL of a BAR4 slot. -/
def SLOT_CQ_TAIL : Fld := ⟨0x20, 16, 16⟩
/-- R339: ENABLED of a BAR4 slot. -/
def SLOT_ENABLED : Fld := ⟨0x24, 0, 1⟩
/-- R339: HALTED of a BAR4 slot. -/
def SLOT_HALTED : Fld := ⟨0x24, 1, 1⟩
/-- R339: FROGGED of a BAR4 slot. -/
def SLOT_FROGGED : Fld := ⟨0x24, 2, 1⟩
/-- R339: PHASE of a BAR4 slot. -/
def SLOT_PHASE : Fld := ⟨0x24, 3, 1⟩
/-- R339: ERR of a BAR4 slot. -/
def SLOT_ERR : Fld := ⟨0x24, 4, 4⟩
/-- R339: INFLIGHT of a BAR4 slot. -/
def SLOT_INFLIGHT : Fld := ⟨0x24, 8, 7⟩

end F

/-- The layouts of R49's pages (one per block type) and of the banks that a selection register addresses. -/
inductive PageKind where
  | gen | stc | pwr | fcu | str | mgc | dbg | noc | gau | pat | tir | cry | qmg | dmv | ctg | hwl | twn
  | hp | dc | yp | cmp | ldm
  deriving DecidableEq, Repr

/-- One register (array) of a page: `count` registers `stride` bytes apart. Masks over the register's bits: `rw` the RW fields and
`w1c` the W1C fields that have no command of their own (R55); `al` the register is stitch-aligned (R41); `who` may write it beyond
the page's mode: 0 whoever the mode lets, 1 firmware and management LDs, 2 firmware only, 3 the Strongroom only; `bank` it acts on
the entry a selection register names; `wide` it has 64 bits (R54). -/
structure RegRow where
  off : Nat
  stride : Nat
  count : Nat
  reset : Nat
  rw : Nat
  w1c : Nat
  al : Bool
  who : Nat
  bank : Bool
  wide : Bool
  deriving DecidableEq, Repr

/-- The registers of the STC page. -/
def stcRows : List RegRow := [
  ⟨0x100, 0, 1, 0x0, 0x0, 0x0, false, 0, false, false⟩, -- STC_SN_LO
  ⟨0x104, 0, 1, 0x0, 0x0, 0x0, false, 0, false, false⟩, -- STC_SN_HI
  ⟨0x108, 0, 1, 0x0, 0x0, 0x0, false, 0, false, false⟩, -- STC_PHASE
  ⟨0x10C, 0, 1, 0x40800, 0x0, 0x0, false, 0, false, false⟩, -- STC_CAP
  ⟨0x110, 0, 1, 0x3, 0x3, 0x0, false, 0, false, false⟩, -- STC_CFG
  ⟨0x114, 0, 1, 0x0, 0x0, 0x9, false, 0, false, false⟩, -- STC_STS
  ⟨0x118, 0, 1, 0x0, 0x0, 0x0, false, 0, false, false⟩, -- STC_CARRY
  ⟨0x11C, 0, 1, 0x0, 0x0, 0x0, false, 0, false, false⟩, -- STC_OVR_CNT
  ⟨0x120, 0, 1, 0x0, 0x0, 0x0, false, 0, false, true⟩, -- STC_OVR_SN
  ⟨0x130, 0, 1, 0x0, 0x7FF, 0x0, false, 0, false, false⟩, -- STC_SRC_SEL
  ⟨0x134, 0, 1, 0xA0400, 0x1FFFFF, 0x0, true, 0, true, false⟩, -- STC_SRC_CFG
  ⟨0x138, 0, 1, 0x40, 0xFFFF, 0x0, true, 0, true, false⟩, -- STC_SRC_RATE
  ⟨0x13C, 0, 1, 0x0, 0x0, 0x0, false, 0, true, false⟩, -- STC_SRC_STS
  ⟨0x140, 0, 1, 0x0, 0x0, 0x0, false, 0, true, false⟩, -- STC_SRC_COUNT
  ⟨0x400, 4, 64, 0x0, 0x0, 0x0, false, 0, false, false⟩, -- STC_MASKED
  ⟨0x500, 4, 64, 0x0, 0x0, 0x0, false, 0, false, false⟩ -- STC_QUAR
]

/-- The registers of the common header (R62). -/
def hdrRows : List RegRow := [
  ⟨0x0, 0, 1, 0x0, 0x0, 0x0, false, 0, false, false⟩, -- PG_ID
  ⟨0x4, 0, 1, 0x0, 0x0, 0x0, false, 0, false, false⟩, -- PG_CAP
  ⟨0x8, 0, 1, 0x0, 0x0, 0x0, false, 0, false, false⟩, -- PG_CTL
  ⟨0xC, 0, 1, 0x0, 0x0, 0x0, false, 0, false, false⟩, -- PG_STS
  ⟨0x10, 0, 1, 0x0, 0x0, 0x0, false, 0, false, false⟩, -- PG_INT_STS
  ⟨0x14, 0, 1, 0x0, 0x0, 0x0, false, 0, false, false⟩, -- PG_INT_EN
  ⟨0x18, 0, 1, 0x0, 0x0, 0x0, false, 0, false, false⟩, -- PG_INT_SET
  ⟨0x20, 0, 1, 0x0, 0x0, 0x0, false, 0, false, false⟩, -- PG_FLT_BASE
  ⟨0x40, 0, 1, 0x0, 0x0, 0x0, false, 0, false, true⟩, -- PG_FROG_STS
  ⟨0x80, 4, 4, 0x0, 0x0, 0x0, false, 0, false, false⟩, -- TAL_SEL
  ⟨0xA0, 8, 4, 0x0, 0x0, 0x0, false, 0, false, true⟩, -- TAL_CNT
  ⟨0xE0, 0, 1, 0x0, 0x0, 0x0, false, 0, false, false⟩ -- TAL_OVF
]

/-- The registers of the GEN page. -/
def genRows : List RegRow := [
  ⟨0x100, 0, 1, 0x9040, 0x0, 0x0, false, 0, false, false⟩, -- GEN_DEV_ID
  ⟨0x104, 0, 1, 0x806104, 0x0, 0x0, false, 0, false, false⟩, -- GEN_FAM_CAP0
  ⟨0x108, 0, 1, 0x2000, 0x0, 0x0, false, 0, false, false⟩, -- GEN_FAM_CAP1
  ⟨0x10C, 0, 1, 0x28302040, 0x0, 0x0, false, 0, false, false⟩, -- GEN_FAM_CAP2
  ⟨0x110, 0, 1, 0x1040, 0x0, 0x0, false, 0, false, false⟩, -- GEN_FAM_CAP3
  ⟨0x114, 0, 1, 0x13F, 0x0, 0x0, false, 0, false, false⟩, -- GEN_PAGES
  ⟨0x118, 0, 1, 0x0, 0x0, 0x0, false, 0, false, false⟩, -- GEN_STS
  ⟨0x120, 0, 1, 0x0, 0x3FFF, 0x0, false, 0, false, false⟩, -- GEN_IRQ_SEL
  ⟨0x124, 0, 1, 0x2000000, 0x0, 0x0, false, 0, true, false⟩, -- GEN_IRQ_ROUTE
  ⟨0x128, 0, 1, 0x0, 0x3FFF, 0x0, false, 0, false, false⟩, -- GEN_ACC_SEL
  ⟨0x12C, 0, 1, 0x0, 0x0, 0x0, true, 0, true, false⟩, -- GEN_ACC
  ⟨0x130, 0, 1, 0x1, 0x0, 0x0, true, 0, false, true⟩, -- GEN_MGMT_LD
  ⟨0x140, 4, 16, 0x0, 0x0, 0x0, false, 0, false, false⟩ -- GEN_PEND
]

/-- The registers of the HP page. -/
def hpRows : List RegRow := [
  ⟨0x100, 0, 1, 0x8, 0xE, 0x0, false, 0, false, false⟩, -- HP_CFG
  ⟨0x104, 4, 2, 0x0, 0x0, 0x0, false, 0, false, false⟩, -- HP_LINK_STS
  ⟨0x110, 0, 1, 0x0, 0x0, 0x0, false, 0, false, false⟩, -- HP_LD_BOUND
  ⟨0x120, 4, 16, 0x80, 0x0, 0x0, false, 0, false, false⟩, -- HP_VEC_ALLOC
  ⟨0x160, 4, 16, 0x1, 0x0, 0x0, false, 0, false, false⟩, -- HP_HDM_ALLOC
  ⟨0x1A0, 4, 2, 0x0, 0x0, 0xFFFFFFFF, false, 0, false, false⟩, -- HP_FEC_CNT
  ⟨0x1A8, 4, 2, 0x0, 0x0, 0xFFFFFFFF, false, 0, false, false⟩, -- HP_CRC_CNT
  ⟨0x1B0, 4, 2, 0x0, 0x0, 0xFFFFFFFF, false, 0, false, false⟩, -- HP_REPLAY_CNT
  ⟨0x1B8, 0, 1, 0x40, 0xFFFF, 0x0, false, 0, false, false⟩, -- HP_REPLAY_THR
  ⟨0x1C0, 4, 2, 0x0, 0x0, 0x0, false, 0, false, false⟩, -- HP_BW_RD
  ⟨0x1C8, 4, 2, 0x0, 0x0, 0x0, false, 0, false, false⟩, -- HP_BW_WR
  ⟨0x1D0, 0, 1, 0x0, 0x0, 0x0, false, 0, false, false⟩ -- HP_BW_STS
]

/-- The registers of the LDM page. -/
def ldmRows : List RegRow := [
  ⟨0x100, 0, 1, 0x0, 0x0, 0x0, false, 0, false, false⟩, -- LDM_STS
  ⟨0x108, 0, 1, 0x0, 0xFFFF, 0x0, true, 1, false, false⟩, -- LDM_SHARE_GRPS
  ⟨0x110, 16, 4, 0x0, 0x7FFFFF803FFFFF, 0x0, true, 1, false, true⟩, -- LDM_SEG_A
  ⟨0x118, 16, 4, 0x0, 0x3FFFFF, 0x0, true, 1, false, true⟩, -- LDM_SEG_B
  ⟨0x150, 0, 1, 0x0, 0xFFFFFF, 0x0, true, 1, false, false⟩, -- LDM_QUOTA_DRAM
  ⟨0x154, 0, 1, 0x0, 0xFFFFFFFF, 0x0, true, 1, false, false⟩, -- LDM_QUOTA_LARDER
  ⟨0x158, 0, 1, 0x5A, 0x7F, 0x0, true, 1, false, false⟩, -- LDM_QUOTA_WARN
  ⟨0x160, 0, 1, 0x0, 0x0, 0x0, false, 0, false, true⟩, -- LDM_USE_DRAM
  ⟨0x168, 0, 1, 0x0, 0x0, 0x0, false, 0, false, true⟩, -- LDM_USE_LARDER
  ⟨0x170, 0, 1, 0x0, 0x0, 0xFFFFFFFF, false, 1, false, false⟩, -- LDM_REFUSED
  ⟨0x174, 0, 1, 0x0, 0x0, 0xFFFFFFFF, false, 1, false, false⟩ -- LDM_DENIED
]

/-- The registers of the PAT page. -/
def patRows : List RegRow := [
  ⟨0x100, 0, 1, 0x0, 0x1, 0x0, false, 2, false, false⟩, -- PAT_CFG
  ⟨0x108, 0, 1, 0x0, 0x7FFFFE00000, 0x0, false, 2, false, true⟩, -- PAT_TBL_BASE
  ⟨0x110, 0, 1, 0x0, 0x7FFFFE00000, 0x0, false, 2, false, true⟩, -- PAT_ROOM_TBL_BASE
  ⟨0x118, 0, 1, 0x0, 0x7FFFFF, 0x0, false, 2, false, false⟩, -- PAT_WIN_ROOMS
  ⟨0x120, 0, 1, 0x0, 0x0, 0x0, false, 0, false, false⟩, -- PAT_CACHE_CTL
  ⟨0x124, 0, 1, 0x0, 0x0, 0x0, false, 0, false, false⟩, -- PAT_CACHE_STS
  ⟨0x128, 0, 1, 0x0, 0x0, 0x0, false, 0, false, false⟩, -- PAT_CACHE_LOCKED
  ⟨0x130, 0, 1, 0x0, 0x3FFFFF, 0x0, false, 0, false, false⟩, -- PAT_ROOM_SEL
  ⟨0x134, 0, 1, 0x0, 0x0, 0x0, false, 0, false, false⟩, -- PAT_ROOM_CMD
  ⟨0x138, 0, 1, 0x0, 0xFFFFF, 0x0, false, 0, false, false⟩, -- PAT_ROOM_CFG
  ⟨0x140, 0, 1, 0x0, 0xFFFFFFFFFFFFF, 0x0, false, 0, false, true⟩, -- PAT_PROBE_DPA
  ⟨0x148, 0, 1, 0x0, 0x0, 0x0, false, 0, false, false⟩, -- PAT_PROBE_CMD
  ⟨0x150, 8, 4, 0x0, 0x0, 0x0, false, 0, false, true⟩ -- PAT_PROBE_ENT
]

/-- The registers of the TIR page. -/
def tirRows : List RegRow := [
  ⟨0x100, 0, 1, 0x1E, 0x3F, 0x0, true, 0, false, false⟩, -- TIR_CFG
  ⟨0x104, 0, 1, 0x4210, 0xFFFF, 0x0, true, 0, false, false⟩, -- TIR_HEAT_CFG
  ⟨0x110, 4, 4, 0x4800108, 0x7FFFFFF, 0x0, true, 0, false, false⟩, -- TIR_CLASS_CFG
  ⟨0x120, 0, 1, 0x200, 0xFFFF, 0x0, true, 0, false, false⟩, -- TIR_SCAN_CFG
  ⟨0x124, 0, 1, 0x0, 0x0, 0x0, false, 0, false, false⟩, -- TIR_SCAN_PASS
  ⟨0x128, 0, 1, 0x0, 0x7FFFFFFF, 0x0, false, 0, false, false⟩, -- TIR_SCAN_POS
  ⟨0x130, 0, 1, 0x400100, 0xFF0FFF, 0x0, true, 0, false, false⟩, -- TIR_MOVE_CFG
  ⟨0x134, 0, 1, 0x0, 0x0, 0x0, false, 0, false, false⟩, -- TIR_MOVE_STS
  ⟨0x138, 0, 1, 0x80, 0x3FF, 0x0, true, 0, false, false⟩, -- TIR_SPLIT_MIN
  ⟨0x140, 0, 1, 0x0, 0x7FFFFE00000, 0x0, false, 2, false, true⟩, -- TIR_MAP_BASE
  ⟨0x148, 0, 1, 0x0, 0x1FFFFFF, 0x0, false, 2, false, false⟩, -- TIR_MAP_CFG
  ⟨0x14C, 0, 1, 0x100, 0xFFFF, 0x0, true, 0, false, false⟩, -- TIR_MAP_RSV
  ⟨0x150, 0, 1, 0x10000, 0x1FFFFFF, 0x0, true, 0, false, false⟩, -- TIR_MAP_LOW
  ⟨0x154, 0, 1, 0x0, 0x0, 0x0, false, 0, false, false⟩, -- TIR_MAP_FREE
  ⟨0x158, 0, 1, 0x0, 0x7FFFFE00000, 0x0, false, 2, false, true⟩, -- TIR_FRAME_TBL_BASE
  ⟨0x160, 0, 1, 0x1000, 0x1FFFFFF, 0x0, true, 0, false, false⟩, -- TIR_FRAME_LOW
  ⟨0x164, 0, 1, 0x10, 0xFFFF, 0x0, true, 0, false, false⟩, -- TIR_FRAME_RSV
  ⟨0x168, 0, 1, 0x0, 0x0, 0x0, false, 0, false, false⟩, -- TIR_FRAME_FREE
  ⟨0x170, 0, 1, 0x2000, 0xFFFF, 0x0, true, 0, false, false⟩, -- TIR_WIPE_CFG
  ⟨0x174, 0, 1, 0x0, 0x0, 0x0, false, 0, false, false⟩, -- TIR_WIPE_STS
  ⟨0x178, 0, 1, 0x0, 0x0, 0x0, false, 0, false, false⟩, -- TIR_EVAC
  ⟨0x180, 0, 1, 0x0, 0xFFF, 0x0, false, 0, false, false⟩, -- TIR_MOVE_SEL
  ⟨0x188, 0, 1, 0x0, 0x0, 0x0, false, 0, true, true⟩, -- TIR_MOVE_INFO
  ⟨0x190, 0, 1, 0x0, 0x0, 0x0, false, 0, true, true⟩, -- TIR_MOVE_SN
  ⟨0x198, 0, 1, 0x0, 0x0, 0x0, false, 0, false, true⟩, -- TIR_FAIL_INFO
  ⟨0x1A0, 0, 1, 0x0, 0x0, 0x0, false, 0, false, true⟩, -- TIR_FAIL_SN
  ⟨0x1A8, 0, 1, 0x0, 0x0, 0x0, false, 0, false, true⟩ -- TIR_SQUEEZE
]

/-- The registers of the CMP page. -/
def cmpRows : List RegRow := [
  ⟨0x100, 0, 1, 0x4, 0x7, 0x0, true, 1, false, false⟩, -- CMP_CFG
  ⟨0x104, 0, 1, 0x0, 0x0, 0x0, false, 0, false, false⟩, -- CMP_INFO
  ⟨0x108, 0, 1, 0x0, 0x0, 0x0, false, 0, false, false⟩, -- CMP_STS
  ⟨0x110, 0, 1, 0x0, 0x0, 0x0, false, 0, false, true⟩, -- CMP_ENC_CNT
  ⟨0x118, 0, 1, 0x0, 0x0, 0x0, false, 0, false, true⟩, -- CMP_NOFIT_CNT
  ⟨0x120, 0, 1, 0x0, 0x0, 0x0, false, 0, false, true⟩, -- CMP_DEC_CNT
  ⟨0x130, 0, 1, 0x0, 0x0, 0xFFFFFFFF, false, 0, false, false⟩, -- CMP_CHK_CNT
  ⟨0x134, 0, 1, 0x0, 0x0, 0xFFFFFFFF, false, 0, false, false⟩, -- CMP_FMT_CNT
  ⟨0x138, 0, 1, 0x0, 0x0, 0x0, false, 0, false, false⟩, -- CMP_CHK_HDR
  ⟨0x140, 0, 1, 0x0, 0x0, 0x0, false, 0, false, true⟩, -- CMP_CHK_ADDR
  ⟨0x148, 0, 1, 0x0, 0x0, 0x0, false, 0, false, true⟩ -- CMP_CHK_SN
]

/-- The registers of the CRY page. -/
def cryRows : List RegRow := [
  ⟨0x100, 0, 1, 0x2, 0x7, 0x0, true, 1, false, false⟩, -- CRY_CFG
  ⟨0x104, 0, 1, 0x0, 0x0, 0x0, false, 0, false, false⟩, -- CRY_STS
  ⟨0x108, 0, 1, 0x0, 0x0, 0x0, false, 0, false, false⟩, -- CRY_GEN
  ⟨0x110, 0, 1, 0x0, 0x0, 0x0, false, 0, false, true⟩, -- CRY_KNIT_LINE
  ⟨0x118, 0, 1, 0x0, 0x0, 0x0, false, 0, false, true⟩, -- CRY_TBL_KNIT
  ⟨0x120, 0, 1, 0x0, 0x0, 0x0, false, 1, false, false⟩, -- CRY_REKNIT_CTL
  ⟨0x124, 0, 1, 0x0, 0x0, 0x1, false, 0, false, false⟩, -- CRY_REKNIT_STS
  ⟨0x128, 0, 1, 0x2000, 0xFFFFF, 0x0, true, 1, false, false⟩, -- CRY_REKNIT_RATE
  ⟨0x12C, 0, 1, 0x4000, 0xFFFFF, 0x0, true, 1, false, false⟩, -- CRY_REKNIT_YRATE
  ⟨0x130, 0, 1, 0x15180, 0xFFFFFFFF, 0x0, false, 1, false, false⟩, -- CRY_REKNIT_PERIOD
  ⟨0x138, 0, 1, 0x0, 0x0, 0x0, false, 0, false, true⟩, -- CRY_REKNIT_START_SN
  ⟨0x140, 0, 1, 0x0, 0x0, 0x0, false, 0, false, true⟩, -- CRY_REKNIT_END_SN
  ⟨0x148, 0, 1, 0x4, 0xFF, 0x0, true, 1, false, false⟩, -- CRY_MACDEV_THR
  ⟨0x150, 0, 1, 0x0, 0x3F, 0x0, false, 1, false, false⟩, -- CRY_RIGHT_SEL
  ⟨0x158, 0, 1, 0x0, 0xFFFFFFFFFFFF0FFF, 0x0, true, 3, true, true⟩, -- CRY_RIGHT
  ⟨0x180, 4, 16, 0x0, 0xFFFF, 0x0, false, 1, false, false⟩ -- CRY_MACDEV_FAIL
]

/-- The registers of the DC page. -/
def dcRows0 : List RegRow := [
  ⟨0x100, 0, 1, 0x0, 0x7F, 0x0, false, 2, false, false⟩, -- DC_CFG
  ⟨0x104, 0, 1, 0x0, 0x7F, 0x0, false, 2, false, false⟩, -- DC_POP
  ⟨0x108, 0, 1, 0x0, 0x0, 0x0, false, 0, false, false⟩, -- DC_STS
  ⟨0x10C, 0, 1, 0x0, 0x0, 0x0, false, 0, false, false⟩, -- DC_PLAN
  ⟨0x110, 0, 1, 0x0, 0xFFFFFFFFFFFFFFFF, 0x0, false, 2, false, true⟩, -- DC_TIM0
  ⟨0x118, 0, 1, 0x0, 0xFFFFFFFFFFFFFFFF, 0x0, false, 2, false, true⟩, -- DC_TIM1
  ⟨0x120, 0, 1, 0x4, 0xF, 0x0, true, 2, false, false⟩, -- DC_REF_CFG
  ⟨0x124, 0, 1, 0x0, 0x0, 0x0, false, 0, false, false⟩, -- DC_TEMP
  ⟨0x130, 4, 4, 0x0, 0x3FFFFFF, 0x0, true, 2, false, false⟩, -- DC_PORT_CFG
  ⟨0x140, 0, 1, 0xC020040, 0x3FFFFFFF, 0x0, true, 2, false, false⟩, -- DC_PANIC
  ⟨0x144, 0, 1, 0x2060, 0xFFFF, 0x0, true, 2, false, false⟩, -- DC_WQ_CFG
  ⟨0x148, 0, 1, 0x10, 0x1F, 0x0, true, 2, false, false⟩, -- DC_HIT_CAP
  ⟨0x14C, 0, 1, 0x1, 0xFFFF, 0x0, true, 2, false, false⟩, -- DC_SCRUB_CFG
  ⟨0x150, 0, 1, 0x0, 0x0, 0x0, false, 0, false, true⟩, -- DC_SCRUB_POS
  ⟨0x158, 0, 1, 0x0, 0x0, 0x0, false, 0, false, false⟩, -- DC_SCRUB_PASS
  ⟨0x15C, 0, 1, 0x4, 0xF, 0x0, false, 2, false, false⟩, -- DC_RETRY_CFG
  ⟨0x160, 0, 1, 0x0, 0x0, 0xFFFFFFFF, false, 0, false, false⟩, -- DC_RETRY_CNT
  ⟨0x164, 0, 1, 0x0, 0x0, 0xFFFFFFFF, false, 0, false, false⟩, -- DC_CE_CNT
  ⟨0x168, 0, 1, 0x0, 0x0, 0xFFFFFFFF, false, 0, false, false⟩, -- DC_UE_CNT
  ⟨0x170, 0, 1, 0xFAC688, 0xFFFFFFFFF, 0x0, false, 2, false, true⟩, -- DC_RANK_MAP
  ⟨0x178, 0, 1, 0x0, 0x1E, 0x20, false, 2, false, false⟩, -- DC_SPARE_CTL
  ⟨0x17C, 0, 1, 0x2000, 0xFFFFF, 0x0, true, 2, false, false⟩, -- DC_SPARE_CFG
  ⟨0x180, 0, 1, 0x0, 0x0, 0x0, false, 0, false, true⟩, -- DC_SPARE_PTR
  ⟨0x188, 0, 1, 0x0, 0x7FFE, 0x0, false, 2, false, false⟩, -- DC_PPR_CTL
  ⟨0x18C, 0, 1, 0x0, 0x3FFFF, 0x0, false, 2, false, false⟩, -- DC_PPR_ROW
  ⟨0x200, 0, 1, 0x5, 0x1FF0007, 0x10, false, 2, false, false⟩, -- DC_ILV
  ⟨0x208, 0, 1, 0x0, 0x0, 0x0, false, 0, false, true⟩, -- DC_INSTALLED
  ⟨0x210, 0, 1, 0x0, 0x0, 0x0, false, 2, false, false⟩, -- DC_CHSPARE
  ⟨0x280, 4, 32, 0x0, 0x1FF801F, 0x0, false, 2, false, false⟩, -- DC_REMAP
  ⟨0x190, 0, 1, 0x0, 0x0, 0x0, false, 0, false, false⟩ -- DC_BW_RDA
]

/-- (continued) -/
def dcRows1 : List RegRow := [
  ⟨0x194, 0, 1, 0x0, 0x0, 0x0, false, 0, false, false⟩, -- DC_BW_WRA
  ⟨0x198, 0, 1, 0x0, 0x0, 0x0, false, 0, false, false⟩, -- DC_BW_RDB
  ⟨0x19C, 0, 1, 0x0, 0x0, 0x0, false, 0, false, false⟩, -- DC_BW_WRB
  ⟨0x1A0, 0, 1, 0x0, 0x0, 0x0, false, 0, false, false⟩, -- DC_BW_MAINT
  ⟨0x1A4, 0, 1, 0x0, 0x0, 0x0, false, 0, false, false⟩ -- DC_BW_STS
]

/-- All of them. -/
def dcRows : List RegRow := dcRows0 ++ dcRows1

/-- The registers of the GAU page. -/
def gauRows : List RegRow := [
  ⟨0x100, 0, 1, 0x4001, 0xFF03, 0x0, true, 1, false, false⟩, -- GAU_CFG
  ⟨0x108, 0, 1, 0xC040814, 0x1F0F3F1F, 0x0, false, 1, false, false⟩, -- GAU_ADM_CFG
  ⟨0x110, 0, 1, 0x400004000080002, 0xFFFFFFFFFFFFFFFF, 0x0, true, 1, false, true⟩, -- GAU_CLASS_TGT
  ⟨0x118, 0, 1, 0x10408, 0xFFFFFF, 0x0, true, 1, false, false⟩, -- GAU_WEIGHT
  ⟨0x11C, 0, 1, 0x60, 0x3FF, 0x0, true, 1, false, false⟩, -- GAU_POOL_CFG
  ⟨0x120, 0, 1, 0x0, 0x3FF, 0x0, false, 1, false, false⟩, -- GAU_BUD_SEL
  ⟨0x128, 0, 1, 0x0, 0xFFFFF000FFFFF, 0x0, false, 1, true, true⟩, -- GAU_BUD
  ⟨0x130, 0, 1, 0x0, 0x0, 0x0, false, 0, true, true⟩, -- GAU_BUD_LIVE
  ⟨0x138, 0, 1, 0x0, 0x0, 0x0, false, 1, false, false⟩, -- GAU_COMMIT
  ⟨0x140, 0, 1, 0x0, 0x0, 0x0, false, 0, false, true⟩, -- GAU_COMMIT_SN
  ⟨0x148, 0, 1, 0x0, 0x0, 0x0, false, 0, false, false⟩, -- GAU_CAP
  ⟨0x14C, 0, 1, 0x4020100, 0x0, 0x0, false, 0, false, false⟩, -- GAU_SCALE
  ⟨0x150, 0, 1, 0x0, 0x0, 0x0, false, 0, false, true⟩, -- GAU_ADM_SUM
  ⟨0x158, 0, 1, 0x0, 0x0, 0x0, false, 0, false, true⟩, -- GAU_WIN_SN
  ⟨0x160, 0, 1, 0x0, 0x0, 0xFFFFFFFF, false, 0, false, false⟩, -- GAU_STANDING_CNT
  ⟨0x168, 0, 1, 0x0, 0x0, 0x0, false, 0, false, true⟩, -- GAU_MISS_LO
  ⟨0x170, 0, 1, 0x0, 0x0, 0x0, false, 0, false, true⟩, -- GAU_MISS_HI
  ⟨0x178, 0, 1, 0x0, 0x3FF, 0x0, false, 1, false, false⟩, -- GAU_MON_SEL
  ⟨0x180, 0, 1, 0x0, 0x0, 0x0, false, 0, true, true⟩, -- GAU_MON
  ⟨0x188, 0, 1, 0x0, 0x0, 0x0, false, 0, false, false⟩, -- GAU_HEARTH_LAT
  ⟨0x18C, 0, 1, 0x0, 0x0, 0xFFFFFFFF, false, 0, false, false⟩, -- GAU_HEARTH_OVR
  ⟨0x190, 0, 1, 0x0, 0x0, 0xFFFFFFFF, false, 0, false, false⟩ -- GAU_HEARTH_OUT
]

/-- The registers of the QMG page. -/
def qmgRows : List RegRow := [
  ⟨0x100, 0, 1, 0x400, 0x7FF, 0x0, true, 0, false, false⟩, -- QMG_CFG
  ⟨0x104, 0, 1, 0x0, 0x0, 0x0, false, 0, false, false⟩, -- QMG_STS
  ⟨0x108, 0, 1, 0x0, 0x1FFF, 0x0, false, 1, false, false⟩, -- QMG_QP_SEL
  ⟨0x10C, 0, 1, 0x20000, 0x0, 0x0, false, 1, true, false⟩, -- QMG_QP_ASSIGN
  ⟨0x110, 0, 1, 0x0, 0x0, 0x0, false, 0, true, true⟩, -- QMG_QP_STS
  ⟨0x118, 0, 1, 0xFFFFFFFFFFFFFFFF, 0x0, 0x0, false, 0, false, true⟩, -- QMG_GRP_ARMED
  ⟨0x120, 0, 1, 0xFFFFFFFFFFFFFFFF, 0x0, 0x0, false, 0, false, true⟩, -- QMG_CQ_ARMED
  ⟨0x128, 0, 1, 0x0, 0x0, 0x0, false, 0, false, true⟩, -- QMG_JOB_CNT
  ⟨0x130, 0, 1, 0x0, 0x0, 0xFFFFFFFF, false, 0, false, false⟩, -- QMG_ERR_CNT
  ⟨0x400, 4, 256, 0x0, 0x0, 0x0, false, 0, false, false⟩ -- QMG_HALTED
]

/-- The registers of the DMV page. -/
def dmvRows : List RegRow := [
  ⟨0x100, 0, 1, 0x0, 0x0, 0x0, false, 0, false, false⟩, -- DMV_STS
  ⟨0x108, 0, 1, 0x0, 0x0, 0xFFFFFFFFFFFFFFFF, false, 0, false, true⟩, -- DMV_DONE
  ⟨0x110, 0, 1, 0x0, 0x0, 0x0, false, 0, false, true⟩, -- DMV_HALT
  ⟨0x118, 0, 1, 0x0, 0x0, 0x0, false, 0, false, true⟩, -- DMV_RUN
  ⟨0x120, 0, 1, 0x0, 0x3F, 0x0, false, 1, false, false⟩, -- DMV_CH_SEL
  ⟨0x128, 0, 1, 0x30, 0x1FFFC, 0x0, false, 1, true, false⟩, -- DMV_CH_CTL
  ⟨0x12C, 0, 1, 0x0, 0xFFFFFFFF, 0x0, false, 1, true, false⟩, -- DMV_CH_XFORM
  ⟨0x130, 0, 1, 0x0, 0x3FFFFFFFFFFFFFF, 0x0, false, 1, true, true⟩, -- DMV_CH_SRC
  ⟨0x138, 0, 1, 0x0, 0x3FFFFFFFFFFFFFF, 0x0, false, 1, true, true⟩, -- DMV_CH_DST
  ⟨0x140, 0, 1, 0x0, 0xFFFFFFFFFF, 0x0, false, 1, true, true⟩, -- DMV_CH_STRIDE
  ⟨0x148, 0, 1, 0x0, 0xFFFFFFFF7FFFFFFF, 0x0, false, 1, true, true⟩, -- DMV_CH_ROUND
  ⟨0x150, 0, 1, 0x0, 0xFFFFFFFFFFFF, 0x0, false, 1, true, true⟩, -- DMV_CH_SRC_POS
  ⟨0x158, 0, 1, 0x0, 0xFFFFFFFFFFFF, 0x0, false, 1, true, true⟩, -- DMV_CH_DST_POS
  ⟨0x160, 0, 1, 0x0, 0x0, 0x0, false, 0, true, false⟩, -- DMV_CH_STS
  ⟨0x168, 0, 1, 0x0, 0x0, 0x0, false, 0, true, false⟩, -- DMV_CH_DONE_CNT
  ⟨0x170, 0, 1, 0x0, 0x0, 0x0, false, 0, true, true⟩, -- DMV_CH_DONE_SN
  ⟨0x178, 0, 1, 0x0, 0x0, 0x0, false, 0, true, true⟩, -- DMV_CH_ERR_ADDR
  ⟨0x800, 8, 32, 0x0, 0x1FFFFFF, 0x0, true, 1, false, true⟩ -- DMV_TMR
]

/-- The registers of the YP page. -/
def ypRows : List RegRow := [
  ⟨0x100, 0, 1, 0x1, 0x9, 0x0, false, 1, false, false⟩, -- YP_CTL
  ⟨0x104, 0, 1, 0x0, 0xFF, 0x0, false, 1, false, false⟩, -- YP_TRAIN_CFG
  ⟨0x108, 0, 1, 0x0, 0x0, 0x0, false, 0, false, false⟩, -- YP_LINK_STS
  ⟨0x110, 0, 1, 0x840, 0xFFFF, 0x0, true, 1, false, false⟩, -- YP_ACK_CFG
  ⟨0x114, 0, 1, 0x4418, 0xFFFF, 0x0, true, 1, false, false⟩, -- YP_REPLAY_CFG
  ⟨0x118, 0, 1, 0x100400, 0xFFFFFF, 0x0, true, 1, false, false⟩, -- YP_TIMER_CFG
  ⟨0x11C, 0, 1, 0x1E85, 0xFFFFFFFF, 0x0, true, 1, false, false⟩, -- YP_DOWN_CFG
  ⟨0x120, 0, 1, 0x0, 0x0, 0x0, false, 0, false, false⟩, -- YP_SEQ_STS
  ⟨0x124, 0, 1, 0x0, 0x0, 0x0, false, 0, false, false⟩, -- YP_RX_STS
  ⟨0x128, 0, 1, 0x0, 0x0, 0x0, false, 0, false, false⟩, -- YP_REPLAY_STS
  ⟨0x12C, 0, 1, 0x40, 0x1FF, 0x0, false, 1, false, false⟩, -- YP_TXN_CFG
  ⟨0x130, 0, 1, 0x10000, 0xFFFFFF, 0x0, false, 1, false, false⟩, -- YP_WRITE_WIN
  ⟨0x134, 0, 1, 0x0, 0x0, 0x0, false, 0, false, false⟩, -- YP_TXN_STS
  ⟨0x140, 0, 1, 0x0, 0x0, 0xFFFFFFFF, false, 0, false, false⟩, -- YP_RXERR_CNT
  ⟨0x144, 0, 1, 0x0, 0x0, 0xFFFFFFFF, false, 0, false, false⟩, -- YP_NAK_TX_CNT
  ⟨0x148, 0, 1, 0x0, 0x0, 0xFFFFFFFF, false, 0, false, false⟩, -- YP_NAK_RX_CNT
  ⟨0x14C, 0, 1, 0x0, 0x0, 0xFFFFFFFF, false, 0, false, false⟩, -- YP_REPLAY_CNT
  ⟨0x150, 0, 1, 0x0, 0x0, 0xFFFFFFFF, false, 0, false, false⟩, -- YP_TIMEOUT_CNT
  ⟨0x154, 0, 1, 0x0, 0x0, 0xFFFFFFFF, false, 0, false, false⟩, -- YP_RETRAIN_CNT
  ⟨0x158, 0, 1, 0x0, 0x0, 0xFFFFFFFF, false, 0, false, false⟩, -- YP_TAGFAIL_CNT
  ⟨0x160, 0, 1, 0x0, 0x0, 0x0, false, 0, false, true⟩ -- YP_LAST_CHG_SN
]

/-- The registers of the CTG page. -/
def ctgRows : List RegRow := [
  ⟨0x100, 0, 1, 0x1FFFF, 0x1FFFF, 0x0, true, 1, false, false⟩, -- CTG_CFG
  ⟨0x104, 0, 1, 0x3D40384, 0x3FF03FF, 0x0, true, 1, false, false⟩, -- CTG_WEAR_CFG
  ⟨0x108, 0, 1, 0x1312D, 0xFFFFFF, 0x0, false, 1, false, false⟩, -- CTG_ATTACH_TO
  ⟨0x10C, 0, 1, 0x40, 0xFFFF, 0x0, true, 1, false, false⟩, -- CTG_RECLAIM
  ⟨0x110, 0, 1, 0x773594, 0xFFFFFFFF, 0x0, false, 1, false, false⟩, -- CTG_WEAR_POLL
  ⟨0x114, 0, 1, 0xC35, 0xFFFF, 0x0, true, 1, false, false⟩, -- CTG_TXN_TO
  ⟨0x118, 0, 1, 0x0, 0x7FFFFE00000, 0x0, false, 2, false, true⟩, -- CTG_ALLOC_BASE
  ⟨0x120, 0, 1, 0x0, 0x0, 0x0, false, 1, false, false⟩, -- CTG_ATTACH
  ⟨0x124, 0, 1, 0x0, 0x0, 0x0, false, 1, false, false⟩, -- CTG_ADMIT
  ⟨0x400, 64, 16, 0x0, 0x0, 0x0, false, 0, false, false⟩, -- CTG_STS
  ⟨0x408, 64, 16, 0x0, 0x0, 0x0, false, 0, false, true⟩, -- CTG_SERIAL_LO
  ⟨0x410, 64, 16, 0x0, 0x0, 0x0, false, 0, false, true⟩, -- CTG_SERIAL_HI
  ⟨0x418, 64, 16, 0x0, 0x0, 0x0, false, 0, false, false⟩, -- CTG_CAP
  ⟨0x41C, 64, 16, 0x0, 0x0, 0x0, false, 0, false, false⟩, -- CTG_FREE
  ⟨0x420, 64, 16, 0x0, 0x0, 0x0, false, 0, false, true⟩, -- CTG_WEAR
  ⟨0x428, 64, 16, 0x0, 0x0, 0x0, false, 0, false, true⟩, -- CTG_BUDGET
  ⟨0x430, 64, 16, 0x0, 0x0, 0x0, false, 0, false, true⟩, -- CTG_ATTACH_SN
  ⟨0x438, 64, 16, 0x0, 0x0, 0x0, false, 0, false, false⟩ -- CTG_UNCLEAN
]

/-- The registers of the NOC page. -/
def nocRows : List RegRow := [
  ⟨0x100, 0, 1, 0x100, 0x3FF, 0x0, true, 1, false, false⟩, -- NOC_CFG
  ⟨0x104, 0, 1, 0x0, 0x0, 0x0, false, 0, false, false⟩, -- NOC_STS
  ⟨0x108, 0, 1, 0x0, 0x0, 0x0, false, 1, false, false⟩, -- NOC_RT_CTL
  ⟨0x10C, 0, 1, 0x0, 0x1FFFF, 0x0, false, 2, false, false⟩, -- NOC_RT_SEL
  ⟨0x110, 0, 1, 0x0, 0x1, 0x0, false, 2, true, false⟩, -- NOC_RT_ENT
  ⟨0x114, 0, 1, 0x0, 0x0, 0x0, false, 2, false, false⟩, -- NOC_RT_CMD
  ⟨0x118, 0, 1, 0xFF, 0x0, 0x0, true, 1, false, false⟩, -- NOC_PLANE_CFG
  ⟨0x11C, 0, 1, 0x40, 0xFFFF, 0x0, false, 1, false, false⟩, -- NOC_PLANE_THR
  ⟨0x120, 0, 1, 0x0, 0x0, 0x0, false, 0, false, true⟩, -- NOC_SWAP_SN
  ⟨0x128, 0, 1, 0x0, 0x0, 0x0, false, 0, false, true⟩, -- NOC_DRAIN_SN
  ⟨0x130, 0, 1, 0x400, 0xFFFF, 0x0, false, 1, false, false⟩, -- NOC_WAKE_TO
  ⟨0x134, 0, 1, 0x0, 0x0, 0xFFFFFFFF, false, 0, false, false⟩, -- NOC_ECC_CNT
  ⟨0x138, 0, 1, 0x0, 0x3FF, 0x0, false, 1, false, false⟩, -- NOC_EP_SEL
  ⟨0x13C, 0, 1, 0x0, 0x0, 0x0, false, 0, true, false⟩, -- NOC_EP_INFO
  ⟨0x140, 0, 1, 0x2, 0x3, 0x4, false, 1, false, false⟩, -- NOC_TRC_CTL
  ⟨0x144, 0, 1, 0x0, 0x0, 0x0, false, 0, false, false⟩, -- NOC_TRC_PTR
  ⟨0x148, 0, 1, 0x0, 0xFFFF, 0x0, false, 1, false, false⟩, -- NOC_TRC_SEL
  ⟨0x150, 8, 2, 0x0, 0x0, 0x0, false, 0, false, true⟩, -- NOC_TRC_DATA
  ⟨0x200, 32, 16, 0xBC000, 0xFFFFF, 0x0, false, 1, false, false⟩, -- NOC_PRB_CFG
  ⟨0x208, 32, 16, 0x0, 0xFFFFFFFFFFFFFF, 0x0, false, 1, false, true⟩, -- NOC_PRB_MATCH
  ⟨0x210, 32, 16, 0x0, 0x0, 0x0, false, 0, false, true⟩ -- NOC_PRB_CNT
]

/-- The registers of the FCU page. -/
def fcuRows : List RegRow := [
  ⟨0x100, 0, 1, 0x3, 0x3, 0x0, false, 1, false, false⟩, -- FCU_CFG
  ⟨0x104, 0, 1, 0x0, 0x0, 0x0, false, 0, false, false⟩, -- FCU_FATAL
  ⟨0x108, 0, 1, 0x0, 0x0, 0x0, false, 0, false, true⟩, -- FCU_FATAL_SN
  ⟨0x110, 0, 1, 0x0, 0x3FF, 0x0, false, 1, false, false⟩, -- FCU_SEL
  ⟨0x114, 0, 1, 0x0, 0x7, 0x0, true, 1, true, false⟩, -- FCU_SRC_CFG
  ⟨0x118, 0, 1, 0x0, 0x0, 0x0, false, 0, true, false⟩, -- FCU_SRC_STS
  ⟨0x120, 0, 1, 0x0, 0x0, 0x0, false, 0, true, true⟩, -- FCU_SRC_ADDR
  ⟨0x128, 0, 1, 0x0, 0x0, 0x0, false, 0, true, true⟩, -- FCU_SRC_SN
  ⟨0x130, 0, 1, 0x0, 0x0, 0x0, false, 0, true, false⟩, -- FCU_SRC_COUNT
  ⟨0x134, 0, 1, 0x0, 0x0, 0xFFFFFFFF, false, 0, true, false⟩, -- FCU_SRC_SUPP
  ⟨0x138, 0, 1, 0x0, 0x3FF, 0x0, false, 1, false, false⟩, -- FCU_INJ
  ⟨0x13C, 0, 1, 0x0, 0xFF, 0x0, false, 1, false, false⟩, -- FCU_INJ_INFO
  ⟨0x140, 0, 1, 0x0, 0xFFFFFFFFFFFFFFFF, 0x0, false, 1, false, true⟩, -- FCU_INJ_ADDR
  ⟨0x148, 0, 1, 0x0, 0x0, 0x0, false, 0, false, true⟩, -- FCU_VIRAL
  ⟨0x200, 4, 32, 0x0, 0x0, 0x0, false, 0, false, false⟩ -- FCU_STS
]

/-- The registers of the PWR page. -/
def pwrRows : List RegRow := [
  ⟨0x100, 0, 1, 0x0, 0x3, 0x0, false, 2, false, false⟩, -- PWR_MODE
  ⟨0x104, 0, 1, 0x0, 0x0, 0x80, false, 0, false, false⟩, -- PWR_STS
  ⟨0x108, 0, 1, 0x0, 0x1FFFFFF0, 0x0, true, 2, false, false⟩, -- PWR_TRIM_DOM
  ⟨0x10C, 0, 1, 0x0, 0x0, 0x0, false, 0, false, false⟩, -- PWR_DOM_STS
  ⟨0x110, 0, 1, 0x0, 0x0, 0x1FFFFFFF, false, 0, false, false⟩, -- PWR_DOM_WOKEN
  ⟨0x118, 0, 1, 0xFFFFFFFFFFFFFFFF, 0xFFFFFFFFFFFFFFFF, 0x0, true, 2, false, true⟩, -- PWR_WAKE_EN
  ⟨0x120, 0, 1, 0x2400, 0x1FFFF, 0x0, true, 2, false, false⟩, -- PWR_VSENSE_CFG
  ⟨0x124, 0, 1, 0x0, 0x0, 0x2, false, 0, false, false⟩, -- PWR_VSENSE_STS
  ⟨0x128, 0, 1, 0x0, 0xFFFFFFFFFFFFFFFF, 0x0, false, 2, false, true⟩, -- PWR_WAKE_SN
  ⟨0x130, 0, 1, 0x0, 0x0, 0x0, false, 0, false, false⟩, -- PWR_LAST_WAKE
  ⟨0x138, 0, 1, 0x0, 0x0, 0x0, false, 0, false, true⟩, -- PWR_LAST_WAKE_SN
  ⟨0x140, 0, 1, 0x0, 0x0, 0x0, false, 0, false, true⟩, -- PWR_REQ_SN
  ⟨0x148, 0, 1, 0x0, 0x0, 0x0, false, 0, false, true⟩ -- PWR_DONE_SN
]

/-- The registers of the STR page. -/
def strRows : List RegRow := [
  ⟨0x100, 0, 1, 0x0, 0x0, 0x0, false, 0, false, false⟩, -- STR_STS
  ⟨0x104, 0, 1, 0x0, 0x0, 0x0, false, 0, false, false⟩, -- STR_POLICY
  ⟨0x108, 0, 1, 0x0, 0x0, 0x0, false, 0, false, true⟩, -- STR_SERIAL_LO
  ⟨0x110, 0, 1, 0x0, 0x0, 0x0, false, 0, false, true⟩, -- STR_SERIAL_HI
  ⟨0x118, 0, 1, 0x0, 0x0, 0x0, false, 0, false, false⟩, -- STR_FW_RUN
  ⟨0x11C, 0, 1, 0x0, 0x0, 0x0, false, 0, false, false⟩, -- STR_FW_SVN
  ⟨0x120, 0, 1, 0x0, 0x0, 0x0, false, 0, false, false⟩, -- STR_FW_SLOT
  ⟨0x124, 0, 1, 0x1312D, 0xFFFFFF, 0x0, true, 2, false, false⟩, -- STR_ACT_CFG
  ⟨0x128, 0, 1, 0x0, 0x0, 0x0, false, 2, false, false⟩, -- STR_ACT_CTL
  ⟨0x130, 0, 1, 0x0, 0x0, 0x0, false, 0, false, true⟩, -- STR_ACT_SN
  ⟨0x138, 0, 1, 0x0, 0x0, 0x0, false, 0, false, true⟩, -- STR_ACT_END_SN
  ⟨0x140, 0, 1, 0x0, 0x0, 0x0, false, 0, false, false⟩, -- STR_START
  ⟨0x148, 0, 1, 0x0, 0x0, 0x0, false, 0, false, true⟩, -- STR_START_SN
  ⟨0x150, 0, 1, 0x0, 0x0, 0xFFFFFFFF, false, 0, false, false⟩, -- STR_TRNG_FAIL
  ⟨0x154, 0, 1, 0x0, 0x0, 0x0, false, 0, false, false⟩, -- STR_SESS
  ⟨0x158, 0, 1, 0x0, 0xFFFFFFFFFFFFFFFF, 0x0, false, 0, false, true⟩, -- STR_RIGHT_REQ
  ⟨0x160, 0, 1, 0x0, 0x3F, 0x0, false, 0, false, false⟩ -- STR_RIGHT_CTL
]

/-- The registers of the DBG page. -/
def dbgRows : List RegRow := [
  ⟨0x100, 0, 1, 0x0, 0x0, 0x0, false, 0, false, false⟩, -- DBG_STS
  ⟨0x108, 0, 1, 0x0, 0x0, 0x0, false, 0, false, true⟩, -- DBG_EXPIRY_SN
  ⟨0x110, 0, 1, 0x0, 0x0, 0x0, false, 0, false, true⟩, -- DBG_ROOMS
  ⟨0x118, 0, 1, 0x0, 0x2, 0x0, true, 0, false, false⟩, -- DBG_CTL
  ⟨0x120, 8, 4, 0x0, 0x0, 0x0, false, 0, false, true⟩, -- DBG_CHAL
  ⟨0x140, 0, 1, 0x0, 0xFFFFFFFFFFFC0, 0x0, false, 0, false, true⟩, -- DBG_MEM_ADDR
  ⟨0x148, 0, 1, 0x0, 0xC, 0x0, false, 0, false, false⟩, -- DBG_MEM_CTL
  ⟨0x200, 4, 32, 0x0, 0xFFFFFFFF, 0x0, false, 0, false, false⟩ -- DBG_MEM_DATA
]

/-- The registers of the HWL page. -/
def hwlRows : List RegRow := [
  ⟨0x104, 0, 1, 0x0, 0xFFF, 0x0, false, 1, false, false⟩, -- HWL_TRAIN_CFG
  ⟨0x108, 0, 1, 0x0, 0x0, 0x0, false, 0, false, false⟩, -- HWL_LINK_STS
  ⟨0x128, 0, 1, 0x0, 0x0, 0x0, false, 0, false, false⟩ -- HWL_REPLAY_STS
]

/-- The registers of the TWN page. -/
def twnRows : List RegRow := [
  ⟨0x100, 0, 1, 0x0, 0x3, 0x0, true, 1, false, false⟩, -- TWN_CFG
  ⟨0x104, 0, 1, 0x0, 0x0, 0x0, false, 0, false, false⟩, -- TWN_STS
  ⟨0x108, 0, 1, 0x3D09, 0xFFFFFF, 0x0, true, 1, false, false⟩, -- TWN_FENCE
  ⟨0x10C, 0, 1, 0x1000040, 0xFFFF07FF, 0x0, true, 1, false, false⟩, -- TWN_SPLIT_CFG
  ⟨0x110, 0, 1, 0x0, 0x0, 0x0, false, 0, false, false⟩, -- TWN_EPOCH
  ⟨0x118, 0, 1, 0x0, 0xFFFFFFFFFFFFFFFF, 0x0, false, 1, false, true⟩, -- TWN_PEER_SERIAL_LO
  ⟨0x120, 0, 1, 0x0, 0xFFFFFFFFFFFFFFFF, 0x0, false, 1, false, true⟩, -- TWN_PEER_SERIAL_HI
  ⟨0x128, 0, 1, 0x0, 0x0, 0x0, false, 1, false, true⟩, -- TWN_WITNESS
  ⟨0x130, 0, 1, 0x0, 0x0, 0x4, false, 0, false, false⟩, -- TWN_WITNESS_STS
  ⟨0x138, 0, 1, 0x0, 0x0, 0x0, false, 0, false, true⟩, -- TWN_SPLIT_SN
  ⟨0x140, 0, 1, 0x0, 0x0, 0x0, false, 0, false, true⟩, -- TWN_DECIDE_SN
  ⟨0x148, 0, 1, 0x0, 0x0, 0x0, false, 0, false, true⟩, -- TWN_SOLO_SN
  ⟨0x150, 0, 1, 0x0, 0x0, 0x0, false, 0, false, true⟩, -- TWN_PAIR_SN
  ⟨0x158, 0, 1, 0x0, 0x0, 0x0, false, 1, false, false⟩, -- TWN_CTL
  ⟨0x15C, 0, 1, 0x400, 0x7FF, 0x0, false, 1, false, false⟩, -- TWN_MWR_CFG
  ⟨0x160, 0, 1, 0x0, 0x0, 0x0, false, 0, false, false⟩, -- TWN_MWR_STS
  ⟨0x168, 0, 1, 0x800, 0xFFFFF, 0x0, false, 1, false, false⟩, -- TWN_SYNC_CFG
  ⟨0x170, 0, 1, 0x0, 0x0, 0x0, false, 0, false, true⟩, -- TWN_SYNC_POS
  ⟨0x178, 0, 1, 0x0, 0x0, 0x0, false, 0, false, true⟩, -- TWN_ROOMS
  ⟨0x180, 0, 1, 0x0, 0x0, 0x0, false, 0, false, true⟩ -- TWN_PEER_STS
]

/-- The registers of the MGC page. -/
def mgcRows : List RegRow := [
  ⟨0x100, 0, 1, 0x0, 0x0, 0xFFFFFFFFFFFFFFFF, false, 2, false, true⟩, -- MGC_TAL_GRP
  ⟨0x108, 0, 1, 0x0, 0x1, 0x0, true, 2, false, false⟩, -- MGC_TAL_CFG
  ⟨0x200, 64, 4, 0x0, 0x3FF, 0x0, false, 2, false, false⟩, -- MGC_PROF_CTL
  ⟨0x204, 64, 4, 0x0, 0x3FF, 0x0, false, 2, false, false⟩, -- MGC_PROF_CTL
  ⟨0x208, 64, 4, 0x0, 0x3FF, 0x0, false, 2, false, false⟩, -- MGC_PROF_CTL
  ⟨0x20C, 64, 4, 0x0, 0x3FF, 0x0, false, 2, false, false⟩, -- MGC_PROF_CTL
  ⟨0x210, 64, 4, 0x0, 0x0, 0x0, false, 0, false, true⟩, -- MGC_PROF_CNT
  ⟨0x218, 64, 4, 0x0, 0x0, 0x0, false, 0, false, true⟩, -- MGC_PROF_CNT
  ⟨0x220, 64, 4, 0x0, 0x0, 0x0, false, 0, false, true⟩, -- MGC_PROF_CNT
  ⟨0x228, 64, 4, 0x0, 0x0, 0x0, false, 0, false, true⟩, -- MGC_PROF_CNT
  ⟨0x230, 64, 4, 0x0, 0x0, 0x1F, false, 2, false, false⟩, -- MGC_PROF_OVF
  ⟨0x238, 64, 4, 0x0, 0x0, 0x0, false, 0, false, true⟩ -- MGC_PROF_EPC
]

end Sys2Proof.Machine
end

