-- ==== Sys2Proof/Machine/Pages.lean ====
section
/-! DEFINITION. The BAR2 directory (R49, R50), the power domain of each page, the FCU index ranges and sources (R453, R455 and the
source tables of each chapter), PG_CAP, and the value every register holds at reset (the "At reset" columns, R17). -/

namespace Sys2Proof.Machine

/-- R49: the block type of page slot `p`, `none` for a reserved slot. -/
def pageKind (p : Nat) : Option PageKind :=
  if p < 0x11 then
    match p with
    | 0 => some .gen | 1 => some .stc | 2 => some .pwr | 3 => some .fcu | 4 => some .str | 5 => some .mgc
    | 6 => some .dbg | 7 => some .noc | 8 => some .gau | 9 => some .pat | 10 => some .tir | 11 => some .cry
    | 12 => some .qmg | 13 => some .dmv | 14 => some .ctg | 15 => some .hwl | _ => some .twn
  else if p < 0x20 then none
  else if p < 0x24 then some .hp
  else if p < 0x30 then none
  else if p < 0x40 then some .dc
  else if p < 0x50 then some .yp
  else if p < 0xA0 then some .cmp
  else if p < 0x100 then none
  else if p < 0x140 then some .ldm
  else none

/-- Page numbers of the single-page blocks. -/
def Pg.gen : Nat := 0
def Pg.stc : Nat := 1
def Pg.pwr : Nat := 2
def Pg.fcu : Nat := 3
def Pg.str : Nat := 4
def Pg.mgc : Nat := 5
def Pg.dbg : Nat := 6
def Pg.noc : Nat := 7
def Pg.gau : Nat := 8
def Pg.pat : Nat := 9
def Pg.tir : Nat := 10
def Pg.cry : Nat := 11
def Pg.qmg : Nat := 12
def Pg.dmv : Nat := 13
def Pg.ctg : Nat := 14
def Pg.hwl : Nat := 15
def Pg.twn : Nat := 16
/-- Pages of the blocks with several instances. -/
def Pg.hp (n : Nat) : Nat := 0x20 + n
def Pg.dc (n : Nat) : Nat := 0x30 + n
def Pg.yp (n : Nat) : Nat := 0x40 + n
def Pg.cmp (n : Nat) : Nat := 0x50 + n
def Pg.ldm (n : Nat) : Nat := 0x100 + n

/-- The page of a Yarn-type link: 0 to 15 the Yarn ports, 16 the Hallway (R534). -/
def Pg.link (l : Nat) : Nat := if l < 16 then Pg.yp l else Pg.hwl

/-- R50: the instance number of a page. -/
def pageInst (p : Nat) : Nat :=
  match pageKind p with
  | some .hp => p - 0x20
  | some .dc => p - 0x30
  | some .yp => p - 0x40
  | some .cmp => p - 0x50
  | some .ldm => p - 0x100
  | _ => 0

/-- R49: the block type code PG_ID[31:16]. -/
def pageType (p : Nat) : Nat :=
  match pageKind p with
  | none => 0
  | some .hp => 0x20 | some .dc => 0x21 | some .yp => 0x22 | some .cmp => 0x23 | some .ldm => 0x24
  | some _ => p + 1

/-- R49 and R480: the power domain of a page. -/
def pageDomain (p : Nat) : Nat :=
  match pageKind p with
  | some .gen | some .stc | some .pwr | some .fcu => 0
  | some .str => 3
  | some .mgc | some .dbg => 1
  | some .hwl | some .twn => 4
  | some .hp => 21 + pageInst p
  | some .dc => 5 + pageInst p
  | some .yp => 25 + pageInst p / 4
  | some _ => 2
  | none => 0

/-- Every page that R49 lists, ascending. -/
def allPages : List Nat :=
  List.range 0x11 ++ (List.range 4).map Pg.hp ++ (List.range 16).map Pg.dc ++ (List.range 16).map Pg.yp ++
    (List.range 80).map Pg.cmp ++ (List.range 64).map Pg.ldm

/-- The bits of a page's PG_INT_STS that are not RSV, where its chapter says which are (R106, R205, R230, R263, R298, R328, R354, R378, R404, R427,
R450, R477, R497, R556); 32 where no chapter reserves any. -/
def intStsBits : PageKind → Nat
  | .pwr => 6 | .fcu => 5 | .noc => 6 | .gau => 6 | .tir => 11 | .cry => 5 | .qmg => 4 | .dmv => 4 | .ctg => 9 | .hwl => 8 | .twn => 10
  | .hp => 8 | .dc => 14 | .yp => 9 | .cmp => 3
  | .gen | .stc | .str | .mgc | .dbg | .pat | .ldm => 32

/-- R453: first FCU index and size of a page's range. -/
def pageFcu (p : Nat) : Nat × Nat :=
  let i := pageInst p
  match pageKind p with
  | some .gen => (0x000, 8) | some .stc => (0x008, 8) | some .pwr => (0x010, 16) | some .fcu => (0x020, 8)
  | some .hp => (if i = 0 then 0x028 else 0x1F0 + 8 * i, 8)
  | some .mgc => (0x030, 3)
  | some .dc => (if i < 4 then 0x033 + 16 * i else 0x212 + 16 * (i - 4), 16)
  | some .str => (0x080, 16) | some .dbg => (0x090, 8) | some .noc => (0x098, 8) | some .gau => (0x0A0, 8)
  | some .cry => (0x0A8, 8) | some .pat => (0x0B0, 16) | some .tir => (0x0C0, 16) | some .qmg => (0x0D0, 8)
  | some .dmv => (0x0D8, 8) | some .ctg => (0x0E0, 16) | some .hwl => (0x0F0, 8) | some .twn => (0x0F8, 8)
  | some .cmp => if i = 0 then (0x100, 8) else if i < 32 then (0x108 + 4 * (i - 1), 4) else (0x322 + 4 * (i - 32), 4)
  | some .yp => (if i < 6 then 0x1C8 + 8 * i else 0x2D2 + 8 * (i - 6), 8)
  | some .ldm | none => (0, 0)

/-- The FCU sources of a page's range, in index order: default severity (R456) and PG_INT_STS bit (255: no page bit). -/
def pageSources (k : PageKind) (inst : Nat) : List (Nat × Nat) :=
  match k with
  | .gen => [(1, 255), (1, 255), (1, 255), (1, 255)]                                           -- R453
  | .stc => [(2, 255), (2, 255), (1, 255), (1, 255)]                                           -- R38
  | .pwr => [(1, 0), (2, 1)]                                                                   -- R497
  | .hp => [(1, 255), (1, 255), (2, 6), (1, 7)]                                                -- R455
  | .mgc => [(2, 0), (5, 1), (2, 2)]                                                           -- R455
  | .dc => [(4, 0), (3, 1), (2, 2), (2, 3), (2, 4), (3, 5), (2, 6), (5, 7), (1, 8), (1, 9), (1, 10), (1, 11), (2, 12), (3, 13)] -- R298
  | .str => [(2, 0), (1, 1), (2, 2), (5, 3), (5, 4), (1, 5), (2, 6), (2, 7), (2, 8)]           -- R526
  | .dbg => [(1, 0), (2, 1), (1, 2), (1, 3)]                                                   -- R526
  | .noc => [(1, 0), (2, 1), (5, 2), (4, 3), (1, 4), (1, 5)]                                   -- R450
  | .gau => [(1, 0), (1, 1), (2, 2), (2, 3), (1, 4)]                                           -- R328
  | .cry => [(1, 0), (3, 1), (1, 2), (3, 3), (2, 4)]                                           -- R263
  | .pat => [(1, 255), (2, 255), (4, 255), (4, 255), (4, 255), (4, 255), (1, 255), (1, 255), (3, 255), (4, 255), (4, 255)] -- R136, R171
  | .tir => [(1, 0), (1, 1), (1, 2), (2, 3), (1, 4), (1, 5), (1, 6), (1, 7), (1, 8), (1, 9), (2, 10)] -- R204
  | .qmg => [(2, 0), (1, 1), (1, 2), (1, 3)]                                                   -- R354
  | .dmv => [(2, 1), (1, 2), (1, 3)]                                                           -- R378
  | .ctg => [(1, 0), (2, 1), (2, 2), (1, 3), (2, 4), (1, 5), (3, 6), (2, 7), (2, 8)]           -- R427
  | .hwl => [(2, 4), (1, 5), (1, 6), (2, 7)]                                                   -- R556
  | .twn => [(2, 4), (2, 5), (2, 6), (1, 7), (1, 8), (1, 9)]                                   -- R556
  | .cmp => if inst = 0 then [(2, 0), (3, 1), (2, 2), (4, 255), (1, 255)] else [(2, 0), (3, 1), (2, 2)] -- R230
  | .yp => [(2, 4), (1, 5), (1, 6), (2, 7), (3, 8)]                                            -- R404
  | .fcu | .ldm => []

/-- The page that owns an FCU index, if any. -/
def fcuPage (i : Nat) : Option Nat :=
  allPages.find? (fun p => let (f, n) := pageFcu p; decide (f ≤ i ∧ i < f + n))

/-- An FCU index with what its source table gives: owning page, default severity, page bit. `none` for a reserved index (R454). -/
def fcuInfo (i : Nat) : Option (Nat × Nat × Nat) :=
  match fcuPage i with
  | none => none
  | some p =>
    match pageKind p with
    | none => none
    | some k =>
      match (pageSources k (pageInst p))[i - (pageFcu p).1]? with
      | none => none
      | some (sev, b) => some (p, sev, b)

/-- The FCU index of source number `n` of page `p`. -/
def fcuIdx (p n : Nat) : Nat := (pageFcu p).1 + n

namespace Src
def barMalformed : Nat := 0x000
def barTimeout : Nat := 0x001
def barDenied : Nat := 0x002
def irqInvalid : Nat := 0x003
def stuckInput : Nat := 0x008
def quarantine : Nat := 0x009
def stitchOverrun : Nat := 0x00A
def refLoss : Nat := 0x00B
def pwrRefused : Nat := 0x010
def pwrOverrun : Nat := 0x011
def hpBadOpcode (n : Nat) : Nat := fcuIdx (Pg.hp n) 0
def hpSharedHdmH (n : Nat) : Nat := fcuIdx (Pg.hp n) 1
def hpIdeFail (n : Nat) : Nat := fcuIdx (Pg.hp n) 2
def hpReplayThr (n : Nat) : Nat := fcuIdx (Pg.hp n) 3
def coreException : Nat := 0x030
def coreMemUe : Nat := 0x031
def coreBusError : Nat := 0x032
def macLate (c : Nat) : Nat := fcuIdx (Pg.dc c) 0
def uncorrLine (c : Nat) : Nat := fcuIdx (Pg.dc c) 1
def erasureCorr (c : Nat) : Nat := fcuIdx (Pg.dc c) 2
def parityRepaired (c : Nat) : Nat := fcuIdx (Pg.dc c) 3
def macUnverifiable (c : Nat) : Nat := fcuIdx (Pg.dc c) 4
def ptlFailed (c : Nat) : Nat := fcuIdx (Pg.dc c) 5
def cmdRetry (c : Nat) : Nat := fcuIdx (Pg.dc c) 6
def chHalted (c : Nat) : Nat := fcuIdx (Pg.dc c) 7
def scrubPass (c : Nat) : Nat := fcuIdx (Pg.dc c) 8
def deliverChange (c : Nat) : Nat := fcuIdx (Pg.dc c) 9
def sparingDone (c : Nat) : Nat := fcuIdx (Pg.dc c) 10
def pprDone (c : Nat) : Nat := fcuIdx (Pg.dc c) 11
def pprFailed (c : Nat) : Nat := fcuIdx (Pg.dc c) 12
def rankFailed (c : Nat) : Nat := fcuIdx (Pg.dc c) 13
def imgRejected : Nat := 0x080
def fwActivated : Nat := 0x081
def fwReverted : Nat := 0x082
def fwActFailed : Nat := 0x083
def trngFailure : Nat := 0x084
def lcRejected : Nat := 0x085
def lcFailed : Nat := 0x086
def fuseRepaired : Nat := 0x087
def idChainInvalid : Nat := 0x088
def dbgGranted : Nat := 0x090
def dbgRefused : Nat := 0x091
def dbgDenied : Nat := 0x092
def dbgEnded : Nat := 0x093
def nocDrained : Nat := 0x098
def nocPlaneFault : Nat := 0x099
def nocHeaderUe : Nat := 0x09A
def nocWakeTo : Nat := 0x09B
def nocEccCe : Nat := 0x09C
def nocTraceFull : Nat := 0x09D
def gauCommitDone : Nat := 0x0A0
def gauScaleChange : Nat := 0x0A1
def gauHearthOver : Nat := 0x0A2
def gauHearthLate : Nat := 0x0A3
def gauStanding : Nat := 0x0A4
def reknitDone : Nat := 0x0A8
def reknitFailed : Nat := 0x0A9
def reknitSkipped : Nat := 0x0AA
def genRetired : Nat := 0x0AB
def rightsDenied : Nat := 0x0AC
def unmappedHdm : Nat := 0x0B0
def roomDenied : Nat := 0x0B1
def patInvalid : Nat := 0x0B2
def patTableUe : Nat := 0x0B3
def backingExhausted : Nat := 0x0B4
def allocRefused : Nat := 0x0B5
def quotaThreshold : Nat := 0x0B6
def parkExhausted : Nat := 0x0B7
def larderReadTo : Nat := 0x0B8
def larderWriteTo : Nat := 0x0B9
def biTimeout : Nat := 0x0BA
def moveFailed : Nat := 0x0C0
def mapLow : Nat := 0x0C1
def framesLow : Nat := 0x0C2
def reserveEmpty : Nat := 0x0C3
def scanPass : Nat := 0x0C4
def evacDone : Nat := 0x0C5
def squeezeDone : Nat := 0x0C6
def wipeDone : Nat := 0x0C7
def fillSlotWait : Nat := 0x0C8
def fetchWait : Nat := 0x0C9
def evacStalled : Nat := 0x0CA
def ringHalted : Nat := 0x0D0
def foreignDoorbell : Nat := 0x0D1
def jobAccess : Nat := 0x0D2
def jobPoison : Nat := 0x0D3
def dmvError : Nat := 0x0D8
def dmvOverrun : Nat := 0x0D9
def dmvPoison : Nat := 0x0DA
def ctgAuth : Nat := 0x0E0
def ctgRejected : Nat := 0x0E1
def ctgLost : Nat := 0x0E2
def ctgWearWarn : Nat := 0x0E3
def ctgReadOnly : Nat := 0x0E4
def ctgRetired : Nat := 0x0E5
def ctgMediaError : Nat := 0x0E6
def ctgWriteFailed : Nat := 0x0E7
def ctgTxnTimeout : Nat := 0x0E8
/-- Sources 0 to 3 of a Yarn port or of the Hallway (R404, R556). -/
def linkReplayed (l : Nat) : Nat := fcuIdx (Pg.link l) 0
def linkRxError (l : Nat) : Nat := fcuIdx (Pg.link l) 1
def linkUnexpected (l : Nat) : Nat := fcuIdx (Pg.link l) 2
def linkTagFail (l : Nat) : Nat := fcuIdx (Pg.link l) 3
def larderTagFail (n : Nat) : Nat := fcuIdx (Pg.yp n) 4
def twinPairRefused : Nat := 0x0F8
def twinDivergence : Nat := 0x0F9
def twinRepair : Nat := 0x0FA
def twinFenced : Nat := 0x0FB
def twinSyncDone : Nat := 0x0FC
def twinPending : Nat := 0x0FD
def cmpMismatch (i : Nat) : Nat := fcuIdx (Pg.cmp i) 0
def cmpFormat (i : Nat) : Nat := fcuIdx (Pg.cmp i) 1
def cmpStopped (i : Nat) : Nat := fcuIdx (Pg.cmp i) 2
def noInline : Nat := 0x103
def noDevCompressor : Nat := 0x104
/- The STC sources that are no FCU sources (R31, R492, R576). -/
def warmReset : Nat := 0x400
def lifeCycle : Nat := 0x410
def twinSplit : Nat := 0x420
def twinFence : Nat := 0x421
def twinWitness : Nat := 0x422
def twinRejoin : Nat := 0x423
def vsense : Nat := 0x440
def wakeTimer : Nat := 0x441
def l1Exit (port half : Nat) : Nat := 0x442 + 2 * port + half
def yarnWake (n : Nat) : Nat := 0x450 + n
def hallwayWake : Nat := 0x460
def mctp : Nat := 0x461
def nocWake : Nat := 0x462
def pwrReady : Nat := 0x470
def pwrDone : Nat := 0x471
def hostLink (port half : Nat) : Nat := 0x480 + 2 * port + half
def yarnLink (l : Nat) : Nat := if l < 16 then 0x490 + l else 0x4A0
def gauMiss (m : Nat) : Nat := 0x500 + m
def ringDone (g : Nat) : Nat := 0x580 + g
def doorbell (g : Nat) : Nat := 0x5C0 + g
def dmvDone (ch : Nat) : Nat := 0x600 + ch
def tally (g : Nat) : Nat := 0x7C0 + g
end Src

/-- R30, R45 (KIND): the sources that the chapters call level sources: the reset input 0x400 (R576) and 0x470 (R484). All others are
latched (R614 and R28's last sentence). -/
def srcIsLevel (i : Nat) : Bool := i == 0x400 || i == 0x470

/-- PG_CAP of each page. -/
def pageCap (p : Nat) : Nat :=
  match pageKind p with
  | some .hp => 0x3F
  | some .dc => 0xF
  | some .yp | some .hwl => 0xF
  | some .cmp => if pageInst p < 32 then 3 else 2
  | some .dmv => 64 + 32 * 2 ^ 7 + 4 * 2 ^ 13
  | some .ctg => 16 + 2 ^ 5
  | some .noc => 24 + 2 ^ 5 + 16 * 2 ^ 6
  | some .fcu => 1024
  | some .pwr => 29 + 2 ^ 5 + 2 ^ 6 + 2 ^ 7
  | _ => 0

/-- R63: PG_CTL.ENABLE after reset. -/
def enableAtReset (p : Nat) : Bool :=
  match pageKind p with
  | some .gen | some .stc | some .pwr | some .fcu | some .str | some .mgc | some .noc => true
  | _ => false

/-- Virtual page numbers of the banked registers: every entry that a selection register addresses has a page of its own. -/
def bankPage (b i : Nat) : Nat := 0x100000 * (b + 1) + i

/-- The per-source registers of the STC (STC_SRC_SEL, R45). -/
def Bk.stc (i : Nat) : Nat := bankPage 0 i
/-- The interrupt route table (GEN_IRQ_SEL, R72). -/
def Bk.route (p : Nat) : Nat := bankPage 1 p
/-- The page access table (GEN_ACC_SEL, R72). -/
def Bk.acc (p : Nat) : Nat := bankPage 2 p
/-- The per-source registers of the FCU (FCU_SEL, R478). -/
def Bk.fcu (i : Nat) : Nat := bankPage 3 i
/-- The budget table (GAU_BUD_SEL, R329): pair of master and class. -/
def Bk.bud (m c : Nat) : Nat := bankPage 4 (4 * m + c)
/-- The monitor of a pair (GAU_MON_SEL, R329). -/
def Bk.mon (m c : Nat) : Nat := bankPage 5 (4 * m + c)
/-- The rights table (CRY_RIGHT_SEL, R264). -/
def Bk.right (i : Nat) : Nat := bankPage 6 i
/-- A queue pair: its QMG registers (QMG_QP_SEL, R355). -/
def Bk.qp (i : Nat) : Nat := bankPage 7 i
/-- A queue pair: its BAR4 slot (R338). -/
def Bk.slot (i : Nat) : Nat := bankPage 8 i
/-- A Data Mover channel (DMV_CH_SEL, R379). -/
def Bk.dmv (i : Nat) : Nat := bankPage 9 i
/-- A route-table entry (NOC_RT_SEL, R451): destination, network, router. -/
def Bk.rt (i : Nat) : Nat := bankPage 10 i

/-- Key of a register word: byte offset `off` of page `p` (a page of R49 or a bank page). -/
def rkey (p off : Nat) : Nat := 4096 * p + off

/-- Whether a row of a register table holds offset `off`. -/
def RegRow.hit (r : RegRow) (off : Nat) : Bool :=
  let w := if r.wide then 8 else 4
  if r.count ≤ 1 then decide (r.off ≤ off ∧ off < r.off + w)
  else decide (r.off ≤ off) && decide ((off - r.off) % r.stride < w) && decide ((off - r.off) / r.stride < r.count)

/-- The low (0) or high (4) half that offset `off` addresses in its register. -/
def RegRow.half (r : RegRow) (off : Nat) : Nat :=
  if r.count ≤ 1 then off - r.off else (off - r.off) % r.stride

/-- The register rows of a block type, without the common header. -/
def kindRows : PageKind → List RegRow
  | .gen => genRows | .stc => stcRows | .pwr => pwrRows | .fcu => fcuRows | .str => strRows | .mgc => mgcRows
  | .dbg => dbgRows | .noc => nocRows | .gau => gauRows | .pat => patRows | .tir => tirRows | .cry => cryRows
  | .qmg => qmgRows | .dmv => dmvRows | .ctg => ctgRows | .hwl => hwlRows ++ ypRows | .twn => twnRows
  | .hp => hpRows | .dc => dcRows | .yp => ypRows | .cmp => cmpRows | .ldm => ldmRows

/-- The row of a register table that holds offset `off` of a page of type `k`. -/
def findRow (k : PageKind) (off : Nat) : Option RegRow :=
  if off < 0x100 then hdrRows.find? (fun r => r.hit off) else (kindRows k).find? (fun r => r.hit off)

/-- The "At reset" value of a word that its table gives for each instance by rule rather than as one number. -/
def resetSpecial (k : PageKind) (inst off : Nat) : Option Nat :=
  match k with
  | .hp =>
    if 0x120 ≤ off ∧ off < 0x160 then some (128 + ((off - 0x120) / 4) * 128 * 2 ^ 16)           -- R107
    else if 0x160 ≤ off ∧ off < 0x1A0 then some (1 + ((off - 0x160) / 4) * 2 ^ 8)
    else none
  | .tir => if off = 0x110 then some (8 + 1 * 2 ^ 8 + 128 * 2 ^ 16 + 2 ^ 26)                    -- R206
    else if 0x114 ≤ off ∧ off < 0x120 then some (8 + 1 * 2 ^ 8 + 128 * 2 ^ 16 + 7 * 2 ^ 24) else none
  | .cmp => if off = 0x100 then some ((if inst < 24 then 1 else if inst < 32 then 2 else 0) + (if inst < 32 then 4 else 0))
    else if off = 0x104 then some (if inst < 32 then 0 else (inst - 32) / 3 + 16) else none     -- R231, R220
  | .dc =>
    if off = 0x130 then some (4 + 1 * 2 ^ 8 + 3 * 2 ^ 16 + 3 * 2 ^ 24)                          -- R299
    else if off = 0x134 then some (8 + 2 * 2 ^ 8 + 6 * 2 ^ 16)
    else if off = 0x138 then some (64 + 8 * 2 ^ 8 + 32 * 2 ^ 16)
    else if off = 0x13C then some (0 + 32 * 2 ^ 8 + 128 * 2 ^ 16)
    else none
  | _ => none

/-- R60: the page access table after a cold reset, as GEN_ACC holds it (OWNER, MODE). -/
def accReset (p : Nat) : Nat :=
  match pageKind p with
  | some .ldm => pageInst p + 1 * 2 ^ 6
  | some .stc | some .str | some .mgc | some .dbg => 3 * 2 ^ 6
  | _ => 0

/-- R261: after every start entries 0 to 3 give management cores 0 to 3 plaintext-write over DRAM frames 0 to 0xFF_FFFF; the other
entries are invalid. -/
def rightReset (i half : Nat) : Nat :=
  if i < 4 then (if half = 0 then 0x80 + i + 3 * 2 ^ 8 + 2 ^ 10 + 2 ^ 11 else 0xFFFFFF * 2 ^ 8) else 0

/-- The reset word of a bank page. -/
def bankReset (b i off : Nat) : Nat :=
  match b with
  | 0 => if off = 0x134 then 1024 + 10 * 2 ^ 16 else if off = 0x138 then 64 else 0              -- R45
  | 1 => if off = 0x124 then 2 * 2 ^ 24 else 0                                                  -- R72
  | 2 => if off = 0x12C then accReset i else 0                                                  -- R60
  | 3 => if off = 0x114 then (match fcuInfo i with | some (_, sev, _) => sev | none => 0) else 0 -- R478
  | 6 => if off = 0x158 then rightReset i 0 else if off = 0x15C then rightReset i 4 else 0      -- R261
  | 7 => if off = 0x10C then i / 128 + (i / 128) * 2 ^ 8 + 2 * 2 ^ 16 else 0                    -- R355
  | 8 => if off = 0x18 then 4 + 4 * 2 ^ 8 + 15 * 2 ^ 16 else if off = 0x1C then 2 ^ 16 else 0    -- R339
  | 9 => if off = 0x128 then 3 * 2 ^ 4 else 0                                                   -- R379
  | _ => 0

/-- The value that a register word holds after any reset of its domain (R17). -/
def resetWord (key : Nat) : Word :=
  let p := key / 4096
  let off := key % 4096
  BitVec.ofNat 32 <|
    if p < 0x100000 then
      match pageKind p with
      | none => 0
      | some k =>
        if off = 8 then b2n (enableAtReset p)
        else
          match resetSpecial k (pageInst p) off with
          | some v => v
          | none =>
            match findRow k off with
            | none => 0
            | some r => (r.reset >>> (8 * r.half off)) % 2 ^ 32
    else bankReset (p / 0x100000 - 1) (p % 0x100000) off

end Sys2Proof.Machine
end

