-- ==== Sys2Proof/Machine/Tbl.lean ====
section
/-! DEFINITION. Sparse tables in ONE canonical form: keys strictly rising, no entry equal to what an unlisted key reads as.
Registers, DRAM bytes, Pattern entries and every other indexed piece of state are held this way, so equal contents are equal data. -/

namespace Sys2Proof.Machine

/-- A sparse table. What an unlisted key reads as is given by the reader (`d`). -/
abbrev Tbl (α : Type) := List (Nat × α)

/-- The value at key `k`, `d k` where nothing is listed. -/
def tget {α : Type} (d : Nat → α) : Tbl α → Nat → α
  | [], k => d k
  | (a, v) :: t, k => if k = a then v else tget d t k

/-- Remove key `k`. -/
def tdel {α : Type} : Tbl α → Nat → Tbl α
  | [], _ => []
  | (a, v) :: t, k => if k = a then tdel t k else (a, v) :: tdel t k

/-- Insert or replace key `k`, keeping the keys in order. -/
def tins {α : Type} : Tbl α → Nat → α → Tbl α
  | [], k, x => [(k, x)]
  | (a, v) :: t, k, x =>
    if k = a then (k, x) :: t else if k < a then (k, x) :: (a, v) :: t else (a, v) :: tins t k x

/-- Write `x` at key `k`: a value equal to what an unlisted key reads as removes the entry. -/
def tput {α : Type} [DecidableEq α] (d : Nat → α) (t : Tbl α) (k : Nat) (x : α) : Tbl α :=
  if x = d k then tdel t k else tins t k x

/-- The canonical form: keys strictly rising from above `lo`, no entry equal to its default. -/
def tokFrom {α : Type} [DecidableEq α] (d : Nat → α) : Nat → Tbl α → Bool
  | _, [] => true
  | lo, (a, v) :: t => decide (lo ≤ a) && decide (v ≠ d a) && tokFrom d (a + 1) t

/-- The whole table is in canonical form. -/
def tok {α : Type} [DecidableEq α] (d : Nat → α) (t : Tbl α) : Bool := tokFrom d 0 t

/-- Keep the entries whose key satisfies `p` (used where a reset or a clear takes a range of keys). -/
def tfilter {α : Type} (p : Nat → Bool) : Tbl α → Tbl α
  | [] => []
  | (a, v) :: t => if p a then (a, v) :: tfilter p t else tfilter p t

/-- Change the value at one key. -/
def tmod {α : Type} [DecidableEq α] (d : Nat → α) (t : Tbl α) (k : Nat) (f : α → α) : Tbl α :=
  tput d t k (f (tget d t k))

/-- Change every listed value. -/
def tmapv {α : Type} [DecidableEq α] (d : Nat → α) (f : α → α) (t : Tbl α) : Tbl α :=
  t.foldr (fun x acc => if f x.2 = d x.1 then acc else (x.1, f x.2) :: acc) []

end Sys2Proof.Machine
end

