-- ==== Sys2Proof/Machine/State.lean ====
section
/-! DEFINITION. The state of the block as plain data: every register (one table of register words, `Dev.regs`), every buffer, queue,
table and mode the spec gives the device, the messages it has sent, and the queue of waiting commands. `State.reset` is the state that
a cold reset leaves while por_n is still low (R575, R578, R581). -/

namespace Sys2Proof.Machine

/-! ### Messages the block sends -/

/-- Return codes of mailbox and Fabric Manager commands (R95, R102, R517, R518). -/
inductive MbCode where
  | success | background | invalidInput | unsupported | internalError | busy | invalidPayloadLength
  | fwAuthFailed | activationFailedColdReset | invalidHandle | invalidSlot | retry
  deriving DecidableEq, Repr

/-- What a Yarn-type link sends in a sequenced or unsequenced packet (R385, R415 to R417, R532 to R541). -/
inductive PktBody where
  | nop | nak
  | readSlot (extent slot : Nat)
  | writeSlot (extent slot format : Nat) (lines : List (BitVec 512 × Bool)) (gen : Bool)
  | piece (n bytes : Nat) (last : Bool)
  | dealloc (extent : Nat)
  | identifyReq
  | certReq (offset : Nat)
  | challenge (nonce : BitVec 256)
  | keyInit (nonce : BitVec 256)
  | keyConfirm
  | wearReq | retire
  | hello (h : HelloBody)
  | source (b : SourceBody)
  | room (drn : Nat) (mirrored inService : Bool)
  | mwr (b : MwrBody)
  | mack (mids : List Nat)
  | syncLine (b : SyncBody)
  | lreq (dpa : Nat)
  | syncDone | syncAck | paired
  deriving DecidableEq, Repr

/-- Messages and pin changes that leave the block. -/
inductive Msg where
  | msix (ld vector : Nat)
  | coreIrq (core page : Nat)
  | viral (ld : Nat)
  | barData (a : Agent) (off width : Nat) (value : Nat)
  | memData (ld tag : Nat) (data : BitVec 512) (poison : Bool) (metaVal : MetaValue) (devLoad : Nat)
  | memCmp (ld tag : Nat) (metaVal : MetaValue) (devLoad : Nat)
  | biSnp (ld line kind : Nat)
  | biAck (ld tag : Nat)
  | mbox (ld : Nat) (code : MbCode) (payload : List Nat)
  | fm (port : Nat) (code : MbCode) (payload : List Nat)
  | doe (ld : Nat) (payload : List Nat)
  | spdm (t : Transport) (code : Nat) (payload : List Nat)
  | spdmSession (session : Nat) (code : Nat) (payload : List Nat)
  | ide (port half : Nat) (code : Nat)
  | packet (link header : Nat) (body : PktBody)
  | ts (link : Nat) (second retrain : Bool) (p : Proposal)
  | wake (link : Nat)
  | heartbeat (state count : Nat) (role : Bool) (epoch : Nat)
  | l1Request (port half : Nat)
  | l0pAck (port half width : Nat)
  | profIrq (core : Nat)
  | thermtrip
  deriving DecidableEq, Repr

/-! ### The stitch clock and the fault collection unit -/

/-- A sampled event that awaits dispatch (R26, R34, R42, R43): the boundary that sampled it, its source, the category and severity it had
there, and for an FCU source the errors it carries and the first one's capture (R458). -/
structure Ev where
  sn : Nat
  src : Nat
  cat : Nat
  sev : Nat
  errs : Nat
  addr : Nat
  master : Nat
  acc : Nat
  deriving DecidableEq, Repr

/-- Errors of an FCU source that have reached its latch since the last boundary (R614, R458): their number and the first one's capture. -/
structure Latch where
  count : Nat
  addr : Nat
  master : Nat
  acc : Nat
  deriving DecidableEq, Repr

/-- An accepted stitch-aligned write that has not taken effect (R41): the boundary at which it does, the register word, the bits written
and their values. `due = 0`: half of a 64-bit segment register whose other half is still to be written (R138). -/
structure AlignPend where
  due : Nat
  key : Nat
  mask : Nat
  value : Nat
  deriving DecidableEq, Repr

/-- The stitch clock (chapter 1) beyond its registers. -/
structure Stc where
  /-- Sampled events that await dispatch. -/
  events : List Ev := []
  /-- Dispatch slots used in this stitch (R34). -/
  slot : Nat := 0
  /-- A category 2 event has been dispatched in this stitch (R35). -/
  recordOnly : Bool := false
  /-- Latched sources that are not FCU sources and whose latch is set (R28). -/
  latched : List Nat := []
  /-- Level sources whose input is active now (R28). -/
  levels : List Nat := []
  /-- Errors latched in FCU sources. -/
  errs : Tbl Latch := []
  /-- Sources whose consecutive samples reached L + 1 (R36), and whose assertions passed M in the rate window (R37), and whose masking or
  quarantine is still to be recorded. -/
  stuck : List Nat := []
  fast : List Nat := []
  /-- Stitch-aligned writes awaiting their boundary. -/
  align : List AlignPend := []
  deriving DecidableEq, Repr

/-- A Frog in progress (R470): its target, who asked for it, the boundary at which it was accepted (0: not yet). -/
inductive FrogTarget where
  | page (p : Nat)
  | ring (pair : Nat)
  | dmv (ch : Nat)
  | migration (id : Nat)
  deriving DecidableEq, Repr

structure FrogRec where
  id : Nat
  target : FrogTarget
  mbox : Option Nat
  acceptSn : Nat
  deriving DecidableEq, Repr

/-! ### Register access -/

/-- A BAR2 access that waits for the power domain of its page (R56): who made it, its BAR2 offset and width, a write with its value or a
read, and the SN at which it arrived. -/
structure BarWait where
  id : Nat
  agent : Agent
  off : Nat
  width : Nat
  write : Option Nat
  sn : Nat
  deriving DecidableEq, Repr

/-- Register access beyond the registers themselves. -/
structure Bar where
  /-- The upper-word latch of each page (R54). -/
  latch : Tbl Word := []
  /-- Accesses waiting for a domain. -/
  waits : List BarWait := []
  nextId : Nat := 1
  /-- MSI-X table entries by LD and vector: bit 0 the mask bit, bit 1 the pending bit; masked where nothing is listed. -/
  msix : Tbl Nat := []
  /-- DBG_TOKEN (R529), 57 words. -/
  token : Tbl Word := []
  deriving DecidableEq, Repr

/-! ### Start-up, clock and pins -/

/-- Clock, pins and start-up (chapters 1, 21, 22). -/
structure Clk where
  /-- por_n is high (R581). -/
  porN : Bool := false
  /-- warm_rst_n is high. -/
  warmRstN : Bool := true
  /-- hpN_perst_n is high, bit N. -/
  perstN : Nat := 0
  /-- The reference clock is present (R24). -/
  refclk : Bool := true
  /-- The fabric clock runs (R23, R581). -/
  fabricOn : Bool := false
  /-- The straps sampled at the rising edge of por_n (R580). -/
  straps : Straps := ⟨0, false, false⟩
  /-- The last step of the boot chain that has been completed (R505); 0 before step 1. -/
  bootStep : Nat := 0
  /-- Slot checks at step 4 of the boot chain: 0 none yet, 1 the active slot's image failed; the slot chosen once a check passed (R505). -/
  bootTried : Nat := 0
  bootSlot : Nat := 0
  /-- A start has begun; its domains are not yet reset and powered again, or warm_rst_n is low, so the boot chain has not begun (R577). -/
  starting : Bool := false
  /-- The start-up gate holds boot before step 1 (R590). -/
  gateHold : Bool := false
  /-- The debug port holds the cores at step 6 (R590). -/
  testHold : Bool := false
  /-- Management cores that run, one bit each. -/
  coresRun : Nat := 0
  /-- thermtrip_n is driven low (R609). -/
  thermtrip : Bool := false
  /-- The device timestamp: value set and the SN it was set at (R98). -/
  tsBase : Nat := 0
  tsSn : Nat := 0
  deriving DecidableEq, Repr

/-- Power states and wake (chapter 17) beyond the PWR page. -/
structure Power where
  /-- Domains whose registers are usable (R56, R440), one bit each. -/
  ready : Nat := 0
  /-- Management cores in WAIT, one bit each (R484). -/
  coreWait : Nat := 0
  /-- The target of the request that is pending (R484). -/
  reqTarget : Nat := 0
  /-- The target of the transition in progress, and the state it started from. -/
  target : Nat := 0
  source : Nat := 0
  /-- The transition started in this stitch and its commit point is still ahead (R486). -/
  beforeCommit : Bool := false
  /-- A wake that was dispatched after the commit point of an entry to Hush: it starts the exit after step 5 (R491). -/
  wakeAfter : Option (Nat × Nat) := none
  /-- A wake has started the exit from Hush (R488). -/
  exiting : Bool := false
  /-- The wake event that will be dispatched on the restarted clock (R488). -/
  exitWake : Option (Nat × Nat) := none
  /-- DDR domains that are off in every state (R481), one bit each. -/
  absent : Nat := 0
  deriving DecidableEq, Repr

/-! ### Host side -/

/-- A host link (one half of a port) beyond HP_LINK_STS. -/
structure HostLink where
  /-- The state the link has taken but whose event has not been dispatched: up, down or changed (R79). -/
  up : Bool := false
  speed : Nat := 0
  width : Nat := 0
  mldCap : Bool := false
  sawUp : Bool := false
  sawDown : Bool := false
  sawChg : Bool := false
  /-- The link is in L1 (R78). -/
  l1 : Bool := false
  /-- The partner has enabled ASPM L1 in its Link Control register (R485). -/
  aspmL1 : Bool := true
  /-- The port half carries link IDE in the insecure state (R100). -/
  insecure : Bool := false
  /-- IDE streams: stream number with bits rx key, tx key, rx go, tx go. -/
  ide : List (Nat × Nat) := []
  /-- Link-layer replays in the running Gauge window (R106). -/
  winReplays : Nat := 0
  deriving DecidableEq, Repr

/-- A record in an event log (R99): handle, timestamp, SN, source index, LD, severity code, and the stitches by which its dispatch was
delayed (R43: the carried flag is set where this is not 0). -/
structure EvRec where
  handle : Nat
  ts : Nat
  sn : Nat
  src : Nat
  ld : Nat
  kind : Nat
  delay : Nat := 0
  /-- The extent of a Dynamic Capacity record (R91); its `src` is 0 for an add and 1 for a release. -/
  ext : Option DcExtent := none
  deriving DecidableEq, Repr

/-- A background command of an LD's mailbox (R95, R96). -/
inductive BgOp where
  | sanitize | secureErase | scan (bad : List Nat)
  deriving DecidableEq, Repr

/-- A logical device on its host side. -/
structure Ld where
  /-- HDM decoders by index: committed value (R88). -/
  decoders : List (Nat × HdmDecoder) := []
  /-- Viral state is FCU_VIRAL; LDM_STS.VIRAL reads it. The LD's Memory_Active, Media Status and Memory_Info_Valid (R585, R586). -/
  memActive : Bool := false
  mediaReady : Bool := false
  mediaError : Bool := false
  /-- The background command of the mailbox (R96); a scan with the LD offsets of the lines that failed. -/
  background : Option BgOp := none
  /-- A foreground Inject (true) or Clear Poison that waits for its write to become visible, and its LD offset (R616). -/
  poisonWait : Option (Bool × Nat) := none
  /-- That write was discarded. -/
  poisonFailed : Bool := false
  /-- Event logs: Informational, Warning, Failure, Fatal, Dynamic Capacity (R99). -/
  logInfo : List EvRec := []
  logWarn : List EvRec := []
  logFail : List EvRec := []
  logFatal : List EvRec := []
  logDc : List EvRec := []
  /-- Overflow counts of the five logs. -/
  overflow : Tbl Nat := []
  nextHandle : Nat := 1
  /-- Event interrupt policy (R95). -/
  eventPolicy : BitVec 40 := 0
  /-- Standard features by id, and the alert configuration (R95). -/
  features : Tbl Nat := []
  alertCfg : BitVec 96 := 0
  /-- The poison list: LD offsets of lines (R96, R615). -/
  poisonList : List Nat := []
  scanResult : List Nat := []
  /-- DevLoad of the window that last ended (R87): 0 light, 1 optimal, 2 moderate, 3 severe. -/
  devLoad : Nat := 0
  /-- Dynamic capacity: regions (start, length), extents offered and accepted (R91, R92). -/
  dcRegions : List DcExtent := []
  dcOffered : List DcExtent := []
  dcAccepted : List DcExtent := []
  dcReleasing : List DcExtent := []
  /-- A CXL Reset runs (R82), with Memory Clear or not. -/
  cxlReset : Option Bool := none
  deriving DecidableEq, Repr

/-- A firmware slot (R502, R517). -/
structure FwSlot where
  image : Option FwImage := none
  checked : Bool := false
  deriving DecidableEq, Repr

/-- One-time fuses (R500). -/
structure Fuses where
  /-- Serial and the SM3 of the release and manufacturing keys, programmed by Halvas. -/
  serial : BitVec 128 := 1
  relHash : BitVec 256 := 1
  mfgHash : BitVec 256 := 2
  /-- The counting entries of the life-cycle log, oldest first (R515), and the copies of the last entry that are programmed. -/
  lcLog : List Nat := []
  lcCopies : Nat := 3
  chainHash : BitVec 256 := 0
  owners : List (BitVec 256 × Bool) := []
  refurb : Nat := 0
  minSvn : Nat := 0
  anchors : List (BitVec 256 × Bool) := []
  seedBlown : Bool := false
  deriving DecidableEq, Repr

/-- An SPDM session (R508). -/
structure Session where
  id : Nat
  transport : Transport
  finished : Bool
  deriving DecidableEq, Repr

/-- A live activation (R518, R519). -/
structure Activation where
  slot : Nat
  ld : Nat
  /-- READY has been written in this pause. -/
  ready : Bool
  readySn : Nat
  reverted : Bool
  deriving DecidableEq, Repr

/-- An access of the debug port that is still running (R525): read (1) or write (2), its space, view and address, the line whose snoop it
waited for, and the SN since which it waits for backing. -/
structure DbgAccess where
  op : Nat
  space : Nat
  view : Nat
  addr : Nat
  snooped : Option Nat := none
  since : Option Nat := none
  deriving DecidableEq, Repr

/-- The Strongroom, firmware and debug access (chapter 18) beyond its pages. -/
structure Strongroom where
  fuses : Fuses := {}
  slot1 : FwSlot := {}
  slot2 : FwSlot := {}
  running : Option FwImage := none
  /-- The slot the active-slot record names (R502). -/
  activeSlot : Nat := 1
  /-- Digests of the images loaded since the start, oldest first (R507, measurement 3). -/
  loaded : List (BitVec 256) := []
  sessions : List Session := []
  nextSession : Nat := 1
  /-- SPDM connection state of each transport: highest step reached. -/
  spdmState : List (Transport × Nat) := []
  /-- Nonces outstanding: session (0 the debug port), draw number, SN (R509). -/
  nonces : List (Nat × Nat × Nat) := []
  /-- A life-cycle request is committed and its source 0x410 latched (R514). -/
  committing : Bool := false
  activation : Option Activation := none
  /-- The debug grant: level and duration (R523). -/
  grant : Option Nat := none
  /-- The nonce presented in DBG_CHAL. -/
  dbgNonce : Nat := 0
  /-- The identity chain's digest differs from the fused one (R501). -/
  chainBad : Bool := false
  /-- The access of the debug port that is running (DBG_MEM_CTL.BUSY). -/
  dbgAcc : Option DbgAccess := none
  /-- The start the boot chain serves (STR_START.CAUSE). -/
  startCause : Nat := 0
  deriving DecidableEq, Repr

/-- Firmware-level state of the host side (chapter 3). -/
structure HostSide where
  links : Tbl HostLink := []
  lds : Tbl Ld := []
  /-- Mailbox Interface Ready and Memory_Info_Valid of each port (R585), one bit each. -/
  mboxReady : Nat := 0
  qosControl : Tbl QosControl := []
  /-- Mailbox commands that wait for the end of a live activation's pause, in order (R520). -/
  held : List (Nat × Instr) := []
  /-- LDs whose Frog was accepted and whose LDM page has not been enabled since (R472), one bit each. -/
  frogged : Nat := 0
  deriving DecidableEq, Repr

/-- Bytes of the running bandwidth window (R568 to R570) and the mark of a partial window. -/
structure Tally where
  /-- Keys: 4 * (2 * port + half) + (0 read, 1 write) for hosts. -/
  hp : Tbl Nat := []
  /-- Keys: 8 * channel + 0..4 for the five DC registers. -/
  dc : Tbl Nat := []
  /-- Domains that were off, or whose clock was stopped, in a part of the running window (R570), one bit each. -/
  partialDoms : Nat := 0
  /-- Profiling: cores with interrupts masked and with the profiling interrupt pending, one bit each. -/
  profMasked : Nat := 0
  profPend : Nat := 0
  deriving DecidableEq, Repr

/-! ### Memory: lines, frames and the wipe (chapters 5, 6, 8) -/

/-- What the side-band of a stored line says (R241): poison, the generation count it is stored under, its tier code and its line
address (R238). -/
structure LineMeta where
  poison : Bool := false
  gen : Nat := 0
  tier : Nat := 0
  a : Nat := 0
  deriving DecidableEq, Repr

/-- The use of a DRAM frame that is not Device (R173): free, held whole by a skein, or carved, with the holder of each unit in use
(unit number ↦ 1 + 512 * skein + page; a reserve frame of R193 is marked). -/
inductive FrameUse where
  | free
  | whole (skein : Nat)
  | carved (units : Tbl Nat) (reserve : Bool)
  deriving DecidableEq, Repr

/-- A fill slot (R200): its frame and the lines marked written or filled, one bit each. -/
structure FillSlot where
  frame : Nat
  marks : Nat
  deriving DecidableEq, Repr

/-- Storage: DRAM bytes as the device decrypts them (an unlisted byte reads 0, R199), the side-band of every line written, the use and
the wipe state of frames, and the use of the split-map pool. -/
structure Store where
  mem : List Host.Cell := []
  side : Tbl LineMeta := []
  frames : Tbl FrameUse := []
  /-- Frames that are wiped; a frame neither wiped nor filling is unwiped (R198). -/
  wiped : Tbl Bool := []
  /-- Fill slots in use, oldest first. -/
  filling : List FillSlot := []
  /-- The condition of "wipe done" held at the last boundary (R201). -/
  wipeHeld : Bool := true
  /-- Maps of the split-map pool in use. -/
  maps : Tbl Bool := []
  /-- TIR_MAP_FREE was below TIR_MAP_LOW, TIR_FRAME_FREE was below TIR_FRAME_LOW (R195, R204). -/
  mapLow : Bool := false
  frameLow : Bool := false
  deriving DecidableEq, Repr

/-! ### The Pattern (chapter 4) -/

/-- A way of the Pattern cache (R126): the skein, its entry, whether it was changed since the table was written, and the page heat
sample counter of R177. -/
structure Way where
  skein : Nat
  entry : Entry
  changed : Bool
  sample : Nat
  deriving DecidableEq, Repr

/-- A way of the back-invalidate directory (R161): state A or S and the holders. -/
structure DirWay where
  line : Nat
  excl : Bool
  holders : Nat
  deriving DecidableEq, Repr

/-- Snoops of a line in progress (R162, R164): the holders still to answer, the SN of issue, what the answers bring (the request they
are for, whether they invalidate, whether they evict the line's way). -/
structure Snoop where
  line : Nat
  waiting : Nat
  sn : Nat
  inval : Bool
  evict : Bool
  req : Nat
  deriving DecidableEq, Repr

/-- A room that leaves service, or a clear, that waits for its recall snoops (R117, R203). -/
structure Pattern where
  /-- Ways, most recently used first. -/
  cache : List Way := []
  /-- Skeins whose table line is being read (R128): skein and class of the first request. -/
  misses : List (Nat × Nat) := []
  /-- Skeins whose table line failed its integrity check (R129). -/
  bad : List Nat := []
  /-- The room command in progress: DRN and the new image (R116, R117). -/
  roomCmd : Option (Nat × Room) := none
  /-- Skeins of the room as they stood when it left service (R117). -/
  roomLeaving : Option Nat := none
  /-- Directory ways, most recently used first. -/
  dir : List DirWay := []
  snoops : List Snoop := []
  deriving DecidableEq, Repr

/-! ### CXL.mem requests (chapter 5) -/

inductive MemKind where
  | read | readData | inv | clnEvct | specRead | write | partWrite
  deriving DecidableEq, Repr

/-- Why a request is parked (R152). -/
inductive ParkCause where
  | larder | copy | noFit | leaving | backing | twin | activation
  deriving DecidableEq, Repr

/-- Where a request stands. -/
inductive Stage where
  /-- At its LD's ingress queue (R150). -/
  | ingress
  /-- Waits for the table line of its skein (R128). -/
  | miss
  /-- Waits for an earlier request to its line or block (R148, R149, R251). -/
  | order
  /-- Waits for a BIRsp or a directory way (R162, R164). -/
  | snoop
  /-- At the Gauge gate of a subchannel (R313). -/
  | gate
  /-- In a bank queue, or in its port's buffer (R275). -/
  | queue
  /-- Its read command was issued; the line has not been captured (R144). -/
  | issued
  /-- A write that found no fill slot (R200), or the write queue full (R278). -/
  | fillWait
  | wqWait
  /-- Waits for an inline decompressor (R221), or for a compressor (R148, R224). -/
  | decode
  | encode
  /-- Its data were forwarded; the tag check has not landed (R243). -/
  | late
  /-- A mirrored write that awaits its MACK or its echo (R539), or a read that awaits a repair (R541). -/
  | mirror
  | repair
  | parked (c : ParkCause)
  /-- Held at the boundary of a domain that is off or going off (R440, R486). -/
  | domain
  /-- Its packet was dropped for a header error: it is never answered (R439). -/
  | lost
  deriving DecidableEq, Repr

/-- A CXL.mem request in the device (R141 to R157). -/
structure Req where
  id : Nat
  kind : MemKind
  ld : Nat
  port : Nat
  half : Nat
  tag : Nat
  addr : Nat
  metaVal : MetaValue
  data : BitVec 512 := 0
  enables : BitVec 64 := 0
  poison : Bool := false
  /-- Arrival SN (R154) and the free value that stands for the fabric cycle within it. -/
  sn : Nat := 0
  phase : Nat := 0
  /-- Class label (R113), deadline (R302), and whether it passed within the Hearth share (priority bits 3). -/
  cls : Nat := 3
  deadline : Nat := 0
  prio3 : Bool := false
  dpa : Nat := 0
  /-- R112 has been passed, and the heat counted. -/
  checked : Bool := false
  /-- Its coherence step is done. -/
  snooped : Bool := false
  /-- The Gauge was charged and passed it. -/
  granted : Bool := false
  /-- It locks its Pattern way while parked (R129). -/
  locking : Bool := false
  stage : Stage := .ingress
  /-- The logical subchannel and DRA of its access. -/
  sub : Nat := 0
  dra : Nat := 0
  /-- SN of its arrival at the subchannel (R273). -/
  subSn : Nat := 0
  /-- The line or slot as it stood when the request entered the channel (R147), its poison and whether its tag can be right. -/
  snap : List Nat := []
  snapPoison : Bool := false
  snapGood : Bool := true
  /-- Its skein, at its entry to the channel: Packed ratio (0 Open) and block index. -/
  ratio : Nat := 0
  /-- The compressor that has its block. -/
  inst : Option Nat := none
  /-- The request was outside the conditions of R319. -/
  outside : Bool := false
  /-- Its link went down: no response leaves (R80). -/
  dropped : Bool := false
  /-- It is the write of an Inject or Clear Poison command (R616), which has no response of its own. -/
  mbox : Bool := false
  /-- Migration or page fetch it waits on. -/
  wait : Nat := 0
  deriving DecidableEq, Repr

/-! ### The tier engine (chapter 6) -/

/-- Where a move goes: the state, ratio and location kind, cartridge and extent for the Larder (R182 to R185). -/
structure Dest where
  state : Nat
  ratio : Nat := 0
  loc : Nat := 0
  deriving DecidableEq, Repr

/-- A move that is wanted and has not started (R180, R191, R350): skein, page of a page move, destination, cause (TIR_MOVE_INFO), the
ring job it is for. -/
structure Want where
  skein : Nat
  page : Option Nat
  state : Nat
  ratio : Nat
  cause : Nat
  /-- Ratios of the pages of a pack to Split, 0 Open. -/
  ratios : List Nat := []
  job : Nat := 0
  cart : Option Nat := none
  /-- "Evacuation stalled" was raised for it (R197). -/
  stalled : Bool := false
  deriving DecidableEq, Repr

/-- An active migration (R183, R184). -/
structure Mig where
  id : Nat
  skein : Nat
  page : Option Nat
  srcState : Nat
  srcRatio : Nat
  dstState : Nat
  dstRatio : Nat
  /-- Destination location word of a skein move; LOC of a page move. -/
  dstLoc : Nat
  cause : Nat
  sn : Nat
  /-- The settle map of R175. -/
  settleMap : Option Nat
  /-- Its page is in its copy phase. -/
  copying : Bool
  /-- The reason of a failure or an abort that is not yet settled (R188). -/
  reason : Nat := 0
  job : Nat := 0
  /-- It waits for the write of its page to a cartridge (R420). -/
  waitWrite : Bool := false
  deriving DecidableEq, Repr

/-- A fetch of a Larder page into a fetch buffer (R191, R192, R414): its place on the cartridge, for whom it is read, whether a buffer is
held and the read is out, and the page once it has landed (one entry per line: data and poison). -/
structure Fetch where
  id : Nat
  cart : Nat
  extent : Nat
  slot : Nat
  skein : Nat
  page : Nat
  sn : Nat
  cls : Nat
  buffered : Bool := false
  landed : Bool := false
  lines : List (BitVec 512 × Bool) := []
  /-- A migration's copy, or the Re-knit walk's page, rather than a touch. -/
  mig : Nat := 0
  knit : Bool := false
  /-- FORMAT of its directory line (R412): 0 zero, 1 plain, 2 packed 2:1, 3 packed 4:1. -/
  form : Nat := 1
  /-- It was touched by a write (R191). -/
  touchW : Bool := false
  /-- The ring jobs and Data Mover channels that wait on it: a job by its id, a channel by 2^64 + its number. -/
  users : List Nat := []
  deriving DecidableEq, Repr

/-- A pack trial in progress (R182): its skein, the cause of the move it may lead to, and the ring job it is for. -/
structure Trial where
  skein : Nat
  cause : Nat
  job : Nat := 0
  deriving DecidableEq, Repr

structure Tier where
  wants : List Want := []
  migs : List Mig := []
  fetches : List Fetch := []
  nextFetch : Nat := 1
  trials : List Trial := []
  /-- Scanner: lines read in this window. -/
  scanUsed : Nat := 0
  /-- Frame pressure and its cut (R195), squeeze cuts by LD (R196). -/
  pressure : Bool := false
  pressureCut : Nat := 0
  squeezeCut : Tbl Nat := []
  /-- DRAM copy phases started in this window (R185). -/
  copies : Nat := 0
  /-- Ring jobs whose migration failed and which wait for their end (R350). -/
  jobFails : List Nat := []
  deriving DecidableEq, Repr

/-! ### Gauge (chapter 10) -/

/-- The admission fields of GAU_ADM_CFG (R329). -/
structure AdmCfg where
  skew : Nat := 20
  mr : Nat := 8
  hburst : Nat := 4
  hearthMax : Nat := 12
  deriving DecidableEq, Repr

/-- A budget set (R307): (guarantee, ceiling) by 4 * master + class. -/
structure BudgetSet where
  adm : AdmCfg := {}
  budgets : Tbl (Nat × Nat) := []
  deriving DecidableEq, Repr

/-- An access of a ring job or a Data Mover channel that waits at a gate (R313): who waits, the subchannel, master, class, deadline and
lines. -/
structure Ask where
  id : Nat
  sub : Nat
  master : Nat
  cls : Nat
  deadline : Nat
  lines : Nat
  deriving DecidableEq, Repr

structure GaugeSt where
  live : BudgetSet := {}
  /-- A set is in force since the last start (R316). -/
  inForce : Bool := false
  pending : Option BudgetSet := none
  /-- SN of the acceptance of the pending set. -/
  pendingSn : Nat := 0
  /-- The staged set under check, and the SN of GO. -/
  checking : Option BudgetSet := none
  /-- A deliverable change was dispatched and awaits the window boundary (R322). -/
  capChange : Bool := false
  /-- Lines charged in this window by 4 * master + class. -/
  use : Tbl Nat := []
  /-- Lines granted in this window by (4 * master + class) * 32 + subchannel. -/
  granted : Tbl Nat := []
  /-- Allowances of the current stitch: 8 * subchannel + 0 maintenance, 1 Hearth, 2 Parlour, 3 Kitchen, 4 Cellar. -/
  allow : Tbl Nat := []
  /-- Reads and writes granted in this stitch by 2 * channel + (0 read, 1 write) (R311). -/
  eng : Tbl Nat := []
  asks : List Ask := []
  /-- Highest latency of a Hearth read in this window (R321). -/
  latMax : Nat := 0
  /-- The window held a standing-plan stitch: SN of the first (R316). -/
  standing : Option Nat := none
  deriving DecidableEq, Repr

/-! ### DRAM channels (chapter 9) -/

/-- A line of the write queue (R278): DRA, arrival order, and whether its destination is the write of a sparing copy. -/
structure WqEntry where
  id : Nat
  dra : Nat
  sn : Nat
  deriving DecidableEq, Repr

/-- A command in the retry buffer (R286). -/
inductive DdrCmd where
  | activate (bank row : Nat)
  | precharge (bank : Nat)
  | read (id bank : Nat)
  | write (id bank : Nat)
  | refresh (rank bank : Nat)
  deriving DecidableEq, Repr

/-- An open row of a bank: row, column commands it has served in a row, T of R277. -/
structure BankSt where
  row : Option Nat := none
  hits : Nat := 0
  idleT : Nat := 32
  /-- The row is kept open with no queued request that hits it. -/
  kept : Bool := false
  deriving DecidableEq, Repr

/-- A subchannel: requests by id in its bank queues and port 0 buffer in arrival order, the write queue, banks by rank and bank number,
the bank group of the last activate of each rank, refreshes owed, the Hearth reads that a rank's mandatory refresh waits for (R281), the
retry buffer (each command with the SN of its issue) and the replay. -/
structure SubCh where
  queue : List Nat := []
  wq : List WqEntry := []
  draining : Bool := false
  banks : Tbl BankSt := []
  lastBg : Tbl Nat := []
  owed : Tbl Nat := []
  mandWait : Tbl (List Nat) := []
  retry : List (Nat × DdrCmd) := []
  replaying : Bool := false
  deriving DecidableEq, Repr

/-- A channel: its subchannels A and B, consecutive replays (R288), alert_n low, the bank and row under repair (subchannel, rank, bank, row;
R290), tag failures per rank in this window (R247), the side of the sparing copy's next line, the write-queue entry of its last line and
the lines it copied in this window (R292), whether TRAINED has been set since the start. -/
structure Chan where
  subA : SubCh := {}
  subB : SubCh := {}
  replays : Nat := 0
  alertLow : Bool := false
  pprBank : Option (Nat × Nat × Nat × Nat) := none
  tagFails : Tbl Nat := []
  spareB : Bool := false
  spareOn : Option Nat := none
  spareUsed : Nat := 0
  everTrained : Bool := false
  /-- Periodic counts of R281 and R282, SN of the last by rank. -/
  oscSn : Tbl Nat := []
  zqSn : Tbl Nat := []
  /-- The write-timing count that the oscillator read last gave, by rank and subchannel. -/
  osc : Tbl Nat := []
  selfRef : Bool := false
  deriving DecidableEq, Repr

/-! ### Crypto and compression (chapters 7, 8) -/

structure Crypto where
  /-- Draw numbers of the secrets of the live generations: g and, in a Re-knit, g + 1 (R236). -/
  draw : Nat := 0
  drawNext : Nat := 0
  /-- A Re-knit was accepted and REKNIT_ACTIVE is still to be set (step 2 of R253), or has reached the end of its walk (step 5). -/
  starting : Bool := false
  walkDone : Bool := false
  /-- A Re-knit was accepted since the last start (R252), and the SN of that start. -/
  accepted : Bool := false
  startSn : Nat := 0
  /-- Lines walked in this window. -/
  lines : Nat := 0
  ylines : Nat := 0
  /-- The cartridge page at the knit line: 0 not begun, 1 read out, 2 its write is out, 3 written (R255). -/
  yStage : Nat := 0
  /-- Skeins skipped in this pass because their port is down (R258). -/
  skipped : List Nat := []
  deriving DecidableEq, Repr

structure CmpSt where
  /-- Inline decompressors and compressors at work: the work code of CMP_STS by instance. -/
  busy : Tbl Nat := []
  /-- The last check failure of each instance that awaits dispatch: header, target, address, SN (R232). -/
  chk : Tbl (Nat × Nat × Nat × Nat) := []
  deriving DecidableEq, Repr

/-- The memory side of the device. -/
structure Mem where
  store : Store := {}
  pat : Pattern := {}
  reqs : List Req := []
  nextReq : Nat := 1
  tier : Tier := {}
  gau : GaugeSt := {}
  chans : Tbl Chan := []
  cry : Crypto := {}
  cmp : CmpSt := {}
  deriving DecidableEq, Repr

/-! ### Cartridges (chapter 14) -/

/-- A transaction with a cartridge (R415 to R419): its tag, command, place, format and write data (data and poison of each line, the generation they
are stored under), for which fetch, migration or Re-knit item, when it was sent, whether it has been reissued or detached, and the lines that DATA packets have brought so far. -/
structure Txn where
  tag : Nat
  op : Nat
  extent : Nat
  slot : Nat
  lines : Nat := 0
  form : Nat := 0
  data : List (BitVec 512 × Bool) := []
  gen : Bool := false
  fetch : Nat := 0
  mig : Nat := 0
  knit : Bool := false
  sn : Nat
  sent : Bool := false
  reissued : Bool := false
  detached : Bool := false
  got : List CartLine := []
  deriving DecidableEq, Repr

/-- The cartridge of one Yarn port beyond its CTG registers: the attach exchange (step of R409 in progress, 0 none, and the SN of its
start), the IDENTIFY body, how much of the chain was read, the nonce's draw, the bound serial (R421), allocated and clean extents
(R422), transactions in order of issue. -/
structure Cart where
  step : Nat := 0
  startSn : Nat := 0
  ident : Option IdentifyBody := none
  chainRead : Nat := 0
  nonceDraw : Nat := 0
  bound : Option (BitVec 128) := none
  boundCap : Nat := 0
  alloc : Tbl Bool := []
  clean : Tbl Bool := []
  txns : List Txn := []
  nextTag : Nat := 1
  /-- Tags of detached transactions whose answers are still discarded (R419). -/
  dead : List Nat := []
  /-- The tag of the management request that awaits its answer (R417), and the next one. -/
  mgmt : Option Nat := none
  nextMgmt : Nat := 0
  /-- SN at which RETIRE was sent (R426), and of the last WEAR_REQ (R424). -/
  retireSn : Option Nat := none
  pollSn : Nat := 0
  /-- DEALLOCs sent in this window (R423). -/
  reclaimed : Nat := 0
  /-- The wear warning and the evacuation request of the present crossing were given (R425). -/
  warned : Bool := false
  evacAsked : Bool := false
  deriving DecidableEq, Repr

/-! ### Yarn-type links (chapter 13) -/

/-- A packet of the replay buffer (R395): its SEQ, its length on the lanes, its header as first sent (R389) and its body. -/
structure LinkPkt where
  seq : Nat
  size : Nat
  header : Nat
  body : PktBody
  deriving DecidableEq, Repr

/-- A Yarn port's link or the Hallway's, beyond its registers. -/
structure LinkSt where
  /-- The replay buffer, oldest packet first (R395), and the packets that wait for room in it or for the link, with their tags. -/
  stored : List LinkPkt := []
  waiting : List (Nat × PktBody) := []
  /-- A packet of the session has been accepted, an acknowledgement is due, and the last NAK's SEQ and SN (R392). -/
  accepted : Bool := false
  ackDue : Bool := false
  nakFor : Option (Nat × Nat) := none
  /-- SN at which the replay timer last restarted (R396), at which the state was entered or the attempt began (R399), of the last good packet,
  of the last packet sent, and of the last sequenced one in either direction. -/
  timerSn : Nat := 0
  stateSn : Nat := 0
  rxSn : Nat := 0
  txSn : Nat := 0
  busySn : Nat := 0
  /-- Lanes lost (R400), the partner's latest proposal, and whether this end's TS1 with RETRAIN and the partner's crossed (R401). -/
  lost : Nat := 0
  partner : Option Proposal := none
  sentRetrain : Bool := false
  gotRetrain : Bool := false
  /-- SEQ of the packet whose replays caused the last retrain (R397). -/
  culprit : Option Nat := none
  /-- This end has sent WAKE, or the partner's was received (R399). -/
  waking : Bool := false
  /-- Link-state events that await dispatch (R403): UP, DOWN, RETRAIN, CHANGE, one bit each. -/
  saw : Nat := 0
  /-- Sequenced packets first sent and accepted in the session (R389). -/
  txCount : Nat := 0
  rxCount : Nat := 0
  deriving DecidableEq, Repr

/-! ### Twin pairs (chapter 19) -/

/-- A line for the peer: an MWR or a SYNC_LINE with its MID, the request it belongs to (0 none), its class, whether it is an echo (with the
peer's MID), whether it was sent, whether a MACK has named it, and whether the line stands here too (the owner's own writes). -/
structure MirrorItem where
  mid : Nat
  req : Nat
  dpa : Nat
  data : BitVec 512
  enables : BitVec 64
  poison : Bool
  cls : Nat := 3
  echo : Option Nat := none
  sync : Bool := false
  repair : Bool := false
  zero : Bool := false
  sent : Bool := false
  acked : Bool := false
  here : Bool := false
  deriving DecidableEq, Repr

/-- A line received from the peer that waits to be performed (R537). -/
structure RxItem where
  mid : Nat
  dpa : Nat
  data : BitVec 512
  enables : BitVec 64
  poison : Bool
  cls : Nat
  echo : Bool
  sync : Bool
  zero : Bool := false
  deriving DecidableEq, Repr

structure TwinSt where
  /-- Rooms that are mirror-live (R538), rooms whose copy here is fenced until its copy ends, and rooms mirrored on this member alone. -/
  live : List Nat := []
  fenced : List Nat := []
  /-- The peer's rooms by DRN: bit 0 MIRRORED, bit 1 IN_SERVICE. -/
  peerRooms : Tbl Nat := []
  /-- Lines not yet acknowledged, and the next MID. -/
  out : List MirrorItem := []
  nextMid : Nat := 1
  rx : List RxItem := []
  /-- Repairs that wait for SYNC_LINE REPAIR: request (0: an engine's read), DPA, SN, whether LREQ was sent (R541). -/
  repairs : List (Nat × Nat × Nat × Bool) := []
  /-- Lines that the peer asked for by LREQ and that are still to be read. -/
  asked : List Nat := []
  /-- The state before the pairing attempt in progress, or last one (R532, R553). -/
  was : Nat := 0
  /-- Rooms in service with MIRRORED 1 here, and those of either member that the other lacks (R538). -/
  mine : List Nat := []
  pend : List Nat := []
  /-- An accepted witness token whose event awaits dispatch: its WINNER (R547). -/
  offered : Option Nat := none
  /-- Lines whose snoops ended, for the line that waited for them, and a SYNC_ACK that waits until every line received is performed. -/
  snooped : List Nat := []
  ackWait : Bool := false
  /-- Rooms that the resynchronisation copied. -/
  copied : Nat := 0
  /-- Steps of R532 done, and the SN at which pairing started. -/
  step : Nat := 0
  startSn : Nat := 0
  nonceDraw : Nat := 0
  peer : Option HelloBody := none
  peerSource : Option SourceBody := none
  /-- Staged epoch of TWN_WITNESS (R547). -/
  staged : Nat := 0
  /-- State at S: 2 Syncing as destination, 1 Syncing as source, 0 Paired (R548). -/
  atSplit : Nat := 0
  fw : Nat := 0
  /-- SN of the last good heartbeat, the SN since which the Hallway is not Active. -/
  hbSn : Nat := 0
  downSn : Option Nat := none
  hbCount : Nat := 0
  /-- The member fell silent (R545, R550). -/
  silent : Bool := false
  /-- Rooms to copy in the resynchronisation, ascending, and whether SYNC_DONE was sent. -/
  syncRooms : List Nat := []
  syncDone : Bool := false
  deriving DecidableEq, Repr

/-! ### Service rings (chapter 11) -/

/-- A queue pair beyond its BAR4 slot and its QMG registers: a doorbell that the STC has not dispatched (R341), a fetch round under way
(R343), the completions counted since the last message, the SN of the first of them, and an interrupt that has fallen due (R346). -/
structure Pair where
  pending : Bool := false
  active : Bool := false
  irqCnt : Nat := 0
  irqSn : Nat := 0
  due : Bool := false
  /-- The line whose snoop its descriptor fetch waited for, and the SN since which its completion waits for backing. -/
  snooped : Option Nat := none
  since : Option Nat := none
  deriving DecidableEq, Repr

/-- A descriptor (R347). -/
structure Desc where
  opcode : Nat := 0
  cls : Nat := 0
  irq : Bool := false
  fence : Bool := false
  flush : Bool := false
  ratio : Nat := 0
  tag : Nat := 0
  src : Nat := 0
  dst : Nat := 0
  len : Nat := 0
  dlen : Nat := 0
  arg0 : Nat := 0
  arg1 : Nat := 0
  deriving DecidableEq, Repr

/-- How a job ended (R352): STATUS, RESULT, FLUSHED. -/
structure JobEnd where
  status : Nat
  result : Nat := 0
  flushed : Bool := false
  deriving DecidableEq, Repr

/-- A job whose descriptor was fetched (R343): the bytes it has read or copied, the bytes it has written, the bytes it holds (256 is added to
a byte of a poisoned line), the bytes it is to write once they are known, the first poisoned offset with its address, its compressor, the
line whose snoop it waited for, the SN since which it waits for backing (R130), and its end. -/
structure Job where
  id : Nat
  pair : Nat
  desc : Desc
  started : Bool := false
  pos : Nat := 0
  wpos : Nat := 0
  buf : List Nat := []
  out : Option (List Nat) := none
  poison : Option (Nat × Nat) := none
  inst : Option Nat := none
  snooped : Option Nat := none
  since : Option Nat := none
  ended : Option JobEnd := none
  deriving DecidableEq, Repr

structure Rings where
  pairs : Tbl Pair := []
  /-- Jobs fetched and not completed, in the order of their fetching. -/
  jobs : List Job := []
  /-- Pairs whose EN reads 1. -/
  live : List Nat := []
  deriving DecidableEq, Repr

/-! ### The Data Mover (chapter 12) -/

/-- A channel beyond its registers: whether a round runs, its number for the lines it sends to a Twin peer, the source bytes of the chunks that
are done, the read and write beats issued in the current chunk, the staged bytes (256 is added to a byte of a poisoned line), the address
written last, whether only the read-back is left (R368), whether its next access waits, the first poisoned address of the round, the line
whose snoop it waited for, and the SN since which it waits for backing. -/
structure Mover where
  running : Bool := false
  round : Nat := 0
  done : Nat := 0
  rd : Nat := 0
  wr : Nat := 0
  staged : List Nat := []
  last : Option Nat := none
  readBack : Bool := false
  waits : Bool := false
  poison : Option Nat := none
  snooped : Option Nat := none
  since : Option Nat := none
  deriving DecidableEq, Repr

structure Dmv where
  chans : Tbl Mover := []
  /-- The channel that last held engine e at level v, by 4e + v, and the channel that last issued a beat of engine e (1 + channel; 0 none). -/
  holder : Tbl Nat := []
  lastCh : Tbl Nat := []
  deriving DecidableEq, Repr

/-! ### The on-chip network (chapter 15) -/

/-- One set of route tables, of every edge router and network (R442): the plane that a bulk fill gave each network, one bit each, and the
entries that differ from it, by destination + 2^10 * network + 2^12 * router. -/
structure RtTab where
  fill : Nat := 0
  diff : Tbl Bool := []
  deriving DecidableEq, Repr

/-- The live and the shadow route tables, the tables of an old epoch that has not drained (R446), and the SN of the last swap. -/
structure NocSt where
  live : RtTab := {}
  shadow : RtTab := {}
  old : Option RtTab := none
  lastSwap : Option Nat := none
  deriving DecidableEq, Repr

/-! ### The device -/

/-- Everything the device holds but the queue of commands. -/
structure Dev where
  /-- The stitch number (R10, R22). -/
  sn : Nat := 0
  /-- Register words by `rkey page offset`; what is not listed holds its reset value (`resetWord`). -/
  regs : Tbl Word := []
  /-- Draws made so far from the free values of Config (the model's own field; see the assumption log). -/
  fresh : Nat := 0
  /-- Messages sent, oldest first. -/
  out : List Msg := []
  stc : Stc := {}
  frogs : List FrogRec := []
  nextFrog : Nat := 1
  bar : Bar := {}
  clk : Clk := {}
  pwr : Power := {}
  host : HostSide := {}
  str : Strongroom := {}
  tal : Tally := {}
  mem : Mem := {}
  carts : Tbl Cart := []
  links : Tbl LinkSt := []
  twin : TwinSt := {}
  rings : Rings := {}
  dmv : Dmv := {}
  noc : NocSt := {}
  deriving DecidableEq, Repr

/-- The state of the block: the device and the queue of the commands that wait, first in, first out. -/
structure State where
  pending : List Instr
  dev : Dev
  deriving DecidableEq, Repr

/-- Why the machine could stop. No command of this block stops it: every error the spec names is state of the Fault Collection Unit
(R453 to R468). The type has one constructor, for a command whose effect the spec does not give; no meaning raises it. -/
inductive Fault where
  /-- Raised by no meaning. Safe: a stop where the hardware goes on could only make a true claim unprovable. -/
  | notGiven (what : String)
  deriving DecidableEq, Repr

/-- Why a command is refused. -/
inductive Refusal where
  /-- A command that has no meaning yet, by its mnemonic. Safe: nothing is claimed about it. -/
  | notModelled (mnemonic : String)
  deriving DecidableEq, Repr

/-- The device right after a cold reset, with por_n still low (R575, R578): every register at its "At reset" value, nothing listed in
DRAM, no command waiting. -/
def State.reset : State := { pending := [], dev := {} }

end Sys2Proof.Machine
end

