-- ==== Sys2Proof/Machine/Ops.lean ====
section
/-! DEFINITION. The named operations over the device's registers, its latches and its outputs, that every command's meaning is written
with: reading and writing register fields, raising an FCU source, latching an STC source, sending interrupts, sending messages, event
records and Tally counters. -/

namespace Sys2Proof.Machine

namespace Dev

/-! ### Register words and fields -/

/-- The value in force of register word `off` of page `p`. -/
def word (d : Dev) (p off : Nat) : Word := tget resetWord d.regs (rkey p off)

/-- Write a register word. -/
def setWord (d : Dev) (p off : Nat) (w : Word) : Dev :=
  { d with regs := tput resetWord d.regs (rkey p off) w }

/-- The 64 bits at `off` (R54): the word there and the one above it. -/
def reg64 (d : Dev) (p off : Nat) : Nat := (d.word p off).toNat + (d.word p (off + 4)).toNat * 2 ^ 32

/-- The value of a register field. -/
def get (d : Dev) (p : Nat) (f : Fld) : Nat :=
  if f.lsb + f.width ≤ 32 then bits (d.word p f.off).toNat f.lsb f.width else bits (d.reg64 p f.off) f.lsb f.width

/-- Write a register field, the other bits of its register unchanged. -/
def set (d : Dev) (p : Nat) (f : Fld) (v : Nat) : Dev :=
  if f.lsb + f.width ≤ 32 then
    d.setWord p f.off (BitVec.ofNat 32 (setBits (d.word p f.off).toNat f.lsb f.width v))
  else
    let r := setBits (d.reg64 p f.off) f.lsb f.width v
    (d.setWord p f.off (BitVec.ofNat 32 r)).setWord p (f.off + 4) (BitVec.ofNat 32 (r >>> 32))

/-- A one-bit field as a truth value. -/
def flag (d : Dev) (p : Nat) (f : Fld) : Bool := d.get p f != 0

/-- Write a one-bit field. -/
def setFlag (d : Dev) (p : Nat) (f : Fld) (b : Bool) : Dev := d.set p f (b2n b)

/-- Add to a counter field, stopping at the top of its width (a saturating counter). -/
def addSat (d : Dev) (p : Nat) (f : Fld) (k : Nat) : Dev := d.set p f (min (2 ^ f.width - 1) (d.get p f + k))

/-- Return every register word of page `p` to its reset value. -/
def resetPage (d : Dev) (p : Nat) : Dev := { d with regs := tfilter (fun k => k / 4096 != p) d.regs }

/-- Return every register word of the entries of bank `b` to its reset value. -/
def resetBank (d : Dev) (b : Nat) : Dev :=
  { d with regs := tfilter (fun k => k / 4096 / 0x100000 != b + 1) d.regs }

/-! ### Messages and free values -/

/-- Send a message. -/
def emit (d : Dev) (m : Msg) : Dev := { d with out := d.out ++ [m] }

/-- Take the next free value: the counter advances by one. -/
def draw (d : Dev) : Dev := { d with fresh := d.fresh + 1 }

/-- R98: the device timestamp in nanoseconds, the value set plus 128 ns for every stitch since. -/
def timestamp (d : Dev) : Nat := (d.clk.tsBase + 128 * (d.sn - d.clk.tsSn)) % 2 ^ 64

/-! ### Sources of the STC and the FCU -/

/-- R614, R458: an error of FCU source `src` reaches its latch, with the capture of the first of them. -/
def raise (d : Dev) (src addr master acc : Nat) : Dev :=
  let l := tget (fun _ => Latch.mk 0 0 0 0) d.stc.errs src
  let l' := if l.count = 0 then Latch.mk 1 addr master acc else { l with count := l.count + 1 }
  { d with stc := { d.stc with errs := tput (fun _ => Latch.mk 0 0 0 0) d.stc.errs src l' } }

/-- A source that is raised at most once in a stitch. -/
def raiseOnce (d : Dev) (src addr master acc : Nat) : Dev :=
  if (tget (fun _ => Latch.mk 0 0 0 0) d.stc.errs src).count = 0 then d.raise src addr master acc else d

/-- R28: a pulse on a latched source that is no FCU source sets its latch. -/
def latch (d : Dev) (src : Nat) : Dev :=
  if d.stc.latched.contains src then d else { d with stc := { d.stc with latched := d.stc.latched ++ [src] } }

/-- The level of a level source (R28). -/
def setLevel (d : Dev) (src : Nat) (active : Bool) : Dev :=
  let rest := d.stc.levels.filter (fun s => s != src)
  { d with stc := { d.stc with levels := if active then rest ++ [src] else rest } }

/-- The severity in force of an FCU source (R456). -/
def severity (d : Dev) (i : Nat) : Nat := d.get (Bk.fcu i) F.FCU_SRC_CFG_SEV

/-- R31: the category of a source now; 0 where it is not dispatched. -/
def category (d : Dev) (i : Nat) : Nat :=
  if i < 0x400 then
    match d.severity i with
    | 5 => 2 | 4 => 6 | 3 => 6 | 2 => 9 | 1 => 9 | _ => 0
  else if i < 0x420 then 1
  else if i < 0x440 then 3
  else if i < 0x480 then 4
  else if i < 0x488 then 5
  else if (0x490 ≤ i ∧ i ≤ 0x4A0) then 5
  else if (0x500 ≤ i ∧ i < 0x580) then 7
  else if (0x580 ≤ i ∧ i < 0x640) then 8
  else if (0x7C0 ≤ i ∧ i < 0x800) then 10
  else 0

/-- R467: the fatal state. -/
def fatal (d : Dev) : Bool := d.flag Pg.fcu F.FCU_FATAL_ACTIVE

/-- R35, R467: events are acted on as records only; no interrupt is raised and no automatic action starts. -/
def recordOnly (d : Dev) : Bool := d.stc.recordOnly || d.fatal

/-! ### Tally counters -/

/-- R564: the group of pages whose Tally source a page's counters raise. -/
def tallyGroup (p : Nat) : Nat :=
  match pageKind p with
  | some .gen | some .stc | some .pwr | some .fcu => 0
  | some .str | some .mgc | some .dbg => 1
  | some .hp => 2
  | some .dc => 3 + pageInst p / 4
  | some .yp => 7 + pageInst p / 8
  | some .hwl | some .twn => 10
  | some .cmp => if pageInst p < 32 then 11 else 12
  | some .ldm => 13
  | _ => 9

/-- R560, R562: counter `n` of page `p` adds `k` occurrences; passing 2^48 - 1 wraps it and sets its bit of TAL_OVF, and the Tally
source of the page's group latches if the bit read 0. -/
def tallyAdd (d : Dev) (p n k : Nat) : Dev :=
  let c := d.get p (F.TAL_CNT_COUNT.sh (8 * n)) + k
  let d1 := d.set p (F.TAL_CNT_COUNT.sh (8 * n)) c
  if c < 2 ^ 48 then d1
  else
    let ovf := d.get p F.TAL_OVF_OVF
    let d2 := d1.set p F.TAL_OVF_OVF (setBit ovf n)
    if ovf.testBit n then d2 else d2.latch (Src.tally (tallyGroup p))

/-- R560: every counter of page `p` that selects event `ev` adds `k`. -/
def tally (d : Dev) (p ev k : Nat) : Dev :=
  (List.range 4).foldl
    (fun d n => if d.get p (F.TAL_SEL_EVENT.sh (4 * n)) = ev then d.tallyAdd p n k else d) d

/-! ### Interrupts (R67 to R71) -/

/-- R67: the page is pending. -/
def pagePending (d : Dev) (p : Nat) : Bool :=
  (d.get p F.PG_INT_STS_STS &&& d.get p F.PG_INT_EN_EN) != 0 || d.flag p F.PG_CTL_TEST_INT

/-- R93: MSI-X table size of an LD. -/
def msixCount (d : Dev) (ld : Nat) : Nat := d.get (Pg.hp (ld / 16)) (F.HP_VEC_ALLOC_COUNT.sh (4 * (ld % 16)))

/-- The mask (bit 0) and pending (bit 1) bits of an MSI-X entry; masked after reset (PRESUMED: the PCIe default). -/
def msixEntry (d : Dev) (ld vec : Nat) : Nat := tget (fun _ => 1) d.bar.msix (4096 * ld + vec)

/-- Write an MSI-X entry. -/
def setMsixEntry (d : Dev) (ld vec v : Nat) : Dev :=
  { d with bar := { d.bar with msix := tput (fun _ => 1) d.bar.msix (4096 * ld + vec) v } }

/-- R71: send the message of an MSI-X entry, or set its pending bit while it is masked. -/
def sendMsix (d : Dev) (ld vec : Nat) : Dev :=
  let e := d.msixEntry ld vec
  if e.testBit 0 then d.setMsixEntry ld vec (setBit e 1) else d.emit (.msix ld vec)

/-- An interrupt routed to a management core: the core leaves WAIT (R484). While a live activation is paused it is withheld (R520). -/
def coreInterrupt (d : Dev) (core page : Nat) : Dev :=
  if d.flag Pg.str F.STR_ACT_CTL_PAUSED then d
  else ({ d with pwr := { d.pwr with coreWait := clrBit d.pwr.coreWait core } } : Dev).emit (.coreIrq core page)

/-- R71: the MSI-X part of a page interrupt: the message of entry VECTOR of the LD, or "interrupt route invalid". -/
def hostInterrupt (d : Dev) (p : Nat) : Dev :=
  let vec := d.get (Bk.route p) F.GEN_IRQ_ROUTE_VECTOR
  let ld := d.get (Bk.route p) F.GEN_IRQ_ROUTE_LD
  if vec < d.msixCount ld then d.sendMsix ld vec
  else d.raise Src.irqInvalid (p + vec * 2 ^ 17) ld 0

/-- R68, R71: send the page's interrupt to the destination of its route entry. -/
def pageInterrupt (d : Dev) (p : Nat) : Dev :=
  if d.flag (Bk.route p) F.GEN_IRQ_ROUTE_MASK then d
  else
    let core := d.get (Bk.route p) F.GEN_IRQ_ROUTE_CORE
    match d.get (Bk.route p) F.GEN_IRQ_ROUTE_DEST with
    | 1 => (d.hostInterrupt p).tally p 0x0006 1
    | 2 => (d.coreInterrupt core p).tally p 0x0006 1
    | 3 => ((d.hostInterrupt p).coreInterrupt core p).tally p 0x0006 1
    | _ => d

/-- R68 case 1 and R69: set bits of PG_INT_STS; if the page becomes pending, send its interrupt, unless events are records only. -/
def setPageBits (d : Dev) (p mask : Nat) : Dev :=
  let was := d.pagePending p
  let d1 := d.set p F.PG_INT_STS_STS (d.get p F.PG_INT_STS_STS ||| mask)
  if !was && d1.pagePending p && !d.recordOnly then d1.pageInterrupt p else d1

/-! ### Event records (R99, R456) -/

/-- The LDs that GEN_MGMT_LD names (R58), as in force. -/
def mgmtLds (d : Dev) : List Nat := bitList 64 (d.get Pg.gen F.GEN_MGMT_LD_MGMT)

/-- R58: an LD is a management LD. -/
def isMgmt (d : Dev) (ld : Nat) : Bool := (d.get Pg.gen F.GEN_MGMT_LD_MGMT).testBit ld

/-- The host-side record of an LD. -/
def ld (d : Dev) (n : Nat) : Ld := tget (fun _ => ({} : Ld)) d.host.lds n

/-- Change the host-side record of an LD. -/
def modLd (d : Dev) (n : Nat) (f : Ld → Ld) : Dev :=
  { d with host := { d.host with lds := tput (fun _ => ({} : Ld)) d.host.lds n (f (d.ld n)) } }

/-- The host link of a port half. -/
def link (d : Dev) (port half : Nat) : HostLink := tget (fun _ => ({} : HostLink)) d.host.links (2 * port + half)

/-- Change the host link of a port half. -/
def modLink (d : Dev) (port half : Nat) (f : HostLink → HostLink) : Dev :=
  { d with host := { d.host with links := tput (fun _ => ({} : HostLink)) d.host.links (2 * port + half) (f (d.link port half)) } }

/-- R84: an LD is bound (MLD) or enabled (SLD). -/
def bound (d : Dev) (ld : Nat) : Bool := (d.get (Pg.hp (ld / 16)) F.HP_LD_BOUND_BOUND).testBit (ld % 16)

/-- The bound LDs, ascending. -/
def boundLds (d : Dev) : List Nat := (List.range 64).filter d.bound

/-- The capacity of each log (R99). -/
def logCap : Nat → Nat
  | 0 => 64 | 1 => 64 | 2 => 64 | 3 => 16 | _ => 256

/-- R99: the log of an LD by number: 0 Informational, 1 Warning, 2 Failure, 3 Fatal, 4 Dynamic Capacity. -/
def logOf (l : Ld) : Nat → List EvRec
  | 0 => l.logInfo | 1 => l.logWarn | 2 => l.logFail | 3 => l.logFatal | _ => l.logDc

/-- Replace a log of an LD. -/
def setLog (l : Ld) (k : Nat) (r : List EvRec) : Ld :=
  match k with
  | 0 => { l with logInfo := r }
  | 1 => { l with logWarn := r }
  | 2 => { l with logFail := r }
  | 3 => { l with logFatal := r }
  | _ => { l with logDc := r }

/-- R99: append a record to a log of an LD; a full log keeps its records and counts the overflow. A record that enters an empty log sends the
interrupt that the LD's event interrupt policy gives the log, unless events are records only (PRESUMED: the standard rules). -/
def appendWith (d : Dev) (n k src sn : Nat) (ext : Option DcExtent) : Dev :=
  let l := d.ld n
  if (logOf l k).length < logCap k then
    let r : EvRec := ⟨l.nextHandle, d.timestamp, sn, src, n, k, min 255 (d.sn - sn), ext⟩
    let d1 := d.modLd n fun l => { setLog l k (logOf l k ++ [r]) with nextHandle := l.nextHandle + 1 }
    let pol := bits l.eventPolicy.toNat (8 * k) 8
    if (logOf l k).isEmpty && pol % 4 == 1 && !d.recordOnly then d1.sendMsix n (pol / 16) else d1
  else d.modLd n fun l => { l with overflow := tmod (fun _ => 0) l.overflow k (· + 1) }

/-- R99: append the record of an event. -/
def appendRec (d : Dev) (n k src sn : Nat) : Dev := d.appendWith n k src sn none

/-- R456: the record of an FCU event at severity `sev`: to the LD of the capture's master ID if it is one, to every management LD
otherwise, to every bound LD for a fatal event; nothing at severity log, or while FCU_CFG.REC_EN is 0. -/
def fcuRecord (d : Dev) (src sn sev master : Nat) : Dev :=
  if !d.flag Pg.fcu F.FCU_CFG_REC_EN || sev < 2 then d
  else
    let lds := if sev = 5 then d.boundLds else if master < 0x40 then [master] else d.mgmtLds
    lds.foldl (fun d n => d.appendRec n (sev - 2) src sn) d

/-- R466: an LD becomes viral: its bit of FCU_VIRAL (which LDM_STS.VIRAL reads), and the viral indication of its host port. -/
def makeViral (d : Dev) (ld : Nat) : Dev :=
  let v := d.get Pg.fcu F.FCU_VIRAL_LDS
  if v.testBit ld then d else (d.set Pg.fcu F.FCU_VIRAL_LDS (setBit v ld)).emit (.viral ld)

/-- R170: an LD is viral. -/
def isViral (d : Dev) (ld : Nat) : Bool := (d.get Pg.fcu F.FCU_VIRAL_LDS).testBit ld

/-- Clear the viral state of an LD (R82). -/
def clearViral (d : Dev) (ld : Nat) : Dev := d.set Pg.fcu F.FCU_VIRAL_LDS (clrBit (d.get Pg.fcu F.FCU_VIRAL_LDS) ld)

/-! ### Power domains -/

/-- PWR_DOM_STS: the domain is powered (R480, R498). -/
def domOn (d : Dev) (k : Nat) : Bool := (d.get Pg.pwr F.PWR_DOM_STS_ON).testBit k

/-- R440: a domain that has reported itself down: it is off, or Hush retains it or holds it in low power. -/
def domDown (d : Dev) (k : Nat) : Bool := k != 0 && (!d.domOn k || d.get Pg.pwr F.PWR_STS_STATE == 2)

/-- R486: a transition whose commit point has passed powers the domain off, reduces it or retains it. -/
def domGoing (d : Dev) (k : Nat) : Bool :=
  k != 0 && d.flag Pg.pwr F.PWR_STS_IN_PROGRESS && d.flag Pg.pwr F.PWR_STS_COMMITTED &&
    (d.pwr.target == 2 || d.pwr.target == 3 || (d.pwr.target == 1 && (d.get Pg.pwr F.PWR_TRIM_DOM_OFF).testBit k))

/-- R440, R486: packets for a domain are held at its boundary. -/
def domHeld (d : Dev) (k : Nat) : Bool := d.domDown k || d.domGoing k

/-- R440, R486: a packet is held for domain `k`, and wakes it; while the domain only goes down, the wake waits for its end. -/
def wakeFor (d : Dev) (k : Nat) : Dev := if d.domGoing k && !d.domDown k then d else (d.latch Src.nocWake).tally Pg.noc 0x0103 1

/-- PG_STS.READY of a page (R62): its domain is powered and its registers are usable; the AON pages always are (R56), the CRY
page is once KEYS_READY reads 1 (R266). -/
def pageReady (d : Dev) (p : Nat) : Bool :=
  let k := pageDomain p
  k == 0 || (d.domOn k && d.pwr.ready.testBit k && (p != Pg.cry || d.flag p F.CRY_STS_KEYS_READY))

/-- PG_CTL.ENABLE of a page. -/
def enabled (d : Dev) (p : Nat) : Bool := d.flag p F.PG_CTL_ENABLE

/-- Power a domain on or off (PWR_DOM_STS). -/
def setDom (d : Dev) (k : Nat) (on : Bool) : Dev :=
  let v := d.get Pg.pwr F.PWR_DOM_STS_ON
  let d1 := if on then d else { d with tal := { d.tal with partialDoms := setBit d.tal.partialDoms k } }
  d1.set Pg.pwr F.PWR_DOM_STS_ON (if on then setBit v k else clrBit v k)

/-- R481: the domain of a channel that is not populated, or lies outside the interleave, is off in every state. -/
def setAbsent (d : Dev) (k : Nat) : Dev :=
  let d1 := d.setDom k false
  { d1 with pwr := { d1.pwr with absent := setBit d1.pwr.absent k } }

/-- R470, R471: a Frog of page `p` is accepted and not complete. -/
def frogOn (d : Dev) (p : Nat) : Bool := d.frogs.any (fun f => f.acceptSn != 0 && decide (f.target = .page p))

/-- A Frog of one ring, channel or migration is accepted and not complete. -/
def frogHits (d : Dev) (t : FrogTarget) : Bool := d.frogs.any (fun f => f.acceptSn != 0 && decide (f.target = t))

/-- R220, R225: a CMP instance takes new blocks: enabled, and no Frog of it is in progress. -/
def cmpTakes (d : Dev) (i : Nat) : Bool := d.enabled (Pg.cmp i) && !d.frogOn (Pg.cmp i)

/-! ### Stitch-aligned writes (R41) -/

/-- A write that has reached its page: at once, or at the next stitch boundary for a stitch-aligned register. -/
def store (d : Dev) (p off mask value : Nat) (aligned : Bool) : Dev :=
  if aligned then
    { d with stc := { d.stc with align := d.stc.align ++ [⟨d.sn + 1, rkey p off, mask, value⟩] } }
  else
    let w := (d.word p off).toNat
    d.setWord p off (BitVec.ofNat 32 (clearBits w mask + (value &&& mask)))

/-- The word as a read returns it: the value in force with every pending stitch-aligned write applied, oldest first (R41). -/
def pendWord (d : Dev) (p off : Nat) : Nat :=
  d.stc.align.foldl (fun w a => if a.key = rkey p off ∧ a.due ≠ 0 then clearBits w a.mask + (a.value &&& a.mask) else w)
    (d.word p off).toNat

/-- A field as a read returns it (R41). -/
def pendGet (d : Dev) (p : Nat) (f : Fld) : Nat :=
  if f.lsb + f.width ≤ 32 then bits (d.pendWord p f.off) f.lsb f.width
  else bits (d.pendWord p f.off + d.pendWord p (f.off + 4) * 2 ^ 32) f.lsb f.width

/-- R41 at a boundary: the writes that are due take effect. -/
def commitAligned (d : Dev) : Dev :=
  let dueNow := d.stc.align.filter (fun a => a.due ≠ 0 ∧ a.due ≤ d.sn)
  let d1 := dueNow.foldl
    (fun d a =>
      let w := (tget resetWord d.regs a.key).toNat
      { d with regs := tput resetWord d.regs a.key (BitVec.ofNat 32 (clearBits w a.mask + (a.value &&& a.mask))) }) d
  { d1 with stc := { d1.stc with align := d1.stc.align.filter (fun a => ¬ (a.due ≠ 0 ∧ a.due ≤ d.sn)) } }

end Dev

/-- A command whose effect is `f` on the device. -/
abbrev Effect := Dev → Dev

/-- Run an effect: the queue is left alone and the block goes on. -/
def State.run (s : State) (f : Effect) : Host.Outcome State Fault Refusal := .next { s with dev := f s.dev }

/-- An effect that applies only in the states where `c` holds; elsewhere the command changes nothing. -/
def when (c : Dev → Bool) (f : Effect) : Effect := fun d => if c d then f d else d

end Sys2Proof.Machine
end

