-- ==== Sys2Proof/Machine/Sm3.lean ====
section
/-! DEFINITION. The SM3 digest, which the manual names by its standard (GB/T 32905; R349, R507, R527). PRESUMED: the constants and rounds
are those of the standard; the manual does not print them. -/

namespace Sys2Proof.Machine.Sm3

/-- Rotate a 32-bit number left. -/
def rotl (x n : Nat) : Nat := ((x <<< (n % 32)) ||| (x >>> (32 - n % 32))) % 2 ^ 32

/-- The round constant. -/
def tj (j : Nat) : Nat := if j < 16 then 0x79cc4519 else 0x7a879d8a

def ff (j x y z : Nat) : Nat := if j < 16 then x ^^^ y ^^^ z else (x &&& y) ||| (x &&& z) ||| (y &&& z)
def gg (j x y z : Nat) : Nat := if j < 16 then x ^^^ y ^^^ z else (x &&& y) ||| ((0xFFFFFFFF - x) &&& z)
def p0 (x : Nat) : Nat := x ^^^ rotl x 9 ^^^ rotl x 17
def p1 (x : Nat) : Nat := x ^^^ rotl x 15 ^^^ rotl x 23

/-- The eight chaining words. -/
structure V where
  a : Nat
  b : Nat
  c : Nat
  d : Nat
  e : Nat
  f : Nat
  g : Nat
  h : Nat
  deriving DecidableEq, Repr

def iv : V := ⟨0x7380166f, 0x4914b2b9, 0x172442d7, 0xda8a0600, 0xa96f30bc, 0x163138aa, 0xe38dee4d, 0xb0fb0e4e⟩

/-- One more word of the message expansion, onto the words so far (newest first). -/
def expandOne (w : List Nat) : List Nat :=
  let g := fun i => w.getD (i - 1) 0
  (p1 (g 16 ^^^ g 9 ^^^ rotl (g 3) 15) ^^^ rotl (g 13) 7 ^^^ g 6) :: w

/-- The 68 expanded words, in order. -/
def expand (block : List Nat) : List Nat := (Nat.repeat expandOne 52 block.reverse).reverse

/-- One round, with the words W_j and W_j xor W_(j+4). -/
def round (v : V) (j w w' : Nat) : V :=
  let a12 := rotl v.a 12
  let ss1 := rotl ((a12 + v.e + rotl (tj j) j) % 2 ^ 32) 7
  let ss2 := ss1 ^^^ a12
  let tt1 := (ff j v.a v.b v.c + v.d + ss2 + w') % 2 ^ 32
  let tt2 := (gg j v.e v.f v.g + v.h + ss1 + w) % 2 ^ 32
  ⟨tt1, v.a, rotl v.b 9, v.c, p0 tt2, v.e, rotl v.f 19, v.g⟩

/-- The rounds over the expanded words from round `j` on. -/
def rounds : Nat → List Nat → V → V
  | j, w0 :: w1 :: w2 :: w3 :: w4 :: t, v => rounds (j + 1) (w1 :: w2 :: w3 :: w4 :: t) (round v j w0 (w0 ^^^ w4))
  | _, _, v => v

/-- The compression of one block of sixteen words. -/
def compress (v : V) (block : List Nat) : V :=
  let r := rounds 0 (expand block) v
  ⟨r.a ^^^ v.a, r.b ^^^ v.b, r.c ^^^ v.c, r.d ^^^ v.d, r.e ^^^ v.e, r.f ^^^ v.f, r.g ^^^ v.g, r.h ^^^ v.h⟩

/-- Big-endian words of a byte list. -/
def wordsBE : List Nat → List Nat
  | a :: b :: c :: d :: t => (a * 2 ^ 24 + b * 2 ^ 16 + c * 2 ^ 8 + d) :: wordsBE t
  | _ => []

/-- The padding: 0x80, zeros, the bit length in eight bytes. -/
def pad (m : List Nat) : List Nat :=
  let n := m.length
  let z := (119 - n % 64) % 64
  m ++ [0x80] ++ List.replicate z 0 ++ ((List.range 8).map fun i => (8 * n) >>> (8 * (7 - i)) % 256)

/-- Compress the blocks of sixteen words one after the other; `fuel` bounds their number. -/
def blocks : Nat → V → List Nat → V
  | 0, v, _ => v
  | fuel + 1, v, ws => if ws.isEmpty then v else blocks fuel (compress v (ws.take 16)) (ws.drop 16)

/-- SM3 of a list of bytes, as a 256-bit number whose most significant byte is the digest's first byte. -/
def digest (m : List Nat) : Nat :=
  let ws := wordsBE (pad m)
  let v := blocks (ws.length / 16 + 1) iv ws
  [v.a, v.b, v.c, v.d, v.e, v.f, v.g, v.h].foldl (fun t x => t * 2 ^ 32 + x) 0

/-- The `n` bytes of a number, most significant first. -/
def bytesBE (n v : Nat) : List Nat := (List.range n).map fun i => (v >>> (8 * (n - 1 - i))) % 256

/-- The `n` bytes of a number, least significant first (R11). -/
def bytesLE (n v : Nat) : List Nat := (List.range n).map fun i => (v >>> (8 * i)) % 256

/-- The number whose little-endian bytes are listed. -/
def ofBytesLE (bs : List Nat) : Nat := bs.foldr (fun b t => b + 256 * t) 0

end Sys2Proof.Machine.Sm3
end

