-- ==== Sys2Proof/Machine/Sm4.lean ====
section
/-! DEFINITION. The SM4 block cipher, which the manual names by its standard (GB/T 32907; R238, R239). PRESUMED: the S-box, the constants
and the rounds are those of the standard; the manual does not print them. -/

namespace Sys2Proof.Machine.Sm4

/-- The S-box, 32 bytes a row, byte 0 of a row its least significant. -/
def sboxRow : Nat → Nat
  | 0 => 0x99068649261344AAC304BE2A769A672B052CFB28C214B616B73DE1CCFEE990D6
  | 1 => 0xA63F8F75FA94DF8095E808C9A91CB3E462ACCFED430B54337A98EF91F450429C
  | 2 => 0x359D56704B0FEBF88BDA6471B2816B68A84F85E6193C5983BA1773F3FCA70747
  | 3 => 0x9EC8C4A0E702364C5227D39F574600D4877821013B7C2225A2D158635E0E241E
  | 4 => 0xE3B18CF5303293AD551A349BA45DAEE0A11561F9CEF2F7A3B538C740D28ABFEA
  | 5 => 0x515B6C6D726AFF032F8EFDDE4537DBD56F4E530DAB2329C060CA66822EE2F61D
  | 6 => 0xB0B4E5B812D0742DBD7BCDA58831C10AD85A101F415CD9117FBCDDBB92AF1B8D
  | _ => 0x4839CBD73E5FEE79204DDC3AEC7DF01884C66EC509F1B9657E77960C4A976989

/-- The S-box. -/
def sbox (x : Nat) : Nat := (sboxRow (x / 32) >>> (8 * (x % 32))) % 256

/-- The S-box on each byte of a word. -/
def tau (x : Nat) : Nat :=
  sbox (x >>> 24 % 256) * 2 ^ 24 + sbox (x >>> 16 % 256) * 2 ^ 16 + sbox (x >>> 8 % 256) * 2 ^ 8 + sbox (x % 256)

/-- The round transformation of the data path. -/
def tData (x : Nat) : Nat :=
  let b := tau x
  b ^^^ Sm3.rotl b 2 ^^^ Sm3.rotl b 10 ^^^ Sm3.rotl b 18 ^^^ Sm3.rotl b 24

/-- The round transformation of the key schedule. -/
def tKey (x : Nat) : Nat :=
  let b := tau x
  b ^^^ Sm3.rotl b 13 ^^^ Sm3.rotl b 23

/-- CK_i: bytes 7 (4 i + j) mod 256. -/
def ck (i : Nat) : Nat := (List.range 4).foldl (fun t j => t * 256 + (7 * (4 * i + j)) % 256) 0

/-- Four words of state. -/
structure X where
  a : Nat
  b : Nat
  c : Nat
  d : Nat
  deriving DecidableEq, Repr

/-- The four words of a 128-bit block, most significant first. -/
def split (v : Nat) : X := ⟨v >>> 96 % 2 ^ 32, v >>> 64 % 2 ^ 32, v >>> 32 % 2 ^ 32, v % 2 ^ 32⟩

/-- The round keys of a 128-bit key from round `i` on. -/
def keysFrom : Nat → Nat → X → List Nat
  | 0, _, _ => []
  | n + 1, i, x =>
    let rk := x.a ^^^ tKey (x.b ^^^ x.c ^^^ x.d ^^^ ck i)
    rk :: keysFrom n (i + 1) ⟨x.b, x.c, x.d, rk⟩

/-- The 32 round keys. -/
def keys (mk : Nat) : List Nat :=
  let m := split mk
  keysFrom 32 0 ⟨m.a ^^^ 0xA3B1BAC6, m.b ^^^ 0x56AA3350, m.c ^^^ 0x677D9197, m.d ^^^ 0xB27022DC⟩

/-- The rounds over the given round keys. -/
def rounds : List Nat → X → X
  | [], x => x
  | rk :: t, x => rounds t ⟨x.b, x.c, x.d, x.a ^^^ tData (x.b ^^^ x.c ^^^ x.d ^^^ rk)⟩

/-- The final reversal, as a 128-bit block. -/
def join (x : X) : Nat := x.d * 2 ^ 96 + x.c * 2 ^ 64 + x.b * 2 ^ 32 + x.a

/-- Encryption of a 128-bit block (most significant byte first) under round keys. -/
def crypt (rks : List Nat) (block : Nat) : Nat := join (rounds rks (split block))

/-- SM4 encryption under a 128-bit key. -/
def encrypt (key block : Nat) : Nat := crypt (keys key) block

/-- SM4 decryption under a 128-bit key: the round keys in reverse. -/
def decrypt (key block : Nat) : Nat := crypt (keys key).reverse block

end Sys2Proof.Machine.Sm4
end

