-- ==== Sys2Proof/Machine/Memory.lean ====
section
/-! DEFINITION. Storage: DRAM bytes and their side-bands (R238 to R242), the mapping from DRA to DRAM cell (R270, R271, R294), the lazy wipe
(R198 to R201), frames, units and page maps (R173 to R175), and the line cipher (R239, R241). -/

namespace Sys2Proof.Machine

/-! ### Bytes -/

/-- The cells of `bytes` placed from address `a`, without those that an unlisted byte reads as (0). -/
def cellsOf (a : Nat) : List Nat → List Host.Cell
  | [] => []
  | b :: bs => if BitVec.ofNat 8 b = 0 then cellsOf (a + 1) bs else (a, BitVec.ofNat 8 b) :: cellsOf (a + 1) bs

/-- Write bytes from address `a`; the canonical form is kept. -/
def memWrite (m : List Host.Cell) (a : Nat) (bytes : List Nat) : List Host.Cell :=
  m.filter (fun c => c.1 < a) ++ (cellsOf a bytes ++ m.filter (fun c => a + bytes.length ≤ c.1))

/-- Read `n` bytes from address `a`. -/
def memRead (m : List Host.Cell) (a n : Nat) : List Nat :=
  let part := m.filter (fun c => a ≤ c.1 ∧ c.1 < a + n)
  (List.range n).map (fun i => (tget (fun _ => (0 : Byte)) part (a + i)).toNat)

/-- One byte of memory. -/
def memByte (m : List Host.Cell) (a : Nat) : Byte := tget (fun _ => (0 : Byte)) m a

/-- The canonical form of memory: addresses strictly rising, no byte equal to what an unlisted address reads as. -/
abbrev Memory.wf (m : List Host.Cell) : Prop := tok (fun _ => (0 : Byte)) m = true

/-! ### The line cipher (R239 to R241) -/

/-- R239: blk(a, gbit, tier, d). -/
def lineBlk (a : Nat) (gbit : Bool) (tier d : Nat) : List Nat :=
  leBytes 6 (a % 2 ^ 46) ++ [b2n gbit + 2 * tier, d] ++ List.replicate 8 0

/-- The 16 bytes of an SM4 block as the number `sm4` takes, byte 0 the most significant. -/
def beNat (bs : List Nat) : Nat := bs.foldl (fun n b => n * 256 + b) 0

/-- The 16 bytes of an SM4 output, byte 0 first. -/
def beBytes (n x : Nat) : List Nat := (leBytes n x).reverse

/-- SM4 encryption of 16 bytes in stored order. -/
def sm4Bytes (key bs : List Nat) : List Nat := beBytes 16 (Sm4.encrypt (beNat key) (beNat bs))

/-- R239: multiplication by alpha in GF(2^128) on the 16 little-endian bytes of a block. -/
def mulAlpha (t : List Nat) : List Nat :=
  let x := ofBytes t
  leBytes 16 ((2 * x) % 2 ^ 128 ^^^ (if x.testBit 127 then 0x87 else 0))

def xorBytes (a b : List Nat) : List Nat := List.zipWith (· ^^^ ·) a b

/-- R234: the keys of a generation: K_n is bytes 0 to 15 of SM3(0x00000001 ‖ S ‖ n). -/
def lineKey (secret : BitVec 256) (n : Nat) : List Nat :=
  (beBytes 32 (Sm3.digest ([0, 0, 0, 1] ++ beBytes 32 secret.toNat ++ [n]))).take 16

/-- R239: the ciphertext of a line of 64 bytes. -/
def lineEncrypt (k1 k2 : List Nat) (a : Nat) (gbit : Bool) (tier : Nat) (p : List Nat) : List Nat :=
  let t0 := sm4Bytes k2 (lineBlk a gbit tier 0)
  let t1 := mulAlpha t0
  let t2 := mulAlpha t1
  let t3 := mulAlpha t2
  let one := fun (j : Nat) (t : List Nat) => xorBytes (sm4Bytes k1 (xorBytes ((p.drop (16 * j)).take 16) t)) t
  one 0 t0 ++ one 1 t1 ++ one 2 t2 ++ one 3 t3

/-- Multiplication in GF(2^64) with x^64 + x^4 + x^3 + x + 1 (R241). -/
def gfMul (a b : Nat) : Nat :=
  ((List.range 64).foldl
    (fun (acc : Nat × Nat) i =>
      let r := if b.testBit i then acc.1 ^^^ acc.2 else acc.1
      let x := (2 * acc.2) % 2 ^ 64 ^^^ (if acc.2.testBit 63 then 0x1B else 0)
      (r, x)) (0, a)).1

/-- R241: the tag of a line: Y XOR P. -/
def lineTag (k3 : List Nat) (a : Nat) (gbit : Bool) (tier : Nat) (poison : Bool) (c : List Nat) : Nat :=
  let h := ofBytes ((sm4Bytes k3 ([0, 0, 0, 0, 0, 0, 0, 2] ++ List.replicate 8 0)).take 8)
  let nib := b2n gbit + 2 * b2n poison + 4 * tier
  let ms := unpackBits 64 8 (ofBytes c) ++ [a % 2 ^ 46 + nib * 2 ^ 48]
  let y := ms.foldl (fun acc m => gfMul (acc ^^^ m) h) 0
  y ^^^ ofBytes ((sm4Bytes k3 (lineBlk a gbit tier 1)).take 8)

/-- R242: the contribution of data device `d` of a line. -/
def contribution (c : List Nat) (d : Nat) : Nat :=
  (List.range 16).foldl (fun n t => n + bits (ofBytes ((c.drop (4 * t)).take 4)) (4 * d) 4 * 2 ^ (4 * t)) 0

/-- R241: the 16 side-band bytes. -/
def sideBand (k3 : List Nat) (a : Nat) (gbit : Bool) (tier : Nat) (poison : Bool) (c : List Nat) : List Nat :=
  leBytes 8 ((List.range 8).foldl (fun x d => x ^^^ contribution c d) 0) ++ (leBytes 8 (lineTag k3 a gbit tier poison c)).take 7 ++
    [b2n gbit + 2 * b2n poison + 4 * tier]

namespace Dev

/-! ### Channels and the DRA map -/

def chan (d : Dev) (c : Nat) : Chan := tget (fun _ => ({} : Chan)) d.mem.chans c
def modChan (d : Dev) (c : Nat) (f : Chan → Chan) : Dev :=
  { d with mem := { d.mem with chans := tput (fun _ => ({} : Chan)) d.mem.chans c (f (d.chan c)) } }

/-- Subchannel `s` (0 A, 1 B) of a channel, by logical subchannel number 2c + s. -/
def sub (d : Dev) (l : Nat) : SubCh := if l % 2 = 0 then (d.chan (l / 2)).subA else (d.chan (l / 2)).subB
def modSub (d : Dev) (l : Nat) (f : SubCh → SubCh) : Dev :=
  d.modChan (l / 2) (fun c => if l % 2 = 0 then { c with subA := f c.subA } else { c with subB := f c.subB })

/-- R567: an event of a channel, for both subchannels and for the logical subchannel. -/
def dcTally (d : Dev) (l ev k : Nat) : Dev :=
  (d.tally (Pg.dc (l / 2)) (0x0100 + ev) k).tally (Pg.dc (l / 2)) (0x0200 + 0x0100 * (l % 2) + ev) k

/-- R567, R569: `k` bursts at a subchannel, of port 3 or not. -/
def bursts (d : Dev) (l : Nat) (write maint : Bool) (k : Nat) : Dev :=
  let add := fun (t : Tbl Nat) (i : Nat) => tmod (fun _ => 0) t (8 * (l / 2) + i) (· + 64 * k)
  let t := add d.tal.dc (2 * (l % 2) + b2n write)
  { d.dcTally l (b2n write) k with tal := { d.tal with dc := if maint then add t 4 else t } }

/-- R568: `k` lines of read or write data at a host port half. -/
def hpLines (d : Dev) (port half : Nat) (write : Bool) (k : Nat) : Dev :=
  { d with tal := { d.tal with hp := tmod (fun _ => 0) d.tal.hp (4 * (2 * port + half) + b2n write) (· + 64 * k) } }

/-- R270: n of the interleave. -/
def ilvN (d : Dev) : Nat := max 1 (min 5 (d.get (Pg.dc 0) F.DC_ILV_WLOG))
def ilvW (d : Dev) : Nat := 2 ^ d.ilvN
/-- LSIZE in bytes. -/
def lsize (d : Dev) : Nat := d.get (Pg.dc 0) F.DC_ILV_LSIZE * 2 ^ 30
/-- R270: the installed DRAM in bytes; 0 while no interleave is in force. -/
def installed (d : Dev) : Nat := if d.flag (Pg.dc 0) F.DC_ILV_EN then d.ilvW * d.lsize else 0

/-- R270: the fold of U. -/
def foldU (n u : Nat) : Nat := (List.range 36).foldl (fun f i => f ^^^ bits u (n * i) n) 0

/-- R270: the logical subchannel and the subchannel address of a DRA. -/
def draMap (d : Dev) (dra : Nat) : Nat × Nat :=
  let n := d.ilvN
  let u := dra >>> (8 + n)
  (bits dra 8 n ^^^ foldU n u, u * 256 + dra % 256)

/-- R292: the pointer of the sparing copy of a channel has passed a line of one of its subchannels. -/
def sparePassed (d : Dev) (l sa : Nat) : Bool :=
  let p := Pg.dc (l / 2)
  let ptr := d.get p F.DC_SPARE_PTR_SA
  d.flag p F.DC_SPARE_CTL_START && (decide (sa / 64 * 64 < ptr) || (sa / 64 * 64 == ptr && l % 2 == 0 && (d.chan (l / 2)).spareB))

/-- R293, R294: where a subchannel address goes once its channel has been replaced, or the copy to its remap targets has passed it. -/
def chSpare (d : Dev) (l sa : Nat) : Nat × Nat :=
  if (d.flag (Pg.dc 0) F.DC_CHSPARE_ACTIVE && l / 2 == d.get (Pg.dc 0) F.DC_CHSPARE_CH) ||
      (d.flag (Pg.dc (l / 2)) F.DC_SPARE_CTL_KIND && d.sparePassed l sa) then
    let piece := d.lsize / 16
    let i := 16 * (l % 2) + (if piece = 0 then 0 else sa / piece)
    (d.get (Pg.dc 0) (F.DC_REMAP_TARGET.sh (4 * i)), d.get (Pg.dc 0) (F.DC_REMAP_BASE.sh (4 * i)) * 2 ^ 30 + sa % (max 1 piece))
  else (l, sa)

/-- The subchannel and subchannel address that serve a DRA. -/
def place (d : Dev) (dra : Nat) : Nat × Nat := let (l, sa) := d.draMap dra; d.chSpare l sa

/-- R269: logical rank size in bytes of a channel. -/
def rankSize (d : Dev) (c : Nat) : Nat :=
  (match d.get (Pg.dc c) F.DC_POP_DENSITY with | 0 => 16 | 1 => 24 | 2 => 32 | _ => 64) * 2 ^ 30

/-- R269: logical ranks of a subchannel, and its physical capacity in bytes. -/
def rankCount (d : Dev) (c : Nat) : Nat :=
  d.get (Pg.dc c) F.DC_POP_DPC * (1 + d.get (Pg.dc c) F.DC_POP_PKG_RANKS) * 2 ^ (min 2 (d.get (Pg.dc c) F.DC_POP_STACK))
def physCap (d : Dev) (c : Nat) : Nat :=
  (d.rankCount c - d.get (Pg.dc c) F.DC_RANK_MAP_SPARE_EN) * d.rankSize c

/-- R271: logical rank, bank (8 groups of 4 in a rank) and row of a subchannel address. -/
def cellOf (d : Dev) (l sa : Nat) : Nat × Nat × Nat :=
  let rs := d.rankSize (l / 2)
  let la := (sa % rs) >>> 6
  let row := la >>> 12
  (sa / rs, (bits la 2 3 ^^^ bits row 0 3) * 4 + (bits la 5 2 ^^^ bits row 3 2), row)

/-- The physical logical rank of a logical rank (DC_RANK_MAP). -/
def physRank (d : Dev) (c k : Nat) : Nat := bits (d.get (Pg.dc c) F.DC_RANK_MAP_MAP) (3 * k) 3

/-- The physical logical rank that serves a subchannel address: the spare for a line of the rank under copy that the pointer has passed
(R292). -/
def physAt (d : Dev) (l sa : Nat) : Nat :=
  let p := Pg.dc (l / 2)
  let k := (d.cellOf l sa).1
  if !d.flag p F.DC_SPARE_CTL_KIND && k == d.get p F.DC_SPARE_CTL_RANK && d.sparePassed l sa then d.physRank (l / 2) (d.get p F.DC_RANK_MAP_SPARE)
  else d.physRank (l / 2) k

/-- R291: the rank that holds a DRA is marked failed. -/
def rankFailed (d : Dev) (l sa : Nat) : Bool :=
  (d.get (Pg.dc (l / 2)) F.DC_RANK_MAP_FAILED).testBit (d.cellOf l sa).1

/-! ### Storage -/

def readBytes (d : Dev) (dra n : Nat) : List Nat := memRead d.mem.store.mem dra n
def modStore (d : Dev) (f : Store → Store) : Dev := { d with mem := { d.mem with store := f d.mem.store } }
def writeBytes (d : Dev) (dra : Nat) (bs : List Nat) : Dev := d.modStore fun s => { s with mem := memWrite s.mem dra bs }

def side (d : Dev) (dra : Nat) : LineMeta := tget (fun _ => ({} : LineMeta)) d.mem.store.side (dra / 64)
def setSide (d : Dev) (dra : Nat) (m : LineMeta) : Dev :=
  d.modStore fun s => { s with side := tput (fun _ => ({} : LineMeta)) s.side (dra / 64) m }

/-- The data of a line. -/
def lineData (d : Dev) (dra : Nat) : BitVec 512 := BitVec.ofNat 512 (ofBytes (d.readBytes (dra / 64 * 64) 64))

/-- R235, R254: bytes that no reader can reach any more are dropped: the range reads 0. -/
def clearRange (d : Dev) (a n : Nat) : Dev :=
  d.modStore fun s =>
    { s with mem := s.mem.filter (fun c => c.1 < a ∨ a + n ≤ c.1), side := tfilter (fun k => k < a / 64 || (a + n) / 64 ≤ k) s.side }

/-! ### Generations (R236, R240) -/

def genCount (d : Dev) : Nat := d.get Pg.cry F.CRY_GEN_G
def reknit (d : Dev) : Bool := d.flag Pg.cry F.CRY_STS_REKNIT_ACTIVE

/-- R240: the expected generation count of a line of tier `tier` with knit address `a`. -/
def expGen (d : Dev) (tier a : Nat) : Nat :=
  let line := if tier = 3 then d.get Pg.cry F.CRY_TBL_KNIT_DRA else d.get Pg.cry F.CRY_KNIT_LINE_DPA
  if d.reknit && decide (a < line) then d.genCount + 1 else d.genCount

/-- The secret of a live generation (R236). -/
def secretOf (d : Dev) (g : Nat) : BitVec 256 :=
  Config.memorySecret (if g = d.genCount then d.mem.cry.draw else d.mem.cry.drawNext)

/-- R238: the line address of a line of an Open skein or page. -/
def lineAddr (dpa : Nat) : Nat := dpa >>> 6
/-- R238: the line address of line `i` of the slot of a block. -/
def slotAddr (blockDpa i : Nat) : Nat := (blockDpa >>> 8) * 4 + i

/-- R262: the ciphertext record of a stored line: ciphertext, side-band, zeros to 128 bytes. -/
def record (d : Dev) (dra : Nat) : List Nat :=
  let m := d.side dra
  let s := d.secretOf m.gen
  let c := lineEncrypt (lineKey s 1) (lineKey s 2) m.a (m.gen.testBit 0) m.tier (d.readBytes (dra / 64 * 64) 64)
  c ++ sideBand (lineKey s 3) m.a (m.gen.testBit 0) m.tier m.poison c ++ List.replicate 48 0

/-! ### Lazy wipe (R198 to R201) -/

def frameWiped (d : Dev) (f : Nat) : Bool := tget (fun _ => false) d.mem.store.wiped f
def setWiped (d : Dev) (f : Nat) (b : Bool) : Dev := d.modStore fun s => { s with wiped := tput (fun _ => false) s.wiped f b }
def fillingOf (d : Dev) (f : Nat) : Option FillSlot := d.mem.store.filling.find? (fun x => x.frame == f)

/-- R199: a line that a read answers with zeros and without DRAM: its frame is unwiped, or filling with the line not marked. -/
def unwritten (d : Dev) (dra : Nat) : Bool :=
  let f := dra >>> 19
  !d.frameWiped f &&
    match d.fillingOf f with
    | none => true
    | some x => !(x.marks.testBit (bits dra 6 13))

/-- R198: a frame becomes unwiped: what it held can no longer be read, and a fill slot of it is released. -/
def unwipe (d : Dev) (f : Nat) : Dev :=
  ((d.setWiped f false).modStore fun s => { s with filling := s.filling.filter (fun x => x.frame != f) }).clearRange (f * 2 ^ 19) (2 ^ 19)

/-- R201: a filling frame every line of which is marked becomes wiped. -/
def fillDone (d : Dev) (f : Nat) : Dev :=
  match d.fillingOf f with
  | some x => if x.marks = 2 ^ 8192 - 1 then
      (d.setWiped f true).modStore fun s => { s with filling := s.filling.filter (fun y => y.frame != f) } else d
  | none => d

/-- R200: a write can go to a line now: its frame is wiped or filling, or a fill slot is free. -/
def canFill (d : Dev) (dra : Nat) : Bool :=
  let f := dra >>> 19
  d.frameWiped f || (d.fillingOf f).isSome || decide (d.mem.store.filling.length < 2048)

/-- R200: complete the oldest filling frame, in the maintenance reserve. -/
def completeOldest (d : Dev) : Dev :=
  match d.mem.store.filling with
  | [] => d
  | x :: rest => (d.setWiped x.frame true).modStore fun s => { s with filling := rest }

/-- R200: mark a line written. -/
def markWritten (d : Dev) (dra : Nat) : Dev :=
  let f := dra >>> 19
  if d.frameWiped f then d
  else
    let b := bits dra 6 13
    match d.fillingOf f with
    | some x =>
      (d.modStore fun s =>
        { s with filling := s.filling.map (fun y => if y.frame = f then { y with marks := setBit x.marks b } else y) }).fillDone f
    | none =>
      let d1 := if d.mem.store.filling.length < 2048 then d else d.completeOldest
      d1.modStore fun s => { s with filling := s.filling ++ [⟨f, setBit 0 b⟩] }

/-- A line reaches its point of visibility (R147): its bytes and its side-band under the generation of R240. -/
def putLine (d : Dev) (dra tier a knit : Nat) (poison : Bool) (bs : List Nat) : Dev :=
  ((d.markWritten dra).writeBytes (dra / 64 * 64) bs).setSide dra ⟨poison, d.expGen tier knit, tier, a⟩

/-- A line of an Open skein or page (tier code 0). -/
def putOpen (d : Dev) (dra dpa : Nat) (poison : Bool) (bs : List Nat) : Dev :=
  d.putLine dra 0 (lineAddr dpa) (dpa / 64 * 64) poison bs

/-- A slot of a Packed block (tier code 1): one line at 4:1, two at 2:1. -/
def putSlot (d : Dev) (dra blockDpa : Nat) (poison : Bool) (slot : List Nat) : Dev :=
  let d1 := d.putLine dra 1 (slotAddr blockDpa 0) blockDpa poison (slot.take 64)
  if slot.length ≤ 64 then d1 else d1.putLine (dra + 64) 1 (slotAddr blockDpa 1) blockDpa poison (slot.drop 64)

/-- Bytes of a device structure (tier code 3). -/
def putDevice (d : Dev) (dra : Nat) (bs : List Nat) : Dev :=
  let d1 := (d.markWritten dra).writeBytes dra bs
  d1.setSide dra ⟨false, d.expGen 3 (dra / 64 * 64), 3, dra >>> 6⟩

/-! ### Frames, units and maps (R173 to R175) -/

/-- DRAM regions in Device use: the Pattern tables, the split-map pool, the frame table (R173) and the
cartridge allocation table (R422). -/
def devRegions (d : Dev) : List (Nat × Nat) :=
  let rooms := d.get Pg.pat F.PAT_WIN_ROOMS_ROOMS
  [(d.get Pg.pat F.PAT_TBL_BASE_DRA, rooms * 2 ^ 14), (d.get Pg.pat F.PAT_ROOM_TBL_BASE_DRA, 8 * rooms),
   (d.get Pg.tir F.TIR_MAP_BASE_DRA, 4096 * d.get Pg.tir F.TIR_MAP_CFG_MAPS),
   (d.get Pg.tir F.TIR_FRAME_TBL_BASE_DRA, if d.get Pg.tir F.TIR_FRAME_TBL_BASE_DRA = 0 then 0 else 64 * (d.installed / 2 ^ 19)),
   (d.get Pg.ctg F.CTG_ALLOC_BASE_DRA, if d.get Pg.ctg F.CTG_ALLOC_BASE_DRA = 0 then 0 else 2 ^ 29)]

/-- R173: a frame is in Device use. -/
def isDevice (d : Dev) (f : Nat) : Bool :=
  d.devRegions.any (fun r => decide (0 < r.2) && decide (r.1 < (f + 1) * 2 ^ 19) && decide (f * 2 ^ 19 < r.1 + r.2))

def frameCount (d : Dev) : Nat := d.installed / 2 ^ 19
def frameUse (d : Dev) (f : Nat) : FrameUse := tget (fun _ => FrameUse.free) d.mem.store.frames f
def setFrame (d : Dev) (f : Nat) (u : FrameUse) : Dev :=
  d.modStore fun s => { s with frames := tput (fun _ => FrameUse.free) s.frames f u }

/-- R173: a frame is free. -/
def frameFree (d : Dev) (f : Nat) : Bool := decide (d.frameUse f = .free) && decide (f < d.frameCount) && !d.isDevice f

/-- First number below `start + fuel * step` in steps that satisfies `p`. -/
def firstFrom (p : Nat → Bool) (step : Nat) : Nat → Nat → Option Nat
  | 0, _ => none
  | fuel + 1, k => if p k then some k else firstFrom p step fuel (k + step)

/-- R174: the lowest-numbered free run of `n` frames aligned to `n`. -/
def freeRun (d : Dev) (n : Nat) : Option Nat :=
  firstFrom (fun f => (List.range n).all (fun i => d.frameFree (f + i))) n (d.frameCount / n) 0

/-- Length of the union of regions sorted by start, counted in frames from `from_`. -/
def unionFrames : Nat → List (Nat × Nat) → Nat
  | _, [] => 0
  | lo, (a, b) :: r => (max b lo - max a lo) + unionFrames (max lo b) r

/-- TIR_FRAME_FREE (R206). -/
def framesFree (d : Dev) : Nat :=
  let top := d.frameCount
  let regs := (d.devRegions.filter (fun r => 0 < r.2)).map (fun r => (min top (r.1 / 2 ^ 19), min top ((r.1 + r.2 + 2 ^ 19 - 1) / 2 ^ 19)))
  let sorted := regs.foldl (fun acc r => acc.filter (fun x => x.1 ≤ r.1) ++ [r] ++ acc.filter (fun x => r.1 < x.1)) []
  top - unionFrames 0 sorted - d.mem.store.frames.length

/-- R198: a frame allocated as a destination, as a carved frame or to the map pool is wiped at allocation. -/
def takeFrame (d : Dev) (f : Nat) (u : FrameUse) : Dev := (d.setFrame f u).setWiped f true

/-- R173: a whole allocation for a skein, wiped where every line of it will be written before it can be read. -/
def takeWhole (d : Dev) (f n skein : Nat) (wiped : Bool) : Dev :=
  (List.range n).foldl (fun d i => if wiped then d.takeFrame (f + i) (.whole skein) else d.setFrame (f + i) (.whole skein)) d

/-- A frame becomes free, and so unwiped (R198). -/
def freeFrame (d : Dev) (f : Nat) : Dev := (d.setFrame f .free).unwipe f

/-- Free `n` whole frames. -/
def freeWhole (d : Dev) (f n : Nat) : Dev := (List.range n).foldl (fun d i => d.freeFrame (f + i)) d

/-- The holder of a unit. -/
def holder (skein page : Nat) : Nat := 1 + 512 * skein + page

/-- Free units of a carved frame. -/
def unitsFree (us : Tbl Nat) : Nat := 512 - us.length

/-- R174: the lowest free aligned run of `n` units of a carved frame. -/
def unitRun (us : Tbl Nat) (n : Nat) : Option Nat :=
  firstFrom (fun u => (List.range n).all (fun i => tget (fun _ => 0) us (u + i) == 0)) n (512 / n) 0

/-- Carved frames, reserve frames of R193 or not. -/
def carvedFrames (d : Dev) (rsv : Bool) : List (Nat × Tbl Nat) :=
  d.mem.store.frames.filterMap fun x => match x.2 with
    | .carved us r => if r = rsv then some (x.1, us) else none
    | _ => none

/-- R174: of the carved frames able to hold `n` units, the one with the fewest free units, the lowest-numbered of several. -/
def bestCarved (fs : List (Nat × Tbl Nat)) (n : Nat) : Option (Nat × Tbl Nat × Nat) :=
  fs.foldl (fun best x =>
    match unitRun x.2 n with
    | none => best
    | some u => match best with
      | none => some (x.1, x.2, u)
      | some b => if unitsFree x.2 < unitsFree b.2.1 then some (x.1, x.2, u) else best) none

/-- R194: refill the frame fit reserve by carving the lowest-numbered free frames. -/
def refillReserve (d : Dev) : Dev :=
  let want := max 1 (d.get Pg.tir F.TIR_FRAME_RSV_FIT)
  (List.range (want - (d.carvedFrames true).length)).foldl
    (fun d _ => match d.freeRun 1 with
      | some f => d.takeFrame f (.carved [] true)
      | none => d) d

/-- Mark `n` units from `u` of a carved frame as held. -/
def holdUnits (d : Dev) (f u n h : Nat) (rsv : Bool) : Dev :=
  match d.frameUse f with
  | .carved us _ => d.setFrame f (.carved ((List.range n).foldl (fun t i => tput (fun _ => 0) t (u + i) h) us) rsv)
  | _ => d.takeFrame f (.carved ((List.range n).foldl (fun t i => tput (fun _ => 0) t (u + i) h) []) rsv)

/-- R174: a unit allocation of a page's size: its DRA. -/
def takeUnits (d : Dev) (n skein page : Nat) : Option (Nat × Dev) :=
  match bestCarved (d.carvedFrames false) n with
  | some (f, _, u) => some (f * 2 ^ 19 + u * 1024, d.holdUnits f u n (holder skein page) false)
  | none =>
    match d.freeRun 1 with
    | some f => some (f * 2 ^ 19, d.holdUnits f 0 n (holder skein page) false)
    | none => none

/-- R193: an Open unit from the frame fit reserve; a reserve frame that can hold no further Open page leaves the reserve, and the reserve
is refilled. -/
def takeFitUnit (d : Dev) (skein page : Nat) : Option (Nat × Dev) :=
  match bestCarved (d.carvedFrames true) 4 with
  | none => none
  | some (f, us, u) =>
    let us' := (List.range 4).foldl (fun t i => tput (fun _ => 0) t (u + i) (holder skein page)) us
    some (f * 2 ^ 19 + u * 1024, (d.holdUnits f u 4 (holder skein page) (unitRun us' 4).isSome).refillReserve)

/-- Free the units of a page; a carved frame with none in use becomes free (R173). -/
def freeUnits (d : Dev) (dra n : Nat) : Dev :=
  let f := dra >>> 19
  match d.frameUse f with
  | .carved us r =>
    let us' := (List.range n).foldl (fun t i => tput (fun _ => 0) t (bits dra 10 9 + i) 0) us
    if us'.isEmpty && !r then d.freeFrame f else d.setFrame f (.carved us' r)
  | _ => d

/-- R124: free everything the frame table records as held by a skein. -/
def freeHeld (d : Dev) (skein : Nat) : Dev :=
  d.mem.store.frames.foldl (fun d x => match x.2 with
    | .whole s => if s = skein then d.freeFrame x.1 else d
    | .carved us r =>
      let us' := us.filter (fun u => (u.2 - 1) / 512 != skein)
      if us'.length = us.length then d else if us'.isEmpty && !r then d.freeFrame x.1 else d.setFrame x.1 (.carved us' r)
    | .free => d) d

/-- Settle maps held by active migrations (R175). -/
def settleMaps (d : Dev) : List Nat := d.mem.tier.migs.filterMap (·.settleMap)
/-- TIR_MAP_FREE (R206): free maps, reserves included. -/
def mapsFree (d : Dev) : Nat := d.get Pg.tir F.TIR_MAP_CFG_MAPS - d.mem.store.maps.length
def fitReserve (d : Dev) : Nat := max 16 (d.get Pg.tir F.TIR_MAP_RSV_FIT)

/-- R175: the lowest-numbered free map that no migration holds as its settle map. -/
def lowestMap (d : Dev) : Option Nat :=
  firstFrom (fun i => !(tget (fun _ => false) d.mem.store.maps i) && !d.settleMaps.contains i) 1 (d.get Pg.tir F.TIR_MAP_CFG_MAPS) 0

/-- R175: a map for an ordinary allocation, while the free maps outnumber both reserves. -/
def ordinaryMap (d : Dev) : Option Nat :=
  if d.settleMaps.length + d.fitReserve < d.mapsFree then d.lowestMap else none

/-- R175, R193: a map from the fit reserve. -/
def fitMap (d : Dev) : Option Nat := if d.settleMaps.length < d.mapsFree then d.lowestMap else none

def useMap (d : Dev) (i : Nat) (b : Bool) : Dev :=
  d.modStore fun s => { s with maps := tput (fun _ => false) s.maps i b }

/-- The DRA of a map, and of the entry of a page in it (R175, R121). -/
def mapDra (d : Dev) (i : Nat) : Nat := d.get Pg.tir F.TIR_MAP_BASE_DRA + 4096 * i

def pageEntry (d : Dev) (map page : Nat) : PageEntry := PageEntry.decode (ofBytes (d.readBytes (d.mapDra map + 8 * page) 8))
def setPageEntry (d : Dev) (map page : Nat) (e : PageEntry) : Dev := d.putDevice (d.mapDra map + 8 * page) (leBytes 8 e.encode)
/-- Write all 512 entries of a map (R175). -/
def writeMap (d : Dev) (map : Nat) (es : List PageEntry) : Dev :=
  (List.range es.length).foldl (fun d i => d.setPageEntry map i (es.getD i {})) (d.useMap map true)

end Dev

end Sys2Proof.Machine
end

