-- ==== Sys2Proof/Machine/Skeins.lean ====
section
/-! DEFINITION. The Pattern's tables and cache (R119, R126 to R129), charges and quotas (R132, R133, R135), cartridge extents as the cartridge
manager allocates them (R422, R423), and the freeing of what a skein or page holds. -/

namespace Sys2Proof.Machine

namespace Dev

/-! ### Tables and cache -/

def modPat (d : Dev) (f : Pattern → Pattern) : Dev := { d with mem := { d.mem with pat := f d.mem.pat } }
def winRooms (d : Dev) : Nat := d.get Pg.pat F.PAT_WIN_ROOMS_ROOMS
def mapBase (d : Dev) : Nat := d.get Pg.tir F.TIR_MAP_BASE_DRA

/-- R119: the DRA of a skein's table entry. -/
def skeinDra (d : Dev) (s : Nat) : Nat := d.get Pg.pat F.PAT_TBL_BASE_DRA + 32 * s

/-- The entry that the skein table holds. -/
def tableEntry (d : Dev) (s : Nat) : Entry :=
  match unpackBits 64 4 (ofBytes (d.readBytes (d.skeinDra s) 32)) with
  | [a, b, c, e] => Entry.decode a b c e
  | _ => {}

/-- Write a table line's entry: a write-back of the Pattern (R125, R129). -/
def writeTable (d : Dev) (s : Nat) (e : Entry) : Dev :=
  let (a, b, c, q) := e.encode
  (d.putDevice (d.skeinDra s) (leBytes 8 a ++ leBytes 8 b ++ leBytes 8 c ++ leBytes 8 q)).tally Pg.pat 0x0105 1

def cached (d : Dev) (s : Nat) : Option Way := d.mem.pat.cache.find? (fun w => w.skein == s)
/-- The version of an entry that a lookup sees now (R127). -/
def entry (d : Dev) (s : Nat) : Entry := match d.cached s with | some w => w.entry | none => d.tableEntry s

/-- R129: a way is locked while its skein is in motion or a request parked on it holds it. -/
def wayLocked (d : Dev) (w : Way) : Bool :=
  w.entry.state == St.motion || d.mem.reqs.any (fun r => r.locking && dpaSkein r.dpa == w.skein)

def setWays (d : Dev) (set : Nat) : List Way := d.mem.pat.cache.filter (fun w => patSet w.skein == set)
/-- R129: counted locks of a set. -/
def lockCount (d : Dev) (set : Nat) : Nat := ((d.setWays set).filter d.wayLocked).length

/-- R129: the victim of a full set. -/
def victim (d : Dev) (set : Nat) : Option Way :=
  let ws := (d.setWays set).reverse
  match ws.find? (fun w => !d.wayLocked w && w.entry.cls != 0) with
  | some w => some w
  | none => ws.find? (fun w => !d.wayLocked w)

/-- Make room in a set: the victim's changed entry is written back (R129). -/
def evictFor (d : Dev) (set : Nat) : Dev :=
  if (d.setWays set).length < 12 then d
  else
    match d.victim set with
    | none => d
    | some v =>
      let d1 := (d.modPat fun p => { p with cache := p.cache.filter (fun w => w.skein != v.skein) }).tally Pg.pat 0x0104 1
      if v.changed then d1.writeTable v.skein v.entry else d1

/-- Install an entry as the most recently used way of its set. -/
def installWay (d : Dev) (s : Nat) (e : Entry) (changed : Bool) : Dev :=
  (d.evictFor (patSet s)).modPat fun p => { p with cache := ⟨s, e, changed, 0⟩ :: p.cache.filter (fun w => w.skein != s) }

/-- A hit makes the way the most recently used. -/
def touchWay (d : Dev) (s : Nat) : Dev :=
  match d.cached s with
  | some w => d.modPat fun p => { p with cache := w :: p.cache.filter (fun x => x.skein != s) }
  | none => d

/-- R127: an update of an installed entry in place. -/
def setCached (d : Dev) (s : Nat) (e : Entry) : Dev :=
  d.modPat fun p => { p with cache := p.cache.map (fun w => if w.skein = s then { w with entry := e, changed := true } else w) }

/-! ### Charges and quotas (R132 to R135) -/

/-- The page entries of a map. -/
def mapPages (d : Dev) (map : Nat) : List PageEntry := (List.range 512).map (d.pageEntry map)

/-- R132: KiB of DRAM that a page of a Split skein is charged. -/
def pageKib (e : PageEntry) : Nat :=
  let st := if e.state = St.motion then e.srcState else e.state
  if e.locKind || !e.locValid then 0 else if st = St.packed ∨ st = St.isOpen then pageUnits st e.ratio else 0

/-- The extent that a Larder page lies in: 2^27 * cartridge + extent. -/
def pageExtent (e : PageEntry) : Option Nat :=
  if e.locValid && e.locKind then some (locCart e.loc * 2 ^ 27 + locExtent e.loc) else none

/-- Distinct extents of a list of pages (R132). -/
def extentsOf (es : List PageEntry) : List Nat := (es.filterMap pageExtent).eraseDups

/-- R132: charge (KiB of DRAM, extents) of a location in a state. -/
def chargeLoc (d : Dev) (st ratio loc : Nat) : Nat × Nat :=
  if st = St.isOpen then (2048, 0)
  else if st = St.packed then (if ratio = 2 then 512 else 1024, 0)
  else if st = St.split then
    let es := d.mapPages (locFrame loc)
    ((es.map pageKib).foldl (· + ·) 0, (extentsOf es).length)
  else if st = St.larder then (0, 1) else (0, 0)

/-- R132: charge of an entry; a moving one is charged for source and destination. -/
def charge (d : Dev) (e : Entry) : Nat × Nat :=
  if e.state = St.zero then (if e.locValid then (2048, 0) else (0, 0))
  else if e.state = St.motion then
    let (a, b) := d.chargeLoc e.srcState e.ratio e.loc
    let (a', b') := d.chargeLoc e.dstState e.dstRatio e.dstLoc
    (a + a', b + b')
  else d.chargeLoc e.state e.ratio e.loc

def quotaKib (d : Dev) (ld : Nat) : Nat := d.get (Pg.ldm ld) F.LDM_QUOTA_DRAM_MIB * 1024
def useKib (d : Dev) (ld : Nat) : Nat := d.get (Pg.ldm ld) F.LDM_USE_DRAM_KIB

/-- R135: the level of the quota warning in KiB of use times 100, and whether it is enabled. -/
def atWarn (d : Dev) (ld use : Nat) : Bool :=
  let pct := d.get (Pg.ldm ld) F.LDM_QUOTA_WARN_PCT
  decide (0 < pct ∧ pct ≤ 100) && decide (pct * d.quotaKib ld ≤ 100 * use)

/-- R132, R135: change the use counts of an LD; `dpa` is the skein whose charge changed. -/
def addUse (d : Dev) (ld : Nat) (subKib addKib subExt addExt dpa : Nat) : Dev :=
  if subKib = addKib ∧ subExt = addExt then d
  else
    let was := d.useKib ld
    let now := was - subKib + addKib
    let d1 := (d.set (Pg.ldm ld) F.LDM_USE_DRAM_KIB now).set (Pg.ldm ld) F.LDM_USE_LARDER_EXTENTS
      (d.get (Pg.ldm ld) F.LDM_USE_LARDER_EXTENTS - subExt + addExt)
    if !d.atWarn ld was && d.atWarn ld now then
      (d1.setFlag (Pg.ldm ld) F.LDM_STS_QUOTA_WARN true).raise Src.quotaThreshold dpa ld 0
    else if !d.atWarn ld now then d1.setFlag (Pg.ldm ld) F.LDM_STS_QUOTA_WARN false else d1

/-- R133: the quota check of a new attachment of `kib`, and of one extent. -/
def dramQuotaOk (d : Dev) (ld kib : Nat) : Bool := decide (d.useKib ld + kib ≤ d.quotaKib ld)
def larderQuotaOk (d : Dev) (ld : Nat) : Bool :=
  decide (d.get (Pg.ldm ld) F.LDM_USE_LARDER_EXTENTS + 1 ≤ d.get (Pg.ldm ld) F.LDM_QUOTA_LARDER_EXTENTS)

/-- R134: LDM_STS.OVER_QUOTA. -/
def overQuota (d : Dev) (ld : Nat) : Bool :=
  decide (d.quotaKib ld < d.useKib ld) ||
    decide (d.get (Pg.ldm ld) F.LDM_QUOTA_LARDER_EXTENTS < d.get (Pg.ldm ld) F.LDM_USE_LARDER_EXTENTS)

/-- The fields of an entry on which its charge depends. -/
def chargeKey (e : Entry) : List Nat :=
  [e.owner, e.state, e.ratio, e.loc, e.srcState, e.dstState, e.dstRatio, e.dstLoc, b2n e.locValid]

/-- R132: the charge changes with the entry. -/
def recharge (d : Dev) (s : Nat) (old new : Entry) : Dev :=
  if chargeKey old = chargeKey new then d
  else
    let (a, b) := d.charge old
    let (a', b') := d.charge new
    if old.owner = new.owner then d.addUse new.owner a a' b b' (s * 2 ^ 21)
    else (d.addUse old.owner a 0 b 0 (s * 2 ^ 21)).addUse new.owner 0 a' 0 b' (s * 2 ^ 21)

/-- R127: one atomic update of a skein entry, with its charge; an entry that is not installed is installed with it, unless its miss is
outstanding. -/
def putEntry (d : Dev) (s : Nat) (e : Entry) : Dev :=
  let d1 := d.recharge s (d.entry s) e
  if (d.cached s).isSome then d1.setCached s e
  else if d.mem.pat.misses.any (fun m => m.1 == s) then d1.writeTable s e
  else d1.installWay s e true

/-- R116, R127, R179: an update that installs nothing. -/
def putEntryQuiet (d : Dev) (s : Nat) (e : Entry) : Dev :=
  let d1 := d.recharge s (d.entry s) e
  if (d.cached s).isSome then d1.setCached s e else d1.writeTable s e

/-- R124, R129: the entry of a skein is valid. -/
def skeinValid (d : Dev) (s : Nat) : Bool := !d.mem.pat.bad.contains s && (d.entry s).valid d.installed d.mapBase

/-- R132: one atomic update of a page entry of a Split skein, with its charge. -/
def putPage (d : Dev) (s page : Nat) (e : PageEntry) : Dev :=
  let sk := d.entry s
  let map := locFrame sk.loc
  let old := d.pageEntry map page
  let others := (List.range 512).filter (fun i => i != page)
  let held := fun (x : PageEntry) => match pageExtent x with
    | none => 0
    | some k => if others.any (fun i => pageExtent (d.pageEntry map i) == some k) then 0 else 1
  let d1 := d.setPageEntry map page e
  if pageExtent old = pageExtent e then d1.addUse sk.owner (pageKib old) (pageKib e) 0 0 (pageDpa s page)
  else d1.addUse sk.owner (pageKib old) (pageKib e) (held old) (held e) (pageDpa s page)

/-! ### Rooms -/

def roomDra (d : Dev) (drn : Nat) : Nat := d.get Pg.pat F.PAT_ROOM_TBL_BASE_DRA + 8 * drn
def room (d : Dev) (drn : Nat) : Room := Room.decode (ofBytes (d.readBytes (d.roomDra drn) 4))
def setRoom (d : Dev) (drn : Nat) (r : Room) : Dev := d.putDevice (d.roomDra drn) (leBytes 4 r.encode ++ [0, 0, 0, 0])
/-- The 512 skeins of a room. -/
def roomSkeins (drn : Nat) : List Nat := (List.range 512).map (fun i => drn * 512 + i)
/-- Rooms in service, ascending. -/
def liveRooms (d : Dev) : List Nat := (List.range d.winRooms).filter (fun r => (d.room r).inService)

/-! ### Cartridge extents (R422, R423) -/

def cart (d : Dev) (n : Nat) : Cart := tget (fun _ => ({} : Cart)) d.carts n
def modCart (d : Dev) (n : Nat) (f : Cart → Cart) : Dev :=
  { d with carts := tput (fun _ => ({} : Cart)) d.carts n (f (d.cart n)) }
/-- A per-port register of the CTG page. -/
def ctgGet (d : Dev) (n : Nat) (f : Fld) : Nat := d.get Pg.ctg (f.sh (0x40 * n))
def ctgSet (d : Dev) (n : Nat) (f : Fld) (v : Nat) : Dev := d.set Pg.ctg (f.sh (0x40 * n)) v

def extAlloc (d : Dev) (n e : Nat) : Bool := tget (fun _ => false) (d.cart n).alloc e
def extClean (d : Dev) (n e : Nat) : Bool := tget (fun _ => false) (d.cart n).clean e

/-- CTG_FREE and CTG_UNCLEAN (R428). -/
def extFree (d : Dev) (n : Nat) : Nat := d.ctgGet n F.CTG_CAP_EXTENTS - (d.cart n).alloc.length
def extUnclean (d : Dev) (n : Nat) : Nat :=
  d.extFree n - ((d.cart n).clean.filter (fun x => !d.extAlloc n x.1)).length

/-- R423: a cartridge from which a new extent may come. -/
def cartEligible (d : Dev) (n : Nat) : Bool :=
  d.enabled Pg.ctg && d.ctgGet n F.CTG_STS_STATE == 3 && d.ctgGet n F.CTG_STS_RO == 0 && d.ctgGet n F.CTG_STS_DEGRADED == 0

/-- R423: the eligible cartridge with the most free extents, ties to the lower port, other than `but`. -/
def bestCart (d : Dev) (but : Option Nat) : Option Nat :=
  (List.range 16).foldl (fun best n =>
    if !d.cartEligible n || d.extFree n = 0 || but = some n then best
    else match best with
      | none => some n
      | some b => if d.extFree b < d.extFree n then some n else best) none

/-- R423: the lowest free CLEAN extent, else the lowest free extent. -/
def bestExtent (d : Dev) (n : Nat) : Option Nat :=
  let cap := d.ctgGet n F.CTG_CAP_EXTENTS
  match firstFrom (fun e => !d.extAlloc n e && d.extClean n e) 1 cap 0 with
  | some e => some e
  | none => firstFrom (fun e => !d.extAlloc n e) 1 cap 0

/-- R423: allocate an extent; one that is not CLEAN takes a DEALLOC ahead of its first WRITE_SLOT. -/
def takeExtent (d : Dev) (but : Option Nat) : Option (Nat × Nat × Dev) :=
  match d.bestCart but with
  | none => none
  | some n =>
    match d.bestExtent n with
    | none => none
    | some e =>
      some (n, e, (d.modCart n fun c =>
        { c with alloc := tput (fun _ => false) c.alloc e true,
                 txns := if tget (fun _ => false) c.clean e || c.txns.any (fun t => t.op == 3 && t.extent == e) then c.txns
                         else c.txns ++ [{ tag := 0, op := 3, extent := e, slot := 0, sn := d.sn }] }).tally Pg.ctg 0x0100 1)

/-- R423: a freed extent becomes free and not CLEAN. -/
def freeExtent (d : Dev) (n e : Nat) : Dev :=
  if d.extAlloc n e then
    (d.modCart n fun c =>
      { c with alloc := tput (fun _ => false) c.alloc e false, clean := tput (fun _ => false) c.clean e false }).tally Pg.ctg 0x0101 1
  else d

/-! ### Freeing -/

/-- Free what a page entry holds, an extent aside. -/
def freePage (d : Dev) (e : PageEntry) : Dev :=
  let st := if e.state = St.motion then e.srcState else e.state
  if e.locValid && !e.locKind then d.freeUnits e.dra (pageUnits st e.ratio) else d

/-- Free a map with everything its pages hold. -/
def freeMapAll (d : Dev) (map : Nat) : Dev :=
  let es := d.mapPages map
  let d1 := es.foldl (fun d e => d.freePage e) d
  ((extentsOf es).foldl (fun d k => d.freeExtent (k / 2 ^ 27) (k % 2 ^ 27)) d1).useMap map false

/-- Free the storage of a location in a state. -/
def freeLoc (d : Dev) (st ratio loc : Nat) : Dev :=
  if st = St.isOpen ∨ st = St.packed ∨ st = St.zero then d.freeWhole (locFrame loc) (wholeFrames st ratio)
  else if st = St.split then d.freeMapAll (locFrame loc)
  else if st = St.larder then d.freeExtent (locCart loc) (locExtent loc) else d

/-- R117, R124, R131, R203: free all storage of a skein that is not in motion. -/
def freeSkein (d : Dev) (s : Nat) : Dev :=
  let e := d.entry s
  if !d.skeinValid s then d.freeHeld s
  else if e.locValid then d.freeLoc e.state e.ratio e.loc else d

/-- The skeins and pages of a cartridge's locations are named by the entries; R421: extents of a cartridge are allocated. -/
def anyAlloc (d : Dev) (n : Nat) : Bool := !(d.cart n).alloc.isEmpty

end Dev

end Sys2Proof.Machine
end

