-- ==== Sys2Proof/Machine/Gate.lean ====
section
/-! DEFINITION. What the Gauge decides at its gate (chapter 10): what each subchannel delivers (R283), shares and scales (R309, R322, R323), the
plan of a stitch (R311, R316), and whether a request passes (R306, R307, R313, R314). -/

namespace Sys2Proof.Machine

/-- Lexicographic order of keys of numbers. -/
def lexLt : List Nat → List Nat → Bool
  | _, [] => false
  | [], _ :: _ => true
  | a :: as, b :: bs => decide (a < b) || (a == b && lexLt as bs)

/-- The element with the least key, the first of several. -/
def minBy {α : Type} (key : α → List Nat) : List α → Option α
  | [] => none
  | x :: xs => match minBy key xs with
    | none => some x
    | some y => if lexLt (key y) (key x) then some y else some x

/-- Insertion sort by key, stable. -/
def sortBy {α : Type} (key : α → List Nat) : List α → List α
  | [] => []
  | x :: xs =>
    let s := sortBy key xs
    s.takeWhile (fun y => lexLt (key y) (key x)) ++ x :: s.dropWhile (fun y => lexLt (key y) (key x))

def ceilDiv (a b : Nat) : Nat := (a + b - 1) / b

namespace Dev

def modMem (d : Dev) (f : Mem → Mem) : Dev := { d with mem := f d.mem }
def modGau (d : Dev) (f : GaugeSt → GaugeSt) : Dev := d.modMem fun m => { m with gau := f m.gau }
def modTier (d : Dev) (f : Tier → Tier) : Dev := d.modMem fun m => { m with tier := f m.tier }

/-! ### What a subchannel delivers (R269, R281, R283) -/

/-- The data rate of a channel in MT/s. -/
def dataRate (d : Dev) (c : Nat) : Nat :=
  match d.get (Pg.dc c) F.DC_CFG_RATE with | 0 => 4800 | 1 => 5600 | 2 => 6400 | 3 => 7200 | _ => 8000

/-- R281: a rank's refresh-rate code stands for a temperature above 85 °C (PRESUMED: the DDR5 codes from 3 up). -/
def mr4Hot (code : Nat) : Bool := decide (3 ≤ code)

/-- R281: rank `k` of a channel is on the 7-stitch interval. -/
def rankHot (d : Dev) (c k : Nat) : Bool :=
  d.flag (Pg.dc c) F.DC_REF_CFG_FORCE_HOT || mr4Hot (bits (d.get (Pg.dc c) F.DC_TEMP_MR4) (3 * k) 3)

/-- DC_STS.HOT. -/
def chHot (d : Dev) (c : Nat) : Bool := (List.range (min 8 (d.rankCount c))).any (fun k => d.rankHot c k)

/-- R283: tRFCsb in ns. -/
def tRfc (d : Dev) (c : Nat) : Nat :=
  if d.get (Pg.dc c) F.DC_POP_STACK ≠ 0 then 160
  else match d.get (Pg.dc c) F.DC_POP_DENSITY with | 0 => 115 | 3 => 160 | _ => 130

def chHalted (d : Dev) (c : Nat) : Bool := d.flag (Pg.dc c) F.DC_STS_HALTED
def chReplaced (d : Dev) (c : Nat) : Bool :=
  d.flag (Pg.dc 0) F.DC_CHSPARE_ACTIVE && d.get (Pg.dc 0) F.DC_CHSPARE_CH == c

/-- R283: the DC_PLAN image: PLAN, OWN_MAINT and DELIVER; 0 before the channel is trained. -/
def planImage (d : Dev) (c : Nat) : Nat :=
  if !d.flag (Pg.dc c) F.DC_CFG_TRAINED then 0
  else
    let plan := d.dataRate c / 160
    let own := ceilDiv (d.dataRate c * d.tRfc c) (125 * (if d.chHot c then 896 else 1920)) +
      ceilDiv (d.get (Pg.dc c) F.DC_SCRUB_CFG_LINES) 64 + 1
    let del := if d.chHalted c || d.chReplaced c then 0 else plan - own
    plan % 256 + own % 256 * 2 ^ 8 + del % 256 * 2 ^ 16

/-- R283: DC_PLAN follows the channel; a change of DELIVER raises "DRAM deliverable change" with the new image. -/
def refreshPlan (d : Dev) (c : Nat) : Dev :=
  let old := (d.word (Pg.dc c) 0x10C).toNat
  let new := d.planImage c
  let d1 := d.setWord (Pg.dc c) 0x10C (BitVec.ofNat 32 new)
  if bits old 16 8 = bits new 16 8 then d1 else d1.raise (Src.deliverChange c) new 0xFF 0

/-- DC_PLAN.DELIVER of a logical subchannel. -/
def deliver (d : Dev) (l : Nat) : Nat := d.get (Pg.dc (l / 2)) F.DC_PLAN_DELIVER

/-- R309: D over the subchannels of the interleave. -/
def deliverMin (d : Dev) : Nat := (List.range d.ilvW).foldl (fun m l => min m (d.deliver l)) 255

/-! ### Budgets, shares and scales -/

def gauOn (d : Dev) : Bool := d.enabled Pg.gau
def guar (b : BudgetSet) (m c : Nat) : Nat := (tget (fun _ => (0, 0)) b.budgets (4 * m + c)).1
def ceiling (b : BudgetSet) (m c : Nat) : Nat :=
  if c = 0 then (tget (fun _ => (0, 0)) b.budgets (4 * m + c)).1 else (tget (fun _ => (0, 0)) b.budgets (4 * m + c)).2

/-- R309: g(m, c). -/
def gShare (b : BudgetSet) (w m c : Nat) : Nat := ceilDiv (guar b m c * max 16 b.adm.skew) (16 * w)
/-- R309: GH, GP, GK, GC. -/
def gSum (b : BudgetSet) (w c : Nat) : Nat := (List.range 128).foldl (fun t m => t + gShare b w m c) 0
/-- R309: HR. -/
def hrOf (b : BudgetSet) (w : Nat) : Nat := ceilDiv (gSum b w 0) 64 + b.adm.hburst

/-- HR in force (R316): 0 until the first accepted set. -/
def hr (d : Dev) : Nat := d.get Pg.gau F.GAU_CAP_HR
def mr (d : Dev) : Nat := d.mem.gau.live.adm.mr

/-- The scale of a class in force (R323). -/
def scaleOf (d : Dev) (c : Nat) : Nat :=
  match c with
  | 1 => d.get Pg.gau F.GAU_SCALE_SP | 2 => d.get Pg.gau F.GAU_SCALE_SK | 3 => d.get Pg.gau F.GAU_SCALE_SC | _ => 256

/-- R325: the scaled share of a pair at a subchannel. -/
def share (d : Dev) (m c : Nat) : Nat := ceilDiv (gShare d.mem.gau.live d.ilvW m c * d.scaleOf c) 256

def useOf (d : Dev) (m c : Nat) : Nat := tget (fun _ => 0) d.mem.gau.use (4 * m + c)
def grantedOf (d : Dev) (m c l : Nat) : Nat := tget (fun _ => 0) d.mem.gau.granted ((4 * m + c) * 32 + l)
/-- The allowance of a class slot of a subchannel: 0 maintenance, 1 + class. -/
def allowOf (d : Dev) (l k : Nat) : Nat := tget (fun _ => 0) d.mem.gau.allow (8 * l + k)
def setAllow (d : Dev) (l k v : Nat) : Dev := d.modGau fun g => { g with allow := tput (fun _ => 0) g.allow (8 * l + k) v }
def engOf (d : Dev) (c k : Nat) : Nat := tget (fun _ => 0) d.mem.gau.eng (2 * c + k)

/-- R307: the class that a request of a pair is granted as now: Hearth beyond GUAR(m, 0) goes as Parlour. -/
def effClass (d : Dev) (m c : Nat) : Nat := if c = 0 ∧ guar d.mem.gau.live m 0 ≤ d.useOf m 0 then 1 else c

/-- R307, R330: a pair is at its ceiling. -/
def capped (d : Dev) (m c : Nat) : Bool :=
  d.gauOn && decide (ceiling d.mem.gau.live m c ≠ 0) && decide (ceiling d.mem.gau.live m c ≤ d.useOf m c)

/-- R306: charge `n` lines to a pair at a subchannel, and LDM's count of lines charged. -/
def chargeLines (d : Dev) (m c l n : Nat) : Dev :=
  let d1 := d.modGau fun g =>
    { g with use := tmod (fun _ => 0) g.use (4 * m + c) (· + n), granted := tmod (fun _ => 0) g.granted ((4 * m + c) * 32 + l) (· + n) }
  if m < 64 then d1.tally (Pg.ldm m) 0x0102 n else d1

/-! ### Requests at the gate -/

/-- R306: lines charged for a request, and the reads and writes among them. -/
def reqLines (r : Req) : Nat × Nat :=
  match r.kind, r.ratio with
  | .write, 0 => (0, 1)
  | .partWrite, 0 => (1, 1)
  | .write, 2 | .partWrite, 2 => (1, 1)
  | .write, _ | .partWrite, _ => (2, 2)
  | _, 1 => (2, 0)
  | _, _ => (1, 0)

/-- R313: the order in which waiting requests pass. -/
def gateKey (d : Dev) (r : Req) : List Nat :=
  let c := d.effClass r.ld r.cls
  [c, if d.grantedOf r.ld c r.sub < d.share r.ld c then 0 else 1, r.deadline, r.id]

def gateReqs (d : Dev) : List Req := d.mem.reqs.filter (fun r => decide (r.stage = .gate))

/-- Replace a request. -/
def putReq (d : Dev) (r : Req) : Dev :=
  d.modMem fun m => { m with reqs := m.reqs.map (fun x => if x.id = r.id then r else x) }
def findReq (d : Dev) (id : Nat) : Option Req := d.mem.reqs.find? (fun r => r.id == id)
def dropReq (d : Dev) (id : Nat) : Dev := d.modMem fun m => { m with reqs := m.reqs.filter (fun r => r.id != id) }

/-- R313, R311: a request passes the gate now: it is below its ceiling, an allowance of its class is left at its subchannel, and the
channel's line engines have room. It is charged, and carries priority bits 3 if it rides on the Hearth allowance. -/
def tryPass (d : Dev) (r : Req) : Option Dev :=
  let c := d.effClass r.ld r.cls
  let (nr, nw) := reqLines r
  let n := nr + nw
  let ch := r.sub / 2
  if d.capped r.ld c then none
  else if c ≠ 0 ∧ (64 < d.engOf ch 0 + nr ∨ 64 < d.engOf ch 1 + nw) then none
  else if d.allowOf r.sub (1 + c) = 0 then none
  else
    let d1 := (d.setAllow r.sub (1 + c) (d.allowOf r.sub (1 + c) - n)).modGau fun g =>
      { g with eng := tmod (fun _ => 0) (tmod (fun _ => 0) g.eng (2 * ch) (· + nr)) (2 * ch + 1) (· + nw) }
    let d2 := d1.chargeLines r.ld c r.sub n
    let d3 := if (d.entry (dpaSkein r.dpa)).state ≠ St.split then d2 -- its page-entry read
      else d2.modGau fun g => { g with use := tmod (fun _ => 0) g.use (4 * r.ld + c) (· + 1) }
    some (d3.putReq { r with granted := true, prio3 := c == 0 })

/-- R313, R311, R335, R361: an access of `nr` reads and `nw` writes of another master passes the gate of subchannel `l` as a request does. -/
def passAccess (d : Dev) (m cls l nr nw : Nat) : Option Dev :=
  let c := d.effClass m cls
  let ch := l / 2
  if d.capped m c then none
  else if c ≠ 0 ∧ (64 < d.engOf ch 0 + nr ∨ 64 < d.engOf ch 1 + nw) then none
  else if d.allowOf l (1 + c) = 0 then none
  else
    let d1 := (d.setAllow l (1 + c) (d.allowOf l (1 + c) - (nr + nw))).modGau fun g =>
      { g with eng := tmod (fun _ => 0) (tmod (fun _ => 0) g.eng (2 * ch) (· + nr)) (2 * ch + 1) (· + nw) }
    some (d1.chargeLines m c l (nr + nw))

/-- R313: an access that does not pass waits at the gate. -/
def ask (d : Dev) (a : Ask) : Dev :=
  if d.mem.gau.asks.any (fun x => x.id == a.id && x.sub == a.sub) then d
  else (d.modGau fun g => { g with asks := g.asks ++ [a] }).tally Pg.gau 0x0100 1

/-- R314: gate entries of a master beyond its 32 kept ones draw on the shared 6144. -/
def gateRoom (d : Dev) (m : Nat) : Bool :=
  let count := fun x => (d.gateReqs.filter (fun r => r.ld == x)).length
  decide (count m < 32) || decide ((List.range 64).foldl (fun t x => t + (count x - 32)) 0 < 6144)

/-! ### The plan (R311, R316) -/

def standing (d : Dev) : Bool := !d.gauOn || d.flag Pg.gau F.GAU_CFG_FORCE_STANDING

/-- R316: the standing plan of a subchannel: Hearth, Parlour, Kitchen, Cellar. -/
def standingPlan (d : Dev) (l : Nat) : List Nat :=
  let cap := d.deliver l - d.mr - d.hr
  [d.hr, cap - 2 * (cap / 3), cap / 3, cap / 3]

/-- Weights of GAU_WEIGHT by class. -/
def weight (d : Dev) (c : Nat) : Nat :=
  match c with
  | 1 => d.get Pg.gau F.GAU_WEIGHT_WP | 2 => d.get Pg.gau F.GAU_WEIGHT_WK | 3 => d.get Pg.gau F.GAU_WEIGHT_WC | _ => 0

/-- What waits at the gate of a subchannel: host requests, and accesses of ring jobs and Data Mover channels (`cls` is the class each would be
granted as). -/
def gateDemand (d : Dev) (l : Nat) : List Ask :=
  (d.gateReqs.filter (fun r => r.sub == l)).map (fun r =>
    ⟨r.id, l, r.ld, d.effClass r.ld r.cls, r.deadline, (reqLines r).1 + (reqLines r).2⟩) ++
  (d.mem.gau.asks.filter (fun a => a.sub == l)).map (fun a => { a with cls := d.effClass a.master a.cls })

/-- R311 steps 3 and 4 for one subchannel: Parlour, Kitchen and Cellar allowances for the requests waiting there. Capacity that no class
with demand can use is spread by weight over the three classes (DEDUCED: requests that arrive in the stitch draw on it). -/
def fullPlan (d : Dev) (l : Nat) : List Nat :=
  let cap := d.deliver l - d.mr - d.hr
  let ws := (d.gateDemand l).filter (fun a => a.cls != 0)
  let sum := fun (xs : List Ask) => (xs.map (·.lines)).foldl (· + ·) 0
  let demand := fun (c : Nat) => sum (ws.filter (fun a => a.cls == c && !d.capped a.master c))
  let masters := (ws.map (·.master)).eraseDups
  let guarDemand := fun (c : Nat) => (masters.map (fun m =>
    min (d.share m c - d.grantedOf m c l) (sum (ws.filter (fun a => a.cls == c && a.master == m))))).foldl (· + ·) 0
  let first := fun (c : Nat) => (ws.filter (fun a => a.cls == c)).foldl (fun t a => min t a.deadline) (2 ^ 64)
  let order := sortBy (fun c => [first c, c]) [1, 2, 3]
  let (left, g) := order.foldl
    (fun (acc : Nat × Tbl Nat) c =>
      let take := min (guarDemand c) acc.1
      (acc.1 - take, tput (fun _ => 0) acc.2 c take)) (cap, [])
  let got := fun c => tget (fun _ => 0) g c
  let rest := fun c => demand c - got c
  let tot := ([1, 2, 3].map (fun c => if rest c = 0 then 0 else d.weight c)).foldl (· + ·) 0
  let base := fun c => if tot = 0 ∨ rest c = 0 then 0 else left * d.weight c / tot
  let spare := left - (base 1 + base 2 + base 3)
  let g1 := min (base 1) (rest 1)
  let x2 := base 2 + (base 1 - g1)
  let g2 := min x2 (rest 2)
  let x3 := base 3 + (x2 - g2)
  let g3 := min x3 (rest 3)
  let surplus := spare + (x3 - g3)
  let wt := d.weight 1 + d.weight 2 + d.weight 3
  let part := fun c => if wt = 0 then 0 else surplus * d.weight c / wt
  [d.hr, got 1 + g1 + part 1 + (surplus - part 1 - part 2 - part 3), got 2 + g2 + part 2, got 3 + g3 + part 3]

/-- R311: the allowances of the stitch that begins, planned with the budgets, uses and scales of `v`. `complete` is false where the plan was
not ready at the commit point (R44). -/
def setPlan (d v : Dev) (complete : Bool) : Dev :=
  let st := d.standing || !complete
  let d0 := d.modGau fun g => { g with eng := [], allow := [] }
  ((List.range d.ilvW).foldl
    (fun acc l =>
      let p := if st then v.standingPlan l else v.fullPlan l
      (List.range 4).foldl (fun a k => a.setAllow l (k + 1) (p.getD k 0)) (acc.setAllow l 0 (min v.mr (v.deliver l)))) d0).modGau
    fun g => { g with asks := [] }

end Dev

end Sys2Proof.Machine
end

