-- ==== Sys2Proof/Machine/Moves.lean ====
section
/-! DEFINITION. Where the pages of a skein lie, reading and writing a page, and the moves of the tier engine: starting, finishing and settling
a migration (R183 to R189), and the transition of a block that no longer fits (R193). -/

namespace Sys2Proof.Machine

/-- Where a page lies: state (Zero-pending, Open, Packed, Larder), ratio, DRA, or cartridge, extent and slot. -/
structure PageLoc where
  st : Nat
  ratio : Nat := 0
  dra : Nat := 0
  cart : Nat := 0
  extent : Nat := 0
  slot : Nat := 0
  deriving DecidableEq, Repr

/-- The place that a page entry names. -/
def PageEntry.place (e : PageEntry) : PageLoc :=
  let st := if e.state = St.motion then e.srcState else e.state
  if e.locKind then { st := St.larder, cart := locCart e.loc, extent := locExtent e.loc, slot := e.slot }
  else { st := st, ratio := e.ratio, dra := e.dra }

/-- A line as it is moved: its bytes and its poison. -/
abbrev MovedLine := List Nat × Bool

def zeroLine : MovedLine := (List.replicate 64 0, false)
def onesLine : List Nat := List.replicate 64 0xFF

namespace Dev

/-- The place of page `n` of a location in a state (R120, R121, R411). -/
def pageAt (d : Dev) (st ratio loc n : Nat) : PageLoc :=
  if st = St.isOpen ∨ st = St.zero then { st := St.isOpen, dra := locFrame loc * 2 ^ 19 + 4096 * n }
  else if st = St.packed then { st := st, ratio := ratio, dra := locFrame loc * 2 ^ 19 + 16 * slotSize ratio * n }
  else if st = St.split then (d.pageEntry (locFrame loc) n).place
  else if st = St.larder then { st := st, cart := locCart loc, extent := locExtent loc, slot := n }
  else { st := St.zero }

/-- R158: the page entry that a page of a moving skein would have at an end of the move. -/
def endEntry (d : Dev) (st ratio loc n heat : Nat) (gen : Bool) : PageEntry :=
  if st = St.split then { d.pageEntry (locFrame loc) n with heat := (d.pageEntry (locFrame loc) n).heat }
  else
    let p := d.pageAt st ratio loc n
    if p.st = St.larder then
      { state := St.larder, gen := gen, locValid := true, locKind := true, heat := heat, loc := larderPageLoc p.cart p.extent p.slot }
    else { state := p.st, gen := gen, ratio := p.ratio, locValid := true, heat := heat, loc := p.dra / 1024 }

/-! ### Reading and writing a page -/

/-- The slot of block `b` of a Packed page: its bytes and its poison. -/
def slotAt (d : Dev) (dra ratio b : Nat) : List Nat × Bool :=
  let n := slotSize ratio
  let a := dra + n * b
  (d.readBytes a n, (d.side a).poison || (n == 128 && (d.side (a + 64)).poison))

/-- R185, R186, R222: the 64 lines of a page in DRAM; a poisoned or malformed slot gives four poisoned lines. -/
def readPage (d : Dev) (p : PageLoc) : List MovedLine :=
  if p.st = St.isOpen then
    (List.range 64).map (fun j => (d.readBytes (p.dra + 64 * j) 64, (d.side (p.dra + 64 * j)).poison))
  else if p.st = St.packed then
    (List.range 16).flatMap (fun b =>
      let (s, po) := d.slotAt p.dra p.ratio b
      match po, decodeSlot s with
      | false, some w => (List.range 4).map (fun j => (((blockBytes w).drop (64 * j)).take 64, false))
      | _, _ => List.replicate 4 (onesLine, true))
  else List.replicate 64 zeroLine

/-- The block `b` of a page's lines, and its poison. -/
def blockOf (ls : List MovedLine) (b : Nat) : List Nat × Bool :=
  let four := (ls.drop (4 * b)).take 4
  (four.flatMap (·.1), four.any (·.2))

/-- R185: write a page at its destination; `none` where a block fits no slot of the destination's ratio. A block with a poisoned line is
stored at a Packed destination as a poisoned slot of zeros (DEDUCED: its data cannot be trusted). -/
def writePage (d0 : Dev) (p : PageLoc) (dpa : Nat) (ls : List MovedLine) (maint : Bool) : Option Dev :=
  let n := if p.st = St.isOpen then 64 else if p.st = St.packed then slotSize p.ratio / 4 else 0
  let d := (List.range n).foldl (fun d i => d.bursts (d.place (p.dra + 64 * i)).1 true maint 1) d0
  if p.st = St.isOpen then
    some ((List.range 64).foldl
      (fun d j => let l := ls.getD j zeroLine; d.putOpen (p.dra + 64 * j) (dpa + 64 * j) l.2 l.1) d)
  else if p.st = St.packed then
    (List.range 16).foldl
      (fun (acc : Option Dev) b =>
        match acc with
        | none => none
        | some d =>
          let (bytes, po) := blockOf ls b
          let w := if po then List.replicate 32 0 else blockWords bytes
          match encodeSlot (slotSize p.ratio) w with
          | none => none
          | some s => some (d.putSlot (p.dra + slotSize p.ratio * b) (dpa + 256 * b) po s)) (some d)
  else some d

/-! ### Starting a move (R183, R184) -/

def migs (d : Dev) : List Mig := d.mem.tier.migs
def findMig (d : Dev) (id : Nat) : Option Mig := d.migs.find? (fun m => m.id == id)
def putMig (d : Dev) (m : Mig) : Dev := d.modTier fun t => { t with migs := t.migs.map (fun x => if x.id = m.id then m else x) }
def dropMig (d : Dev) (id : Nat) : Dev := d.modTier fun t => { t with migs := t.migs.filter (fun x => x.id != id) }

/-- R183: the number of a new migration: the lowest that is free (DESIGN CHOICE: the rule fixes the range only). -/
def freeMigId (d : Dev) : Option Nat :=
  if min 2048 (d.get Pg.tir F.TIR_MOVE_CFG_MAX) ≤ d.migs.length then none
  else firstFrom (fun i => !d.migs.any (fun m => m.id == i)) 1 4095 1

/-- R257: the walk of a Re-knit is inside a skein. -/
def knitInside (d : Dev) (s : Nat) : Bool :=
  d.reknit && d.flag Pg.cry F.CRY_STS_PHASE &&
    decide (s * 2 ^ 21 < d.get Pg.cry F.CRY_KNIT_LINE_DPA) && decide (d.get Pg.cry F.CRY_KNIT_LINE_DPA < (s + 1) * 2 ^ 21)

/-- A page of the skein is in motion. -/
def anyPageMove (d : Dev) (s : Nat) : Bool := d.migs.any (fun m => m.skein == s)

/-- R467, R487: the tier engine starts nothing in the fatal state, or once the entry to Hush is past its commit point. -/
def quiesced (d : Dev) : Bool :=
  d.fatal || d.get Pg.pwr F.PWR_STS_STATE == 2 || (d.flag Pg.pwr F.PWR_STS_IN_PROGRESS && !d.pwr.beforeCommit && d.pwr.target == 2)

/-- R183: a move of this skein could start, storage aside. -/
def moveAllowed (d : Dev) (s : Nat) : Bool :=
  d.enabled Pg.tir && !d.frogOn Pg.tir && !d.quiesced && d.skeinValid s && decide (d.lockCount (patSet s) < 8)

/-- R224: an enabled compressor takes device work. -/
def deviceCompressor (d : Dev) : Option Nat :=
  firstFrom (fun i => d.cmpTakes i && (d.get (Pg.cmp i) F.CMP_CFG_POOL).testBit 0) 1 32 0

/-- Units for the pages of a Split destination, by their ratios, with the entries of its map. -/
def takeSplit (d : Dev) (s : Nat) (ratios : List Nat) (gen : Bool) (heat : Nat) : Option (List PageEntry × Dev) :=
  (List.range 512).foldl
    (fun (acc : Option (List PageEntry × Dev)) n =>
      match acc with
      | none => none
      | some (es, d) =>
        let r := ratios.getD n 0
        let st := if r = 0 then St.isOpen else St.packed
        match d.takeUnits (pageUnits st r) s n with
        | none => none
        | some (dra, d1) =>
          some (es ++ [{ state := st, gen := gen, ratio := r, locValid := true, heat := heat, loc := dra / 1024 }], d1)) (some ([], d))

/-- R183: reserve the destination of a skein move: its location word. -/
def takeDest (d : Dev) (w : Want) (e : Entry) : Option (Nat × Dev) :=
  if w.state = St.larder then
    match d.takeExtent w.cart with
    | some (n, x, d1) => some (larderLoc n x, d1)
    | none => none
  else if w.state = St.split then
    match d.ordinaryMap with
    | none => none
    | some map =>
      match (d.useMap map true).takeSplit w.skein w.ratios ((d.expGen 0 (w.skein * 2 ^ 21)).testBit 0) e.heat with
      | none => none
      | some (es, d1) => some (map, d1.writeMap map es)
  else
    match d.freeRun (wholeFrames w.state w.ratio) with
    | some f => some (f, d.takeWhole f (wholeFrames w.state w.ratio) w.skein true)
    | none => none

/-- A move with neither end on a cartridge (R159, R185). -/
def dramMove (m : Mig) : Bool := m.srcState != St.larder && m.dstState != St.larder

/-- R184: start a skein move. -/
def startSkein (d : Dev) (w : Want) : Option Dev :=
  let e := d.entry w.skein
  if !d.moveAllowed w.skein || d.anyPageMove w.skein || e.state == St.motion || d.knitInside w.skein then none
  else
    match d.freeMigId with
    | none => none
    | some id =>
      let settle := e.state != St.split && w.state != St.split
      if settle && decide (d.mapsFree ≤ d.settleMaps.length + d.fitReserve) then none
      else
        let settleMap := if settle then d.lowestMap else none
        match d.takeDest w e with
        | none => none
        | some (loc, d1) =>
          let gen := (d.expGen 0 (w.skein * 2 ^ 21)).testBit 0
          let e' := { e with state := St.motion, moveId := id, srcState := e.state, dstState := w.state, dstRatio := w.ratio,
                             dstKind := kindOf w.state, dstGen := gen, progress := 0, dstLoc := loc }
          let m : Mig := { id := id, skein := w.skein, page := none, srcState := e.state, srcRatio := e.ratio, dstState := w.state,
                           dstRatio := w.ratio, dstLoc := loc, cause := w.cause, sn := d.sn, settleMap := settleMap,
                           copying := false, job := w.job }
          some (((d1.putEntry w.skein e').modTier fun t => { t with migs := t.migs ++ [m] }).tally Pg.tir 0x0100 1)

/-- R184: start a page move; `fit`: the Open unit comes from the frame fit reserve (R193). -/
def startPage (d : Dev) (w : Want) (page : Nat) (fit : Bool) : Option Dev :=
  let e := d.entry w.skein
  let pe := d.pageEntry (locFrame e.loc) page
  if !d.moveAllowed w.skein || e.state != St.split || pe.state == St.motion || !pe.valid d.installed then none
  else
    match d.freeMigId with
    | none => none
    | some id =>
      let dest : Option (Nat × Dev) :=
        if w.state = St.larder then
          match d.takeExtent w.cart with
          | some (n, x, d1) => some (larderPageLoc n x page, d1)
          | none => none
        else
          match (if fit then d.takeFitUnit w.skein page else d.takeUnits (pageUnits w.state w.ratio) w.skein page) with
          | some (dra, d1) => some (dra / 1024, d1)
          | none => none
      match dest with
      | none => none
      | some (loc, d1) =>
        let m : Mig := { id := id, skein := w.skein, page := some page, srcState := pe.state, srcRatio := pe.ratio, dstState := w.state,
                         dstRatio := w.ratio, dstLoc := loc, cause := w.cause, sn := d.sn, settleMap := none, copying := false,
                         job := w.job }
        let own := e.owner
        let (k, x) := if w.state = St.larder then (0, 0) else (pageUnits w.state w.ratio, 0)
        some ((((d1.putPage w.skein page { pe with state := St.motion, srcState := pe.state }).addUse own 0 k 0 x
          (pageDpa w.skein page)).modTier fun t => { t with migs := t.migs ++ [m] }).tally Pg.tir 0x0100 1)

/-- Start a move that is wanted. -/
def startWant (d : Dev) (w : Want) : Option Dev :=
  match w.page with
  | none => d.startSkein w
  | some n => d.startPage w n false

/-! ### Ends of a move (R187 to R189) -/

/-- The end of a ring job that a move serves is noted by its migration being gone; a touch's fetch buffer is released (R191). -/
def endFetch (d : Dev) (m : Mig) : Dev :=
  d.modTier fun t => { t with fetches := t.fetches.filter (fun f => f.mig != m.id) }

/-- R187: after page 511 the skein takes its destination, and the source is freed. -/
def finishSkein (d : Dev) (m : Mig) : Dev :=
  let e := d.entry m.skein
  let e' := { e with state := e.dstState, loc := e.dstLoc, locKind := e.dstKind, ratio := e.dstRatio, gen := e.dstGen, moveId := 0,
                     srcState := 0, dstState := 0, dstRatio := 0, dstKind := false, dstGen := false, progress := 0, dstLoc := 0 }
  (((d.putEntry m.skein e').freeLoc e.srcState e.ratio e.loc).dropMig m.id).endFetch m

/-- R187: the page of a page move takes its destination, and its source is freed; a Larder slot is left as it is (R413), and its extent is
freed when no page of the skein refers to it any more. -/
def finishPage (d : Dev) (m : Mig) (page : Nat) : Dev :=
  let e := d.entry m.skein
  let pe := d.pageEntry (locFrame e.loc) page
  let new : PageEntry :=
    if m.dstState = St.larder then { state := St.larder, gen := pe.gen, locValid := true, locKind := true, heat := pe.heat, loc := m.dstLoc }
    else { state := m.dstState, gen := (d.expGen 0 (pageDpa m.skein page)).testBit 0, ratio := m.dstRatio, locValid := true,
           heat := pe.heat, loc := m.dstLoc }
  let d0 := if m.dstState = St.larder then d
            else d.addUse e.owner (pageUnits m.dstState m.dstRatio) 0 0 0 (pageDpa m.skein page)
  let d1 := (d0.putPage m.skein page new).freePage pe
  let d2 := match pageExtent pe with
    | none => d1
    | some k =>
      if (d1.mapPages (locFrame e.loc)).any (fun x => pageExtent x == some k) then d1 else d1.freeExtent (k / 2 ^ 27) (k % 2 ^ 27)
  (d2.dropMig m.id).endFetch m

/-- The frames of a whole end of a settled move: those that hold pages become carved, the others are freed (R189). -/
def carveEnd (d : Dev) (s st ratio loc : Nat) (pages : List Nat) : Dev :=
  (List.range (wholeFrames st ratio)).foldl
    (fun d i =>
      let f := locFrame loc + i
      let mine := pages.filter (fun n => (d.pageAt st ratio loc n).dra >>> 19 == f)
      if mine.isEmpty then d.freeFrame f
      else
        let us := mine.foldl
          (fun t n =>
            let u := bits (d.pageAt st ratio loc n).dra 10 9
            (List.range (pageUnits st ratio)).foldl (fun t j => tput (fun _ => 0) t (u + j) (holder s n)) t) []
        d.setFrame f (.carved us false)) d

/-- What an end of a settled move no longer holds is freed: the pages not in `keep` (R189). -/
def settleEnd (d : Dev) (s st ratio loc : Nat) (keep : List Nat) (old : List PageEntry) (es : List PageEntry) : Dev :=
  if st = St.isOpen ∨ st = St.packed then d.carveEnd s st ratio loc keep
  else if st = St.larder then
    if es.any (fun x => pageExtent x == some (locCart loc * 2 ^ 27 + locExtent loc)) then d else d.freeExtent (locCart loc) (locExtent loc)
  else if st = St.split then
    let d1 := (List.range 512).foldl (fun d n => if keep.contains n then d else d.freePage (old.getD n {})) d
    (extentsOf old).foldl (fun d k => if (extentsOf es).contains k then d else d.freeExtent (k / 2 ^ 27) (k % 2 ^ 27)) d1
  else d

/-- R189: settle a skein move to its source (P = 0) or to Split. -/
def settleSkein (d : Dev) (m : Mig) : Dev :=
  let e := d.entry m.skein
  let base := { e with moveId := 0, srcState := 0, dstState := 0, dstRatio := 0, dstKind := false, dstGen := false, progress := 0, dstLoc := 0 }
  if e.progress = 0 then
    (((d.putEntry m.skein { base with state := e.srcState }).freeLoc e.dstState e.dstRatio e.dstLoc).dropMig m.id).endFetch m
  else
    let p := e.progress
    let srcOld := if e.srcState = St.split then d.mapPages (locFrame e.loc) else []
    let dstOld := if e.dstState = St.split then d.mapPages (locFrame e.dstLoc) else []
    let es := (List.range 512).map (fun n =>
      if n < p then d.endEntry e.dstState e.dstRatio e.dstLoc n e.heat e.dstGen
      else d.endEntry e.srcState e.ratio e.loc n e.heat e.gen)
    let map := if e.srcState = St.split then locFrame e.loc
      else if e.dstState = St.split then locFrame e.dstLoc else m.settleMap.getD 0
    let (a, b) := d.charge e
    let e' := { base with state := St.split, loc := map, locKind := false, ratio := 0 }
    let d1 := d.settleEnd m.skein e.srcState e.ratio e.loc ((List.range 512).filter (fun n => p ≤ n)) srcOld es
    let d2 := d1.settleEnd m.skein e.dstState e.dstRatio e.dstLoc (List.range p) dstOld es
    let d3 := if e.srcState = St.split ∧ e.dstState = St.split then d2.useMap (locFrame e.dstLoc) false else d2
    let d4 := d3.writeMap map es
    let (a', b') := d4.charge e'
    let d5 := if (d4.cached m.skein).isSome then d4.setCached m.skein e' else d4.installWay m.skein e' true
    ((d5.addUse e.owner a a' b b' (m.skein * 2 ^ 21)).dropMig m.id).endFetch m

/-- R189: a page move that fails returns its page to its source and frees the destination. -/
def settlePage (d : Dev) (m : Mig) (page : Nat) : Dev :=
  let e := d.entry m.skein
  let pe := d.pageEntry (locFrame e.loc) page
  let d1 := d.putPage m.skein page { pe with state := pe.srcState, srcState := 0 }
  let d2 :=
    if m.dstState = St.larder then d1.freeExtent (locCart m.dstLoc) (locExtent m.dstLoc)
    else (d1.freeUnits (bits m.dstLoc 0 33 * 1024) (pageUnits m.dstState m.dstRatio)).addUse e.owner (pageUnits m.dstState m.dstRatio) 0 0 0
      (pageDpa m.skein page)
  (d2.dropMig m.id).endFetch m

/-- R188: a migration fails or is aborted: it copies no more, "tier move failed" is raised, and its settlement follows. -/
def failMig (d : Dev) (m : Mig) (reason : Nat) : Dev :=
  if m.reason ≠ 0 then d
  else
    ((d.putMig { m with reason := reason, copying := false, waitWrite := false }).tally Pg.tir 0x0102 1).raise Src.moveFailed
      (m.skein * 2 ^ 21) (d.entry m.skein).owner 7

/-- R473: the cartridge operations of a migration are detached: answers to those that were sent are discarded. -/
def dropMigTxns (d : Dev) (id : Nat) : Dev :=
  let mine := fun (d : Dev) (t : Txn) => (t.op == 2 && t.mig == id) ||
    (t.op == 1 && t.fetch != 0 && d.mem.tier.fetches.any (fun f => f.id == t.fetch && f.mig == id))
  (d.carts.map (·.1)).foldl
    (fun a n => a.modCart n fun c =>
      { c with txns := c.txns.filter (fun t => !mine d t), dead := c.dead ++ ((c.txns.filter (fun t => mine d t && t.sent)).map (·.tag)) }) d

/-- R188, R189: settle a migration that has failed, and load TIR_FAIL_INFO and TIR_FAIL_SN. -/
def settleNow (d : Dev) (m : Mig) : Dev :=
  let e := d.entry m.skein
  let p := match m.page with | none => e.progress | some _ => 0
  let d0 := d.dropMigTxns m.id
  let d1 := match m.page with | none => d0.settleSkein m | some n => d0.settlePage m n
  let info := m.id % 2 ^ 12 + m.reason * 2 ^ 12 + p * 2 ^ 16 + m.skein * 2 ^ 26
  let d2 := (d1.setWord Pg.tir 0x198 (BitVec.ofNat 32 info)).setWord Pg.tir 0x19C (BitVec.ofNat 32 (info >>> 32))
  let d3 := d2.set Pg.tir F.TIR_FAIL_SN_SN d.sn
  if m.job = 0 then d3 else d3.modTier fun t => { t with jobFails := t.jobFails ++ [m.job] }

/-- A migration fails for a reason and is settled at once. -/
def settleMig (d : Dev) (m : Mig) (reason : Nat) : Dev :=
  let d1 := d.failMig m reason
  match d1.findMig m.id with
  | some x => d1.settleNow x
  | none => d1

/-- Settle every active migration that satisfies `p`. -/
def settleAll (d : Dev) (p : Mig → Bool) (reason : Nat) : Dev :=
  (d.migs.filter p).foldl (fun d m => d.settleMig m reason) d

/-- Every active migration that satisfies `p` fails. -/
def failAll (d : Dev) (p : Mig → Bool) (reason : Nat) : Dev :=
  (d.migs.filter p).foldl (fun d m => d.failMig m reason) d

/-- R193: a Packed skein becomes Split on a map of the fit reserve, its frames carved; `none` while it is Packed and the reserve is empty. -/
def splitForFit (d : Dev) (s : Nat) : Option Dev :=
  let e := d.entry s
  if e.state = St.packed then
    match d.fitMap with
    | none => none
    | some map =>
      let es := (List.range 512).map (fun n => d.endEntry St.packed e.ratio e.loc n e.heat e.gen)
      some (((d.carveEnd s St.packed e.ratio e.loc (List.range 512)).writeMap map es).putEntry s { e with state := St.split, loc := map, ratio := 0 })
  else some d

/-- R193: a write whose block no longer fits: a Packed skein becomes Split on a map of the fit reserve, its frames become carved, and the page
enters a page move to an Open unit of the frame fit reserve. A reserve that is empty raises "tier reserve empty"; the move is then wanted
and starts when it can (R194). -/
def noFit (d : Dev) (s page : Nat) : Dev :=
  let e := d.entry s
  let w : Want := { skein := s, page := some page, state := St.isOpen, ratio := 0, cause := 5 }
  let want := fun (d : Dev) =>
    if d.mem.tier.wants.any (fun x => x.skein == s && x.page == some page && x.cause == 5) then d
    else d.modTier fun t => { t with wants := t.wants ++ [w] }
  let empty := fun (d : Dev) => want ((d.raise Src.reserveEmpty (s * 2 ^ 21) e.owner 7).modTier fun t => { t with pressure := true })
  let move := fun (d : Dev) =>
    if d.migs.any (fun m => m.skein == s && m.page == some page) then d
    else match d.startPage w page true with
      | some d1 => d1
      | none => if (bestCarved (d.carvedFrames true) 4).isNone then empty d else want d
  match d.splitForFit s with
  | none => empty d
  | some d1 => if (d1.entry s).state = St.split then move d1 else d

end Dev

end Sys2Proof.Machine
end

