-- ==== Sys2Proof/Machine/Channel.lean ====
section
/-! DEFINITION. The end of a request's flow: its responses (R87, R168), the write queue (R147, R278), the entry into a channel (R275, R289,
R291), the verdict on a captured line (R243 to R249), and the inline decompressors and compressors (R220 to R224). -/

namespace Sys2Proof.Machine

def MemKind.isRead : MemKind → Bool
  | .read | .readData => true
  | _ => false
def MemKind.isWrite : MemKind → Bool
  | .write | .partWrite => true
  | _ => false
/-- R459: the access type of a host request. -/
def MemKind.acc : MemKind → Nat
  | .write => 2 | .partWrite => 3 | _ => 1

def allOnes : BitVec 512 := BitVec.allOnes 512

/-- R148: the enabled bytes of a partial write over a line. -/
def mergeBytes (old : List Nat) (data : BitVec 512) (en : BitVec 64) : List Nat :=
  (List.range 64).map (fun i => if en.getLsbD i then bits data.toNat (8 * i) 8 else old.getD i 0)

/-- The bytes of a line. -/
def lineBytes (x : BitVec 512) : List Nat := leBytes 64 x.toNat

namespace Dev

/-! ### Responses -/

/-- R567: an event of a host port, for both halves and for its half. -/
def hpTally (d : Dev) (r : Req) (ev k : Nat) : Dev :=
  (d.tally (Pg.hp r.port) (0x0100 + ev) k).tally (Pg.hp r.port) (0x0200 + 0x0100 * r.half + ev) k

/-- R321: the measure of a Hearth read. The fabric cycles of its arrival and of its response are free values (Config.cycle). -/
def hearthMeasure (d : Dev) (r : Req) : Dev :=
  if r.cls ≠ 0 ∨ !r.kind.isRead ∨ !r.checked then d
  else if r.prio3 && !r.outside then
    let lat := 256 * (d.sn - r.sn) + (Config.cycle d.fresh).toNat - r.phase
    let d1 := (d.draw.tally Pg.gau 0x0101 1)
    let d2 := d1.modGau fun g => { g with latMax := max g.latMax (min lat 0xFFF) }
    let d3 := d2.set Pg.gau F.GAU_HEARTH_LAT_PEAK (max (d2.get Pg.gau F.GAU_HEARTH_LAT_PEAK) (min lat 0xFFF))
    if 1536 < lat then (d3.addSat Pg.gau F.GAU_HEARTH_OVR_COUNT 1).raise Src.gauHearthLate r.dpa r.ld 1 else d3
  else (d.addSat Pg.gau F.GAU_HEARTH_OUT_COUNT 1).tally Pg.gau 0x0102 1

/-- The response of a read; none leaves for a link that went down (R80). -/
def sendData (d : Dev) (r : Req) (data : BitVec 512) (poison : Bool) : Dev :=
  let d1 := d.hearthMeasure r
  if r.dropped then d1
  else ((d1.hpTally r 2 1).hpLines r.port r.half false 1).emit (.memData r.ld r.tag (if poison then allOnes else data) poison r.metaVal (d.ld r.ld).devLoad)

def answerRead (d : Dev) (r : Req) (data : BitVec 512) (poison : Bool) : Dev := (d.sendData r data poison).dropReq r.id

/-- The completion of a request that returns no data. -/
def answerCmp (d : Dev) (r : Req) : Dev :=
  (if r.dropped then d else d.emit (.memCmp r.ld r.tag r.metaVal (d.ld r.ld).devLoad)).dropReq r.id

/-- A write is discarded and completes normally; that of an Inject or Clear Poison makes its command fail (R616). -/
def discard (d : Dev) (r : Req) : Dev :=
  (if r.mbox then d.modLd r.ld fun l => { l with poisonFailed := true } else d).answerCmp r

/-- All ones with poison for a read; a write is discarded and completes normally. -/
def refuse (d : Dev) (r : Req) : Dev :=
  if r.kind.isRead then d.answerRead r allOnes true else if r.kind = .specRead then d.dropReq r.id else d.discard r

/-- Put a request at a stage. -/
def stageReq (d : Dev) (r : Req) (s : Stage) : Dev := d.putReq { r with stage := s }

/-- R245, R169: contained severity makes the owner viral, and the LD that received the data. -/
def alarmViral (d : Dev) (src owner : Nat) (also : Option Nat) : Dev :=
  if d.severity src = 4 then
    let d1 := d.makeViral owner
    match also with | some n => d1.makeViral n | none => d1
  else d

/-! ### The write queue (R278) -/

def wqHi (d : Dev) (c : Nat) : Nat := max 1 (min 128 (d.get (Pg.dc c) F.DC_WQ_CFG_HI))
def wqLo (d : Dev) (c : Nat) : Nat := min (d.get (Pg.dc c) F.DC_WQ_CFG_LO) (d.wqHi c - 1)

/-- A line is in the write queue of its subchannel. -/
def inWq (d : Dev) (l dra : Nat) : Bool := (d.sub l).wq.any (fun w => w.dra == dra / 64 * 64)

/-- R278: a write finds the queue full and has no entry there. -/
def wqFull (d : Dev) (l dra : Nat) : Bool := decide (128 ≤ (d.sub l).wq.length) && !d.inWq l dra

/-- R278: whether the subchannel drains, by its occupancy. -/
def drainState (d : Dev) (l : Nat) (s : SubCh) : Bool :=
  if d.wqHi (l / 2) ≤ s.wq.length then true else if s.wq.length ≤ d.wqLo (l / 2) then false else s.draining

/-- R278: a line enters the write queue; a line that has an entry keeps it. -/
def pushWq (d : Dev) (l dra : Nat) : Dev :=
  d.modSub l fun s =>
    let s1 := if s.wq.any (fun w => w.dra == dra / 64 * 64) then s
              else { s with wq := s.wq ++ [⟨d.mem.nextReq, dra / 64 * 64, d.sn⟩] }
    { s1 with draining := d.drainState l s1 }

/-- The write-queue entry of a new write has a number of its own. -/
def pushWqNew (d : Dev) (l dra : Nat) : Dev := (d.pushWq l dra).modMem fun m => { m with nextReq := m.nextReq + 1 }

/-- The lines of a slot enter the write queue. -/
def pushSlot (d : Dev) (l dra ratio : Nat) : Dev :=
  if ratio = 1 then (d.pushWqNew l dra).pushWqNew l (dra + 64) else d.pushWqNew l dra

/-! ### Mirrored rooms (R538, R539, R546, R548) -/

def twnState (d : Dev) : Nat := d.get Pg.twn F.TWN_STS_STATE
/-- The state in which a member stands: while Pairing, the one that the attempt started from (R553). -/
def twnStands (d : Dev) : Nat := if d.twnState = 1 then d.twin.was else d.twnState
def mirrorLive (d : Dev) (drn : Nat) : Bool := d.twin.live.contains drn
/-- R548, R551: accesses to the room are answered as fenced. -/
def fencedRoom (d : Dev) (drn : Nat) : Bool :=
  d.twin.fenced.contains drn || (d.mirrorLive drn && (d.twnStands == 6 || (d.fatal && decide (2 ≤ d.twnState ∧ d.twnState ≤ 4))))

/-- R546, R548: writes to mirror-live rooms park: in Window, and at an Alone member before E, when TWN_SOLO_SN takes a later SN than S. -/
def twinHolds (d : Dev) : Bool :=
  d.twnStands == 4 || (d.twnStands == 5 && decide (d.get Pg.twn F.TWN_SOLO_SN_SN ≤ d.get Pg.twn F.TWN_SPLIT_SN_SN))

/-- R537: a line for the peer takes the next MID. -/
def mirrorOut (d : Dev) (i : MirrorItem) : Dev :=
  { d with twin := { d.twin with out := d.twin.out ++ [{ i with mid := d.twin.nextMid }], nextMid := (d.twin.nextMid + 1) % 2 ^ 32 } }

/-- A line that a write has brought to its point of visibility: at the owner of a mirror-live room the line is sent to the peer and the
completion waits for its MACK (R539), or for E once the pair has split (R546); elsewhere the write completes. -/
def writeVisible (d : Dev) (r : Req) (line : BitVec 512) (poison : Bool) : Dev :=
  if d.mirrorLive (r.dpa >>> 30) && (d.twnState == 2 || d.twnState == 3 || d.twinHolds) then
    (d.mirrorOut { mid := 0, req := r.id, dpa := r.dpa / 64 * 64, data := line, enables := BitVec.allOnes 64, poison := poison, cls := r.cls,
                   here := true }).stageReq r (if d.twinHolds then .parked .twin else .mirror)
  else d.answerCmp r

/-! ### Writes at the channel -/

/-- R146, R147, R200, R278: a full line reaches its point of visibility in DRAM, or waits for a fill slot or for the write queue. -/
def lineWrite (d : Dev) (r : Req) (bytes : List Nat) (poison : Bool) : Dev :=
  if !d.canFill r.dra then (d.stageReq { r with outside := true } .fillWait).raiseOnce Src.fillSlotWait r.dra r.ld 2
  else if d.wqFull r.sub r.dra then d.stageReq r .wqWait
  else ((d.putOpen r.dra r.dpa poison bytes).pushWqNew r.sub r.dra).writeVisible r (BitVec.ofNat 512 (ofBytes bytes)) poison

/-- The first byte of the block of a DPA. -/
def blockBase (dpa : Nat) : Nat := dpa / 256 * 256

/-! ### Compressors (R220, R223, R224) -/

def cmpBusy (d : Dev) (i : Nat) : Nat := tget (fun _ => 0) d.mem.cmp.busy i
def setCmpBusy (d : Dev) (i w : Nat) : Dev :=
  d.modMem fun m => { m with cmp := { m.cmp with busy := tput (fun _ => 0) m.cmp.busy i w } }

/-- A 48-bit wrapping counter of a CMP page. -/
def cmpCount (d : Dev) (i : Nat) (f : Fld) (k : Nat) : Dev := d.set (Pg.cmp i) f (d.get (Pg.cmp i) f + k)

/-- R223: the lowest-numbered enabled, idle compressor whose POOL has bit `b`. -/
def idleCompressor (d : Dev) (b : Nat) : Option Nat :=
  firstFrom (fun i => d.cmpTakes i && (d.get (Pg.cmp i) F.CMP_CFG_POOL).testBit b && d.cmpBusy i == 0) 1 32 0

/-- R148, R223: a block rewrite goes to a compressor, or waits for one. -/
def toEncoder (d : Dev) (r : Req) : Dev :=
  match d.idleCompressor 0 with
  | some i => (d.setCmpBusy i 1).putReq { r with stage := .encode, inst := some i }
  | none =>
    let d1 := d.putReq { r with stage := .encode, inst := none, outside := true }
    if d.deviceCompressor.isNone then d1.raiseOnce Src.noDevCompressor r.dpa (d.entry (dpaSkein r.dpa)).owner 2 else d1

/-! ### Inline decompressors (R220 to R222) -/

/-- R221: the inline decompressors that a block of a channel may use: its channel's enabled ones, else the lowest enabled one. -/
def inlineChoice (d : Dev) (c : Nat) : List Nat :=
  let own := [32 + 3 * c, 33 + 3 * c, 34 + 3 * c].filter d.cmpTakes
  if own.isEmpty then (firstFrom d.cmpTakes 1 48 32).toList else own

/-- R215, R222: instance `i` decodes the slot of a read and delivers its line. -/
def decodeOn (d : Dev) (r : Req) (i : Nat) : Dev :=
  let d1 := ((d.setCmpBusy i 6).cmpCount i F.CMP_DEC_CNT_COUNT 1).tally (Pg.cmp i) 0x0102 1
  match decodeSlot r.snap with
  | none =>
    ((d1.addSat (Pg.cmp i) F.CMP_FMT_CNT_COUNT 1).raise (Src.cmpFormat i) (blockBase r.dpa) (d.entry (dpaSkein r.dpa)).owner 1).answerRead
      r allOnes true
  | some w =>
    d1.answerRead r (BitVec.ofNat 512 (ofBytes (((blockBytes w).drop (r.dpa % 256 / 64 * 64)).take 64))) false

/-- R221: a decrypted slot of a read goes to a decompressor, waits for one, or is answered with poison where none is enabled. -/
def toDecoder (d : Dev) (r : Req) : Dev :=
  match d.inlineChoice (r.sub / 2) with
  | [] => (d.raise Src.noInline (blockBase r.dpa) (d.entry (dpaSkein r.dpa)).owner 1).answerRead r allOnes true
  | is =>
    match is.find? (fun i => d.cmpBusy i == 0) with
    | some i => d.decodeOn r i
    | none => d.stageReq r .decode

/-! ### Entry into the channel -/

/-- What the line or slot of a request holds as it enters the channel (R147): bytes, poison, and whether its generation is the expected one. -/
def snapshot (d : Dev) (r : Req) : Req :=
  let tier := if r.ratio = 0 then 0 else 1
  let knit := if r.ratio = 0 then r.dpa / 64 * 64 else blockBase r.dpa
  let m := d.side r.dra
  let n := if r.ratio = 0 then 64 else slotSize r.ratio
  { r with snap := d.readBytes (if r.ratio = 0 then r.dra / 64 * 64 else r.dra) n,
           snapPoison := m.poison || (r.ratio == 1 && (d.side (r.dra + 64)).poison),
           snapGood := d.unwritten r.dra || m.gen % 2 == d.expGen tier knit % 2 }

/-- R148, R250, R193: a write to a Packed block that cannot be rewritten parks while its page is unpacked. -/
def packedNoFit (d : Dev) (r : Req) : Dev :=
  (d.putReq { r with stage := .parked .noFit, snap := [], inst := none, outside := true }).noFit (dpaSkein r.dpa) (dpaPage r.dpa)

/-- A slot read for a rewrite: the block is merged and encoded at a compressor, or parks where the slot is poisoned, malformed, or the
write is (R148, R250). -/
def slotForRewrite (d : Dev) (r : Req) : Dev :=
  if r.snapPoison || r.poison || (decodeSlot r.snap).isNone then d.packedNoFit r else d.toEncoder r

/-- The owner of the skein of a request. -/
def ownerOf (d : Dev) (r : Req) : Nat := (d.entry (dpaSkein r.dpa)).owner

/-- R249: a partial write meets a line that carries poison or cannot be verified: no merge, the line is poisoned. -/
def partialFailed (d : Dev) (r : Req) : Dev :=
  ((d.putOpen r.dra r.dpa true (d.readBytes (r.dra / 64 * 64) 64)).pushWqNew r.sub r.dra).raise (Src.ptlFailed (r.sub / 2))
    (r.dpa / 64 * 64) (d.ownerOf r) 3 |>.answerCmp r

/-- The data of a request's line or slot are at hand and good: a read is answered, a partial write merged, a slot decoded or rewritten. -/
def goodLine (d : Dev) (r : Req) : Dev :=
  if r.ratio = 0 then
    if r.kind.isRead then d.answerRead r (BitVec.ofNat 512 (ofBytes r.snap)) r.snapPoison
    else if r.snapPoison && !r.poison then d.partialFailed r
    else d.lineWrite r (mergeBytes r.snap r.data r.enables) r.poison
  else if r.kind.isRead then
    if r.snapPoison then d.answerRead r allOnes true else d.toDecoder r
  else d.slotForRewrite r

/-- R291: a read that meets a failed rank is raised; a write to it is only discarded. -/
def failedRank (d : Dev) (r : Req) : Dev :=
  if r.kind.isRead then d.raise (Src.rankFailed (r.sub / 2)) r.dpa (d.ownerOf r) r.kind.acc else d

/-- R275: a request with an allowance enters its channel: bank queue, write queue, or an answer without DRAM. -/
def enterChannel (d : Dev) (r0 : Req) : Dev :=
  let c := r0.sub / 2
  let r := d.snapshot { r0 with granted := true, subSn := d.sn }
  if d.domHeld (5 + c) || !d.pageReady (Pg.dc c) then ((d.stageReq r .domain).wakeFor (5 + c))
  else if !(d.enabled (Pg.dc c) && d.flag (Pg.dc c) F.DC_CFG_TRAINED) then d.stageReq r .domain -- R297
  else if d.rankFailed r.sub (d.place r.dra).2 then
    (d.failedRank r).refuse r
  else if d.chHalted c && d.severity (Src.chHalted c) != 5 then d.refuse r
  else if r.kind = .write && r.ratio = 0 then d.lineWrite r (lineBytes r.data) r.poison
  else if r.ratio = 0 && d.unwritten r.dra then
    d.goodLine { r with snap := List.replicate 64 0, snapPoison := false }
  else if r.ratio ≠ 0 && r.poison && r.kind.isWrite then d.packedNoFit r
  else if d.inWq r.sub r.dra then d.goodLine r
  else (d.putReq { r with stage := .queue }).modSub r.sub fun s => { s with queue := s.queue ++ [r.id] }

/-! ### The verdict on a captured line (R243 to R247) -/

inductive Verdict where
  | good | repaired | corrected | uncorrectable | unverifiable | alarm
  deriving DecidableEq, Repr

/-- R247: the bit of a subchannel's rank in CRY_MACDEV_FAIL. -/
def macdevBit (d : Dev) (l dra : Nat) : Nat :=
  8 * (l % 2) + d.physAt l (d.place dra).2

def macdevFailed (d : Dev) (l dra : Nat) : Bool :=
  (d.get Pg.cry (F.CRY_MACDEV_FAIL_RANKS.sh (4 * (l / 2)))).testBit (d.macdevBit l dra)

/-- R247: a tag failure with consistent parity is counted; at the threshold the rank's side-band device is marked failed. -/
def countTagFail (d : Dev) (l dra : Nat) : Dev :=
  let b := d.macdevBit l dra
  let d1 := d.modChan (l / 2) fun c => { c with tagFails := tmod (fun _ => 0) c.tagFails b (· + 1) }
  let thr := d.get Pg.cry F.CRY_MACDEV_THR_COUNT
  if thr ≠ 0 ∧ thr ≤ tget (fun _ => 0) (d1.chan (l / 2)).tagFails b then
    let f := F.CRY_MACDEV_FAIL_RANKS.sh (4 * (l / 2))
    d1.set Pg.cry f (setBit (d1.get Pg.cry f) b)
  else d1

/-- R243, R246: the verdict on a line at `dra` of subchannel `l` from what its capture met; `genOk`: it is stored under the expected
generation. -/
def verdict (d : Dev) (l dra : Nat) (genOk : Bool) (f : LineFault) : Verdict × Dev :=
  let good := f.tagOk && genOk
  if !f.parityOk then
    (if good then .repaired else if f.candidates = 1 ∧ genOk then .corrected else .uncorrectable, d)
  else if good then (.good, d)
  else
    let d1 := d.countTagFail l dra
    (if d1.macdevFailed l dra && d1.flag Pg.cry F.CRY_CFG_MACDEV_POLICY then .unverifiable else .alarm, d1)

/-- R246, R248, R289: the source and the count that a verdict brings, with the capture of R263; nothing while the channel is halted. -/
def verdictEvent (d : Dev) (c : Nat) (v : Verdict) (addr owner acc : Nat) : Dev :=
  if d.chHalted c then d
  else match v with
    | .repaired => (d.addSat (Pg.dc c) F.DC_CE_CNT_COUNT 1).raise (Src.parityRepaired c) addr owner acc
    | .corrected => (d.addSat (Pg.dc c) F.DC_CE_CNT_COUNT 1).raise (Src.erasureCorr c) addr owner acc
    | .uncorrectable => (d.addSat (Pg.dc c) F.DC_UE_CNT_COUNT 1).raise (Src.uncorrLine c) addr owner acc
    | .unverifiable => d.raise (Src.macUnverifiable c) addr owner acc
    | .good | .alarm => d

/-- R245, R246: the stored line or slot of a request is rewritten with its poison bit set. -/
def poisonStored (d : Dev) (r : Req) : Dev :=
  if r.ratio = 0 then (d.putOpen r.dra r.dpa true (d.readBytes (r.dra / 64 * 64) 64)).pushWqNew r.sub r.dra
  else (d.putSlot r.dra (blockBase r.dpa) true (d.readBytes r.dra (slotSize r.ratio))).pushSlot r.sub r.dra r.ratio

/-- R245: the late alarm of a request's line; `also` is the LD that received its data. -/
def lateAlarm (d : Dev) (r : Req) (also : Option Nat) : Dev :=
  let src := Src.macLate (r.sub / 2)
  let d1 := d.poisonStored r
  if d1.chHalted (r.sub / 2) then d1
  else (d1.raise src (r.dpa / 64 * 64) (d.ownerOf r) r.kind.acc).alarmViral src (d.ownerOf r) also

/-- R541: an uncorrectable line of a mirror-live room of a Paired pair is asked from the peer. -/
def askRepair (d : Dev) (r : Req) : Dev :=
  { d.stageReq { r with outside := true } .repair with
    twin := { d.twin with repairs := d.twin.repairs ++ [(r.id, r.dpa / 64 * 64, d.sn, false)] } }

/-- What an uncorrectable line comes to (R246, R249, R250). -/
def uncorrectable (d : Dev) (r : Req) : Dev :=
  let d1 := (d.verdictEvent (r.sub / 2) .uncorrectable (r.dpa / 64 * 64) (d.ownerOf r) r.kind.acc)
  if r.kind.isRead then (d1.poisonStored r).answerRead r allOnes true
  else if r.ratio = 0 then d1.partialFailed r else (d1.poisonStored r).packedNoFit r

/-- R243: the captured line of a request. -/
def captured (d : Dev) (r : Req) (f : LineFault) : Dev :=
  let (v, d0) := d.verdict r.sub r.dra r.snapGood f
  let ev := fun (d : Dev) => d.verdictEvent (r.sub / 2) v (r.dpa / 64 * 64) (d.ownerOf r) r.kind.acc
  match v with
  | .good => d0.goodLine r
  | .repaired | .corrected => ((ev d0).pushWqNew r.sub r.dra).goodLine r
  | .unverifiable => (ev d0).goodLine r
  | .uncorrectable =>
    if d0.mirrorLive (r.dpa >>> 30) && d0.twnState == 3 then d0.askRepair r else d0.uncorrectable r
  | .alarm =>
    if r.kind.isRead then
      if d0.flag Pg.cry F.CRY_CFG_HOLD then (d0.lateAlarm r none).answerRead r allOnes true
      else (d0.draw.sendData r (Config.freeLine d0.fresh) false).stageReq r .late
    else if r.ratio = 0 then d0.partialFailed r else (d0.poisonStored r).packedNoFit r

/-! ### A rewritten block (R148, R218, R219) -/

/-- R218, R219: a failed check of instance `i`: counted, raised, kept for the dispatch (R232), and the compressor stopped if CHK_STOP is 1. -/
def checkFailed (d : Dev) (i header target addr owner acc : Nat) : Dev :=
  let d1 := ((d.addSat (Pg.cmp i) F.CMP_CHK_CNT_COUNT 1).raise (Src.cmpMismatch i) addr owner acc).modMem fun m =>
    { m with cmp := { m.cmp with chk := tput (fun _ => (0, 0, 0, 0)) m.cmp.chk i (header, target, addr, d.sn) } }
  if d1.flag (Pg.cmp i) F.CMP_CFG_CHK_STOP then
    (d1.setFlag (Pg.cmp i) F.PG_CTL_ENABLE false).raise (Src.cmpStopped i) addr owner acc
  else d1

/-- R213: an attempt at a target is counted (CMP_ENC_CNT, CMP_NOFIT_CNT). -/
def countEncode (d : Dev) (i : Nat) (fit : Bool) : Dev :=
  let d1 := d.tally (Pg.cmp i) 0x0100 1
  if fit then d1.cmpCount i F.CMP_ENC_CNT_COUNT 1 else (d1.cmpCount i F.CMP_NOFIT_CNT_COUNT 1).tally (Pg.cmp i) 0x0101 1

/-- R148: the block of a write merged with what its slot holds: its words and the line written; `none` for a malformed slot. -/
def mergedBlock (d : Dev) (r : Req) : Option (List Nat × List Nat) :=
  match decodeSlot (d.readBytes r.dra (slotSize r.ratio)) with
  | none => none
  | some w =>
    let old := blockBytes w
    let k := r.dpa % 256 / 64 * 64
    let en := if r.kind = .write then BitVec.allOnes 64 else r.enables
    let line := mergeBytes ((old.drop k).take 64) r.data en
    some (blockWords (old.take k ++ line ++ old.drop (k + 64)), line)

/-- R148, R278: an encoded slot reaches its point of visibility, or waits for the write queue. -/
def putRewritten (d : Dev) (r : Req) (slot line : List Nat) : Dev :=
  if d.wqFull r.sub r.dra then d.putReq { r with stage := .wqWait, inst := none }
  else
    ((d.putSlot r.dra (blockBase r.dpa) false slot).pushSlot r.sub r.dra r.ratio).writeVisible { r with inst := none }
      (BitVec.ofNat 512 (ofBytes line)) false

/-- R148, R218: a compressor has finished the block of a write: the slot reaches its point of visibility, or the block no longer fits. -/
def rewriteDone (d : Dev) (r : Req) (i : Nat) (checkOk : Bool) : Dev :=
  match d.mergedBlock r with
  | none => d.packedNoFit r
  | some (words, line) =>
    match encodeSlot (slotSize r.ratio) words with
    | none => (d.countEncode i false).packedNoFit r
    | some s =>
      let d1 := d.countEncode i true
      if !checkOk then
        (d1.checkFailed i (s.headD 0) (if r.ratio = 2 then 1 else 0) (blockBase r.dpa) (d.ownerOf r) r.kind.acc).packedNoFit r
      else d1.putRewritten r s line

/-- R278: a write that waited for the write queue, or for a fill slot (R200), goes on. -/
def retryWrite (d : Dev) (r : Req) : Dev :=
  if r.ratio ≠ 0 then
    match d.mergedBlock r with
    | none => d.packedNoFit r
    | some (words, line) => match encodeSlot (slotSize r.ratio) words with
      | none => d.packedNoFit r
      | some s => d.putRewritten r s line
  else if r.kind = .write then d.lineWrite r (lineBytes r.data) r.poison
  else d.lineWrite r (mergeBytes r.snap r.data r.enables) r.poison

end Dev

end Sys2Proof.Machine
end

