-- ==== Sys2Proof/Machine/Flow.lean ====
section
/-! DEFINITION. The flow of a CXL.mem request (chapters 3 to 6): HDM decode (R88), segments (R110, R111), the checks of R112, the Pattern lookup
(R128), the coherence step (R161 to R164), the choice of flow (R142), thin provisioning (R130), promotion on touch (R191), parking (R151 to
R153), and the gate (R313). -/

namespace Sys2Proof.Machine

/-- Where the line of a request is reached (R142, R158). -/
inductive Place where
  /-- Reads zeros, and a write needs storage: a skein, or a page of a Split skein. -/
  | noStore (page : Bool)
  /-- A zero-pending skein that holds storage (R202). -/
  | voidStore
  | dram (dra ratio : Nat)
  | larder (cart extent slot : Nat)
  /-- A write to a page in its copy phase. -/
  | copying
  | invalid
  deriving DecidableEq, Repr

namespace Dev

/-! ### HDM decoders and segments -/

/-- R88: the decoder that holds a host address and the offset it gives, with the LD space of the lower decoders below it. -/
def hdmFind (addr : Nat) : Nat → List (Nat × HdmDecoder) → Option (Nat × Bool)
  | _, [] => none
  | base, (_, x) :: rest =>
    let w := max 1 x.ways
    let g := max 1 x.gran
    let start := base + x.skip
    let o := addr - x.base
    if x.base ≤ addr ∧ addr < x.base + x.size ∧ (o / g) % w = x.pos then some (start + o / (g * w) * g + o % g, x.bi)
    else hdmFind addr (start + x.size / w) rest

/-- R88: the offset of a host address in its LD's space, and whether its decoder is HDM-DB. -/
def hdmDecode (d : Dev) (ld addr : Nat) : Option (Nat × Bool) :=
  hdmFind addr 0 (sortBy (fun x => [x.1]) (d.ld ld).decoders)

/-- R110, R111: the DRN of an LD room: the first enabled segment that holds it. -/
def segment (d : Dev) (ld lri : Nat) : Option Nat :=
  let p := Pg.ldm ld
  (List.range 4).findSome? fun k =>
    let first := d.get p (F.LDM_SEG_A_LD_ROOM.sh (16 * k))
    if d.flag p (F.LDM_SEG_A_EN.sh (16 * k)) && decide (first ≤ lri ∧ lri < first + d.get p (F.LDM_SEG_A_ROOMS.sh (16 * k))) then
      some (d.get p (F.LDM_SEG_B_DRN_BASE.sh (16 * k)) + (lri - first))
    else none

/-- R140, R266: the Pattern serves lookups. -/
def patServes (d : Dev) : Bool := d.flag Pg.pat F.PAT_CFG_TBL_VALID && d.flag Pg.cry F.CRY_STS_KEYS_READY

/-- R112 steps 1 and 2: the DPA of an LD offset, `none` for an unmapped access. -/
def translate (d : Dev) (ld off : Nat) : Option Nat :=
  match d.segment ld (off >>> 30) with
  | none => none
  | some drn => if d.patServes && decide (drn < d.winRooms) then some (drn * 2 ^ 30 + off % 2 ^ 30) else none

/-! ### Parking (R151 to R153) -/

def Parked (r : Req) : Bool := match r.stage with | .parked _ => true | _ => false

/-- R151: a park entry is free for a request. -/
def parkRoom (d : Dev) (ld cls : Nat) : Bool :=
  let ps := d.mem.reqs.filter Parked
  let hearth := fun n => (ps.filter (fun r => r.cls == 0 && r.ld == n)).length
  let shared := (ps.filter (fun r => r.cls != 0)).length + (List.range 64).foldl (fun t n => t + (hearth n - 16)) 0
  (cls == 0 && decide (hearth ld < 16)) || decide (shared < 15360)

/-- R129, R151 to R153: park a request; without a free entry it waits at the head of its LD's ingress queue. -/
def park (d : Dev) (r : Req) (c : ParkCause) : Dev :=
  if d.parkRoom r.ld r.cls then
    let s := dpaSkein r.dpa
    let others := d.mem.reqs.any (fun x => x.locking && dpaSkein x.dpa == s)
    let lock := (d.cached s).isSome && (others || decide (d.lockCount (patSet s) < 10))
    (d.putReq { r with stage := .parked c, locking := lock, outside := true }).tally (Pg.ldm r.ld) 0x0103 1
  else (d.stageReq { r with outside := true, wait := 2 ^ 64 } .ingress).raiseOnce Src.parkExhausted r.dpa r.ld r.kind.acc

/-! ### The directory (R161 to R164) -/

def dirWay (d : Dev) (line : Nat) : Option DirWay := d.mem.pat.dir.find? (fun w => w.line == line)
def dirSetWays (d : Dev) (line : Nat) : List DirWay := d.mem.pat.dir.filter (fun w => dirSet w.line == dirSet line)
def snoopOf (d : Dev) (line : Nat) : Option Snoop := d.mem.pat.snoops.find? (fun s => s.line == line)

/-- Write a directory entry as the most recently used way; an entry with no holder is removed. -/
def setDir (d : Dev) (line : Nat) (excl : Bool) (holders : Nat) : Dev :=
  d.modPat fun p =>
    let rest := p.dir.filter (fun w => w.line != line)
    { p with dir := if holders = 0 then rest else ⟨line, excl, holders⟩ :: rest }

/-- R162: issue snoops of a line to a set of holders: kind 0 BISnpCur, 1 BISnpData, 2 BISnpInv. -/
def issueSnoop (d : Dev) (line holders kind req : Nat) (evict : Bool) : Dev :=
  let d1 := d.modPat fun p => { p with snoops := p.snoops ++ [⟨line, holders, d.sn, kind == 2, evict, req⟩] }
  (bitList 64 holders).foldl (fun d n => d.emit (.biSnp n line kind)) d1

/-- R164: the way that gives room for a line: none needed, a victim to evict, or all locked. -/
def dirVictim (d : Dev) (line : Nat) : Option (Option DirWay) :=
  if (d.dirWay line).isSome ∨ (d.dirSetWays line).length < 16 then some none
  else
    let ws := ((d.dirSetWays line).filter (fun w => (d.snoopOf w.line).isNone)).reverse
    match ws.find? (fun w => !w.excl) with
    | some w => some (some w)
    | none => match ws.head? with
      | some w => some (some w)
      | none => none

/-- R162, R542: the state that a request leaves its line in, and the snoops it needs first: kind and holders. -/
def dirNext (d : Dev) (r : Req) : (Bool × Nat) × Nat × Nat :=
  let x := 1 <<< r.ld
  let (excl, hs) := match d.dirWay (r.dpa / 64) with | some w => (w.excl, w.holders) | none => (false, 0)
  let others := hs - (hs &&& x)
  let own := fun (m : MetaValue) => match m with | .any => (true, x) | .shared => (false, x) | .invalid => (false, 0)
  let mv := if r.kind.isRead && r.metaVal == .any && d.mirrorLive (r.dpa >>> 30) then MetaValue.shared else r.metaVal
  match r.kind with
  | .clnEvct => ((excl, others), 0, 0)
  | .inv | .write | .partWrite => (own mv, 2, others)
  | _ =>
    match mv with
    | .invalid => ((excl, hs), 0, if excl then others else 0)
    | .shared =>
      if excl then (if others = 0 then ((false, x), 0, 0) else ((false, hs ||| x), 1, others)) else ((false, hs ||| x), 0, 0)
    | .any => ((true, x), 2, others)

/-- R162 to R164: the coherence step of a request to a shared room: it waits for a snoop of its line, issues its own, makes room in the
directory, or goes on with the state of the line changed (`done`). -/
def coherence (d : Dev) (r : Req) : Dev × Bool :=
  let line := r.dpa / 64
  let hold := fun (d : Dev) => (d.putReq { r with stage := .snoop, outside := true }, false)
  if (d.snoopOf line).isSome then hold d
  else
    let ((excl, hs), kind, targets) := d.dirNext r
    if !r.snooped && targets != 0 then hold (d.issueSnoop line targets kind r.id false)
    else if hs = 0 then (d.setDir line excl hs, true)
    else
      match d.dirVictim line with
      | none => hold d
      | some (some v) => hold (d.issueSnoop v.line v.holders 2 r.id true)
      | some none => (d.setDir line excl hs, true)

/-! ### Choice of flow (R142, R158) -/

/-- The DRAM line or slot of a DPA in a page. -/
def lineIn (p : PageLoc) (dpa : Nat) : Place :=
  if p.st = St.isOpen then .dram (p.dra + dpa % 4096 / 64 * 64) 0
  else if p.st = St.packed then .dram (p.dra + slotSize p.ratio * (dpa % 4096 / 256)) p.ratio
  else if p.st = St.larder then .larder p.cart p.extent p.slot
  else .noStore true

/-- A page of a Split end. -/
def placePage (d : Dev) (s map dpa : Nat) (w : Bool) : Place :=
  let pe := d.pageEntry map (dpaPage dpa)
  if !pe.valid d.installed then .invalid
  else if pe.state = St.motion && w && d.migs.any (fun m => m.skein == s && m.page == some (dpaPage dpa) && m.copying) then .copying
  else lineIn pe.place dpa

/-- A page at a whole or Split end of a skein. -/
def placeEnd (d : Dev) (s st ratio loc dpa : Nat) (w : Bool) : Place :=
  if st = St.split then d.placePage s (locFrame loc) dpa w else lineIn (d.pageAt st ratio loc (dpaPage dpa)) dpa

/-- R142, R158: where a request to a DPA finds its line. -/
def locate (d : Dev) (dpa : Nat) (w : Bool) : Place :=
  let s := dpaSkein dpa
  let e := d.entry s
  if e.state = St.zero then (if e.locValid then .voidStore else .noStore false)
  else if e.state = St.motion then
    let n := dpaPage dpa
    if n < e.progress then d.placeEnd s e.dstState e.dstRatio e.dstLoc dpa w
    else if n = e.progress && w && d.migs.any (fun m => m.skein == s && m.page.isNone && m.copying) then .copying
    else d.placeEnd s e.srcState e.ratio e.loc dpa w
  else d.placeEnd s e.state e.ratio e.loc dpa w

/-- R176, R177: a request that passed R112 adds heat to its skein, and one in 2^PG_SAMPLE to its page. -/
def addHeat (d : Dev) (s page : Nat) : Dev :=
  let e := d.entry s
  let inc := d.get Pg.tir F.TIR_HEAT_CFG_INC
  let d1 := d.putEntry s { e with heat := min 255 (e.heat + inc) }
  if e.state ≠ St.split then d1
  else
    match d1.cached s with
    | none => d1
    | some w =>
      let n := 2 ^ d.get Pg.tir F.TIR_HEAT_CFG_PG_SAMPLE
      let c := (w.sample + 1) % n
      let d2 := d1.modPat fun p => { p with cache := p.cache.map (fun x => if x.skein = s then { x with sample := c } else x) }
      if c = 0 then
        let pe := d2.pageEntry (locFrame e.loc) page
        d2.setPageEntry (locFrame e.loc) page { pe with heat := min 255 (pe.heat + inc) }
      else d2

/-! ### The gate -/

/-- R313, R314: a request meets the gate of its subchannel: it passes, waits there, or finds no gate entry and waits at ingress. -/
def toGate (d : Dev) (r : Req) (dra ratio : Nat) : Dev :=
  let r := { r with dra := dra, ratio := ratio, sub := (d.place dra).1 }
  let d1 := d.putReq r
  if r.granted then d1.enterChannel r
  else
    let ahead := d1.mem.reqs.any (fun x => decide (x.stage = .gate) && x.sub == r.sub && d1.effClass x.ld x.cls == d1.effClass r.ld r.cls)
    match (if ahead then none else d1.tryPass r) with
    | some d2 => d2.enterChannel { r with granted := true, prio3 := d1.effClass r.ld r.cls == 0 }
    | none =>
      if d1.gateRoom r.ld then (d1.stageReq r .gate).tally Pg.gau 0x0100 1
      else d1.stageReq { r with outside := true, wait := 0 } .ingress

/-! ### Promotion on touch (R191, R192) -/

def fetches (d : Dev) : List Fetch := d.mem.tier.fetches
def findFetch (d : Dev) (cart extent slot : Nat) : Option Fetch :=
  d.fetches.find? (fun f => f.cart == cart && f.extent == extent && f.slot == slot && !f.knit)
def putFetch (d : Dev) (f : Fetch) : Dev := d.modTier fun t => { t with fetches := t.fetches.map (fun x => if x.id = f.id then f else x) }

/-- R192: 1024 fetch buffers. -/
def bufferFree (d : Dev) : Bool := decide ((d.fetches.filter (·.buffered)).length < 1024)

/-- R191, R415: the read of a slot is asked of the cartridge; it is sent when its port allows (R394). -/
def issueFetch (d : Dev) (f : Fetch) : Dev :=
  ((d.putFetch { f with buffered := true }).modCart f.cart fun c =>
    { c with txns := c.txns ++ [{ tag := 0, op := 1, extent := f.extent, slot := f.slot, fetch := f.id, sn := d.sn }] }).tally Pg.tir 0x0104 1

/-- R191, R192: a fetch of a page: its read is issued where a buffer is free, else it waits and "fetch buffer wait" is raised. -/
def newFetch (d : Dev) (f0 : Fetch) : Dev :=
  let f := { f0 with id := d.mem.tier.nextFetch, sn := d.sn }
  let d1 := d.modTier fun t => { t with fetches := t.fetches ++ [f], nextFetch := t.nextFetch + 1 }
  if d.bufferFree then d1.issueFetch f
  else d1.raiseOnce Src.fetchWait (pageDpa f.skein f.page) (d.entry f.skein).owner 7

/-- R306, R307: lines that no subchannel plans (a page of a cartridge, a table line, zeros), charged to the master's use. -/
def chargeUse (d : Dev) (m c n : Nat) : Dev :=
  let k := d.effClass m c
  let d1 := d.modGau fun g => { g with use := tmod (fun _ => 0) g.use (4 * m + k) (· + n) }
  if m < 64 then d1.tally (Pg.ldm m) 0x0102 n else d1

/-- R306, R307, R313: a read of a line without storage passes the gate as far as its pair's ceiling says, and is answered zeros; it has no
subchannel (number 32), and draws on no allowance (DEDUCED). -/
def zeroRead (d : Dev) (r : Req) : Dev :=
  if !d.capped r.ld (d.effClass r.ld r.cls) then (d.chargeUse r.ld r.cls 1).answerRead r 0 false
  else if d.gateRoom r.ld then (d.stageReq { r with sub := 32 } .gate).tally Pg.gau 0x0100 1
  else d.stageReq { r with outside := true, wait := 0 } .ingress

/-- R191 step 2: a read served from a fetch buffer. -/
def serveFetched (d : Dev) (r : Req) (f : Fetch) : Dev :=
  let (x, p) := f.lines.getD (dpaLine r.dpa) (0, true)
  d.answerRead r x p

/-- R191: a request to a Larder page: served from its buffer, or parked with the fetch of the page under way. -/
def touch (d : Dev) (r : Req) (cart extent slot : Nat) : Dev :=
  let s := dpaSkein r.dpa
  match d.findFetch cart extent slot with
  | some f =>
    if f.landed && r.kind.isRead then d.serveFetched r f
    else
      let d1 := if r.kind.isWrite && !f.touchW then d.putFetch { f with touchW := true } else d
      d1.park { r with wait := f.id } .larder
  | none =>
    let id := d.mem.tier.nextFetch
    let d1 := (d.park { r with wait := id } .larder)
    (d1.newFetch { id := 0, cart := cart, extent := extent, slot := slot, skein := s, page := dpaPage r.dpa, sn := 0, cls := r.cls,
                   touchW := r.kind.isWrite }).chargeUse r.ld r.cls 64

/-! ### Thin provisioning (R130) -/

/-- R540: storage that a mirrored write attaches is not checked against quota. -/
def quotaFree (d : Dev) (r : Req) : Bool := d.mirrorLive (r.dpa >>> 30)

/-- R130 step 2: an extent is attached to a skein, or to a page of a Split one. -/
def attachLarder (d : Dev) (r : Req) (page : Bool) : Option (Nat × Nat × Dev) :=
  let s := dpaSkein r.dpa
  let e := d.entry s
  if e.larderOk && !e.pinned && (d.quotaFree r || d.larderQuotaOk e.owner) then
    match d.takeExtent none with
    | some (n, x, d1) =>
      some (n, x,
        if page then
          let pe := d1.pageEntry (locFrame e.loc) (dpaPage r.dpa)
          d1.putPage s (dpaPage r.dpa)
            { pe with state := St.larder, locValid := true, locKind := true, loc := larderPageLoc n x (dpaPage r.dpa) }
        else d1.putEntry s { e with state := St.larder, locValid := true, locKind := true, loc := larderLoc n x })
    | none => none
  else none

/-- R130 step 4: the write is refused for want of quota. -/
def allocRefused (d : Dev) (owner addr master acc : Nat) : Dev :=
  (d.addSat (Pg.ldm owner) F.LDM_REFUSED_COUNT 1).raise Src.allocRefused addr master acc

/-- R130 steps 2 to 4 where DRAM could not be attached. `quotaOk`: the DRAM quota passed. -/
def attachElse (d : Dev) (r : Req) (page : Bool) (quotaOk : Bool) : Dev :=
  match d.attachLarder r page with
  | some (n, x, d2) => d2.touch r n x (dpaPage r.dpa)
  | none =>
    if quotaOk then (d.modTier fun t => { t with pressure := true }).park r .backing
    else (d.allocRefused (d.entry (dpaSkein r.dpa)).owner r.addr r.ld r.kind.acc).discard r

/-- R130 step 1: DRAM for a first write: a skein takes a whole Open run, unwiped (R202); a page takes an Open unit, written in full. The
result says where the line then lies, or that step 1 did not attach. -/
def attachDram (d : Dev) (r : Req) (page : Bool) : Option (Nat × Dev) × Bool :=
  let s := dpaSkein r.dpa
  let e := d.entry s
  let kib := if page then 4 else 2048
  let ok := d.quotaFree r || d.dramQuotaOk e.owner kib
  if !ok then (none, false)
  else if page then
    match d.takeUnits 4 s (dpaPage r.dpa) with
    | none => (none, true)
    | some (dra, d1) =>
      let pe := d1.pageEntry (locFrame e.loc) (dpaPage r.dpa)
      let d2 := (List.range 64).foldl
        (fun d j => d.putOpen (dra + 64 * j) (r.dpa / 4096 * 4096 + 64 * j) false (List.replicate 64 0)) d1
      (some (dra + r.dpa % 4096 / 64 * 64, d2.putPage s (dpaPage r.dpa)
        { pe with state := St.isOpen, locValid := true, locKind := false, loc := dra / 1024, ratio := 0,
                  gen := (d1.expGen 0 (r.dpa / 4096 * 4096)).testBit 0 }), true)
  else
    match d.freeRun 4 with
    | none => (none, true)
    | some f =>
      (some (f * 2 ^ 19 + dpaOff r.dpa / 64 * 64, (d.takeWhole f 4 s false).putEntry s
        { e with state := St.isOpen, locValid := true, locKind := false, loc := f, ratio := 0, gen := (d.expGen 0 (s * 2 ^ 21)).testBit 0 }), true)

/-- R202: a zero-pending skein that holds storage becomes Open at the same frame. -/
def openVoid (d : Dev) (s : Nat) : Dev :=
  let e := d.entry s
  d.putEntry s { e with state := St.isOpen, ratio := 0, gen := (d.expGen 0 (s * 2 ^ 21)).testBit 0 }

/-! ### The flow proper -/

/-- R149, R148, R251: an earlier request that a request must not pass: of its own LD to the same line before the point of visibility (at the
gate the two keep their order anyway where class and deadline say so, R313), or one that is rewriting its block. -/
def blocks (x r : Req) : Bool :=
  decide (x.id < r.id) &&
    ((x.dpa / 64 == r.dpa / 64 && x.ld == r.ld && x.checked &&
        (match x.stage with
          | .late | .decode | .lost => false
          | .gate => x.cls != r.cls || decide (r.deadline < x.deadline)
          | .queue | .issued => x.kind.isWrite
          | _ => true)) ||
     (x.dpa / 256 == r.dpa / 256 && x.kind.isWrite &&
        (match x.stage with | .queue | .issued | .encode | .fillWait | .wqWait | .mirror => true | _ => false)))

def blocked (d : Dev) (r : Req) : Bool := d.mem.reqs.any (fun x => blocks x r)

/-- R158, R152: is the room of the request leaving service. -/
def leaving (d : Dev) (r : Req) : Bool := d.mem.pat.roomLeaving == some (r.dpa >>> 30)

/-- R142: the flow of the state that the request finds. -/
def flow (d : Dev) (r : Req) : Dev :=
  let s := dpaSkein r.dpa
  let w := r.kind.isWrite
  let drn := r.dpa >>> 30
  match r.kind with
  | .inv | .clnEvct => d.answerCmp r
  | .specRead => d.dropReq r.id
  | _ =>
    if d.leaving r then d.park r .leaving
    else if d.fencedRoom drn then (d.raiseOnce Src.twinFenced r.dpa r.ld r.kind.acc).refuse r
    else if w && d.mirrorLive drn && d.twinHolds then d.park r .twin
    else if w && d.mirrorLive drn && (d.twnState == 2 || d.twnState == 3) && !d.flag Pg.twn F.TWN_STS_OWNER then
      (d.mirrorOut { mid := 0, req := r.id, dpa := r.dpa / 64 * 64, data := r.data, poison := r.poison, cls := r.cls,
                     enables := if r.kind = .write then BitVec.allOnes 64 else r.enables }).stageReq r .mirror
    else
      match d.locate r.dpa w with
      | .invalid => (d.raise Src.patInvalid r.addr r.ld r.kind.acc).refuse r
      | .copying => d.park r .copy
      | .larder c x n => if d.blocked r && !Parked r then d.stageReq r .order else d.touch r c x n
      | p =>
        if d.blocked r then d.stageReq r .order
        else
          match p with
          | .dram dra ratio => d.toGate r dra ratio
          | .noStore page =>
            if !w then d.zeroRead r
            else
              match d.attachDram r page with
              | (some (dra, d1), _) => d1.toGate r dra 0
              | (none, ok) => d.attachElse r page ok
          | .voidStore =>
            let e := d.entry s
            if !w then d.zeroRead r
            else (d.openVoid s).toGate r (locFrame e.loc * 2 ^ 19 + dpaOff r.dpa / 64 * 64) 0
          | _ => d

/-- R166, R162: the coherence step where the room is shared, then the flow. -/
def coherentFlow (d : Dev) (r : Req) : Dev :=
  if (d.entry (dpaSkein r.dpa)).shared && r.kind != .specRead then
    match d.coherence r with
    | (d1, true) => d1.flow { r with snooped := true }
    | (d1, false) => d1
  else d.flow r

/-- R302: the class target in stitches. -/
def classTarget (d : Dev) (c : Nat) : Nat :=
  match c with
  | 0 => max 1 (d.get Pg.gau F.GAU_CLASS_TGT_T0) | 1 => d.get Pg.gau F.GAU_CLASS_TGT_T1
  | 2 => d.get Pg.gau F.GAU_CLASS_TGT_T2 | _ => d.get Pg.gau F.GAU_CLASS_TGT_T3

/-- R112: a failed check, with the host address and the LD captured. -/
def failCheck (d : Dev) (r : Req) (src : Nat) : Dev := (d.raise src r.addr r.ld r.kind.acc).refuse r

/-- R112 steps 3 to 7, then R113, R170 and R176, for a request whose lookup saw its entry. -/
def afterLookup (d : Dev) (r : Req) (bi : Bool) : Dev :=
  let s := dpaSkein r.dpa
  let e := d.entry s
  let grp := (d.get (Pg.ldm r.ld) F.LDM_SHARE_GRPS_GRPS).testBit e.shareGrp
  if r.kind = .specRead then d.dropReq r.id
  else if d.leaving r then d.park r .leaving
  else if e.state = St.unbacked && !d.mem.pat.bad.contains s then d.failCheck r Src.unmappedHdm
  else if !(e.owner == r.ld || (e.shared && grp)) then
    (d.addSat (Pg.ldm r.ld) F.LDM_DENIED_COUNT 1).failCheck r Src.roomDenied
  else if e.dc && !e.dcAcc then d.failCheck r Src.unmappedHdm
  else if !d.skeinValid s then d.failCheck r Src.patInvalid
  else if e.shared && !bi then d.failCheck r (Src.hpSharedHdmH r.port)
  else
    let r1 := { r with cls := e.cls, deadline := r.sn + d.classTarget e.cls, checked := true }
    let d1 := (d.putReq r1).tally (Pg.ldm r.ld) (if r.kind.isWrite then 0x0101 else 0x0100) 1
    if d1.isViral r.ld then d1.refuse r1
    else (d1.addHeat s (dpaPage r.dpa)).coherentFlow r1

/-- R128, R318: a miss finds an entry. -/
def missRoom (d : Dev) (cls : Nat) : Bool :=
  let n := d.mem.pat.misses.length
  decide (n < (if cls = 0 then 256 else 256 - min 128 (d.get Pg.gau F.GAU_CFG_HMISS)))

/-- R126, R128: the Pattern lookup of a request: it goes on with the entry, waits for its table line, or waits at ingress for a miss entry. The
class of a miss is that of the entry in the table (DEDUCED: the label is fixed only at the checks). -/
def lookup (d : Dev) (r : Req) (bi : Bool) : Dev :=
  let s := dpaSkein r.dpa
  let d1 := d.tally Pg.pat 0x0100 1
  if d.mem.pat.misses.any (fun m => m.1 == s) then (d1.tally Pg.pat 0x0102 1).stageReq r .miss
  else if (d.cached s).isSome then ((d1.tally Pg.pat 0x0101 1).touchWay s).afterLookup r bi
  else
    let cls := (d.tableEntry s).cls
    let d2 := d1.tally Pg.pat 0x0102 1
    if d.missRoom cls then
      ((d2.modPat fun p => { p with misses := p.misses ++ [(s, cls)] }).stageReq r .miss).chargeUse r.ld cls 1
    else (d2.stageReq { r with outside := true, wait := 0 } .ingress).tally Pg.pat 0x0103 1

/-- R90, R112, R472: a request is taken from its LD's ingress queue: the Frog of its LD, decode, translation, lookup. -/
def enter (d : Dev) (r : Req) : Dev :=
  if d.host.frogged.testBit r.ld then d.refuse r
  else if d.domHeld 2 || !d.pageReady Pg.pat then (d.stageReq { r with subSn := d.sn } .domain).wakeFor 2
  else
    match d.hdmDecode r.ld r.addr with
    | none => d.failCheck r Src.unmappedHdm
    | some (off, bi) =>
      match d.translate r.ld off with
      | none => d.failCheck r Src.unmappedHdm
      | some dpa => (d.putReq { r with dpa := dpa }).lookup { r with dpa := dpa } bi

/-- R127, R157: a request resumes: before its checks it enters anew; after them its entry is looked up again. -/
def resume (d : Dev) (r : Req) : Dev :=
  if !r.checked then d.enter r
  else
    let s := dpaSkein r.dpa
    let r1 := { r with locking := false }
    if (d.cached s).isSome then (d.putReq r1).coherentFlow r1
    else if d.mem.pat.misses.any (fun m => m.1 == s) then d.stageReq r1 .miss
    else (d.modPat fun p => { p with misses := p.misses ++ [(s, r.cls)] }).stageReq r1 .miss

/-- R149: requests that waited for an earlier one of their line, or for a snoop that has ended, go on, in order of acceptance. -/
def kick (d : Dev) : Dev :=
  (d.mem.reqs.map (·.id)).foldl
    (fun d id => match d.findReq id with
      | none => d
      | some r =>
        match r.stage with
        | .order => if d.blocked r then d else d.resume r
        | .snoop =>
          if (d.snoopOf (r.dpa / 64)).isSome || d.mem.pat.snoops.any (fun s => s.req == id) then d else d.coherentFlow r
        | _ => d) d

/-- R87, R141, R150: a request is accepted at its port: behind the waiting requests of its LD, held by a live activation (R97), or entered. -/
def accept (d : Dev) (r0 : Req) : Dev :=
  let held := d.mem.reqs.any (fun x => x.ld == r0.ld && decide (x.stage = .ingress))
  let r := { r0 with id := d.mem.nextReq, sn := d.sn, phase := (Config.cycle d.fresh).toNat, stage := .ingress }
  let d1 := (d.draw.modMem fun m => { m with reqs := m.reqs ++ [r], nextReq := m.nextReq + 1 })
  let d2 := if r.kind.isRead then d1.hpTally r 0 1 else if r.kind.isWrite then (d1.hpTally r 1 1).hpLines r.port r.half true 1 else d1
  if held then d2
  else if d.flag Pg.str F.STR_ACT_CTL_PAUSED then d2.stageReq { r with outside := true } (.parked .activation)
  else d2.enter r

end Dev

end Sys2Proof.Machine
end

