-- ==== Sys2Proof/Machine/Operands.lean ====
section
/-! DEFINITION. Operand forms of the register commands: who may reach which page and register (R58 to R61 and each page's access rules),
what happens to an access that is denied, malformed, early or to a sleeping domain (R52 to R57), and how a selection register names the
entry a banked register acts on. -/

namespace Sys2Proof.Machine

/-- R260: the master ID of an agent. -/
def agentMaster : Agent → Nat
  | .ld n => n
  | .core n => 0x80 + n
  | .debug => 0x84
  | .strongroom => 0x85

/-- R459: the access type of a register access. -/
def agentAcc : Agent → Nat
  | .debug => 13
  | _ => 10

namespace Dev

/-- R529: DBG_STS.ATTACHED: a debugger drives the port from its first access on (DEDUCED). -/
def portUsed (d : Dev) (a : Agent) : Dev :=
  match a with
  | .debug => d.setFlag Pg.dbg F.DBG_STS_ATTACHED true
  | _ => d

/-- The mode and owner of a page in its access table entry in force (R59). -/
def pageMode (d : Dev) (p : Nat) : Nat := d.get (Bk.acc p) F.GEN_ACC_MODE
def pageOwner (d : Dev) (p : Nat) : Nat := d.get (Bk.acc p) F.GEN_ACC_OWNER

/-- R522: the debug level granted. -/
def debugLevel (d : Dev) : Nat := d.get Pg.dbg F.DBG_STS_LEVEL

/-- R58, R59, R522: an agent may read a page. -/
def mayRead (d : Dev) (a : Agent) (p : Nat) : Bool :=
  match a with
  | .core _ | .strongroom => true
  | .debug => decide (1 ≤ d.debugLevel) || p == Pg.dbg
  | .ld n =>
    d.isMgmt n ||
      match d.pageMode p with
      | 1 | 2 => decide (d.pageOwner p = n)
      | _ => false

/-- R522: the DBG registers that the debug port may write at every level. -/
def debugOwn (off : Nat) : Bool :=
  off == 0x118 || (0x140 ≤ off && off < 0x14C) || (0x200 ≤ off && off < 0x280) || (0x400 ≤ off && off < 0x4E4)

/-- R58, R59, R522: an agent may write a page. -/
def mayWritePage (d : Dev) (a : Agent) (p off : Nat) : Bool :=
  match a with
  | .core _ | .strongroom => true
  | .debug => (p == Pg.dbg && debugOwn off) || (decide (4 ≤ d.debugLevel) && p != Pg.str)
  | .ld n =>
    match d.pageMode p with
    | 3 => false
    | 1 => d.isMgmt n || decide (d.pageOwner p = n)
    | _ => d.isMgmt n

/-- The writers a register has beyond its page's mode (the access rules of each chapter): 0 any, 1 firmware and management LDs, 2
firmware, 3 the Strongroom. The header registers of a page follow its mode alone. A debug port at level 4 writes every page but STR
(R522). -/
def mayWriteReg (d : Dev) (a : Agent) (who : Nat) : Bool :=
  match who, a with
  | 0, _ => true
  | 1, .ld n => d.isMgmt n
  | 2, .ld _ => false
  | 3, .strongroom => true
  | 3, _ => false
  | _, _ => true

/-- Who may write the register at an offset of a page. -/
def whoOf (p off : Nat) : Nat :=
  match pageKind p with
  | none => 0
  | some k => match findRow k off with | none => 0 | some r => r.who

/-- R61, R522: an access that is denied: "BAR2 access denied", or for the debug port "debug register access denied". -/
def deny (d : Dev) (a : Agent) (off : Nat) : Dev :=
  match a with
  | .debug => d.raise Src.dbgDenied off 0x84 13
  | _ => d.raise Src.barDenied off (agentMaster a) 10

/-- R56: an access to a page whose domain is off or going off waits, and wakes the domain (R440). -/
def waitDomain (d : Dev) (a : Agent) (off width : Nat) (write : Option Nat) : Dev :=
  let b := d.bar
  ({ d with bar := { b with waits := b.waits ++ [⟨b.nextId, a, off, width, write, d.sn⟩], nextId := b.nextId + 1 } } : Dev).wakeFor
    (if 2 ^ 32 ≤ off then 2 else pageDomain (off / 4096))

/-- A 4-byte write of `v` by an agent to offset `off` of page `p`, with the effect `f` where it takes effect. While the page's domain is off
the write waits (R56), its value marked by 2^128 as one that has an effect of its own. A write to a reserved slot is ignored (R52), a denied one raises (R61), one to a page that is
powered but not ready is dropped (R57). -/
def writeTo (v : Nat) (a : Agent) (p off : Nat) (f : Effect) : Effect := fun d =>
  if (pageKind p).isNone then d
  else
    let d := d.tally p 0x0004 1
    if !(d.mayWritePage a p off && d.mayWriteReg a (whoOf p off)) then d.deny a (4096 * p + off)
    else if d.domHeld (pageDomain p) then d.waitDomain a (4096 * p + off) 4 (some (2 ^ 128 + v))
    else if d.pageReady p then f d
    else d

/-- The register page that a banked register of page `p` at `off` acts on: its selection register names the entry. -/
def bankOf (d : Dev) (p off : Nat) : Nat :=
  match pageKind p with
  | some .stc => Bk.stc (d.get p F.STC_SRC_SEL_INDEX)
  | some .gen => if off = 0x124 then Bk.route (d.get p F.GEN_IRQ_SEL_PAGE) else Bk.acc (d.get p F.GEN_ACC_SEL_PAGE)
  | some .fcu => Bk.fcu (d.get p F.FCU_SEL_INDEX)
  | some .gau =>
    if off < 0x170 then Bk.bud (d.get p F.GAU_BUD_SEL_MASTER) (d.get p F.GAU_BUD_SEL_CLASS)
    else Bk.mon (d.get p F.GAU_MON_SEL_MASTER) (d.get p F.GAU_MON_SEL_CLASS)
  | some .cry => Bk.right (d.get p F.CRY_RIGHT_SEL_ENTRY)
  | some .qmg => Bk.qp (d.get p F.QMG_QP_SEL_PAIR)
  | some .dmv => Bk.dmv (d.get p F.DMV_CH_SEL_CH)
  | some .noc => Bk.rt (d.get p F.NOC_RT_SEL_DEST + d.get p F.NOC_RT_SEL_NET * 2 ^ 10 + d.get p F.NOC_RT_SEL_ROUTER * 2 ^ 12)
  | _ => p

end Dev

end Sys2Proof.Machine
end

