-- ==== Sys2Proof/Machine/Link.lean ====
section
/-! DEFINITION. The Yarn link (chapter 13) as shared operations: headers (R384), training proposals (R400), the replay buffer (R395 to R398),
acknowledgements and NAKs (R390 to R393), the link states (R399), and the transactions with a cartridge (R418, R419). A link is numbered 0 to
15 for the Yarn ports and 16 for the Hallway (R534). -/

namespace Sys2Proof.Machine

/-! ### Packets (R384, R385, R536) -/

/-- The type of a packet: on a Yarn port R385, on the Hallway R536. -/
def PktBody.type : PktBody → Nat
  | .nop => 0 | .nak => 1
  | .readSlot _ _ | .writeSlot .. | .dealloc _ => 2
  | .piece .. => 4
  | .mwr _ => 2 | .mack _ => 3 | .syncLine _ => 4 | .lreq _ => 7
  | .keyInit _ | .keyConfirm => 6
  | _ => 5

/-- R384, R415 to R417, R536: LEN of a packet. The bodies of HELLO, SOURCE and ROOM have no layout in the manual: their lengths are the
model's (see the assumption log). -/
def PktBody.len : PktBody → Nat
  | .nop | .nak => 0
  | .readSlot _ _ | .dealloc _ => 16
  | .writeSlot .. => 96
  | .piece _ n _ => n
  | .certReq _ => 8
  | .challenge _ => 36
  | .keyInit _ => 132
  | .keyConfirm => 36
  | .hello _ => 84
  | .source _ => 12
  | .room _ _ _ => 12
  | .mwr _ => 96
  | .mack ms => 4 + 4 * ms.length
  | .syncLine b => if b.zero then 16 else 80
  | .lreq _ => 8
  | _ => 4

/-- R388: a packet that may pass before SECURE reads 1. -/
def PktBody.early (b : PktBody) : Bool := b.type == 5 || b.type == 6

/-- R384: a packet header. `flags` bit 0 ACK_VALID, 1 ENC, 2 LAST, 3 REPLAYED. -/
def header (type seq ack len flags tag : Nat) : Nat :=
  type % 16 + seq % 4096 * 2 ^ 4 + ack % 4096 * 2 ^ 16 + len % 2048 * 2 ^ 28 + flags % 256 * 2 ^ 40 + tag % 2 ^ 16 * 2 ^ 48

/-- R395: what a packet of `n` bytes occupies in the replay buffer. -/
def storedBytes (n : Nat) : Nat := ceilDiv n 16 * 16

/-! ### Proposals (R400, R534) -/

/-- Lanes of a link, and the highest width code. -/
def linkLanes (l : Nat) : Nat := if l < 16 then 4 else 8
def linkMaxCode (l : Nat) : Nat := if l < 16 then 2 else 3

/-- R400: the lowest lane group of width code `code` that is good in `mask`. -/
def laneGroup (lanes code mask : Nat) : Option Nat :=
  let w := lanes >>> code
  ((List.range (lanes / w)).map (fun k => (2 ^ w - 1) * 2 ^ (k * w))).find? (fun g => g &&& mask == g)

/-- R400: the one result that both ends compute from two proposals. -/
def agree (l : Nat) (p q : Proposal) : Option Proposal :=
  let first := max p.width q.width
  ((List.range (linkMaxCode l + 1 - first)).map (first + ·)).findSome? fun c =>
    (laneGroup (linkLanes l) c (p.lanes &&& q.lanes)).map (fun g => ⟨max p.speed q.speed, c, g⟩)

namespace Dev

/-! ### Access -/

def lnk (d : Dev) (l : Nat) : LinkSt := tget (fun _ => ({} : LinkSt)) d.links l
def modLnk (d : Dev) (l : Nat) (f : LinkSt → LinkSt) : Dev :=
  { d with links := tput (fun _ => ({} : LinkSt)) d.links l (f (d.lnk l)) }

/-- The field of a link's page: the Hallway's, where its layout differs (R557). -/
def lf (l : Nat) (yp hwl : Fld) : Fld := if l < 16 then yp else hwl
def fState (l : Nat) : Fld := lf l F.YP_LINK_STS_STATE F.HWL_LINK_STS_STATE
def fSecure (l : Nat) : Fld := lf l F.YP_LINK_STS_SECURE F.HWL_LINK_STS_SECURE
def fPost (l : Nat) : Fld := lf l F.YP_LINK_STS_POST_RETRAIN F.HWL_LINK_STS_POST_RETRAIN
def fStall (l : Nat) : Fld := lf l F.YP_REPLAY_STS_STALL F.HWL_REPLAY_STS_STALL

def lget (d : Dev) (l : Nat) (f : Fld) : Nat := d.get (Pg.link l) f
def lset (d : Dev) (l : Nat) (f : Fld) (v : Nat) : Dev := d.set (Pg.link l) f v

/-- YP_LINK_STS.STATE: 0 Down, 1 Detect, 2 Train, 3 Active, 4 Retrain, 5 Doze; Off while the domain is off (R399). -/
def linkState (d : Dev) (l : Nat) : Nat := d.lget l (fState l)
def linkOff (d : Dev) (l : Nat) : Bool := !d.pageReady (Pg.link l)
def linkActive (d : Dev) (l : Nat) : Bool := !d.linkOff l && d.linkState l == 3
def secure (d : Dev) (l : Nat) : Bool := d.lget l (fSecure l) == 1

/-- R405: configuration values with the values they act as. -/
def ackTo (d : Dev) (l : Nat) : Nat := max 4 (d.lget l F.YP_REPLAY_CFG_ACK_TO)
def trainTo (d : Dev) (l : Nat) : Nat := max 64 (d.lget l F.YP_TIMER_CFG_TRAIN_TO)
def silenceTo (d : Dev) (l : Nat) : Nat := max 4 (d.lget l F.YP_TIMER_CFG_SILENCE)
def detectInt (d : Dev) (l : Nat) : Nat := max 1 (d.lget l F.YP_DOWN_CFG_DETECT_INT)
def replayLim (d : Dev) (l : Nat) : Nat := max 1 (d.lget l F.YP_REPLAY_CFG_REPLAY_LIM)
def retrainLim (d : Dev) (l : Nat) : Nat := max 1 (d.lget l F.YP_REPLAY_CFG_RETRAIN_LIM)

/-- A saturating event counter of a link page. -/
def linkCount (d : Dev) (l : Nat) (f : Fld) : Dev := d.addSat (Pg.link l) f 1

/-- R400: this end's proposal. -/
def proposal (d : Dev) (l : Nat) : Proposal :=
  let all := 2 ^ linkLanes l - 1
  let dis := d.lget l (lf l F.YP_TRAIN_CFG_LANE_DIS F.HWL_TRAIN_CFG_LANE_DIS) ||| (d.lnk l).lost
  ⟨min 2 (d.lget l F.YP_TRAIN_CFG_MAX_SPEED), min (linkMaxCode l) (d.lget l F.YP_TRAIN_CFG_MAX_WIDTH), all - (all &&& dis)⟩

/-- R403: a link-state event of the link: it asserts its source and waits for dispatch. -/
def linkEvent (d : Dev) (l bit : Nat) : Dev :=
  (d.modLnk l fun s => { s with saw := setBit s.saw bit }).latch (Src.yarnLink l)

/-- The registers that follow the replay buffer (R405). -/
def syncLink (d : Dev) (l : Nat) : Dev :=
  let s := d.lnk l
  let next := d.lget l F.YP_SEQ_STS_NEXT_TX
  let bytes := (s.stored.map (fun p => storedBytes p.size)).foldl (· + ·) 0
  let d1 := d.lset l F.YP_SEQ_STS_OLDEST (match s.stored with | [] => next | p :: _ => p.seq)
  let d2 := d1.lset l (lf l F.YP_REPLAY_STS_BYTES F.HWL_REPLAY_STS_BYTES) bytes
  let d3 := d2.lset l (lf l F.YP_REPLAY_STS_PACKETS F.HWL_REPLAY_STS_PACKETS) s.stored.length
  d3.lset l (fStall l) (b2n (d3.linkActive l && !s.waiting.isEmpty))

/-! ### Sending (R389, R392, R395) -/

/-- ACK and its valid flag as every packet carries them (R392). -/
def ackOf (d : Dev) (l : Nat) : Nat × Nat :=
  if (d.lnk l).accepted then ((d.lget l F.YP_RX_STS_NEXT_RX + 4095) % 4096, 1) else (0, 0)

/-- An unsequenced packet: a NOP, or a NAK that names NEXT_RX. -/
def sendPlain (d : Dev) (l type seq : Nat) (b : PktBody) : Dev :=
  let (a, v) := d.ackOf l
  (d.emit (.packet l (header type seq a 0 v 0) b)).modLnk l fun s => { s with ackDue := false, txSn := d.sn }

def sendNop (d : Dev) (l : Nat) : Dev := d.sendPlain l 0 0 .nop

/-- R392: a NAK for NEXT_RX, unless one for it is still held. -/
def nakDue (d : Dev) (l : Nat) : Dev :=
  let n := d.lget l F.YP_RX_STS_NEXT_RX
  let hold := max 1 (d.lget l F.YP_ACK_CFG_HOLD)
  match (d.lnk l).nakFor with
  | some (m, sn) => if m = n ∧ d.sn < sn + hold then d else
      (((d.sendPlain l 1 n .nak).lset l F.YP_RX_STS_LAST_NAK n).linkCount l F.YP_NAK_TX_CNT_COUNT).modLnk l fun s => { s with nakFor := some (n, d.sn) }
  | none =>
      (((d.sendPlain l 1 n .nak).lset l F.YP_RX_STS_LAST_NAK n).linkCount l F.YP_NAK_TX_CNT_COUNT).modLnk l fun s => { s with nakFor := some (n, d.sn) }

/-- R395: the bytes of the replay buffer of a link. -/
def replayBuf (l : Nat) : Nat := if l < 16 then 32768 else 65536

/-- The length of a packet on the lanes: header, payload, link tag while SECURE, CRC (R384). -/
def pktSize (d : Dev) (l : Nat) (b : PktBody) : Nat := 12 + b.len + (if d.secure l then 8 else 0)

/-- R395: the packet would fit the replay buffer. -/
def fitsReplay (d : Dev) (l : Nat) (b : PktBody) : Bool :=
  let s := d.lnk l
  decide (s.stored.length < 2047) &&
    decide ((s.stored.map (fun p => storedBytes p.size)).foldl (· + ·) 0 + storedBytes (d.pktSize l b) ≤ replayBuf l)

/-- Send a new sequenced packet: it takes NEXT_TX and is stored for replay. -/
def transmit (d : Dev) (l tag : Nat) (b : PktBody) : Dev :=
  let (a, v) := d.ackOf l
  let seq := d.lget l F.YP_SEQ_STS_NEXT_TX
  let last := match b with | .piece _ _ true => 4 | _ => 0
  let h := header b.type seq a b.len (v + (if d.secure l then 2 else 0) + last) tag
  let d1 := d.emit (.packet l h b)
  let d2 := d1.lset l F.YP_SEQ_STS_NEXT_TX ((seq + 1) % 4096)
  d2.modLnk l fun s =>
    { s with stored := s.stored ++ [⟨seq, d.pktSize l b, h, b⟩], timerSn := if s.stored.isEmpty then d.sn else s.timerSn,
             ackDue := false, txSn := d.sn, busySn := d.sn, txCount := s.txCount + 1 }

/-- R395, R399: send what waits, in order, while the link is Active and the replay buffer has room; a link in Doze is woken. -/
def flush (d : Dev) (l : Nat) : Dev :=
  let go := (List.range (d.lnk l).waiting.length).foldl
    (fun d _ =>
      match (d.lnk l).waiting with
      | [] => d
      | (tag, b) :: rest =>
        if d.linkActive l && d.fitsReplay l b && (d.secure l || b.early) then
          (d.modLnk l fun s => { s with waiting := rest }).transmit l tag b
        else d) d
  let go := if d.linkState l == 5 && !(go.lnk l).waiting.isEmpty && !(go.lnk l).waking then
      (go.emit (.wake l)).modLnk l fun s => { s with waking := true } else go
  go.syncLink l

/-- A sequenced packet to send. -/
def sendPkt (d : Dev) (l tag : Nat) (b : PktBody) : Dev :=
  (d.modLnk l fun s => { s with waiting := s.waiting ++ [(tag, b)] }).flush l

/-! ### Transactions with a cartridge (R394, R415, R418) -/

/-- The payload bytes of the DATA packets of a transfer of `n` lines, as (number, bytes, last). -/
def pieces (n : Nat) : List (Nat × Nat × Bool) :=
  let k := ceilDiv (80 * n) 1024
  (List.range k).map (fun i => (i, min 1024 (80 * n - 1024 * i), i + 1 == k))

def maxCmds (d : Dev) (n : Nat) : Nat := max 1 (min 256 (d.get (Pg.yp n) F.YP_TXN_CFG_MAX_CMDS))

/-- R418: outstanding transactions of a port, and their unacknowledged write bytes. -/
def outstanding (d : Dev) (n : Nat) : List Txn := (d.cart n).txns.filter (fun t => t.sent && !t.detached)
def writeBytesOut (d : Dev) (n : Nat) : Nat :=
  (((d.outstanding n).filter (fun t => t.op == 2)).map (fun t => 80 * (t.lines + 1))).foldl (· + ·) 0

/-- YP_TXN_STS. -/
def syncTxn (d : Dev) (n : Nat) : Dev := d.set (Pg.yp n) F.YP_TXN_STS_OUTSTANDING (d.outstanding n).length

/-- R418: the next TAG, in cyclic order, that is not outstanding. -/
def freeTag (d : Dev) (n : Nat) : Nat :=
  let c := d.cart n
  let used := c.dead ++ (c.txns.filter (·.sent)).map (·.tag)
  (firstFrom (fun k => !used.contains (1 + k % 32767)) 1 32767 (c.nextTag - 1)).map (fun k => 1 + k % 32767) |>.getD 1

/-- Replace the first transaction that satisfies `p`. -/
def modTxn (d : Dev) (n : Nat) (p : Txn → Bool) (f : Txn → Txn) : Dev :=
  d.modCart n fun c =>
    match c.txns.findIdx? p with
    | some i => { c with txns := c.txns.modify i f }
    | none => c

/-- Send the packets of a transaction under tag `tag`. -/
def txnPackets (d : Dev) (n tag : Nat) (t : Txn) : Dev :=
  if t.op = 1 then d.sendPkt n tag (.readSlot t.extent t.slot)
  else if t.op = 2 then
    (pieces t.lines).foldl (fun d p => d.sendPkt n tag (.piece p.1 p.2.1 p.2.2))
      (d.sendPkt n tag (.writeSlot t.extent t.slot t.form t.data t.gen))
  else d.sendPkt n tag (.dealloc t.extent)

/-- R394: the port may send commands now: Active and SECURE, its cartridge In service or Evacuating. -/
def portOpen (d : Dev) (n : Nat) : Bool :=
  d.linkActive n && d.secure n && (d.ctgGet n F.CTG_STS_STATE == 3 || d.ctgGet n F.CTG_STS_STATE == 4) && !d.frogOn (Pg.yp n)

/-- Issue one transaction that has not been sent, or one that a retrain or a timeout detached. -/
def issueTxn (d : Dev) (n : Nat) (t : Txn) : Dev :=
  let tag := d.freeTag n
  let d1 := d.modTxn n (fun x => x == t) fun x =>
    { x with tag := tag, sent := true, detached := false, sn := d.sn, reissued := x.reissued || x.sent, got := [] }
  let d2 := d1.modCart n fun c => { c with nextTag := tag % 32767 + 1, dead := if t.sent then c.dead ++ [t.tag] else c.dead }
  (d2.txnPackets n tag t).syncTxn n

/-- R394, R418, R419: send the transactions that the limits allow: detached ones first, then new ones, each in order. -/
def pumpPort (d : Dev) (n : Nat) : Dev :=
  if !d.portOpen n then d
  else
    (List.range (d.cart n).txns.length).foldl
      (fun d _ =>
        match (d.cart n).txns.find? (fun t => t.sent && t.detached) with
        | some t => d.issueTxn n t
        | none =>
          match (d.cart n).txns.find? (fun t => !t.sent) with
          | none => d
          | some t =>
            if d.maxCmds n ≤ (d.outstanding n).length then d
            else if t.op = 2 ∧ d.get (Pg.yp n) F.YP_WRITE_WIN_BYTES < d.writeBytesOut n + 80 * (t.lines + 1) then d
            else d.issueTxn n t) d

/-- R537: lines for the peer that await MACK. -/
def mirrorsOut (d : Dev) : Nat := (d.twin.out.filter (fun i => i.sent && !i.acked)).length
def mwrMax (d : Dev) : Nat := max 1 (min 1024 (d.get Pg.twn F.TWN_MWR_CFG_MAX))

/-- The packet of a line for the peer (R536, R539, R541, R554). -/
def mirrorBody (i : MirrorItem) : PktBody :=
  if i.sync then .syncLine ⟨i.mid, i.dpa, i.data, i.poison, i.zero, i.repair⟩
  else .mwr ⟨i.mid, i.dpa, i.enables, i.data, i.echo.isSome, i.poison, i.cls⟩

/-- R541: LREQ for the lines that are to be repaired from the peer. -/
def askPeer (d : Dev) : Dev :=
  let ls := ((d.twin.repairs.filter (fun x => !x.2.2.2)).map (fun x => x.2.1)).eraseDups
  let d1 : Dev := { d with twin := { d.twin with repairs := d.twin.repairs.map (fun x => (x.1, x.2.1, x.2.2.1, true)) } }
  ls.foldl (fun d a => d.sendPkt 16 0 (.lreq a)) d1

/-- R537: send lines to the peer, in order, while fewer than TWN_MWR_CFG.MAX await MACK. -/
def pumpHall (d0 : Dev) : Dev :=
  if d0.twnState != 2 && d0.twnState != 3 then d0
  else
    let d := d0.askPeer
    let d1 := (List.range d.twin.out.length).foldl
      (fun d _ =>
        match d.twin.out.find? (fun i => !i.sent) with
        | none => d
        | some i =>
          if d.mwrMax ≤ d.mirrorsOut then d
          else
            ({ d with twin := { d.twin with out := d.twin.out.map (fun x => if x = i then { x with sent := true } else x) } } : Dev).sendPkt
              16 0 (mirrorBody i)) d
    d1.set Pg.twn F.TWN_MWR_STS_OUT d1.mirrorsOut

/-- Everything that a command has left to send goes out. -/
def pump (d : Dev) : Dev :=
  ((d.carts.map (·.1)).foldl (fun d n => if (d.cart n).txns.isEmpty then d else d.pumpPort n) d).pumpHall

/-! ### Link states (R397 to R399) -/

/-- Leave a link without session and stored packets (R388, R399). -/
def clearSession (d : Dev) (l : Nat) : Dev :=
  (((d.lset l (fSecure l) 0).lset l (fPost l) 0).lset l F.YP_SEQ_STS_COUNT 0).modLnk l fun s =>
    { s with stored := [], waiting := [], accepted := false, ackDue := false, nakFor := none, culprit := none, waking := false,
             txCount := 0, rxCount := 0 }

/-- SPEED, WIDTH and LANES of an agreed result; zeros where there is none. -/
def setAgreed (d : Dev) (l : Nat) (p : Option Proposal) : Dev :=
  let (s, w, m) := match p with | some p => (3 - p.speed, linkLanes l >>> p.width, p.lanes) | none => (0, 0, 0)
  ((d.lset l (lf l F.YP_LINK_STS_SPEED F.HWL_LINK_STS_SPEED) s).lset l (lf l F.YP_LINK_STS_WIDTH F.HWL_LINK_STS_WIDTH) w).lset l
    (lf l F.YP_LINK_STS_LANES F.HWL_LINK_STS_LANES) m

/-- A page entry lies on a cartridge. -/
def pageOn (n : Nat) (e : PageEntry) : Bool := e.locValid && e.locKind && locCart e.loc == n

/-- An end of a move lies on a cartridge: a Larder end, or a Split end with a page there. -/
def endOn (d : Dev) (n st loc : Nat) : Bool :=
  if st = St.larder then locCart loc == n
  else if st = St.split then (d.mapPages (locFrame loc)).any (pageOn n) else false

/-- R188: a migration has an end on a cartridge. -/
def migOn (d : Dev) (n : Nat) (m : Mig) : Bool :=
  let e := d.entry m.skein
  match m.page with
  | none => d.endOn n m.srcState e.loc || d.endOn n m.dstState m.dstLoc
  | some p => pageOn n (d.pageEntry (locFrame e.loc) p) || (m.dstState == St.larder && locCart m.dstLoc == n)

/-- R419, the row for Down: nothing is reissued; fetches wait for the port to serve again, writes of moves end with their migrations. -/
def dropTxns (d : Dev) (n : Nat) : Dev :=
  (d.modCart n fun c =>
    { c with txns := (c.txns.filter (fun t => (t.op == 1 && t.fetch != 0 && !t.knit) || (t.op == 3 && tget (fun _ => false) c.alloc t.extent))).map
               (fun t => { t with sent := false, detached := false, reissued := false, got := [] }),
             dead := [], mgmt := none }).syncTxn n

/-- R421: a cartridge whose link goes Down while its port is bound is lost; one that is not bound is absent. -/
def cartDown (d : Dev) (n : Nat) : Dev :=
  let st := d.ctgGet n F.CTG_STS_STATE
  if st = 2 ∨ st = 3 ∨ st = 4 then
    if d.anyAlloc n then (d.ctgSet n F.CTG_STS_STATE 7).raise Src.ctgLost n 0xFF 0
    else d.ctgSet n F.CTG_STS_STATE 0
  else d

/-- R399: entry to Down: the replay buffer is discarded, the session ends, the link-down event asserts; transactions, migrations and the
cartridge follow R419, R188 and R421. -/
def enterDown (d : Dev) (l : Nat) : Dev :=
  let d1 := (((d.clearSession l).lset l (fState l) 0).setAgreed l none).modLnk l fun s =>
    { s with stateSn := d.sn, partner := none, sentRetrain := false, gotRetrain := false }
  let d2 := (d1.linkEvent l 1).syncLink l
  if l < 16 then ((d2.failAll (d2.migOn l) 8).dropTxns l).cartDown l else d2

/-- R399: Detect: TS1 on every lane. -/
def enterDetect (d : Dev) (l : Nat) : Dev :=
  ((d.lset l (fState l) 1).modLnk l fun s => { s with stateSn := d.sn, partner := none, lost := 0 }).emit (.ts l false false (d.proposal l))

/-- R399, R419: entry to Retrain: TS1 with RETRAIN goes out and transactions are detached. -/
def enterRetrain (d : Dev) (l : Nat) : Dev :=
  let d1 := ((d.lset l (fState l) 4).linkCount l F.YP_RETRAIN_CNT_COUNT).modLnk l fun s =>
    { s with stateSn := d.sn, partner := none, sentRetrain := true, waking := false }
  let d2 := ((d1.emit (.ts l false true (d1.proposal l))).lset l F.YP_SEQ_STS_COUNT 0).linkEvent l 2
  if l < 16 then
    (d2.modCart l fun c => { c with txns := c.txns.map (fun t => if t.sent then { t with detached := true, got := [] } else t) }).syncTxn l
  else d2

/-- The replay buffer sends its packets from SEQ `from_` on, with REPLAYED set (R389, R396). -/
def replayFrom (d : Dev) (l from_ : Nat) : Dev :=
  let ps := (d.lnk l).stored.dropWhile (fun p => p.seq != from_)
  (ps.foldl (fun d p => d.emit (.packet l (setBit p.header 43) p.body)) d).modLnk l fun s => { s with timerSn := d.sn, txSn := d.sn }

/-- R396, R397: a replay trigger. -/
def replay (d : Dev) (l from_ : Nat) (timeout : Bool) : Dev :=
  match (d.lnk l).stored with
  | [] => d
  | p :: _ =>
    let n := d.lget l F.YP_SEQ_STS_COUNT
    let post := (d.lnk l).culprit.isSome
    if post && decide (d.retrainLim l ≤ n) then d.enterDown l
    else if !post && decide (d.replayLim l ≤ n) then
      ((d.modLnk l fun s => { s with culprit := some p.seq }).lset l (fPost l) 1).enterRetrain l
    else
      let d1 := (d.lset l F.YP_SEQ_STS_COUNT (n + 1)).linkCount l F.YP_REPLAY_CNT_COUNT
      let d2 := if timeout then d1.linkCount l F.YP_TIMEOUT_CNT_COUNT else d1
      (d2.raise (Src.linkReplayed l) from_ 0xFF 0).replayFrom l from_

/-- R393: an acknowledgement of `a` frees stored packets up to it, if it names one. -/
def ackPacket (d : Dev) (l a : Nat) : Dev :=
  let s := d.lnk l
  match s.stored.findIdx? (fun p => p.seq == a) with
  | none => d
  | some i =>
    let freed := (s.stored.take (i + 1)).map (·.seq)
    let gone := match s.culprit with | some q => freed.contains q | none => false
    let d1 := (d.modLnk l fun s =>
      { s with stored := s.stored.drop (i + 1), timerSn := d.sn, culprit := if gone then none else s.culprit }).lset l F.YP_SEQ_STS_COUNT 0
    (if gone then d1.lset l (fPost l) 0 else d1).flush l

/-- R390: the acknowledgement that a packet carries. -/
def takeAck (d : Dev) (l : Nat) (ack : Option (BitVec 12)) : Dev :=
  match ack with | some a => d.ackPacket l a.toNat | none => d

/-- R391: a receive error. -/
def rxError (d : Dev) (l : Nat) : Dev :=
  ((d.linkCount l F.YP_RXERR_CNT_COUNT).raise (Src.linkRxError l) (d.lget l F.YP_RX_STS_NEXT_RX) 0xFF 0).nakDue l

/-- R389, R391: a packet whose link tag fails. -/
def tagFailure (d : Dev) (l seq : Nat) : Dev :=
  ((d.linkCount l F.YP_TAGFAIL_CNT_COUNT).raise (Src.linkTagFail l) seq 0xFF 0).rxError l

/-- R394: an accepted packet for which there is no transaction. -/
def unexpected (d : Dev) (l tag : Nat) : Dev := d.raise (Src.linkUnexpected l) tag 0xFF 0

/-- R388 to R391: a sequenced packet with a good CRC arrives; `early`: a MGMT or KEY packet. The result says whether it is delivered above
the link. -/
def receive (d : Dev) (l : Nat) (h : YarnHeader) (early : Bool) : Bool × Dev :=
  if !d.linkActive l then (false, d)
  else
    let d1 := (d.modLnk l fun s => { s with rxSn := d.sn }).takeAck l h.ack
    let next := d1.lget l F.YP_RX_STS_NEXT_RX
    let dist := (h.seq.toNat + 4096 - next) % 4096
    if dist = 0 then
      if d1.secure l && !h.tagOk then (false, d1.tagFailure l h.seq.toNat)
      else
        let d2 := (d1.lset l F.YP_RX_STS_NEXT_RX ((next + 1) % 4096)).modLnk l fun s =>
          { s with accepted := true, ackDue := true, nakFor := none, rxCount := s.rxCount + 1, busySn := d.sn }
        if !d2.secure l && !early then (false, d2.unexpected l h.tag) else (true, d2)
    else if dist < 2048 then (false, d1.nakDue l)
    else (false, d1.modLnk l fun s => { s with ackDue := true })

/-- R390, R399: Active from Train. -/
def enterActive (d : Dev) (l : Nat) (p : Proposal) : Dev :=
  let d1 := ((((d.clearSession l).setAgreed l (some p)).lset l (fState l) 3).lset l F.YP_SEQ_STS_NEXT_TX 0).lset l F.YP_RX_STS_NEXT_RX 0
  let d2 := d1.modLnk l fun s => { s with stateSn := d.sn, rxSn := d.sn, txSn := d.sn, busySn := d.sn, timerSn := d.sn }
  (d2.linkEvent l 0).syncLink l

/-- R398, R399, R401, R419: Active from Retrain: a NOP, the stored packets, the detached transactions, then new packets. -/
def endRetrain (d : Dev) (l : Nat) (p : Proposal) : Dev :=
  let fs := lf l F.YP_LINK_STS_SPEED F.HWL_LINK_STS_SPEED
  let fw := lf l F.YP_LINK_STS_WIDTH F.HWL_LINK_STS_WIDTH
  let old := (d.lget l fs, d.lget l fw)
  let d1 := (d.setAgreed l (some p)).lset l (fState l) 3
  let changed := old != (d1.lget l fs, d1.lget l fw)
  let d2 := d1.lset l (lf l F.YP_LINK_STS_SYMMETRIC F.HWL_LINK_STS_SYMMETRIC) (b2n ((d.lnk l).sentRetrain && (d.lnk l).gotRetrain))
  let d3 := d2.modLnk l fun s =>
    { s with stateSn := d.sn, rxSn := d.sn, busySn := d.sn, sentRetrain := false, gotRetrain := false }
  let d4 := (if changed then d3.linkEvent l 3 else d3).sendNop l
  let d5 := match (d4.lnk l).stored with | [] => d4 | x :: _ => d4.replayFrom l x.seq
  (d5.flush l).pump

/-- R399: Active from Doze. -/
def endDoze (d : Dev) (l : Nat) : Dev :=
  (((d.lset l (fState l) 3).modLnk l fun s =>
    { s with stateSn := d.sn, rxSn := d.sn, busySn := d.sn, timerSn := d.sn, waking := false }).flush l).pump

/-- R399: the domain of a link goes off: as entry to Down, with no event in a page that has no power. -/
def linkDomainOff (d : Dev) (l : Nat) : Dev := if d.linkState l = 0 then d.clearSession l else d.enterDown l

end Dev

end Sys2Proof.Machine
end

