-- ==== Sys2Proof/Machine/Tier.lean ====
section
/-! DEFINITION. The tier engine (chapter 6): its policy rows (R180), the scan, pack trials (R182), the copy of a page (R185, R186), promotion on
touch (R191, R192), pressure, squeeze and evacuation (R195 to R197), the lazy wipe's engine (R200, R201) and clears (R203, R131). -/

namespace Sys2Proof.Machine

/-- A stored line that a read meets without a fault. -/
def okFault : LineFault := ⟨true, true, 0, 0⟩

/-- The fault met at item `i` of a list. -/
def faultAt (fs : List LineFaultAt) (i : Nat) : LineFault :=
  match fs.find? (fun x => x.line == i) with
  | some x => x.fault
  | none => okFault

/-- The stored lines of a DRAM page: DRA, tier code and the DPA that their generation follows (R240). -/
def pageLines (p : PageLoc) (dpa : Nat) : List (Nat × Nat × Nat) :=
  if p.st = St.isOpen then (List.range 64).map (fun j => (p.dra + 64 * j, 0, dpa + 64 * j))
  else if p.st = St.packed then
    let k := slotSize p.ratio / 64
    (List.range (16 * k)).map (fun i => (p.dra + 64 * i, 1, dpa + 256 * (i / k)))
  else []

namespace Dev

/-! ### Engine reads (R185, R186, R246, R248) -/

/-- A stored line is written back under its expected generation, with its poison bit set or as it was. -/
def rewriteLine (d : Dev) (dra tier knit : Nat) (poison : Bool) : Dev :=
  let m := d.side dra
  (d.setSide dra { m with poison := m.poison || poison, gen := d.expGen tier knit }).pushWqNew (d.place dra).1 dra

/-- R246, R248: an engine reads a stored line and meets fault `f` there. The result says whether its data stand; a line that cannot be rebuilt
is poisoned where it is stored. `addr`, `owner` and `acc` are the capture. -/
def engineLine (d : Dev) (dra tier knit addr owner acc : Nat) (f : LineFault) : Bool × Dev :=
  if d.unwritten dra then (true, d)
  else
    let l := (d.place dra).1
    let genOk := (d.side dra).gen % 2 == d.expGen tier knit % 2
    let (v, d1) := (d.bursts l false (acc == 0 || (7 ≤ acc && acc ≤ 9)) 1).verdict l dra genOk f
    let ev := fun (d : Dev) => d.verdictEvent (l / 2) v addr owner acc
    match v with
    | .good => (true, d1)
    | .repaired | .corrected => (true, (ev d1).rewriteLine dra tier knit false)
    | .unverifiable => (true, ev d1)
    | .uncorrectable => (false, (ev d1).rewriteLine dra tier knit true)
    | .alarm =>
      let d2 := d1.rewriteLine dra tier knit true
      (false, if d2.chHalted (l / 2) then d2
              else (d2.raise (Src.macLate (l / 2)) addr owner acc).alarmViral (Src.macLate (l / 2)) owner none)

/-- R185, R186: the engine reads a page in DRAM: its lines' checks, whose failures are poisoned in place, then the lines. -/
def engineRead (d : Dev) (p : PageLoc) (dpa owner acc : Nat) (fs : List LineFaultAt) : List MovedLine × Dev :=
  let d1 := (pageLines p dpa).zipIdx.foldl
    (fun d x => (d.engineLine x.1.1 x.1.2.1 x.1.2.2 x.1.2.2 owner acc (faultAt fs x.2)).2) d
  (d1.readPage p, d1)

/-! ### Policy (R178, R180) -/

/-- R178: HEAT after a visit. -/
def decay (d : Dev) (h : Nat) : Nat := if h = 0 then 0 else h - max 1 (h >>> max 1 (d.get Pg.tir F.TIR_HEAT_CFG_DECAY))

/-- A field of TIR_CLASS_CFG of a class. -/
def classCfg (d : Dev) (cls : Nat) (f : Fld) : Nat := d.get Pg.tir (f.sh (4 * cls))

/-- The pages of a skein; none where it is not Split. -/
def splitPages (d : Dev) (e : Entry) : List PageEntry := if e.state = St.split then d.mapPages (locFrame e.loc) else []

/-- Rows 3 and 4 of R180: an attribute of the room calls the skein to Open. -/
def attrMove (d : Dev) (e : Entry) : Bool :=
  let ps := d.splitPages e
  (!e.compressible && (e.state == St.packed || ps.any (fun p => p.place.st == St.packed))) ||
    ((e.pinned || !e.larderOk) && (e.state == St.larder || ps.any (fun p => p.locKind)))

/-- Row 1 of R180: nothing is done at the skein. -/
def rowOne (d : Dev) (s : Nat) (e : Entry) : Bool :=
  !d.skeinValid s || e.state == St.unbacked || e.state == St.motion || (e.state == St.zero && !e.locValid) || d.anyPageMove s

/-- Row 5 of R180: demotion; `cut` stands for LARDER_THR in a pressure pass (R195). -/
def rowFive (d : Dev) (e : Entry) (st heat : Nat) (cut : Option Nat) : Bool :=
  d.flag Pg.tir F.TIR_CFG_LARDER_EN && d.classCfg e.cls F.TIR_CLASS_CFG_LARDER_ON == 1 && e.larderOk && !e.pinned &&
    (st == St.isOpen || st == St.packed || st == St.split) && decide (heat ≤ cut.getD (d.classCfg e.cls F.TIR_CLASS_CFG_LARDER_THR))

/-- Row 6 of R180: a pack trial. -/
def rowSix (d : Dev) (e : Entry) (st heat : Nat) (cut : Option Nat) : Bool :=
  d.flag Pg.tir F.TIR_CFG_PACK_EN && d.classCfg e.cls F.TIR_CLASS_CFG_PACK_ON == 1 && e.compressible && st == St.isOpen &&
    decide (heat ≤ cut.getD (d.classCfg e.cls F.TIR_CLASS_CFG_PACK_THR))

/-- Row 7 of R180: a move to Open. -/
def rowSeven (d : Dev) (e : Entry) (st heat : Nat) : Bool :=
  d.flag Pg.tir F.TIR_CFG_OPEN_EN && d.classCfg e.cls F.TIR_CLASS_CFG_OPEN_ON == 1 && (st == St.packed || st == St.split) &&
    decide (d.classCfg e.cls F.TIR_CLASS_CFG_OPEN_THR ≤ heat)

/-- A move becomes wanted, unless one of the same skein or page is. -/
def wantMove (d : Dev) (w : Want) : Dev :=
  if d.mem.tier.wants.any (fun x => x.skein == w.skein && x.page == w.page && x.cause == w.cause) then d
  else d.modTier fun t => { t with wants := t.wants ++ [w] }

/-- R182: a pack trial of a skein begins. -/
def wantTrial (d : Dev) (s cause job : Nat) : Dev :=
  if d.mem.tier.trials.any (fun t => t.skein == s) then d
  else d.modTier fun t => { t with trials := t.trials ++ [⟨s, cause, job⟩] }

/-- R217: the best ratio of a page, 0 where some block fits neither target. -/
def ratioOf (ls : List MovedLine) : Nat := pageRatio ((List.range 16).map (fun b => blockWords (blockOf ls b).1))

/-- Row 8 of R180: rows 5 to 7 for each page of a Split skein, by page HEAT; up to 8 page moves, in ascending order. A page whose trial
declines takes PACK_THR + 1 as its HEAT. -/
def rowEight (d : Dev) (s : Nat) (e : Entry) : Dev :=
  let map := locFrame e.loc
  ((List.range 512).foldl
    (fun (acc : Nat × Dev) n =>
      let d := acc.2
      let pe := d.pageEntry map n
      let w := fun (st ratio cause : Nat) => (acc.1 + 1, d.wantMove { skein := s, page := some n, state := st, ratio := ratio, cause := cause })
      if 8 ≤ acc.1 ∨ !pe.valid d.installed ∨ pe.state = St.motion then acc
      else if d.rowFive e pe.state pe.heat none then w St.larder 0 0
      else if d.rowSix e pe.state pe.heat none then
        let r := ratioOf (d.readPage pe.place)
        if r = 0 then (acc.1, d.setPageEntry map n { pe with heat := min 255 (d.classCfg e.cls F.TIR_CLASS_CFG_PACK_THR + 1) })
        else w St.packed r 1
      else if d.rowSeven e pe.state pe.heat then w St.isOpen 0 2
      else acc) (0, d)).2

/-- R180: the first row that applies at a visit, after decay. -/
def applyRows (d : Dev) (s : Nat) : Dev :=
  let e := d.entry s
  let w := fun (st cause : Nat) => d.wantMove { skein := s, page := none, state := st, ratio := 0, cause := cause }
  if d.rowOne s e then d
  else if e.state = St.zero then -- R202
    d.putEntryQuiet s { e with state := St.isOpen, ratio := 0, gen := (d.expGen 0 (s * 2 ^ 21)).testBit 0 }
  else if d.attrMove e then w St.isOpen 3
  else if d.rowFive e e.state e.heat none then w St.larder 0
  else if d.rowSix e e.state e.heat none then d.wantTrial s 1 0
  else if d.rowSeven e e.state e.heat then w St.isOpen 2
  else if e.state = St.split then d.rowEight s e
  else d

/-- R178: a visit decays the HEAT of a skein and of the pages of a Split one. -/
def decaySkein (d : Dev) (s : Nat) : Dev :=
  let e := d.entry s
  let d1 := if e.heat = 0 then d else d.putEntryQuiet s { e with heat := d.decay e.heat }
  if e.state ≠ St.split then d1
  else
    (List.range 512).foldl
      (fun d n =>
        let pe := d.pageEntry (locFrame e.loc) n
        if pe.heat = 0 then d else d.setPageEntry (locFrame e.loc) n { pe with heat := d.decay pe.heat }) d1

/-- R179: the skein that the scanner visits next: the first from TIR_SCAN_POS on whose room is in service. -/
def nextVisit (d : Dev) : Option Nat :=
  let pos := d.get Pg.tir F.TIR_SCAN_POS_SKEIN
  ((List.range d.winRooms).map (fun r => (r, max pos (512 * r)))).find? (fun x => decide (x.2 < 512 * (x.1 + 1)) && (d.room x.1).inService)
    |>.map (·.2)

/-- R179: one visit, or the end of a pass. -/
def scanVisit (d : Dev) : Dev :=
  match d.nextVisit with
  | none =>
    let n := d.get Pg.tir F.TIR_SCAN_PASS_COUNT + 1
    ((d.set Pg.tir F.TIR_SCAN_PASS_COUNT n).set Pg.tir F.TIR_SCAN_POS_SKEIN 0).raise Src.scanPass (n % 2 ^ 32) 0xFF 7
  | some s =>
    let cost := (if s % 2 = 0 ∨ s = d.get Pg.tir F.TIR_SCAN_POS_SKEIN then 1 else 0) + (if (d.entry s).state = St.split then 64 else 0)
    let lim := d.get Pg.tir F.TIR_SCAN_CFG_LINES
    let used := d.mem.tier.scanUsed
    if lim < used + cost ∧ ¬ (used = 0 ∧ 0 < lim) then d
    else
      let d1 := ((d.tally Pg.tir 0x0103 1).modTier fun t => { t with scanUsed := used + cost }).set Pg.tir F.TIR_SCAN_POS_SKEIN (s + 1)
      let d2 := if d1.skeinValid s ∧ (d1.entry s).state ≠ St.unbacked then d1.decaySkein s else d1
      d2.applyRows s

/-- R181: rows 3 and 4 for the skeins of a room, without decay. -/
def attrWalk (d : Dev) (drn : Nat) : Dev :=
  (roomSkeins drn).foldl
    (fun d s =>
      let e := d.entry s
      if !d.rowOne s e && d.attrMove e then d.wantMove { skein := s, page := none, state := St.isOpen, ratio := 0, cause := 3 } else d) d

/-! ### Pack trials (R182, R217, R218) -/

/-- What the compressor counts for the blocks of a page (R213, R217). -/
def countPage (d : Dev) (i : Nat) (ls : List MovedLine) : Dev :=
  let ws := (List.range 16).map (fun b => blockWords (blockOf ls b).1)
  let f64 := (ws.filter (fun w => (encodeSlot 64 w).isSome)).length
  let f128 := (ws.filter (fun w => (encodeSlot 64 w).isNone && (encodeSlot 128 w).isSome)).length
  let no := (16 - f64) + (16 - f64 - f128)
  (((d.cmpCount i F.CMP_ENC_CNT_COUNT (f64 + f128)).cmpCount i F.CMP_NOFIT_CNT_COUNT no).tally (Pg.cmp i) 0x0100 (32 - f64)).tally
    (Pg.cmp i) 0x0101 no

/-- R182, R218: the trial of an Open skein ends; `bad` are the blocks (16 × page + block) whose check failed. -/
def trialDone (d : Dev) (t : Trial) (bad : List Nat) (i : Nat) : Dev :=
  let s := t.skein
  let e := d.entry s
  let d0 := d.modTier fun x => { x with trials := x.trials.filter (fun y => y != t) }
  let decline := fun (d : Dev) =>
    if t.job = 0 then d else d.modTier fun x => { x with jobFails := x.jobFails ++ [t.job] }
  if e.state ≠ St.isOpen ∨ !d.skeinValid s then decline d0
  else
    let pages := (List.range 512).map (fun n => d.readPage (d.pageAt e.state e.ratio e.loc n))
    let d1 := pages.foldl (fun d ls => d.countPage i ls) d0
    let d2 := bad.foldl
      (fun d b =>
        let w := blockWords (blockOf (pages.getD (b / 16) []) (b % 16)).1
        let t64 := (encodeSlot 64 w).isSome
        d.checkFailed i (((encodeSlot (if t64 then 64 else 128) w).getD [0]).headD 0) (b2n t64) (s * 2 ^ 21 + 256 * b) e.owner 7) d1
    let ratios := pages.zipIdx.map (fun x => if bad.any (fun b => b / 16 == x.2) then 0 else ratioOf x.1)
    let n := (ratios.filter (fun r => r != 0)).length
    let min' := max 1 (min 512 (d.get Pg.tir F.TIR_SPLIT_MIN_PAGES))
    let w : Want := { skein := s, page := none, state := St.packed, ratio := 0, cause := t.cause, job := t.job }
    if ratios.all (· == 2) then d2.wantMove { w with ratio := 2 }
    else if n = 512 then d2.wantMove { w with ratio := 1 }
    else if min' ≤ n ∧ d2.ordinaryMap.isSome then d2.wantMove { w with state := St.split, ratios := ratios }
    else
      (decline d2).putEntryQuiet s { e with heat := min 255 (d.classCfg e.cls F.TIR_CLASS_CFG_PACK_THR + 1) }

/-! ### Copying a page (R185 to R187) -/

/-- Page of a migration that is copied next. -/
def migPage (d : Dev) (m : Mig) : Nat := match m.page with | some n => n | none => (d.entry m.skein).progress

/-- The source of the page under copy. -/
def copySrc (d : Dev) (m : Mig) : PageLoc :=
  let e := d.entry m.skein
  match m.page with
  | some n => (d.pageEntry (locFrame e.loc) n).place
  | none => d.pageAt m.srcState e.ratio e.loc e.progress

/-- The destination of the page under copy. -/
def copyDst (d : Dev) (m : Mig) : PageLoc :=
  let e := d.entry m.skein
  match m.page with
  | some _ =>
    if m.dstState = St.larder then
      { st := St.larder, cart := locCart m.dstLoc, extent := locExtent m.dstLoc, slot := bits m.dstLoc 31 9 }
    else { st := m.dstState, ratio := m.dstRatio, dra := bits m.dstLoc 0 33 * 1024 }
  | none => d.pageAt m.dstState m.dstRatio m.dstLoc e.progress

/-- A write to a page that has passed the gate and is not yet visible. -/
def writeInFlight (d : Dev) (s page : Nat) : Bool :=
  d.mem.reqs.any fun r => r.kind.isWrite && dpaSkein r.dpa == s && dpaPage r.dpa == page &&
    (match r.stage with | .queue | .issued | .encode | .fillWait | .wqWait => true | _ => false)

/-- The fetch of a migration's page. -/
def migFetch (d : Dev) (m : Mig) : Option Fetch := d.fetches.find? (fun f => f.mig == m.id)

/-- R185, R159: the copy phase of a migration's next page begins: a DRAM-to-DRAM one within COPY_PER_WIN, a Larder source with its read. -/
def copyStart (d : Dev) (m : Mig) : Dev :=
  if m.copying || m.waitWrite || m.reason != 0 || d.quiesced && !d.fatal then d
  else
    let src := d.copySrc m
    let go := fun (d : Dev) => d.putMig { m with copying := true }
    if src.st = St.larder then
      if (d.migFetch m).isSome then go d
      else
        match d.findFetch src.cart src.extent src.slot with
        | some f => if f.mig = 0 then go (d.putFetch { f with mig := m.id }) else d
        | none =>
          if d.bufferFree then
            go (d.newFetch { id := 0, cart := src.cart, extent := src.extent, slot := src.slot, skein := m.skein, page := d.migPage m,
                             sn := 0, cls := 3, mig := m.id })
          else d.raiseOnce Src.fetchWait (pageDpa m.skein (d.migPage m)) (d.entry m.skein).owner 7
    else if dramMove m then
      if d.get Pg.tir F.TIR_MOVE_CFG_COPY_PER_WIN ≤ d.mem.tier.copies then d
      else go (d.modTier fun t => { t with copies := t.copies + 1 })
    else go d

/-- At a boundary the engine begins the copy phases that it can. -/
def copyStarts (d : Dev) : Dev := (d.migs.map (·.id)).foldl (fun d id => match d.findMig id with | some m => d.copyStart m | none => d) d

/-- R197: the bit of a cartridge of which nothing remains clears and "evacuation done" asserts. -/
def evacCheck (d : Dev) : Dev :=
  (List.range 16).foldl
    (fun d n =>
      let a := d.get Pg.tir F.TIR_EVAC_ACTIVE
      if a.testBit n && !d.anyAlloc n then (d.set Pg.tir F.TIR_EVAC_ACTIVE (clrBit a n)).raise Src.evacDone n 0xFF 7 else d) d

/-- R185, R187: the page of a migration lies at its destination. -/
def advance (d0 : Dev) (m : Mig) : Dev :=
  let d := d0.tally Pg.tir 0x0101 1
  match m.page with
  | some n => (d.finishPage m n).evacCheck
  | none =>
    let e := d.entry m.skein
    let d1 := (d.putEntry m.skein { e with progress := e.progress + 1 }).modTier fun t =>
      { t with fetches := t.fetches.filter (fun f => f.mig != m.id) }
    if e.progress + 1 = 512 then (d1.finishSkein m).evacCheck else d1.putMig { m with copying := false, waitWrite := false }

/-- R413: FORMAT, number of data lines and data of a page written to a slot: it keeps the format of its source. -/
def slotImage (src : PageLoc) (form : Nat) (ls : List MovedLine) : Nat × Nat × List (BitVec 512 × Bool) :=
  let line := fun (bs : List Nat) => BitVec.ofNat 512 (ofBytes bs)
  let packed := fun (ratio : Nat) =>
    (List.range 16).flatMap (fun b =>
      let (bytes, po) := blockOf ls b
      let s := (encodeSlot (slotSize ratio) (blockWords (if po then List.replicate 256 0 else bytes))).getD []
      (List.range (slotSize ratio / 64)).map (fun i => (line ((s.drop (64 * i)).take 64), po)))
  let f := if src.st = St.zero then 0 else if src.st = St.larder then form
    else if src.st = St.packed then (if src.ratio = 2 then 3 else 2) else 1
  match f with
  | 0 => (0, 0, [])
  | 2 => (2, 32, packed 1)
  | 3 => (3, 16, packed 2)
  | _ => (1, 64, ls.map (fun l => (line l.1, l.2)))

/-- R185, R186, R188, R413: the copy phase of a migration's page ends: the page is written at the destination, or goes to its cartridge, or the
migration fails. -/
def copyEnd (d : Dev) (m : Mig) (r : CopyResult) : Dev :=
  let e := d.entry m.skein
  let n := d.migPage m
  let dpa := pageDpa m.skein n
  let src := d.copySrc m
  let dst := d.copyDst m
  let fetch := d.migFetch m
  match r with
  | .mismatch b =>
    match d.deviceCompressor with
    | some i =>
      let (ls, d1) := d.engineRead src dpa e.owner 7 []
      let t := slotSize dst.ratio
      (d1.checkFailed i (((encodeSlot t (blockWords (blockOf ls b).1)).getD [0]).headD 0) (b2n (t == 64)) (dpa + 256 * b) e.owner 7).failMig m 6
    | none => d
  | .writeFailed => d.failMig m 7
  | .ok fs =>
    let (ls, d1) : List MovedLine × Dev :=
      match fetch with
      | some f => (f.lines.map (fun l => (if l.2 then onesLine else lineBytes l.1, l.2)), d)
      | none => d.engineRead src dpa e.owner 7 fs
    if dst.st = St.larder then
      let (form, k, data) := slotImage src (match fetch with | some f => f.form | none => 1) ls
      (d1.modCart dst.cart fun c =>
        { c with txns := c.txns ++ [{ tag := 0, op := 2, extent := dst.extent, slot := dst.slot, lines := k, form := form, data := data,
                                      gen := (d1.expGen 0 dpa).testBit 0, mig := m.id, sn := d1.sn }] }).putMig { m with waitWrite := true }
    else
      match d1.writePage dst dpa ls (dramMove m) with
      | none => d1.failMig m 5
      | some d2 => d2.advance m

/-- R185: the copy phase can end now: no earlier write to the page is in flight, its source has been read, its encoder is there (R224). -/
def copyReady (d : Dev) (m : Mig) : Bool :=
  m.copying && m.reason == 0 && !m.waitWrite && !d.writeInFlight m.skein (d.migPage m) &&
    (match d.migFetch m with | some f => f.landed | none => (d.copySrc m).st != St.larder) &&
    ((d.copyDst m).st != St.packed || d.deviceCompressor.isSome)

/-! ### Starting wanted moves (R183) -/

/-- A skein move can become possible again: its skein is still there to move. -/
def stillMoves (d : Dev) (w : Want) : Bool :=
  let e := d.entry w.skein
  d.skeinValid w.skein &&
    match w.page with
    | none => e.state == St.motion || ((e.state == St.isOpen || e.state == St.packed || e.state == St.split || e.state == St.larder) && e.state != w.state)
        || (w.cause == 8 && e.state == St.larder)
    | some n => (w.cause == 5 && e.state == St.packed) || e.state == St.split && (d.pageEntry (locFrame e.loc) n).state != w.state

/-- R196: the LD's DRAM use less the source charge of its active squeeze moves is at or below quota. -/
def squeezedEnough (d : Dev) (ld : Nat) : Bool :=
  let going := ((d.migs.filter (fun m => m.cause == 7 && (d.entry m.skein).owner == ld)).map (fun m =>
    (d.chargeLoc m.srcState m.srcRatio (d.entry m.skein).loc).1)).foldl (· + ·) 0
  decide (d.useKib ld - going ≤ d.quotaKib ld)

/-- R197: where an evacuated skein or page goes: another cartridge, else Open DRAM. -/
def evacStart (d : Dev) (w : Want) : Option Dev :=
  if (d.bestCart w.cart).isSome then d.startWant { w with state := St.larder, ratio := 0 }
  else d.startWant { w with state := St.isOpen, ratio := 0, cart := none }

/-- R197: no extent and no DRAM for an evacuated skein or page. -/
def evacStuck (d : Dev) (w : Want) : Bool :=
  (d.bestCart w.cart).isNone && (match w.page with | none => (d.freeRun 4).isNone | some n => (d.takeUnits 4 w.skein n).isNone)

/-- R183, R197: the oldest wanted move starts, or is dropped, or waits: no-fit moves, ring jobs and evacuations are waited for. -/
def startFront (d : Dev) : Dev :=
  match d.mem.tier.wants with
  | [] => d
  | w :: rest =>
    let d0 := d.modTier fun t => { t with wants := rest }
    let back := fun (d : Dev) (w : Want) => d.modTier fun t => { t with wants := t.wants ++ [w] }
    let skip := if w.job = 0 then d0 else d0.modTier fun t => { t with jobFails := t.jobFails ++ [w.job] }
    if !d.stillMoves w then skip
    else if w.cause = 7 ∧ d.squeezedEnough (d.entry w.skein).owner then d0
    else
      let d1 := if w.cause = 5 then (d0.splitForFit w.skein).getD d0 else d0
      let started :=
        if w.cause = 8 then d0.evacStart w
        else match w.cause, w.page with
          | 5, some n => if (d1.entry w.skein).state = St.split then d1.startPage w n true else none
          | _, _ => d0.startWant w
      match started with
      | some d2 => d2
      | none =>
        if w.cause = 5 ∨ w.job ≠ 0 then back d1 w
        else if w.cause = 8 then
          if d0.evacStuck w && !w.stalled then
            back (d0.raise Src.evacStalled (w.skein * 2 ^ 21) (d0.entry w.skein).owner 7) { w with stalled := true }
          else back d0 w
        else d0

/-! ### Promotion on touch (R191, R192) -/

/-- The page of a fetch still lies where it was fetched from. -/
def fetchLive (d : Dev) (f : Fetch) : Bool :=
  decide (d.locate (pageDpa f.skein f.page) false = .larder f.cart f.extent f.slot) && d.skeinValid f.skein

/-- R191: promotion is allowed for a fetch. -/
def promotes (d : Dev) (f : Fetch) : Bool := d.flag Pg.tir F.TIR_CFG_TOUCH_EN || f.touchW

/-- R191 step 3: a Larder skein first becomes Split, every page Larder at page slot n of its extent. -/
def splitLarder (d : Dev) (s : Nat) : Option Dev :=
  let e := d.entry s
  if e.state = St.split then some d
  else if e.state = St.larder then
    match d.ordinaryMap with
    | none => none
    | some map =>
      let es := (List.range 512).map (fun n => d.endEntry St.larder 0 e.loc n e.heat e.gen)
      some ((d.writeMap map es).putEntry s { e with state := St.split, loc := map, locKind := false, ratio := 0 })
  else none

/-- A fetch whose buffer nothing needs any more. -/
def dropFetch (d : Dev) (id : Nat) : Dev := d.modTier fun t => { t with fetches := t.fetches.filter (fun f => f.id != id) }

/-- R191 steps 3 and 4 for a fetch that has landed. -/
def promoteTouch (d : Dev) (f : Fetch) : Dev :=
  if f.mig ≠ 0 ∨ f.knit ∨ !f.landed then d
  else if !d.fetchLive f then d.dropFetch f.id
  else if !d.promotes f then (if f.users.isEmpty then d.dropFetch f.id else d)
  else
    match d.splitLarder f.skein with
    | none => d
    | some d1 =>
      match d1.startPage { skein := f.skein, page := some f.page, state := St.isOpen, ratio := 0, cause := 4 } f.page false with
      | none => d
      | some d2 =>
        match d2.migs.getLast? with
        | some m => (d2.putFetch { f with mig := m.id }).putMig { m with copying := true }
        | none => d2

/-- A parked request leaves the park table and enters the flow of the state it finds (R157); of a viral LD it is answered as R170 says. -/
def unpark (d : Dev) (id : Nat) : Dev :=
  match d.findReq id with
  | some r =>
    if !Parked r then d
    else if r.checked && d.isViral r.ld then d.refuse r
    else d.resume { r with locking := false, stage := .order }
  | none => d

/-- R414, R222: the lines of a fetched slot, decoded where it is packed: each with its data and its poison. -/
def decodeFetch (d : Dev) (f : Fetch) (form : Nat) (ls : List (BitVec 512 × Bool)) : List (BitVec 512 × Bool) × Dev :=
  let dpa := pageDpa f.skein f.page
  let owner := (d.entry f.skein).owner
  if form = 0 then (List.replicate 64 (0, false), d)
  else if form = 1 then ((List.range 64).map (fun j => ls.getD j (0, true)), d)
  else
    let k := if form = 2 then 2 else 1
    (List.range 16).foldl
      (fun (acc : List (BitVec 512 × Bool) × Dev) b =>
        let part := (List.range k).map (fun i => ls.getD (k * b + i) (0, true))
        let bad := List.replicate 4 (allOnes, true)
        let d := acc.2
        if part.any (·.2) then (acc.1 ++ bad, d)
        else
          match firstFrom d.cmpTakes 1 48 32 with
          | none => (acc.1 ++ bad, d.raise Src.noInline (dpa + 256 * b) owner 1)
          | some i =>
            let d1 := (d.cmpCount i F.CMP_DEC_CNT_COUNT 1).tally (Pg.cmp i) 0x0102 1
            match decodeSlot (part.flatMap (fun x => lineBytes x.1)) with
            | none => (acc.1 ++ bad, (d1.addSat (Pg.cmp i) F.CMP_FMT_CNT_COUNT 1).raise (Src.cmpFormat i) (dpa + 256 * b) owner 1)
            | some w => (acc.1 ++ (List.range 4).map (fun j => (BitVec.ofNat 512 (ofBytes (((blockBytes w).drop (64 * j)).take 64)), false)), d1))
      ([], d)

/-- R191 step 2, R414: a fetched page lands in its buffer: parked reads of the page are served, then promotion is tried. -/
def landFetch (d : Dev) (id form : Nat) (ls : List (BitVec 512 × Bool)) : Dev :=
  match d.fetches.find? (fun f => f.id == id) with
  | none => d
  | some f =>
    let (lines, d0) := d.decodeFetch f form ls
    let d1 := d0.putFetch { f with landed := true, lines := lines, form := form }
    let reads := (d1.mem.reqs.filter (fun r => r.kind.isRead && decide (r.stage = .parked .larder) &&
      decide (dpaSkein r.dpa = f.skein ∧ dpaPage r.dpa = f.page))).map (·.id)
    let d2 := reads.foldl (fun d i => d.unpark i) d1
    match d2.fetches.find? (fun f => f.id == id) with
    | some g => if g.mig = 0 then d2.promoteTouch g else d2
    | none => d2

/-- R192: waiting fetches take free buffers, in order of arrival. -/
def issueWaiting (d : Dev) : Dev :=
  (d.fetches.filter (fun f => !f.buffered)).foldl
    (fun d f => match d.fetches.find? (fun x => x.id == f.id) with
      | some g => if d.bufferFree then d.issueFetch g else d
      | none => d) d

/-- R191: promotions that could not start are tried again. -/
def retryPromotions (d : Dev) : Dev := d.fetches.foldl
  (fun d f => match d.fetches.find? (fun x => x.id == f.id) with | some g => d.promoteTouch g | none => d) d

/-! ### Pressure, squeeze, evacuation (R195 to R197) -/

/-- R195: a pressure pass: rows 5 and 6 with the cut, over all rooms in service. -/
def pressurePass (d : Dev) : Dev :=
  let cut := d.mem.tier.pressureCut
  let d1 := (d.liveRooms.flatMap roomSkeins).foldl
    (fun d s =>
      let e := d.entry s
      if d.rowOne s e then d
      else if d.rowFive e e.state e.heat (some cut) then d.wantMove { skein := s, page := none, state := St.larder, ratio := 0, cause := 6 }
      else if d.rowSix e e.state e.heat (some cut) then d.wantTrial s 6 0
      else d) d
  d1.modTier fun t => { t with pressureCut := min 255 (cut + 16) }

/-- R196: the LDs being squeezed: those over quota; "squeeze done" asserts as an LD leaves. -/
def squeezeUpdate (d : Dev) : Dev :=
  (List.range 64).foldl
    (fun d n =>
      let m := d.get Pg.tir F.TIR_SQUEEZE_LDS
      if d.overQuota n then (if m.testBit n then d else d.set Pg.tir F.TIR_SQUEEZE_LDS (setBit m n))
      else if m.testBit n then
        ((d.set Pg.tir F.TIR_SQUEEZE_LDS (clrBit m n)).modTier fun t => { t with squeezeCut := tput (fun _ => 0) t.squeezeCut n 0 }).raise
          Src.squeezeDone 0 n 7
      else d) d

/-- R196: a squeeze walk of an LD. -/
def squeezeWalk (d : Dev) (ld : Nat) : Dev :=
  let cut := tget (fun _ => 0) d.mem.tier.squeezeCut ld
  let rooms := d.liveRooms.filter (fun r => let x := d.room r; x.owner == ld && x.squeeze && x.larderOk && !x.pinned)
  let d1 := (rooms.flatMap roomSkeins).foldl
    (fun d s =>
      let e := d.entry s
      if !d.rowOne s e && (e.state == St.isOpen || e.state == St.packed || e.state == St.split) && decide (e.heat ≤ cut) then
        d.wantMove { skein := s, page := none, state := St.larder, ratio := 0, cause := 7 }
      else d) d
  d1.modTier fun t => { t with squeezeCut := tput (fun _ => 0) t.squeezeCut ld (min 255 (cut + 16)) }

/-- The skein moves and page moves that empty an extent of a cartridge. -/
def evacWants (d : Dev) (n extent : Nat) : List Want :=
  ((List.range (d.winRooms * 512)).filter (d.skeinValid ·)).flatMap fun s =>
    let e := d.entry s
    if e.state = St.larder ∧ e.loc = larderLoc n extent then [{ skein := s, page := none, state := St.larder, ratio := 0, cause := 8, cart := some n }]
    else if e.state = St.split then
      ((List.range 512).filter (fun p => pageExtent (d.pageEntry (locFrame e.loc) p) == some (n * 2 ^ 27 + extent))).map fun p =>
        { skein := s, page := some p, state := St.larder, ratio := 0, cause := 8, cart := some n }
    else []

/-- R197, R426: the evacuation of a cartridge: what lies on it, in ascending extent number, is to move. -/
def evacuate (d : Dev) (n : Nat) : Dev :=
  let d1 := d.set Pg.tir F.TIR_EVAC_ACTIVE (setBit (d.get Pg.tir F.TIR_EVAC_ACTIVE) n)
  let d2 := if d1.ctgGet n F.CTG_STS_STATE = 3 then d1.ctgSet n F.CTG_STS_STATE 4 else d1
  let ws := ((d2.cart n).alloc.map (·.1)).flatMap (d2.evacWants n)
  (ws.foldl (fun d w => d.wantMove w) d2).evacCheck

/-! ### The fill engine (R200, R201) -/

/-- R201: an unmarked line of a frame is written as its holder would write zeros. -/
def fillLine (d : Dev) (f i : Nat) : Dev :=
  let dra := f * 2 ^ 19 + 64 * i
  let m : LineMeta :=
    match d.frameUse f with
    | .whole s =>
      let e := d.entry s
      let atDst := e.state == St.motion && decide (locFrame e.dstLoc ≤ f ∧ f < locFrame e.dstLoc + wholeFrames e.dstState e.dstRatio)
      let st := if e.state = St.motion then (if atDst then e.dstState else e.srcState) else e.state
      let ratio := if atDst then e.dstRatio else e.ratio
      let off := dra - locFrame (if atDst then e.dstLoc else e.loc) * 2 ^ 19
      if st = St.packed then
        let b := s * 2 ^ 21 + 256 * (off / slotSize ratio)
        { gen := d.expGen 1 b, tier := 1, a := slotAddr b (off % slotSize ratio / 64) }
      else { gen := d.expGen 0 (s * 2 ^ 21 + off), tier := 0, a := lineAddr (s * 2 ^ 21 + off) }
    | _ => { gen := d.expGen 3 dra, tier := 3, a := dra >>> 6 }
  ((d.markWritten dra).setSide dra m |>.bursts (d.place dra).1 true false 1).tally Pg.tir 0x0105 1

/-- R201: an unwiped frame held whole by an Open or Packed skein. -/
def fillNext (d : Dev) : Option Nat :=
  (d.mem.store.frames.find? (fun x =>
    match x.2 with
    | .whole s =>
      let e := d.entry s
      !d.frameWiped x.1 && (d.fillingOf x.1).isNone && (e.state == St.isOpen || e.state == St.packed || e.state == St.motion)
    | _ => false)).map (·.1)

/-- R201: the fill engine writes up to `n` lines, oldest filling frame first. -/
def fillLines : Nat → Dev → Dev
  | 0, d => d
  | n + 1, d =>
    match d.mem.store.filling with
    | x :: _ =>
      match (List.range 8192).find? (fun i => !(x.marks.testBit i)) with
      | some i => fillLines n (d.fillLine x.frame i)
      | none => fillLines n (d.fillDone x.frame)
    | [] =>
      match d.fillNext with
      | none => d
      | some f => fillLines n (d.modStore fun s => { s with filling := s.filling ++ [⟨f, 0⟩] })

/-- R201: the condition of "wipe done". -/
def wipeCond (d : Dev) : Bool := d.mem.store.filling.isEmpty && d.fillNext.isNone

/-! ### Clears and releases (R117, R131, R203) -/

/-- Writes past the gate to skeins that are freed: each becomes visible before the freeing and is lost with it. -/
def endWrites (d : Dev) (p : Nat → Bool) : Dev :=
  (d.mem.reqs.filter (fun r => r.kind.isWrite && p (dpaSkein r.dpa) &&
    (match r.stage with | .queue | .issued | .encode | .fillWait | .wqWait => true | _ => false))).foldl (fun d r => d.answerCmp r) d

/-- R117, R203: every held line of the skeins is recalled. -/
def recallWork (d : Dev) (p : Nat → Bool) : Dev :=
  (d.mem.pat.dir.filter (fun w => p (w.line / 2 ^ 15) && (d.snoopOf w.line).isNone)).foldl
    (fun d w => d.issueSnoop w.line w.holders 2 0 true) d

/-- Wanted moves and trials of skeins that are freed end. -/
def forgetWants (d : Dev) (p : Nat → Bool) : Dev :=
  let gone := ((d.mem.tier.wants.filter (fun w => p w.skein)).map (·.job) ++ (d.mem.tier.trials.filter (fun t => p t.skein)).map (·.job)).filter (· != 0)
  d.modTier fun t => { t with wants := t.wants.filter (fun w => !p w.skein), trials := t.trials.filter (fun x => !p x.skein),
                              jobFails := t.jobFails ++ gone }

/-- A skein without storage: zero-pending, or unbacked. -/
def emptied (e : Entry) (st : Nat) : Entry :=
  { e with state := st, gen := false, ratio := 0, heat := 0, locValid := false, locKind := false, moveId := 0, loc := 0, srcState := 0,
           dstState := 0, dstRatio := 0, dstKind := false, dstGen := false, progress := 0, dstLoc := 0 }

/-- R131, R117: the storage of a skein is freed and it is left in state `st` with no storage. -/
def freeTo (d : Dev) (s st : Nat) (dcAcc : Bool) : Dev :=
  let e := d.entry s
  let d1 := (d.recharge s e (emptied e st)).freeSkein s
  let d2 := d1.modPat fun p => { p with bad := p.bad.filter (· != s) }
  let e' := { emptied e st with dcAcc := dcAcc }
  if (d2.cached s).isSome then d2.setCached s e' else d2.writeTable s e'

/-- R203 step 3: the clear of one skein. -/
def clearSkein (d : Dev) (s : Nat) : Dev :=
  let e := d.entry s
  if e.state = St.unbacked ∧ d.skeinValid s then d
  else if d.skeinValid s ∧ e.state = St.isOpen then
    (List.range 4).foldl (fun d i => d.unwipe (locFrame e.loc + i)) (d.putEntryQuiet s { e with state := St.zero, heat := 0 })
  else if d.skeinValid s ∧ e.state = St.zero then d.putEntryQuiet s { e with heat := 0 }
  else d.freeTo s St.zero e.dcAcc

/-- The skeins whose OWNER is an LD. -/
def skeinsOf (d : Dev) (ld : Nat) : List Nat := (List.range (d.winRooms * 512)).filter (fun s => (d.entry s).owner == ld)

/-- R203: every skein of an LD is cleared. -/
def clearLd (d : Dev) (ld : Nat) : Dev :=
  let ss := d.skeinsOf ld
  let p := fun s => ss.contains s
  let d1 := (((d.settleAll (fun m => p m.skein) 4).forgetWants p).recallWork p).endWrites p
  (ss.foldl (fun d s => d.clearSkein s) d1).evacCheck

/-- R131: skeins are released: settled with REASON 3, freed, zero-pending, DC_ACC cleared. -/
def releaseSkeins (d : Dev) (ss : List Nat) : Dev :=
  let p := fun s => ss.contains s
  let d1 := ((d.settleAll (fun m => p m.skein) 3).forgetWants p).endWrites p
  (ss.foldl (fun d s => d.freeTo s St.zero false) d1).evacCheck

/-! ### The commands -/

/-- The tier engine runs. -/
def tierOn (d : Dev) : Bool := d.enabled Pg.tir && d.pageReady Pg.tir && !d.frogOn Pg.tir

/-- SCANNER_VISIT. -/
def visit : Effect := when (fun d => d.tierOn && d.flag Pg.tir F.TIR_CFG_SCAN_EN && !d.quiesced) Dev.scanVisit

/-- PACK_TRIAL_COMPLETE. -/
def trialEnd (skein : Nat) (bad : List Nat) : Effect := fun d =>
  match d.mem.tier.trials.find? (fun t => t.skein == skein), d.deviceCompressor with
  | some t, some i => d.trialDone t bad i
  | _, _ => d

/-- COPY_PHASE_END. -/
def copyPhaseEnd (id : Nat) (r : CopyResult) : Effect := fun d =>
  match d.findMig id with
  | some m => if d.copyReady m then ((d.copyEnd m r).kick).pump else d
  | none => d

/-- MIGRATION_SETTLE. -/
def settle (id reason : Nat) : Effect := fun d =>
  match d.findMig id with
  | some m => if m.reason = reason ∧ reason ≠ 0 then ((d.settleNow m).evacCheck.kick).pump else d
  | none => d

/-- TIR_EVAC_REQUEST: bits of cartridges that are not being evacuated. -/
def evacRequest (v : Nat) : Effect := fun d =>
  (((List.range 16).filter (fun n => v.testBit n && !(d.get Pg.tir F.TIR_EVAC_ACTIVE).testBit n)).foldl (fun d n => d.evacuate n) d).pump

end Dev

/-- R178 to R180: SCANNER_VISIT. -/
def execScannerVisit (s : State) : Host.Outcome State Fault Refusal := s.run Dev.visit

/-- R182, R217, R218: PACK_TRIAL_COMPLETE; `mismatches` are the blocks (16 × page + block) whose check failed. -/
def execPackTrialComplete (skein : Nat) (mismatches : List Nat) (s : State) : Host.Outcome State Fault Refusal :=
  s.run (Dev.trialEnd skein mismatches)

/-- R183, R184: MIGRATION_START. -/
def execMigrationStart (s : State) : Host.Outcome State Fault Refusal :=
  s.run (when (fun d => d.tierOn && !d.quiesced) (fun d => d.startFront.pump))

/-- R185 to R187: COPY_PHASE_END. -/
def execCopyPhaseEnd (id : Nat) (r : CopyResult) (s : State) : Host.Outcome State Fault Refusal := s.run (Dev.copyPhaseEnd id r)

/-- R189: MIGRATION_SETTLE. -/
def execMigrationSettle (id : Nat) (reason : Nat) (s : State) : Host.Outcome State Fault Refusal := s.run (Dev.settle id reason)

/-- R191: PROMOTION_RETRY. -/
def execPromotionRetry (s : State) : Host.Outcome State Fault Refusal := s.run (fun d => (d.retryPromotions.kick).pump)

/-- R192: FETCH_BUFFER_FREED. -/
def execFetchBufferFreed (s : State) : Host.Outcome State Fault Refusal := s.run (fun d => d.issueWaiting.pump)

/-- R195: FRAME_PRESSURE_PASS. -/
def execFramePressurePass (s : State) : Host.Outcome State Fault Refusal :=
  s.run (when (fun d => d.tierOn && d.mem.tier.pressure && !d.quiesced) Dev.pressurePass)

/-- R196: SQUEEZE_WALK. -/
def execSqueezeWalk (ld : Nat) (s : State) : Host.Outcome State Fault Refusal :=
  s.run (fun d =>
    let d1 := d.squeezeUpdate
    if d1.tierOn && decide (ld < 64) && (d1.get Pg.tir F.TIR_SQUEEZE_LDS).testBit ld && !d1.quiesced then d1.squeezeWalk ld else d1)

/-- R197: TIR_EVAC_REQUEST. -/
def execTirEvacRequest (a : Agent) (v : BitVec 32) (s : State) : Host.Outcome State Fault Refusal :=
  s.run (Dev.writeTo v.toNat a Pg.tir 0x178 (Dev.evacRequest (v.toNat % 2 ^ 16)))

/-- R201: FILL_ENGINE_WINDOW. -/
def execFillEngineWindow (s : State) : Host.Outcome State Fault Refusal :=
  s.run (when (fun d => d.pageReady Pg.tir && !(d.flag Pg.pwr F.PWR_STS_IN_PROGRESS && d.pwr.target == 2))
    (fun d => Dev.fillLines (d.get Pg.tir F.TIR_WIPE_CFG_LINES) d))

/-- R200: FILL_SLOT_FREED: the oldest filling frame has been completed, and writes that waited go on. -/
def execFillSlotFreed (s : State) : Host.Outcome State Fault Refusal :=
  s.run (when (fun d => d.mem.reqs.any (fun r => decide (r.stage = .fillWait))) fun d =>
    let d1 := if d.mem.store.filling.length < 2048 then d else d.completeOldest
    (((d1.mem.reqs.filter (fun r => decide (r.stage = .fillWait))).foldl (fun d r => d.retryWrite r) d1).kick).pump)

end Sys2Proof.Machine
end

