-- ==== Sys2Proof/Machine/Larder.lean ====
section
/-! DEFINITION. Cartridges (chapter 14): the attach exchange (R409, R410), the answers to transactions (R414 to R420), wear (R424, R425), evacuation
and retirement (R426), reclaim (R423). -/

namespace Sys2Proof.Machine

/-- R411: the data lines of a slot by FORMAT; `none` for a FORMAT that is not defined. -/
def formatLines (form : Nat) : Option Nat :=
  match form with | 0 => some 0 | 1 => some 64 | 2 => some 32 | 3 => some 16 | _ => none

namespace Dev

def cartState (d : Dev) (n : Nat) : Nat := d.ctgGet n F.CTG_STS_STATE
def attachTo (d : Dev) : Nat := max 7813 (d.get Pg.ctg F.CTG_ATTACH_TO_STITCHES)

/-- A MGMT or KEY request of the device takes the next tag of 0x8000 to 0x80FF (R417). -/
def sendMgmt (d : Dev) (n : Nat) (b : PktBody) : Dev :=
  let t := 0x8000 + (d.cart n).nextMgmt
  (d.modCart n fun c => { c with mgmt := some t, nextMgmt := (c.nextMgmt + 1) % 256 }).sendPkt n t b

/-- The end of an attach: CTG_ATTACH reads 0 for the port. -/
def endAttach (d : Dev) (n : Nat) : Dev :=
  (d.modCart n fun c => { c with step := 0, mgmt := none }).set Pg.ctg F.CTG_ATTACH_GO (clrBit (d.get Pg.ctg F.CTG_ATTACH_GO) n)

/-- R409: attach starts. -/
def attachStart (d : Dev) (n : Nat) : Dev :=
  if d.enabled Pg.ctg && d.linkActive n && (d.cartState n == 0 || 5 ≤ d.cartState n) then
    ((((d.ctgSet n F.CTG_STS_STATE 1).ctgSet n F.CTG_STS_REASON 0).modCart n fun c =>
      { c with step := 1, startSn := d.sn, ident := none, chainRead := 0 }).set Pg.ctg F.CTG_ATTACH_GO
        (setBit (d.get Pg.ctg F.CTG_ATTACH_GO) n)).sendMgmt n .identifyReq
  else d

/-- R409, R410: an attach that fails: Rejected, the link is taken down and AUTO_UP cleared. -/
def reject (d : Dev) (n reason : Nat) : Dev :=
  let d1 := (((d.endAttach n).lset n F.YP_CTL_AUTO_UP 0).enterDown n)
  ((d1.ctgSet n F.CTG_STS_STATE 6).ctgSet n F.CTG_STS_REASON reason).raise Src.ctgRejected n 0xFF 0

/-- R409 step 1, R421: the checks on IDENTIFY: 0, or the REASON of a failure. -/
def identCheck (d : Dev) (n : Nat) (b : IdentifyBody) : Nat :=
  if b.extents = 0 ∨ 2 ^ 27 < b.extents ∨ b.maxCmds = 0 ∨ b.window < 5200 then 6
  else if (List.range 16).any (fun m => m != n && d.anyAlloc m && (d.cart m).bound == some b.serial) then 7
  else if d.anyAlloc n && ((d.cart n).bound != some b.serial || (d.cart n).boundCap != b.extents) then 7
  else 0

/-- R424: wear and budget as last reported. -/
def setWear (d : Dev) (n wear budget : Nat) : Dev := (d.ctgSet n F.CTG_WEAR_WEAR wear).ctgSet n F.CTG_BUDGET_BUDGET budget

/-- R426: the cartridge manager asks for evacuation. -/
def askEvac (d : Dev) (n : Nat) : Dev :=
  if (d.get Pg.tir F.TIR_EVAC_ACTIVE).testBit n then d else d.evacuate n

/-- R424, R425: what a report of wear and flags brings, each once for each crossing. -/
def wearReport (d : Dev) (n wear budget : Nat) (ro degraded : Bool) : Dev :=
  let level := if budget = 0 then 1000 else 1000 * wear / budget
  let warn := decide (d.get Pg.ctg F.CTG_WEAR_CFG_WARN ≤ level)
  let evac := decide (min 1000 (d.get Pg.ctg F.CTG_WEAR_CFG_EVAC) ≤ level)
  let c := d.cart n
  let newRo := ro && d.ctgGet n F.CTG_STS_RO == 0
  let newDeg := degraded && d.ctgGet n F.CTG_STS_DEGRADED == 0
  let d1 := ((d.setWear n wear budget).ctgSet n F.CTG_STS_RO (b2n ro)).ctgSet n F.CTG_STS_DEGRADED (b2n degraded)
  let d2 := if warn && !c.warned then d1.raise Src.ctgWearWarn n 0xFF 0 else d1
  let d3 := if newRo then d2.raise Src.ctgReadOnly n 0xFF 0 else d2
  let d4 := d3.modCart n fun c => { c with warned := warn, evacAsked := evac }
  if (evac && !c.evacAsked) || newRo || newDeg then d4.askEvac n else d4

/-- R394: a message that answers no request of the device. -/
def mgmtFor (d : Dev) (n tag : Nat) (step : Nat) : Bool := (d.cart n).mgmt == some tag && (d.cart n).step == step

/-- The frame of a MGMT or KEY answer on a port: received under R388 to R391, then for the step it answers. -/
def onMgmt (n : Nat) (h : YarnHeader) (ok : Dev → Bool) (f : Dev → Dev) : Effect := fun d =>
  if 16 ≤ n ∨ d.linkOff n then d
  else
    match d.receive n h true with
    | (false, d1) => d1
    | (true, d1) => if ok d1 then f d1 else d1.unexpected n h.tag

/-- R409 step 1. -/
def identify (n : Nat) (h : YarnHeader) (b : IdentifyBody) : Effect :=
  onMgmt n h (fun d => d.mgmtFor n h.tag 1) fun d =>
    let why := d.identCheck n b
    if why ≠ 0 then d.reject n why
    else
      let s := b.serial.toNat
      let d1 := ((d.ctgSet n F.CTG_SERIAL_LO_SERIAL (s % 2 ^ 64)).ctgSet n F.CTG_SERIAL_HI_SERIAL (s / 2 ^ 64)).ctgSet n F.CTG_CAP_EXTENTS b.extents
      let d2 := ((d1.setWear n b.wear b.budget).ctgSet n F.CTG_STS_RO (b2n b.readOnly)).ctgSet n F.CTG_STS_DEGRADED (b2n b.degraded)
      (d2.modCart n fun c => { c with step := 2, ident := some b, chainRead := 0 }).sendMgmt n (.certReq 0)

/-- R409 step 2; `verdict` is what the chain, once read, comes to: 0 valid, 1 malformed, 2 no trust anchor. -/
def certPart (n : Nat) (h : YarnHeader) (bytes verdict : Nat) : Effect :=
  onMgmt n h (fun d => d.mgmtFor n h.tag 2) fun d =>
    let len := match (d.cart n).ident with | some b => b.chainLen | none => 0
    let read := (d.cart n).chainRead + bytes
    if len = 0 ∨ 4096 < len ∨ 1020 < bytes ∨ (read < len ∧ bytes = 0) then d.reject n 1
    else if read < len then (d.modCart n fun c => { c with chainRead := read }).sendMgmt n (.certReq read)
    else if verdict = 0 then
      ((d.modCart n fun c => { c with step := 3, chainRead := read, nonceDraw := d.fresh }).draw).sendMgmt n (.challenge (Config.nonce d.fresh))
    else d.reject n (if verdict = 2 then 2 else 1)

/-- R409 step 3. -/
def certSignature (n : Nat) (h : YarnHeader) (ok : Bool) : Effect :=
  onMgmt n h (fun d => d.mgmtFor n h.tag 3) fun d =>
    if ok then ((d.modCart n fun c => { c with step := 4 }).draw).sendMgmt n (.keyInit (Config.nonce d.fresh)) else d.reject n 3

/-- R409 steps 4 and 5. -/
def keyResponse (n : Nat) (h : YarnHeader) (ok : Bool) : Effect :=
  onMgmt n h (fun d => d.mgmtFor n h.tag 4) fun d =>
    if ok then
      let d1 := (((d.sendMgmt n .keyConfirm).endAttach n).lset n (fSecure n) 1).ctgSet n F.CTG_STS_STATE 2
      (d1.raise Src.ctgAuth n 0xFF 0).flush n
    else d.reject n 4

/-- R409: CTG_ATTACH_TO. -/
def attachTimeout (n : Nat) : Effect :=
  when (fun d => decide (n < 16) && d.cartState n == 1 && decide ((d.cart n).startSn + d.attachTo ≤ d.sn)) fun d => d.reject n 5

/-- R409 step 6, R421: admission. -/
def admitCartridge (d : Dev) (n : Nat) : Dev :=
  if d.cartState n ≠ 2 then d
  else
    let b := (d.cart n).ident
    let serial := b.map (·.serial)
    let d1 := d.modCart n fun c =>
      { c with clean := if c.bound = serial then c.clean else [], bound := serial, boundCap := (b.map (·.extents)).getD 0, pollSn := d.sn,
               warned := false, evacAsked := false }
    ((d1.ctgSet n F.CTG_STS_STATE 3).ctgSet n F.CTG_ATTACH_SN_SN d.sn).wearReport n (d1.ctgGet n F.CTG_WEAR_WEAR) (d1.ctgGet n F.CTG_BUDGET_BUDGET)
      (d1.ctgGet n F.CTG_STS_RO == 1) (d1.ctgGet n F.CTG_STS_DEGRADED == 1)

/-! ### Answers (R414 to R420) -/

/-- The outstanding transaction of a tag. -/
def txnOf (d : Dev) (n tag : Nat) : Option Txn := (d.outstanding n).find? (fun t => t.tag == tag)

/-- R419: an answer to a detached transaction is discarded in silence; any other without a transaction is unexpected. -/
def strayAnswer (d : Dev) (n tag : Nat) : Dev :=
  if (d.cart n).dead.contains tag || (d.cart n).txns.any (fun t => t.sent && t.detached && t.tag == tag) then d else d.unexpected n tag

def endTxn (d : Dev) (n tag : Nat) : Dev :=
  (d.modCart n fun c => { c with txns := c.txns.filter (fun t => !(t.sent && !t.detached && t.tag == tag)) }).syncTxn n

/-- R414, R420, R248, R258: the lines of a fetched slot as the device accepts them: FORMAT and, for each line, data and poison; and what the fetch
raises. An answer with LINES 0 stands for a slot that reads zeros (R408, R411). -/
def acceptSlot (d : Dev) (n : Nat) (f : Fetch) (t : Txn) (b : RspBody) : Nat × List (BitVec 512 × Bool) × Dev :=
  let dpa := pageDpa f.skein f.page
  let owner := (d.entry f.skein).owner
  let allBad := List.replicate 64 (allOnes, true)
  let failed := fun (d : Dev) => d.raise (Src.larderTagFail n) dpa owner 1
  if b.status ≠ 0 ∧ b.status ≠ 1 then (1, allBad, failed d)
  else
    let d1 := if b.status = 1 then d.raise Src.ctgMediaError dpa owner 1 else d
    if b.count = 0 then (0, [], d1)
    else if !b.dirOk || formatLines b.format != some b.dirLines || b.dirLines != b.count || t.got.length != b.count then (1, allBad, failed d1)
    else
      let exp := d.expGen 0 dpa % 2 == 1
      let ls := t.got.zipIdx.map fun x =>
        let masked := b.status == 1 && b.mask.getLsbD x.2
        let bad := !masked && (!x.1.tagOk || x.1.gen != exp)
        ((x.1.data, x.1.poison || masked || bad), bad)
      let anyBad := ls.any (·.2)
      let stale := !d1.reknit && t.got.any (fun x => x.gen != exp)
      let d2 := if anyBad then failed d1 else d1
      (b.format, ls.map (·.1), if stale then d2.raise Src.genRetired dpa owner 1 else d2)

/-- R416, R420: the answer to a WRITE_SLOT of a migration or of the Re-knit walk. -/
def writeAnswered (d : Dev) (t : Txn) (status : Nat) : Dev :=
  if t.knit then
    if status = 0 then d.modMem fun m => { m with cry := { m.cry with yStage := 3 } }
    else (d.setFlag Pg.cry F.CRY_REKNIT_STS_WAIT_PORT true).modMem fun m => { m with cry := { m.cry with yStage := 0 } }
  else
    match d.findMig t.mig with
    | none => d
    | some m =>
      if !m.waitWrite || m.reason != 0 then d
      else if status = 0 then d.advance m
      else (d.raise Src.ctgWriteFailed (pageDpa m.skein (d.migPage m)) (d.entry m.skein).owner 7).failMig m 7

/-- R416: RSP. -/
def rxRsp (n : Nat) (h : YarnHeader) (b : RspBody) : Effect := fun d =>
  if 16 ≤ n ∨ d.linkOff n then d
  else
    match d.receive n h false with
    | (false, d1) => d1
    | (true, d1) =>
      match d1.txnOf n h.tag with
      | none => d1.strayAnswer n h.tag
      | some t =>
        let d2 := d1.endTxn n h.tag
        let d3 :=
          if t.op = 1 then
            match d2.fetches.find? (fun f => f.id == t.fetch) with
            | none => d2
            | some f =>
              let (form, ls, d3) := d2.acceptSlot n f t b
              if f.knit then -- R256
                let dpa := pageDpa f.skein f.page
                let exp := d2.expGen 0 dpa % 2 == 1
                let bad := b.status != 0 || (b.count != 0 && !b.dirOk) || t.got.any (fun x => !x.tagOk || x.gen != exp)
                let d4 := d3.putFetch { f with landed := true, lines := ls, form := form }
                if bad then d4.raise Src.reknitFailed dpa (d.entry f.skein).owner 8 else d4
              else d3.landFetch f.id form ls
          else if t.op = 2 then d2.writeAnswered t b.status
          else if b.status = 0 then d2.modCart n fun c => { c with clean := tput (fun _ => false) c.clean t.extent true }
          else d2
        (d3.kick).pump

/-- R415: DATA of a READ_SLOT. -/
def rxData (n : Nat) (h : YarnHeader) (ls : List CartLine) : Effect := fun d =>
  if 16 ≤ n ∨ d.linkOff n then d
  else
    match d.receive n h false with
    | (false, d1) => d1
    | (true, d1) =>
      match d1.txnOf n h.tag with
      | some t => if t.op = 1 then d1.modTxn n (fun x => x == t) (fun x => { x with got := x.got ++ ls }) else d1.unexpected n h.tag
      | none => d1.strayAnswer n h.tag

/-- R423: a command is unanswered CTG_TXN_TO stitches after it was sent. -/
def txnTimeout (n tag : Nat) : Effect := fun d =>
  match d.txnOf n tag with
  | none => d
  | some t =>
    if d.sn < t.sn + max 64 (d.get Pg.ctg F.CTG_TXN_TO_STITCHES) then d
    else
      let d1 := d.raise Src.ctgTxnTimeout tag 0xFF 0
      if t.reissued then (d1.enterDown n).pump
      else
        let d2 := d1.modTxn n (fun x => x == t) (fun x => { x with detached := true })
        match (d2.cart n).txns.find? (fun x => x.sent && x.detached && x.tag == tag) with
        | some x => if d2.portOpen n then d2.issueTxn n x else d2
        | none => d2

/-! ### Wear and retirement (R424, R426) -/

def wearMsg (n : Nat) (h : YarnHeader) (b : WearBody) : Effect :=
  onMgmt n h (fun d => decide (2 ≤ d.cartState n ∧ d.cartState n ≤ 4) && (h.tag == 0 || (d.cart n).mgmt == some h.tag)) fun d =>
    ((if h.tag = 0 then d else d.modCart n fun c => { c with mgmt := none }).wearReport n b.wear b.budget b.readOnly b.degraded).pump

/-- R426: when "evacuation done" is dispatched for a port the manager sends RETIRE. -/
def retireStart (d : Dev) (n : Nat) : Dev :=
  if d.cartState n = 3 ∨ d.cartState n = 4 then
    (d.modCart n fun c => { c with retireSn := some d.sn }).sendMgmt n .retire
  else d

/-- R426 steps 2 and 3. -/
def retireEnd (d : Dev) (n : Nat) : Dev :=
  let d1 := (d.lset n F.YP_CTL_AUTO_UP 0).enterDown n
  ((d1.modCart n fun c => { c with retireSn := none, bound := none, mgmt := none, clean := [] }).ctgSet n F.CTG_STS_STATE 5).raise Src.ctgRetired n 0xFF 0

def retireTimeout (n : Nat) : Effect := fun d =>
  match (d.cart n).retireSn with
  | some sn => if n < 16 ∧ sn + d.attachTo ≤ d.sn then d.retireEnd n else d
  | none => d

/-- R423: DEALLOCs for free extents that are not CLEAN, for one Gauge window. -/
def reclaim (d : Dev) : Dev :=
  if !d.enabled Pg.ctg || !d.flag Pg.ctg F.CTG_CFG_RECLAIM_EN then d
  else
    ((List.range 16).foldl
      (fun d n =>
        if d.cartState n ≠ 3 then d
        else
          let due := fun e => !d.extAlloc n e && !d.extClean n e && !(d.cart n).txns.any (fun t => t.op == 3 && t.extent == e)
          let es := (((List.range (d.ctgGet n F.CTG_CAP_EXTENTS)).filter due).take (d.get Pg.ctg F.CTG_RECLAIM_EXTENTS))
          d.modCart n fun c =>
            { c with txns := c.txns ++ es.map (fun e => { tag := 0, op := 3, extent := e, slot := 0, sn := d.sn }) }) d).pump

/-- R424: WEAR_REQ to each port whose poll is due. -/
def wearPoll (d : Dev) : Dev :=
  let every := d.get Pg.ctg F.CTG_WEAR_POLL_STITCHES
  if every = 0 then d
  else
    (List.range 16).foldl
      (fun d n =>
        if (d.cartState n = 3 ∨ d.cartState n = 4) ∧ (d.cart n).pollSn + every ≤ d.sn then
          (d.modCart n fun c => { c with pollSn := d.sn }).sendMgmt n .wearReq
        else d) d

end Dev

/-- R409: CTG_ATTACH_WRITE. -/
def execCtgAttachWrite (a : Agent) (v : BitVec 32) (s : State) : Host.Outcome State Fault Refusal :=
  s.run (Dev.writeTo v.toNat a Pg.ctg 0x120 fun d => (bitList 16 v.toNat).foldl (fun d n => d.attachStart n) d)

/-- R409 step 1, R417: IDENTIFY. -/
def execIdentify (port : Nat) (h : YarnHeader) (b : IdentifyBody) (s : State) : Host.Outcome State Fault Refusal := s.run (Dev.identify port h b)

/-- R409 step 2: CERT. -/
def execCert (port : Nat) (h : YarnHeader) (bytes verdict : Nat) (s : State) : Host.Outcome State Fault Refusal :=
  s.run (Dev.certPart port h bytes verdict)

/-- R409 step 3: SIGNATURE. -/
def execSignature (port : Nat) (h : YarnHeader) (ok : Bool) (s : State) : Host.Outcome State Fault Refusal := s.run (Dev.certSignature port h ok)

/-- R409 steps 4 and 5, R388: CARTRIDGE_KEY_RESPONSE. -/
def execCartridgeKeyResponse (port : Nat) (h : YarnHeader) (ok : Bool) (s : State) : Host.Outcome State Fault Refusal :=
  s.run (Dev.keyResponse port h ok)

/-- R409, R410: CTG_ATTACH_TIMEOUT. -/
def execCtgAttachTimeout (port : Nat) (s : State) : Host.Outcome State Fault Refusal := s.run (Dev.attachTimeout port)

/-- R409 step 6, R421: CTG_ADMIT_WRITE. -/
def execCtgAdmitWrite (a : Agent) (v : BitVec 32) (s : State) : Host.Outcome State Fault Refusal :=
  s.run (Dev.writeTo v.toNat a Pg.ctg 0x124 fun d => ((bitList 16 v.toNat).foldl (fun d n => d.admitCartridge n) d).pump)

/-- R414, R416, R420: YARN_RX_RSP. -/
def execYarnRxRsp (port : Nat) (h : YarnHeader) (b : RspBody) (s : State) : Host.Outcome State Fault Refusal := s.run (Dev.rxRsp port h b)

/-- R415: YARN_RX_DATA. -/
def execYarnRxData (port : Nat) (h : YarnHeader) (lines : List CartLine) (s : State) : Host.Outcome State Fault Refusal :=
  s.run (Dev.rxData port h lines)

/-- R424, R425: WEAR. -/
def execWear (port : Nat) (h : YarnHeader) (b : WearBody) (s : State) : Host.Outcome State Fault Refusal := s.run (Dev.wearMsg port h b)

/-- R426: RETIRE_ACK. -/
def execRetireAck (port : Nat) (h : YarnHeader) (s : State) : Host.Outcome State Fault Refusal :=
  s.run (Dev.onMgmt port h (fun d => (d.cart port).retireSn.isSome && (d.cart port).mgmt == some h.tag) (fun d => d.retireEnd port))

/-- R426: RETIRE_TIMEOUT. -/
def execRetireTimeout (port : Nat) (s : State) : Host.Outcome State Fault Refusal := s.run (Dev.retireTimeout port)

/-- R423: RECLAIM_WINDOW. -/
def execReclaimWindow (s : State) : Host.Outcome State Fault Refusal := s.run Dev.reclaim

/-- R419, R423: CTG_TXN_TIMEOUT. -/
def execCtgTxnTimeout (port : Nat) (tag : Nat) (s : State) : Host.Outcome State Fault Refusal := s.run (Dev.txnTimeout port tag)

/-- R424: WEAR_POLL. -/
def execWearPoll (s : State) : Host.Outcome State Fault Refusal := s.run Dev.wearPoll

end Sys2Proof.Machine
end

