-- ==== Sys2Proof/Machine/Requests.lean ====
section
/-! DEFINITION. The commands of the memory path (chapters 3 to 5): the M2S messages of R141, the events that carry a request on (misses, captures, gates,
snoops, parks, compressors), and the commands of the PAT page (R115 to R117, R129, R139). -/

namespace Sys2Proof.Machine

namespace Dev

/-- What every memory command leaves to do: requests that can go on, and packets to send. -/
def after (d : Dev) : Dev := (d.kick).pump

/-- R84: a message of an LD is taken from a link that is up, by an LD that is bound. -/
def hears (d : Dev) (r : MemReq) : Bool :=
  decide (r.port < 4 ∧ r.half < 2 ∧ r.ldId < 16) && (d.link r.port r.half).up && d.bound (16 * r.port + r.ldId)

/-- The request that an M2S message brings. -/
def reqOf (k : MemKind) (r : MemReq) : Req :=
  { id := 0, kind := k, ld := 16 * r.port + r.ldId, port := r.port, half := r.half, tag := r.tag, addr := r.addr / 64 * 64, metaVal := r.metaVal }

/-- An M2S request is accepted (R141, R150). -/
def message (k : MemKind) (r : MemReq) : Effect := when (fun d => d.hears r) fun d => (d.accept (reqOf k r)).after

/-- R141, R149: the DPA of a host address, or the address itself where it maps to none. -/
def dpaOr (d : Dev) (ld addr : Nat) : Nat :=
  match d.hdmDecode ld addr with
  | some (off, _) => (d.translate ld off).getD addr
  | none => addr

/-- R141: an opcode that the port does not take: raised, and answered as unsupported. -/
def badOpcode (r : MemReq) : Effect := when (fun d => d.hears r) fun d =>
  let ld := 16 * r.port + r.ldId
  (d.raise (Src.hpBadOpcode r.port) (d.dpaOr ld r.addr) ld 0).emit (.memCmp ld r.tag r.metaVal (d.ld ld).devLoad)

/-! ### Snoops (R162 to R165) -/

/-- The answer of one holder: the last one ends the snoop; an evicted line leaves the directory, a request's coherence step is done. -/
def snoopAnswer (d : Dev) (line ld : Nat) : Dev :=
  match d.snoopOf line with
  | none => d
  | some s =>
    if !s.waiting.testBit ld then d
    else
      let w := clrBit s.waiting ld
      if w ≠ 0 then d.modPat fun p => { p with snoops := p.snoops.map (fun x => if x = s then { s with waiting := w } else x) }
      else
        let d1 := d.modPat fun p => { p with snoops := p.snoops.filter (fun x => x != s) }
        if s.evict then d1.setDir line false 0
        else match d1.findReq s.req with
          | some r => d1.putReq { r with snooped := true }
          | none => if s.inval then d1.setDir line false 0 else d1

/-- R162: BIRsp. -/
def biRsp (ld line : Nat) : Effect := fun d => (d.snoopAnswer line ld).after

/-- R165: a holder that has not answered within 1024 stitches. -/
def biTimeout (ld line : Nat) : Effect := fun d =>
  match d.snoopOf line with
  | none => d
  | some s =>
    if s.waiting.testBit ld && decide (s.sn + 1024 ≤ d.sn) then
      let d1 := match d.dirWay line with
        | some w => d.setDir line w.excl (clrBit w.holders ld)
        | none => d
      ((d1.raise Src.biTimeout (64 * line) ld 0).snoopAnswer line ld).after
    else d

/-! ### Misses and captures -/

/-- R128, R129: the table line of a skein has been read: its entry is installed, and the requests that waited go on. -/
def missInstall (s : Nat) (ok : Bool) : Effect := when (fun d => d.mem.pat.misses.any (fun m => m.1 == s)) fun d =>
  let d1 := d.modPat fun p => { p with misses := p.misses.filter (fun m => m.1 != s) }
  let good := ok || d1.unwritten (d1.skeinDra s)
  let d2 := if good then d1
    else (d1.modPat fun p => { p with bad := (p.bad ++ [s, s ^^^ 1]).eraseDups }).raise Src.patTableUe (d1.skeinDra s / 64 * 64) (d1.tableEntry s).owner 0
  let d3 := if (d2.cached s).isSome then d2 else d2.installWay s (d2.tableEntry s) false
  ((d3.mem.reqs.filter (fun r => decide (r.stage = .miss) && dpaSkein r.dpa == s)).foldl (fun d r => d.resume r) d3).after

/-- R143, R243: the line of a request whose read command was issued is captured. -/
def lineCapture (id : Nat) (f : LineFault) : Effect := fun d =>
  match d.findReq id with
  | some r => if r.stage = .issued && !(d.sub r.sub).replaying && !d.chHalted (r.sub / 2) then (d.captured r f).after else d
  | none => d

/-- R245: the tag check of a forwarded line fails. -/
def macAlarm (id : Nat) : Effect := fun d =>
  match d.findReq id with
  | some r => if r.stage = .late then ((d.lateAlarm r (some r.ld)).dropReq id).after else d
  | none => d

/-! ### Gates and queues -/

/-- R313: requests that wait at the gate of a subchannel pass it, in order, as allowances permit; each finds its line again. The reads that have
no subchannel (number 32) are taken with those of any. -/
def gateRelease (d : Dev) (sub : Nat) : Dev :=
  let ws := sortBy d.gateKey (d.gateReqs.filter (fun r => r.sub == sub || r.sub == 32))
  ws.foldl
    (fun d r => match d.findReq r.id with
      | none => d
      | some x =>
        if x.stage ≠ .gate then d
        else if x.sub = 32 then (if d.capped x.ld (d.effClass x.ld x.cls) then d else d.flow x)
        else match d.tryPass x with
          | none => d
          | some d1 => match d1.findReq x.id with
            | some y => d1.flow y
            | none => d1) d

/-- R150, R153, R314: the requests held at the ingress of an LD go on, in order, until one is held again. -/
def ingressRelease (d : Dev) (ld : Nat) : Dev :=
  let hs := d.mem.reqs.filter (fun r => r.ld == ld && decide (r.stage = .ingress))
  (hs.foldl
    (fun (acc : Bool × Dev) r =>
      if acc.1 then acc
      else
        let d1 := acc.2.resume r
        (match d1.findReq r.id with | some x => decide (x.stage = .ingress) | none => false, d1)) (false, d)).2

/-- R152: the cause of a request's parking has ended. -/
def parkEnds (d : Dev) (r : Req) (c : ParkCause) : Bool :=
  let p := d.locate r.dpa r.kind.isWrite
  match c with
  | .larder => (match p with
      | .larder n x s => r.kind.isRead && (match d.findFetch n x s with | some f => f.landed | none => true)
      | .copying => false
      | _ => true)
  | .copy => (match p with | .copying => false | _ => true)
  | .noFit => (match p with | .dram _ ratio => ratio == 0 | .copying => false | _ => true)
  | .leaving => !d.leaving r
  | .backing => (match p with
      | .noStore page => (d.attachDram r page).1.isSome || (d.bestCart none).isSome
      | _ => true)
  | .twin => !d.twinHolds && !d.twin.out.any (fun i => i.req == r.id)
  | .activation => !d.flag Pg.str F.STR_ACT_CTL_PAUSED

/-- R157: a parked request whose cause has ended is released. -/
def parkRelease (id : Nat) : Effect := fun d =>
  match d.findReq id with
  | none => d
  | some r =>
    match r.stage with
    | .parked c => if d.parkEnds r c || (r.checked && d.isViral r.ld) then (d.unpark id).after else d
    | _ => d

/-- R130 step 3: a write parked for backing 3907 stitches after it arrived. -/
def backingTimeout (id : Nat) : Effect := fun d =>
  match d.findReq id with
  | some r =>
    if r.stage = .parked .backing ∧ r.sn + 3907 ≤ d.sn then ((d.raise Src.backingExhausted r.addr r.ld r.kind.acc).discard r).after else d
  | none => d

/-- A request whose data lie in the Larder, still parked at arrival SN + 3905 (R154). -/
def larderLate (d : Dev) (r : Req) : Bool :=
  decide (r.sn + 3905 ≤ d.sn) && (match r.stage with | .parked .larder | .parked .copy => true | _ => false)

/-- R154: the ends of late requests. -/
def larderEnd (d : Dev) (r : Req) : Dev :=
  if r.kind.isRead then (d.raise Src.larderReadTo r.dpa r.ld 1).answerRead r allOnes true
  else (d.raise Src.larderWriteTo r.dpa r.ld r.kind.acc).discard r

def larderTimeout (id : Nat) (read : Bool) : Effect := fun d =>
  match d.findReq id with
  | some r => if d.larderLate r && r.kind.isRead == read then (d.larderEnd r).after else d
  | none => d

/-! ### Compressors and decompressors -/

/-- R148, R223: rewrites that wait for a compressor take the idle ones, by deadline. -/
def assignEncoders (d : Dev) : Dev :=
  (sortBy (fun r => [r.deadline, r.id]) (d.mem.reqs.filter (fun r => decide (r.stage = .encode) && r.inst.isNone))).foldl
    (fun d r => match d.idleCompressor 0 with
      | some i => (d.setCmpBusy i 1).putReq { r with inst := some i }
      | none => d) d

/-- R148, R218, R223: a compressor finishes the block of a write. -/
def compressorDone (i : Nat) (ok : Bool) : Effect := fun d =>
  match d.mem.reqs.find? (fun r => decide (r.stage = .encode) && r.inst == some i) with
  | some r => (((d.setCmpBusy i 0).rewriteDone r i ok).assignEncoders).after
  | none => d

/-- R221: an inline decompressor is free again: the waiting block that may use it is decoded, by deadline. -/
def decompressorFree (i : Nat) : Effect := when (fun _d => decide (32 ≤ i ∧ i < 80)) fun d =>
  let d1 := d.setCmpBusy i 0
  let ws := sortBy (fun r => [r.deadline, r.id]) (d1.mem.reqs.filter (fun r => decide (r.stage = .decode) && (d1.inlineChoice (r.sub / 2)).contains i))
  match ws with
  | r :: _ => (d1.decodeOn r i).after
  | [] => d1

/-! ### Rooms (R114 to R117, R181, R538) -/

/-- A Twin pair is paired (R115, R538): Syncing or Paired. -/
def isPaired (d : Dev) : Bool := d.twnState == 2 || d.twnState == 3

/-- R115: RESULT of a room write. -/
def roomResult (d : Dev) (drn : Nat) (img : Room) : Nat :=
  let old := d.room drn
  if d.flag Pg.pat F.PAT_ROOM_CMD_BUSY then 4
  else if d.winRooms ≤ drn then 1
  else if old.inService && img.inService &&
      (old.owner != img.owner || old.shared != img.shared || old.shareGrp != img.shareGrp || old.dc != img.dc) then 2
  else if img.mirrored && !d.isPaired then 3
  else 0

/-- R116 step 1, R117: an accepted room write begins: the entry is written; a room that leaves service has its migrations settled and its held
lines recalled. -/
def roomBegin (d : Dev) (drn : Nat) (img : Room) : Dev :=
  let old := d.room drn
  let p := fun s => s / 512 == drn
  let d1 := (d.setRoom drn img).modPat fun x => { x with roomCmd := some (drn, img) }
  if old.inService && !img.inService then
    let d2 := ((d1.modPat fun x => { x with roomLeaving := some drn }).settleAll (fun m => p m.skein) 2).forgetWants p
    if old.shared then d2.recallWork p else d2
  else d1

/-- R116 step 2: the attributes of the room in one of its skeins; a room brought into service makes it zero-pending (R117). -/
def roomSkein (d : Dev) (img : Room) (fresh : Bool) (s : Nat) : Dev :=
  let e := img.copyTo (d.entry s)
  if fresh then
    let d1 := d.modPat fun p => { p with bad := p.bad.filter (· != s) }
    d1.putEntryQuiet s { emptied e St.zero with dcAcc := false }
  else d.putEntryQuiet s e

/-- R538: the Twin is told of a change of MIRRORED or IN_SERVICE. -/
def tellRoom (d0 : Dev) (drn : Nat) (old img : Room) : Dev :=
  let rest := d0.twin.mine.filter (· != drn)
  let d : Dev := { d0 with twin := { d0.twin with mine := if img.inService && img.mirrored then rest ++ [drn] else rest } }
  if (old.mirrored != img.mirrored || old.inService != img.inService) && d.isPaired then
    d.sendPkt 16 0 (.room drn img.mirrored img.inService)
  else d

/-- R116 steps 2 and 3, R117 steps 3 and 4, R181: the end of a room write. `was` is the entry before it. -/
def roomEnd (d : Dev) (drn : Nat) (img was : Room) : Dev :=
  let ss := roomSkeins drn
  let p := fun s => s / 512 == drn
  let leaving := d.mem.pat.roomLeaving == some drn
  let fresh := img.inService && !was.inService
  let d1 := if leaving then ss.foldl (fun d s => d.freeTo s St.unbacked false) (d.endWrites p) else d
  let d2 := ss.foldl (fun d s => d.roomSkein img fresh s) d1
  let d3 := d2.modPat fun x => { x with roomCmd := none, roomLeaving := if leaving then none else x.roomLeaving }
  let d4 := if img.inService then d3.attrWalk drn else d3
  (d4.evacCheck).tellRoom drn was img

/-- The skeins of the room before the write says whether it was in service: its first skein is not unbacked. -/
def roomWas (d : Dev) (drn : Nat) (img : Room) : Room :=
  { img with inService := (d.entry (512 * drn)).state != St.unbacked, mirrored := (d.entry (512 * drn)).mirrored }

/-- R115: ROOM_READ. -/
def roomRead : Effect := fun d =>
  let drn := d.get Pg.pat F.PAT_ROOM_SEL_DRN
  if d.flag Pg.pat F.PAT_ROOM_CMD_BUSY then d.set Pg.pat F.PAT_ROOM_CMD_RESULT 4
  else if d.winRooms ≤ drn then d.set Pg.pat F.PAT_ROOM_CMD_RESULT 1
  else (d.setWord Pg.pat 0x138 (BitVec.ofNat 32 (d.room drn).encode)).set Pg.pat F.PAT_ROOM_CMD_RESULT 0

/-- R115 to R117: ROOM_WRITE. -/
def roomWrite : Effect := fun d =>
  let drn := d.get Pg.pat F.PAT_ROOM_SEL_DRN
  let img := Room.decode (d.word Pg.pat 0x138).toNat
  let r := d.roomResult drn img
  let d1 := d.set Pg.pat F.PAT_ROOM_CMD_RESULT r
  if r = 0 then ((d1.setFlag Pg.pat F.PAT_ROOM_CMD_BUSY true).roomBegin drn img).after else d1

/-- R116, R117: ROOM_WRITE_COMPLETE, once every recall snoop of the room has ended. -/
def roomComplete : Effect := fun d =>
  match d.mem.pat.roomCmd with
  | none => d
  | some (drn, img) =>
    if d.mem.pat.roomLeaving == some drn && d.mem.pat.snoops.any (fun s => s.line / 2 ^ 24 == drn) then d
    else ((d.roomEnd drn img (d.roomWas drn img)).setFlag Pg.pat F.PAT_ROOM_CMD_BUSY false).after

/-! ### The PAT page's cache commands (R129, R139) -/

/-- R129: every changed entry is written back; `failed` are the skeins whose table line failed its check. -/
def flushDone (failed : List Nat) : Effect := when (fun d => d.flag Pg.pat F.PAT_CACHE_CTL_FLUSH) fun d =>
  let d1 := (d.mem.pat.cache.filter (·.changed)).foldl
    (fun d w =>
      if failed.contains w.skein then
        (d.modPat fun p => { p with bad := (p.bad ++ [w.skein, w.skein ^^^ 1]).eraseDups }).raise Src.patTableUe (d.skeinDra w.skein / 64 * 64)
          w.entry.owner 0
      else d.writeTable w.skein w.entry) d
  (d1.modPat fun p => { p with cache := p.cache.map (fun w => { w with changed := false }) }).setFlag Pg.pat F.PAT_CACHE_CTL_FLUSH false

/-- R139, R140: the entry of the skein of PAT_PROBE_DPA, as one version; nothing is installed. -/
def probe : Effect := fun d =>
  let s := dpaSkein (d.get Pg.pat F.PAT_PROBE_DPA_DPA)
  let (a, b, c, e) := (if s / 512 < d.winRooms ∧ d.patServes then d.entry s else {}).encode
  let put := fun (d : Dev) (i v : Nat) => d.set Pg.pat (F.PAT_PROBE_ENT_QW.sh (8 * i)) v
  (put (put (put (put d 0 a) 1 b) 2 c) 3 e).setFlag Pg.pat F.PAT_PROBE_CMD_HIT (d.cached s).isSome

end Dev

/-- R141, R143: MEM_RD. -/
def execMemRd (r : MemReq) (s : State) : Host.Outcome State Fault Refusal := s.run (Dev.message .read r)

/-- R141: MEM_RD_DATA. -/
def execMemRdData (r : MemReq) (s : State) : Host.Outcome State Fault Refusal := s.run (Dev.message .readData r)

/-- R141, R162: MEM_INV. -/
def execMemInv (r : MemReq) (s : State) : Host.Outcome State Fault Refusal := s.run (Dev.message .inv r)

/-- R141, R162: MEM_CLN_EVCT. -/
def execMemClnEvct (r : MemReq) (s : State) : Host.Outcome State Fault Refusal := s.run (Dev.message .clnEvct r)

/-- R141: MEM_SPEC_RD. -/
def execMemSpecRd (r : MemReq) (s : State) : Host.Outcome State Fault Refusal := s.run (Dev.message .specRead r)

/-- R141, R146: MEM_WR. -/
def execMemWr (r : MemReq) (data : BitVec 512) (poison : Bool) (s : State) : Host.Outcome State Fault Refusal :=
  s.run (when (fun d => d.hears r) fun d => (d.accept { Dev.reqOf .write r with data := data, poison := poison }).after)

/-- R141, R148: MEM_WR_PTL. -/
def execMemWrPtl (r : MemReq) (data : BitVec 512) (enables : BitVec 64) (s : State) : Host.Outcome State Fault Refusal :=
  s.run (when (fun d => d.hears r) fun d => (d.accept { Dev.reqOf .partWrite r with data := data, enables := enables }).after)

/-- R163: BI_CONFLICT. -/
def execBiConflict (r : MemReq) (s : State) : Host.Outcome State Fault Refusal :=
  s.run (when (fun d => d.hears r) fun d => d.emit (.biAck (16 * r.port + r.ldId) r.tag))

/-- R162: BI_RSP. -/
def execBiRsp (ld line : Nat) (s : State) : Host.Outcome State Fault Refusal := s.run (Dev.biRsp ld line)

/-- R141: UNSUPPORTED_MEM_OPCODE. -/
def execUnsupportedMemOpcode (r : MemReq) (_opcode : Nat) (s : State) : Host.Outcome State Fault Refusal := s.run (Dev.badOpcode r)

/-- R128, R129: PATTERN_MISS_INSTALL. -/
def execPatternMissInstall (skein : Nat) (integrityOk : Bool) (s : State) : Host.Outcome State Fault Refusal :=
  s.run (Dev.missInstall skein integrityOk)

/-- R143, R243: DRAM_LINE_CAPTURE. -/
def execDramLineCapture (id : Nat) (f : LineFault) (s : State) : Host.Outcome State Fault Refusal := s.run (Dev.lineCapture id f)

/-- R245: MAC_LATE_ALARM. -/
def execMacLateAlarm (id : Nat) (s : State) : Host.Outcome State Fault Refusal := s.run (Dev.macAlarm id)

/-- R313: GATE_RELEASE. -/
def execGateRelease (sub : Nat) (s : State) : Host.Outcome State Fault Refusal := s.run (fun d => (d.gateRelease sub).after)

/-- R150, R314: INGRESS_HOLD_RELEASE. -/
def execIngressHoldRelease (ld : Nat) (s : State) : Host.Outcome State Fault Refusal := s.run (fun d => (d.ingressRelease ld).after)

/-- R152, R157: PARK_RELEASE. -/
def execParkRelease (id : Nat) (s : State) : Host.Outcome State Fault Refusal := s.run (Dev.parkRelease id)

/-- R130: BACKING_WAIT_TIMEOUT. -/
def execBackingWaitTimeout (id : Nat) (s : State) : Host.Outcome State Fault Refusal := s.run (Dev.backingTimeout id)

/-- R154: LARDER_READ_TIMEOUT. -/
def execLarderReadTimeout (id : Nat) (s : State) : Host.Outcome State Fault Refusal := s.run (Dev.larderTimeout id true)

/-- R154: LARDER_WRITE_TIMEOUT. -/
def execLarderWriteTimeout (id : Nat) (s : State) : Host.Outcome State Fault Refusal := s.run (Dev.larderTimeout id false)

/-- R165: BI_RESPONSE_TIMEOUT. -/
def execBiResponseTimeout (ld line : Nat) (s : State) : Host.Outcome State Fault Refusal := s.run (Dev.biTimeout ld line)

/-- R115: ROOM_READ. -/
def execRoomRead (a : Agent) (s : State) : Host.Outcome State Fault Refusal := s.run (Dev.writeTo 1 a Pg.pat 0x134 Dev.roomRead)

/-- R115 to R117: ROOM_WRITE. -/
def execRoomWrite (a : Agent) (s : State) : Host.Outcome State Fault Refusal := s.run (Dev.writeTo 2 a Pg.pat 0x134 Dev.roomWrite)

/-- R116, R117, R181: ROOM_WRITE_COMPLETE. -/
def execRoomWriteComplete (s : State) : Host.Outcome State Fault Refusal := s.run Dev.roomComplete

/-- R129, R139: PAT_CACHE_FLUSH. -/
def execPatCacheFlush (a : Agent) (s : State) : Host.Outcome State Fault Refusal :=
  s.run (Dev.writeTo 1 a Pg.pat 0x120 (fun d => d.setFlag Pg.pat F.PAT_CACHE_CTL_FLUSH true))

/-- R129, R139: PAT_CACHE_FLUSH_DONE. -/
def execPatCacheFlushDone (failed : List Nat) (s : State) : Host.Outcome State Fault Refusal := s.run (Dev.flushDone failed)

/-- R139, R140: PAT_PROBE. -/
def execPatProbe (a : Agent) (s : State) : Host.Outcome State Fault Refusal := s.run (Dev.writeTo 1 a Pg.pat 0x148 Dev.probe)

/-- R148, R218, R223: COMPRESSOR_BLOCK_DONE. -/
def execCompressorBlockDone (inst : Nat) (checkOk : Bool) (s : State) : Host.Outcome State Fault Refusal :=
  s.run (Dev.compressorDone inst checkOk)

/-- R221: INLINE_DECOMPRESSOR_FREE. -/
def execInlineDecompressorFree (inst : Nat) (s : State) : Host.Outcome State Fault Refusal := s.run (Dev.decompressorFree inst)

end Sys2Proof.Machine
end

