-- ==== Sys2Proof/Machine/Access.lean ====
section
/-! DEFINITION. The accesses to memory that service rings, their jobs and Data Mover channels make, one line at a time: the checks of R112 for an
LD offset (R333), the rights table (R260, R261, R359), the gate (R313), and a line read or written by the flow of its skein's state (R142). -/

namespace Sys2Proof.Machine

/-- Who makes an access: its number among the waiters, its LD (64: none, a Data Mover channel), its master ID (R260), its Gauge master and class,
the access types of its reads and writes (R459), the line whose snoop it waited for, and the SN since which it waits for backing. -/
structure Who where
  id : Nat
  ld : Nat
  master : Nat
  gm : Nat
  cls : Nat
  rd : Nat
  wr : Nat
  snooped : Option Nat := none
  since : Option Nat := none
  /-- A line from the Twin peer (R539): with the MID of a write that the owner is to echo. -/
  peer : Option (Option Nat) := none

/-- What an attempt at an access came to: it is done; it waits (for a snoop of a line, or for backing, where those are given); or a check of
R112 failed. -/
inductive Got (α : Type) where
  | done (a : α) (d : Dev)
  | wait (d : Dev) (snoop : Option Nat) (backing : Bool)
  | fail (d : Dev)

/-- Whether the channel of a line can take an access now. -/
inductive ChanGate where
  | open | wait | refuse
  deriving DecidableEq, Repr

namespace Dev

/-- The access as a request of one line, for the rules that R142 gives requests. -/
def asReq (w : Who) (named dpa : Nat) (write : Bool) : Req :=
  { id := 0, kind := if write then .write else .read, ld := w.ld, port := 0, half := 0, tag := 0, addr := named, metaVal := .invalid,
    cls := w.cls, dpa := dpa }

/-! ### Checks (R112, R261) -/

/-- R126, R128: an access looks its entry up; the table line of a miss is read within the access. -/
def see (d : Dev) (s gm cls : Nat) : Dev :=
  let d1 := d.tally Pg.pat 0x0100 1
  if (d.cached s).isSome then (d1.tally Pg.pat 0x0101 1).touchWay s
  else
    let d2 := d1.tally Pg.pat 0x0102 1
    if d.mem.pat.misses.any (fun m => m.1 == s) then d2 else (d2.installWay s (d2.tableEntry s) false).chargeUse gm cls 1

/-- R112 steps 3 to 6 for a DPA: the source of the check that fails. `ld` is checked at step 4 where it is an LD. -/
def skeinCheck (d : Dev) (ld dpa : Nat) : Option Nat :=
  let s := dpaSkein dpa
  let e := d.entry s
  if e.state = St.unbacked && !d.mem.pat.bad.contains s then some Src.unmappedHdm
  else if ld < 64 && !(e.owner == ld || (e.shared && (d.get (Pg.ldm ld) F.LDM_SHARE_GRPS_GRPS).testBit e.shareGrp)) then some Src.roomDenied
  else if e.dc && !e.dcAcc then some Src.unmappedHdm
  else if !d.skeinValid s then some Src.patInvalid
  else none

/-- R333, R112: the DPA of an LD offset, with its entry looked up, or the failure of a check with the capture of R112. -/
def ringCheck (d : Dev) (w : Who) (off acc : Nat) : Option Nat × Dev :=
  match d.translate w.ld off with
  | none => (none, d.raise Src.unmappedHdm off w.ld acc)
  | some dpa =>
    let d1 := d.see (dpaSkein dpa) w.gm w.cls
    match d1.skeinCheck w.ld dpa with
    | some src =>
      let d2 := if src = Src.roomDenied then d1.addSat (Pg.ldm w.ld) F.LDM_DENIED_COUNT 1 else d1
      (none, d2.raise src off w.ld acc)
    | none =>
      if d1.locate dpa false = .invalid then (none, d1.raise Src.patInvalid off w.ld acc) -- its page entry (R124)
      else (some dpa, d1)

/-- R261: a master holds a right at an address: `unit` is the DRN (space 0) or the frame (space 1). -/
def hasRight (d : Dev) (master space unit need : Nat) : Bool :=
  (List.range 64).any fun i =>
    let p := Bk.right i
    d.flag p F.CRY_RIGHT_VALID && d.get p F.CRY_RIGHT_MASTER == master && d.get p F.CRY_RIGHT_SPACE == space &&
      decide (d.get p F.CRY_RIGHT_FIRST ≤ unit ∧ unit ≤ d.get p F.CRY_RIGHT_LAST) && decide (need ≤ d.get p F.CRY_RIGHT_RIGHT)

/-- R261: a plaintext access by DRA reaches only frames in Device use. -/
def draRight (d : Dev) (master dra need : Nat) : Bool :=
  d.hasRight master 1 (dra / 2 ^ 19) need && (need == 1 || d.isDevice (dra / 2 ^ 19))

/-! ### The gate and the channel -/

/-- R297, R440, R289, R291: the state of the channel that an access to a DRA meets. -/
def chanGate (d : Dev) (dra : Nat) : ChanGate :=
  let (l, sa) := d.place dra
  let c := l / 2
  if !(d.pageReady (Pg.dc c) && d.enabled (Pg.dc c) && d.flag (Pg.dc c) F.DC_CFG_TRAINED) then .wait
  else if d.rankFailed l sa then .refuse
  else if d.chHalted c then (if d.severity (Src.chHalted c) = 5 then .wait else .refuse)
  else .open

/-- R440: an access to a channel whose domain is off wakes it. -/
def chanWait (d : Dev) (dra : Nat) : Dev :=
  let c := (d.place dra).1 / 2
  if d.pageReady (Pg.dc c) then d else d.wakeFor (5 + c)

/-- R291: a read of a failed rank is raised; a write to it is discarded. -/
def chanRefuse (d : Dev) (dra dpa acc : Nat) : Dev :=
  let (l, sa) := d.place dra
  if d.rankFailed l sa then d.raise (Src.rankFailed (l / 2)) dpa (d.entry (dpaSkein dpa)).owner acc else d

/-- R313: the access passes the gate of its subchannel, or waits there. -/
def passOr (d : Dev) (w : Who) (dra nr nw : Nat) : Bool × Dev :=
  let l := (d.place dra).1
  match d.passAccess w.gm w.cls l nr nw with
  | some d1 => (true, { d1 with mem := { d1.mem with gau := { d1.mem.gau with asks := d1.mem.gau.asks.filter (fun a => a.id != w.id) } } })
  | none => (false, d.ask ⟨w.id, l, w.gm, w.cls, d.sn + d.classTarget w.cls, nr + nw⟩)

/-- R541: a line of a mirror-live room of a Paired pair that cannot be rebuilt is asked from the peer instead of being poisoned. -/
def asksPeer (d : Dev) (dra tier knit dpa : Nat) (f : LineFault) : Bool :=
  d.mirrorLive (dpa >>> 30) && d.twnState == 3 && !d.unwritten dra &&
    (d.verdict (d.place dra).1 dra ((d.side dra).gen % 2 == d.expGen tier knit % 2) f).1 == .uncorrectable

/-- R541: the line is asked for, unless it already is. -/
def askLine (d : Dev) (dpa : Nat) : Dev :=
  if d.twin.repairs.any (fun r => r.2.1 == dpa / 64 * 64) then d
  else { d with twin := { d.twin with repairs := d.twin.repairs ++ [(0, dpa / 64 * 64, d.sn, false)] } }

/-- A slot of a Packed block as an engine reads it: its lines are checked; the result says whether its data stand. -/
def engineSlot (d : Dev) (dra ratio block owner acc : Nat) (f : LineFault) : Bool × Dev :=
  let (ok, d1) := d.engineLine dra 1 block block owner acc f
  if ratio = 2 then (ok && !(d1.side dra).poison, d1)
  else
    let (ok2, d2) := d1.engineLine (dra + 64) 1 block block owner acc okFault
    (ok && ok2 && !(d2.side dra).poison && !(d2.side (dra + 64)).poison, d2)

/-- R221, R222: the block of a slot on an inline decompressor; `none` where it gives poison. -/
def inlineBlock (d : Dev) (l dpa owner : Nat) (slot : List Nat) : Option (List Nat) × Dev :=
  match d.inlineChoice (l / 2) with
  | [] => (none, d.raise Src.noInline (blockBase dpa) owner 1)
  | i :: _ =>
    let d1 := (d.cmpCount i F.CMP_DEC_CNT_COUNT 1).tally (Pg.cmp i) 0x0102 1
    match decodeSlot slot with
    | none => (none, (d1.addSat (Pg.cmp i) F.CMP_FMT_CNT_COUNT 1).raise (Src.cmpFormat i) (blockBase dpa) owner 1)
    | some ws => (some (blockBytes ws), d1)

/-- A line or slot in DRAM is read: the line's bytes and its poison. -/
def readDram (d : Dev) (w : Who) (dra ratio dpa : Nat) (f : LineFault) : Got MovedLine :=
  let owner := (d.entry (dpaSkein dpa)).owner
  let tier := if ratio = 0 then 0 else 1
  let knit := if ratio = 0 then dpa / 64 * 64 else blockBase dpa
  match d.chanGate dra with
  | .wait => .wait (d.chanWait dra) none false
  | .refuse => .done (onesLine, true) (d.chanRefuse dra dpa w.rd)
  | .open =>
    if d.asksPeer dra tier knit dpa f then .wait (d.askLine dpa) none false
    else
      match d.passOr w dra (if ratio = 1 then 2 else 1) 0 with
      | (false, d1) => .wait d1 none false
      | (true, d1) =>
        if ratio = 0 then
          let (ok, d2) := d1.engineLine dra 0 knit knit owner w.rd f
          if !ok || (d2.side dra).poison then .done (onesLine, true) d2 else .done (d2.readBytes (dra / 64 * 64) 64, false) d2
        else
          let (ok, d2) := d1.engineSlot dra ratio knit owner w.rd f
          if !ok then .done (onesLine, true) d2
          else
            match d2.inlineBlock (d2.place dra).1 dpa owner (d2.readBytes dra (slotSize ratio)) with
            | (none, d3) => .done (onesLine, true) d3
            | (some bs, d3) => .done ((bs.drop (dpa % 256 / 64 * 64)).take 64, false) d3

/-- R539: at the owner of a mirror-live room a line that has become visible is sent to the peer; one that the peer sent is echoed under its MID,
or, from a resynchronisation, a repair or the owner, not sent again. -/
def mirrorLine (d : Dev) (w : Who) (dpa : Nat) (line : List Nat) (poison : Bool) : Dev :=
  if d.mirrorLive (dpa >>> 30) && (d.twnState == 2 || d.twnState == 3) then
    let i : MirrorItem :=
      { mid := 0, req := w.id, dpa := dpa / 64 * 64, data := BitVec.ofNat 512 (ofBytes line), enables := BitVec.allOnes 64, poison := poison,
        cls := w.cls, here := true }
    match w.peer with
    | none => d.mirrorOut i
    | some (some m) => { d with twin := { d.twin with out := d.twin.out ++ [{ i with mid := m, req := 0, echo := some m }] } }
    | some none => d
  else d

/-- R146, R148, R249: a write to an Open line. -/
def writeOpen (d : Dev) (w : Who) (dra dpa : Nat) (data : BitVec 512) (en : BitVec 64) (poison : Bool) (f : LineFault) : Got Unit :=
  let l := (d.place dra).1
  let owner := (d.entry (dpaSkein dpa)).owner
  let knit := dpa / 64 * 64
  let full := poison || en == BitVec.allOnes 64
  if !full && d.asksPeer dra 0 knit dpa f then .wait (d.askLine dpa) none false
  else
    match d.passOr w dra (if full then 0 else 1) 1 with
    | (false, d1) => .wait d1 none false
    | (true, d1) =>
      let put := fun (d : Dev) (bs : List Nat) (po : Bool) => ((d.putOpen dra dpa po bs).pushWqNew l dra).mirrorLine w dpa bs po
      if full then .done () (put d1 (lineBytes data) poison)
      else
        let (ok, d2) := d1.engineLine dra 0 knit knit owner w.wr f
        let old := d2.readBytes (dra / 64 * 64) 64
        if !ok || (d2.side dra).poison then .done () ((put d2 old true).raise (Src.ptlFailed (l / 2)) knit owner 3)
        else .done () (put d2 (mergeBytes old data en) false)

/-- R148, R193, R218: a write to a Packed line: its block is rewritten, or its page is to be unpacked first. -/
def writePacked (d : Dev) (w : Who) (dra ratio dpa : Nat) (data : BitVec 512) (en : BitVec 64) (poison : Bool) (f : LineFault) : Got Unit :=
  let l := (d.place dra).1
  let owner := (d.entry (dpaSkein dpa)).owner
  let b := blockBase dpa
  let unpack := fun (d : Dev) => Got.wait (α := Unit) (d.noFit (dpaSkein dpa) (dpaPage dpa)) none false
  if poison then unpack d
  else if d.asksPeer dra 1 b dpa f then .wait (d.askLine dpa) none false
  else
    match d.idleCompressor 0 with
    | none => .wait (if d.deviceCompressor.isNone then d.raiseOnce Src.noDevCompressor dpa owner w.wr else d) none false
    | some i =>
      let k := slotSize ratio / 64
      match d.passOr w dra k k with
      | (false, d1) => .wait d1 none false
      | (true, d1) =>
        let (ok, d2) := d1.engineSlot dra ratio b owner w.wr f
        match (if ok then decodeSlot (d2.readBytes dra (slotSize ratio)) else none) with
        | none => unpack d2
        | some ws =>
          let old := blockBytes ws
          let at' := dpa % 256 / 64 * 64
          let line := mergeBytes ((old.drop at').take 64) data en
          match encodeSlot (slotSize ratio) (blockWords (old.take at' ++ line ++ old.drop (at' + 64))) with
          | none => unpack (d2.countEncode i false)
          | some s => .done () ((((d2.countEncode i true).putSlot dra b false s).pushSlot l dra ratio).mirrorLine w dpa line false)

/-- A line or slot in DRAM is written. -/
def writeDram (d : Dev) (w : Who) (dra ratio dpa : Nat) (data : BitVec 512) (en : BitVec 64) (poison : Bool) (f : LineFault) : Got Unit :=
  match d.chanGate dra with
  | .wait => .wait (d.chanWait dra) none false
  | .refuse => .done () d -- R291
  | .open =>
    if d.wqFull (d.place dra).1 dra then .wait d none false
    else if ratio = 0 then d.writeOpen w dra dpa data en poison f
    else d.writePacked w dra ratio dpa data en poison f

/-! ### The flow of a line (R142) -/

/-- R162: the coherence step of an access to a shared room: `none` where it may go on. -/
def snoopStep (d : Dev) (w : Who) (dpa : Nat) (write : Bool) : Option Dev × Dev :=
  if !(d.entry (dpaSkein dpa)).shared then (none, d)
  else
    let line := dpa / 64
    if (d.snoopOf line).isSome then (some d, d)
    else
      let ((excl, hs), kind, targets) := d.dirNext (asReq w 0 dpa write)
      if w.snooped != some line && targets != 0 then (some (d.issueSnoop line targets kind 0 false), d)
      else (none, d.setDir line excl hs)

/-- R191: an access to a Larder page waits for its fetch, which is started where none is under way. -/
def awaitFetch (d : Dev) (w : Who) (dpa cart extent slot : Nat) (write : Bool) : Dev :=
  match d.findFetch cart extent slot with
  | some f => d.putFetch { f with touchW := f.touchW || write, users := if f.users.contains w.id then f.users else f.users ++ [w.id] }
  | none =>
    (d.newFetch { id := 0, cart := cart, extent := extent, slot := slot, skein := dpaSkein dpa, page := dpaPage dpa, sn := 0, cls := w.cls,
                  touchW := write, users := [w.id] }).chargeUse w.gm w.cls 64

/-- R142, R145, R158, R191: a line of the window is read. -/
def readWindow (d0 : Dev) (w : Who) (named dpa : Nat) (f : LineFault) : Got MovedLine :=
  let drn := dpa >>> 30
  if d0.mem.pat.roomLeaving == some drn then .wait d0 none false
  else if d0.fencedRoom drn then .done (onesLine, true) (d0.raiseOnce Src.twinFenced dpa w.master w.rd)
  else
    match d0.snoopStep w dpa false with
    | (some d, _) => .wait d (some (dpa / 64)) false
    | (none, d) =>
      match d.locate dpa false with
      | .dram dra ratio => d.readDram w dra ratio dpa f
      | .larder c x n =>
        match d.findFetch c x n with
        | some ft =>
          if ft.landed then
            let (y, p) := ft.lines.getD (dpaLine dpa) (0, true)
            .done (if p then onesLine else lineBytes y, p) d
          else .wait (d.awaitFetch w dpa c x n false) none false
        | none => .wait (d.awaitFetch w dpa c x n false) none false
      | .invalid => .done (onesLine, true) (d.raise Src.patInvalid named w.master w.rd)
      | .copying => .wait d none false
      | .noStore _ | .voidStore => .done zeroLine (d.chargeUse w.gm w.cls 1)

/-- R130: a write to a line without storage: storage is attached, or the write waits for backing, or is refused. -/
def attachWrite (d : Dev) (w : Who) (named dpa : Nat) (page : Bool) (data : BitVec 512) (en : BitVec 64) (poison : Bool) : Got Unit :=
  let r := asReq w named dpa true
  match d.attachDram r page with
  | (some (dra, d1), _) => d1.writeDram w dra 0 dpa data en poison okFault
  | (none, ok) =>
    match d.attachLarder r page with
    | some (n, x, d1) => .wait (d1.awaitFetch w dpa n x (dpaPage dpa) true) none false
    | none =>
      if !ok then .done () (d.allocRefused (d.entry (dpaSkein dpa)).owner named w.master w.wr)
      else if w.since.any (fun s => s + 3907 ≤ d.sn) then .done () (d.raise Src.backingExhausted named w.master w.wr)
      else .wait (d.modTier fun t => { t with pressure := true }) none true

/-- R142, R146, R148, R539: a line of the window is written: the enabled bytes of `data`, or a poisoned full line. -/
def writeWindow (d0 : Dev) (w : Who) (named dpa : Nat) (data : BitVec 512) (en : BitVec 64) (poison : Bool) (f : LineFault) : Got Unit :=
  let drn := dpa >>> 30
  let live := d0.mirrorLive drn
  if d0.mem.pat.roomLeaving == some drn || (live && d0.twinHolds) then .wait d0 none false
  else if d0.fencedRoom drn then .done () (d0.raiseOnce Src.twinFenced dpa w.master w.wr)
  else
    match d0.snoopStep w dpa true with
    | (some d, _) => .wait d (some (dpa / 64)) false
    | (none, d) =>
      if live && (d.twnState == 2 || d.twnState == 3) && !d.flag Pg.twn F.TWN_STS_OWNER then
        .done () (d.mirrorOut { mid := 0, req := w.id, dpa := dpa / 64 * 64, data := data, poison := poison, cls := w.cls,
                                enables := if poison then BitVec.allOnes 64 else en })
      else
        match d.locate dpa true with
        | .dram dra ratio => d.writeDram w dra ratio dpa data en poison f
        | .larder c x n => .wait (d.awaitFetch w dpa c x n true) none false
        | .copying => .wait d none false
        | .invalid => .done () (d.raise Src.patInvalid named w.master w.wr)
        | .noStore page => d.attachWrite w named dpa page data en poison
        | .voidStore =>
          (d.openVoid (dpaSkein dpa)).writeDram w (locFrame (d.entry (dpaSkein dpa)).loc * 2 ^ 19 + dpaOff dpa / 64 * 64) 0 dpa data en poison f

/-- R176, R335: accesses of jobs and channels add heat only while COUNT_JOBS is 1. -/
def jobHeat (d : Dev) (dpa : Nat) : Dev :=
  if d.flag Pg.tir F.TIR_HEAT_CFG_COUNT_JOBS then d.addHeat (dpaSkein dpa) (dpaPage dpa) else d

/-! ### Access by LD offset (R333) -/

/-- A line at an LD offset is read. -/
def readOff (d : Dev) (w : Who) (off : Nat) (f : LineFault) : Got MovedLine :=
  match d.ringCheck w off w.rd with
  | (none, d1) => .fail d1
  | (some dpa, d1) => match d1.readWindow w off dpa f with
    | .done a d2 => .done a (d2.jobHeat dpa)
    | g => g

/-- A line at an LD offset is written. -/
def writeOff (d : Dev) (w : Who) (off : Nat) (data : BitVec 512) (en : BitVec 64) (poison : Bool) (f : LineFault) : Got Unit :=
  match d.ringCheck w off w.wr with
  | (none, d1) => .fail d1
  | (some dpa, d1) => match d1.writeWindow w off dpa data en poison f with
    | .done a d2 => .done a (d2.jobHeat dpa)
    | g => g

/-- R191 step 4: the page fetches that a waiter no longer needs: their buffers are freed. -/
def dropUser (d : Dev) (id : Nat) : Dev :=
  d.modTier fun t => { t with fetches := (t.fetches.map (fun f => { f with users := f.users.filter (· != id) })).filter fun f =>
    !(f.landed && f.users.isEmpty && f.mig == 0 && !f.knit && (t.fetches.any (fun g => g.id == f.id && g.users.contains id))) }

/-- R227, R344: the lines of a range whose contents are unspecified, where they are Open in DRAM. -/
def scrambleLine (d : Dev) (w : Who) (off : Nat) : Dev :=
  match d.translate w.ld off with
  | none => d
  | some dpa =>
    if (d.skeinCheck w.ld dpa).isSome then d
    else match d.locate dpa true with
      | .dram dra 0 => d.draw.putOpen dra dpa false (lineBytes (Config.freeLine d.fresh))
      | _ => d

end Dev

end Sys2Proof.Machine
end

