-- ==== Sys2Proof/Machine/Cable.lean ====
section
/-! DEFINITION. What jobs and rounds compute, as functions of bytes: cable transforms (R369, R370), CRC-32C (R349), and how a range is cut at
line boundaries. In a list of bytes a value of 256 or more is a byte that comes from a poisoned line (R375). -/

namespace Sys2Proof.Machine

/-! ### The control word (R369) -/

def xKind (w : Nat) : Nat := bits w 0 2
/-- N, the number of streams. -/
def xStreams (w : Nat) : Nat := bits w 2 6 + 1
/-- E, the element size in bytes. -/
def xElem (w : Nat) : Nat := 2 ^ bits w 8 2
def xTile (w : Nat) : Bool := w.testBit 10

/-- R369: the control word is one of those allowed: reserved bits 0, NM1 from 1 for KIND 1 and 2, unused fields 0. -/
def xformOk (w : Nat) : Bool :=
  decide (w < 2 ^ 11) &&
    (match xKind w with
     | 0 => w == 0
     | 3 => bits w 2 8 == 0
     | _ => decide (2 ≤ xStreams w) && !xTile w)

/-- R370: the transform unit in bytes. -/
def xUnit (w : Nat) : Nat :=
  match xKind w with
  | 0 => 64
  | 3 => if xTile w then 512 else 8
  | _ => xStreams w * xElem w

/-- R370: KIND 1: records become streams, one after the other. -/
def deinterleave (n e : Nat) (bs : List Nat) : List Nat :=
  let q := bs.length / (n * e)
  (List.range n).flatMap fun j => (List.range q).flatMap fun r => (bs.drop (r * n * e + j * e)).take e

/-- R370: KIND 2: streams, one after the other, become records. -/
def reinterleave (n e : Nat) (bs : List Nat) : List Nat :=
  let q := bs.length / (n * e)
  (List.range q).flatMap fun r => (List.range n).flatMap fun j => (bs.drop ((j * q + r) * e)).take e

/-- R370: KIND 3, TILE 0: byte r bit c goes to byte c bit r. -/
def transpose8 (t : List Nat) : List Nat :=
  let bad := if t.any (fun b => 256 ≤ b) then 256 else 0
  (List.range 8).map fun c => bad + ((List.range 8).map fun r => bits (t.getD r 0) c 1 * 2 ^ r).foldl (· + ·) 0

/-- R370: KIND 3, TILE 1: word r bit c goes to word c bit r. -/
def transpose64 (t : List Nat) : List Nat :=
  (List.range 64).flatMap fun c => (List.range 8).map fun k =>
    let from_ := (List.range 8).map fun i => t.getD (8 * (8 * k + i) + c / 8) 0
    (if from_.any (fun b => 256 ≤ b) then 256 else 0) + (from_.zipIdx.map fun x => bits x.1 (c % 8) 1 * 2 ^ x.2).foldl (· + ·) 0

/-- A function of tiles of `n` bytes over a list. -/
def tiles (n : Nat) (f : List Nat → List Nat) (bs : List Nat) : List Nat :=
  (List.range (bs.length / n)).flatMap fun i => f ((bs.drop (n * i)).take n)

/-- R370: what the source bytes become, in the order of R372. For KIND 2 the source is given stream by stream. -/
def transform (w : Nat) (bs : List Nat) : List Nat :=
  match xKind w with
  | 0 => bs
  | 1 => deinterleave (xStreams w) (xElem w) bs
  | 2 => reinterleave (xStreams w) (xElem w) bs
  | _ => if xTile w then tiles 512 transpose64 bs else tiles 8 transpose8 bs

/-! ### CRC-32C (R349, R387) -/

def crcByte (reg b : Nat) : Nat :=
  (List.range 8).foldl (fun r _ => if r.testBit 0 then r / 2 ^^^ 0x82F63B78 else r / 2) (reg ^^^ b)

/-- CRC-32C with a seed: the register starts at the complement of the seed, and the result is complemented. -/
def crc32c (seed : Nat) (bs : List Nat) : Nat := (bs.foldl crcByte (seed ^^^ 0xFFFFFFFF)) ^^^ 0xFFFFFFFF

/-! ### Ranges cut at lines -/

/-- The address of position `pos` of `total` bytes laid out in parts of `part` bytes `stride` apart, and how many bytes follow it there within
its line, its part and the total. -/
def spanAt (base stride part total pos : Nat) : Nat × Nat :=
  let a := base + pos / part * stride + pos % part
  (a, min (min (64 - a % 64) (part - pos % part)) (total - pos))

/-- Two ranges have a byte in common. -/
def overlaps (a n b m : Nat) : Bool := decide (0 < n ∧ 0 < m ∧ a < b + m ∧ b < a + n)

/-- Bytes placed at offset `k` of a line, and the enables of those bytes. -/
def lineImage (k : Nat) (bs : List Nat) : BitVec 512 × BitVec 64 :=
  (BitVec.ofNat 512 (ofBytes (bs.map (· % 256)) * 2 ^ (8 * k)), BitVec.ofNat 64 ((2 ^ bs.length - 1) * 2 ^ k))

/-- Some byte comes from a poisoned line. -/
def anyBad (bs : List Nat) : Bool := bs.any (fun b => decide (256 ≤ b))

/-- Bytes of a line that was poisoned, or not. -/
def mark (poison : Bool) (bs : List Nat) : List Nat := if poison then bs.map (· + 256) else bs

end Sys2Proof.Machine
end

