-- ==== Sys2Proof/Machine/Rings.lean ====
section
/-! DEFINITION. Service rings (chapter 11): the doorbell slots of BAR4 (R339 to R342), the fetch of descriptors, the start and the completion of
jobs (R337, R338, R343, R351), doorbell and completion events (R345, R346), and the Frog of a pair (R344). -/

namespace Sys2Proof.Machine

namespace Dev

/-! ### Pairs -/

def pair (d : Dev) (q : Nat) : Pair := tget (fun _ => ({} : Pair)) d.rings.pairs q
def modRings (d : Dev) (f : Rings → Rings) : Dev := { d with rings := f d.rings }
def modPair (d : Dev) (q : Nat) (f : Pair → Pair) : Dev :=
  d.modRings fun r => { r with pairs := tput (fun _ => ({} : Pair)) r.pairs q (f (d.pair q)) }

def qpLd (d : Dev) (q : Nat) : Nat := d.get (Bk.qp q) F.QMG_QP_ASSIGN_LD
def qpGroup (d : Dev) (q : Nat) : Nat := d.get (Bk.qp q) F.QMG_QP_ASSIGN_GROUP
def qpMinClass (d : Dev) (q : Nat) : Nat := d.get (Bk.qp q) F.QMG_QP_ASSIGN_MIN_CLASS
def qslot (d : Dev) (q : Nat) (f : Fld) : Nat := d.get (Bk.slot q) f
def putRing (d : Dev) (q : Nat) (f : Fld) (v : Nat) : Dev := d.set (Bk.slot q) f v
def sqSize (d : Dev) (q : Nat) : Nat := 2 ^ d.qslot q F.SLOT_SQ_LOG
def cqSize (d : Dev) (q : Nat) : Nat := 2 ^ d.qslot q F.SLOT_CQ_LOG

def pairJobs (d : Dev) (q : Nat) : List Job := d.rings.jobs.filter (fun j => j.pair == q)
/-- Jobs in flight of a pair, and across the device (R343): those that have started. -/
def inFlight (d : Dev) (q : Nat) : Nat := ((d.pairJobs q).filter (·.started)).length
def jobsActive (d : Dev) : Nat := (d.rings.jobs.filter (·.started)).length
def pairOn (d : Dev) (q : Nat) : Bool := d.qslot q F.SLOT_EN == 1
def pairHalted (d : Dev) (q : Nat) : Bool := d.qslot q F.SLOT_HALTED == 1

def findJob (d : Dev) (id : Nat) : Option Job := d.rings.jobs.find? (fun j => j.id == id)
def putJob (d : Dev) (j : Job) : Dev := d.modRings fun r => { r with jobs := r.jobs.map (fun x => if x.id = j.id then j else x) }

/-- R334: the label of the descriptor fetches and the completions of a pair. -/
def pairWho (d : Dev) (q : Nat) : Who :=
  { id := 2 ^ 65 + q, ld := d.qpLd q, master := d.qpLd q, gm := 64 + d.qpGroup q, cls := d.qpMinClass q, rd := 4, wr := 5,
    snooped := (d.pair q).snooped, since := (d.pair q).since }

/-- What an access of a pair waits for is kept with it. -/
def pairWait (d : Dev) (q : Nat) (snoop : Option Nat) (backing : Bool) : Dev :=
  d.modPair q fun p => { p with snooped := snoop, since := if backing then some (p.since.getD d.sn) else none }

/-- R342: a pair halts. -/
def haltPair (d : Dev) (q err acc : Nat) : Dev :=
  if d.pairHalted q then d
  else
    let d1 := (d.putRing q F.SLOT_HALTED 1).putRing q F.SLOT_ERR err
    (d1.modPair q fun p => { p with active := false }).raise Src.ringHalted q (d.qpLd q) acc

/-- R342, ERR 4: the enabled pairs of a viral LD halt. -/
def ringViral (d : Dev) : Dev := d.rings.live.foldl (fun d q => if d.isViral (d.qpLd q) then d.haltPair q 4 0 else d) d

/-- R340: a disabled pair with no job left: SQ_TAIL and CQ_HEAD read 0. -/
def pairIdle (d : Dev) (q : Nat) : Dev :=
  if d.pairOn q || !(d.pairJobs q).isEmpty then d else (d.putRing q F.SLOT_SQ_TAIL 0).putRing q F.SLOT_CQ_HEAD 0

/-! ### The doorbell slot (R339 to R341) -/

def ringArmed (d : Dev) (g : Nat) : Bool := (d.get Pg.qmg F.QMG_GRP_ARMED_DB).testBit g
def doneArmed (d : Dev) (g : Nat) : Bool := (d.get Pg.qmg F.QMG_CQ_ARMED_CQ).testBit g
/-- R345: the latch of a group's source is set only while it is armed. -/
def ringLatch (d : Dev) (g : Nat) : Dev := if d.ringArmed g then d.latch (Src.doorbell g) else d
def doneLatch (d : Dev) (g : Nat) : Dev := if d.doneArmed g then d.latch (Src.ringDone g) else d

/-- R341: a write of SQ_TAIL. -/
def tailWrite (d : Dev) (q v : Nat) : Dev :=
  let d1 := d.putRing q F.SLOT_SQ_TAIL v
  if d.pairOn q && decide (d.sqSize q ≤ v) then d1.haltPair q 1 10
  else (d1.modPair q fun p => { p with pending := true }).ringLatch (d.qpGroup q)

/-- Entries from the head of a CQ up to index `v`. -/
def cqAhead (d : Dev) (q v : Nat) : Nat := (v + d.cqSize q - d.qslot q F.SLOT_CQ_HEAD) % d.cqSize q

/-- R341, R342: a write of CQ_HEAD. -/
def headWrite (d : Dev) (q v : Nat) : Dev :=
  if !d.pairOn q then d.putRing q F.SLOT_CQ_HEAD v
  else if d.cqSize q ≤ v ∨ d.cqAhead q (d.qslot q F.SLOT_CQ_TAIL) < d.cqAhead q v then d.haltPair q 5 10
  else d.putRing q F.SLOT_CQ_HEAD v

/-- R336: a ring of 2^log entries of `entry` bytes can lie at a base. -/
def ringPlaced (log entry base : Nat) : Bool :=
  decide (4 ≤ log ∧ log ≤ 16) && base % (max (2 ^ log * entry) 4096) == 0

/-- R340: the fields of RING_CFG as a write leaves them, EN aside; what is locked while EN reads 1 is left. -/
def storeCfg (d : Dev) (q v : Nat) : Dev :=
  let d1 := d.putRing q F.SLOT_IRQ_EN (bits v 25 1)
  if d.pairOn q then d1
  else ((d1.putRing q F.SLOT_SQ_LOG (bits v 0 5)).putRing q F.SLOT_CQ_LOG (bits v 8 5)).putRing q F.SLOT_DEPTH (bits v 16 6)

/-- R340: the enable is accepted. -/
def enableOk (d : Dev) (q : Nat) : Bool :=
  d.qslot q F.SLOT_SQ_TAIL == 0 && d.qslot q F.SLOT_CQ_HEAD == 0 &&
    ringPlaced (d.qslot q F.SLOT_SQ_LOG) 64 (d.qslot q F.SLOT_SQ_BASE) && ringPlaced (d.qslot q F.SLOT_CQ_LOG) 16 (d.qslot q F.SLOT_CQ_BASE) &&
    decide (d.qslot q F.SLOT_DEPTH < d.cqSize q - 1)

/-- R340: a write with EN 1. -/
def ringOn (d : Dev) (q v : Nat) : Dev :=
  let d1 := d.storeCfg q v
  if d.pairOn q then d1
  else if !d1.enableOk q then d1.putRing q F.SLOT_ERR 6
  else
    let d2 := ((d1.putRing q F.SLOT_EN 1).putRing q F.SLOT_SQ_HEAD 0).putRing q F.SLOT_CQ_TAIL 0
    let d3 := ((d2.putRing q F.SLOT_PHASE 1).putRing q F.SLOT_HALTED 0).putRing q F.SLOT_FROGGED 0
    ((d3.putRing q F.SLOT_ERR 0).modPair q fun p => { p with active := false, irqCnt := 0, due := false }).modRings fun r =>
      { r with live := r.live.filter (· < q) ++ q :: r.live.filter (q < ·) }

/-- EN reads 0. -/
def clearEn (d : Dev) (q : Nat) : Dev :=
  ((d.putRing q F.SLOT_EN 0).modRings fun r => { r with live := r.live.filter (· != q) }).modPair q fun p => { p with active := false }

/-- R340: a write with EN 0. -/
def ringOff (d : Dev) (q v : Nat) : Dev :=
  let d1 := d.storeCfg q v
  if d.pairOn q then (d1.clearEn q).pairIdle q else d1

/-- R339, R56: a write by an LD to slot `q` at offset `off`: dropped and raised where the pair is another LD's; it waits where the FABRIC
domain is off. -/
def slotWrite (ld q off width v : Nat) (f : Effect) : Effect := fun d =>
  if ld % 64 ≠ d.qpLd q then d.raise Src.foreignDoorbell (64 * q + off) (ld % 64) 10
  else if d.domHeld (pageDomain Pg.qmg) then d.waitDomain (.ld (ld % 64)) (2 ^ 32 + 64 * q + off) width (some (2 ^ 128 + v))
  else if d.pageReady Pg.qmg then f d
  else d

/-- R332: a write of QMG_QP_ASSIGN for the pair that QMG_QP_SEL names; ignored while the pair is enabled. -/
def qpAssign (v : Nat) : Effect := fun d =>
  let q := d.get Pg.qmg F.QMG_QP_SEL_PAIR
  if d.pairOn q || !(d.pairJobs q).isEmpty then d else d.store (Bk.qp q) 0x10C 0x01033F3F v false

/-! ### Fetching and starting (R337, R341, R343, R347) -/

/-- R347: the descriptor that 64 bytes hold. -/
def parseDesc (bs : List Nat) : Desc :=
  let f := fun (a n : Nat) => ofBytes ((bs.drop a).take n)
  let c := f 0 4
  { opcode := bits c 0 8, cls := bits c 8 2, irq := c.testBit 10, fence := c.testBit 11, flush := c.testBit 12, ratio := bits c 13 2, tag := f 4 4,
    src := bits (f 8 8) 0 52, dst := bits (f 16 8) 0 52, len := bits (f 24 4) 0 31, dlen := bits (f 28 4) 0 31, arg0 := f 32 8, arg1 := f 40 8 }

/-- R347: reserved bits are 0 and no length exceeds 2^30. -/
def descOk (bs : List Nat) : Bool :=
  let f := fun (a n : Nat) => ofBytes ((bs.drop a).take n)
  f 0 4 >>> 15 == 0 && f 8 8 >>> 52 == 0 && f 16 8 >>> 52 == 0 && f 24 4 ≤ 2 ^ 30 && f 28 4 ≤ 2 ^ 30 && f 48 16 == 0

/-- R341: the pair may fetch the next descriptor now. -/
def mayFetch (d : Dev) (q : Nat) : Bool :=
  d.pairOn q && !d.pairHalted q && (d.pair q).active && !d.frogOn Pg.qmg && !d.frogHits (.ring q) &&
    d.qslot q F.SLOT_SQ_HEAD != d.qslot q F.SLOT_SQ_TAIL && d.enabled Pg.qmg && !d.quiesced

/-- R341, R342, R347: the descriptor at SQ_HEAD is fetched, and its job enters the pair's list; one that breaks R347 has ended before it makes
an access. -/
def fetchDesc (d : Dev) (q : Nat) (f : LineFault) : Dev :=
  let h := d.qslot q F.SLOT_SQ_HEAD
  match d.readOff (d.pairWho q) (d.qslot q F.SLOT_SQ_BASE + 64 * h) f with
  | .wait d1 s b => d1.pairWait q s b
  | .fail d1 => d1.haltPair q 2 4
  | .done (_, true) d1 => d1.haltPair q 2 4
  | .done (bs, false) d1 =>
    let j : Job := { id := d1.mem.nextReq, pair := q, desc := parseDesc bs, ended := if descOk bs then none else some { status := 0x09 } }
    let d2 := (d1.modMem fun m => { m with nextReq := m.nextReq + 1 }).modRings fun r => { r with jobs := r.jobs ++ [j] }
    let h' := (h + 1) % d.sqSize q
    ((d2.putRing q F.SLOT_SQ_HEAD h').modPair q fun p =>
      { p with active := h' != d.qslot q F.SLOT_SQ_TAIL, snooped := none, since := none }).dropUser (2 ^ 65 + q) |>.tally Pg.qmg 0x0100 1

/-- R355: the device-wide limit of jobs in flight. -/
def jobLimit (d : Dev) : Nat := max 1 (min 1024 (d.get Pg.qmg F.QMG_CFG_JOBS))

/-- R337, R343, R467: the next job of a pair may start. -/
def mayStart (d : Dev) (q : Nat) (j : Job) : Bool :=
  !d.fatal && d.enabled Pg.qmg && (!j.desc.fence || d.inFlight q == 0) && decide (d.inFlight q < d.qslot q F.SLOT_DEPTH + 1) &&
    decide (d.cqAhead q (d.qslot q F.SLOT_CQ_TAIL) + d.inFlight q < d.cqSize q - 1) && decide (d.jobsActive < d.jobLimit)

/-- R343: the next job of a pair starts. -/
def startJob (d : Dev) (q : Nat) : Dev :=
  match (d.pairJobs q).find? (fun j => !j.started) with
  | some j => if d.mayStart q j then (d.putJob { j with started := true }).tally Pg.qmg 0x0101 1 else d
  | none => d

/-! ### Completions (R338, R346, R351) -/

/-- R351: the 16 bytes of a completion. -/
def completion (d : Dev) (j : Job) (e : JobEnd) : List Nat :=
  leBytes 4 j.desc.tag ++ leBytes 2 (d.qslot j.pair F.SLOT_SQ_HEAD) ++ [e.status, d.qslot j.pair F.SLOT_PHASE + 2 * b2n e.flushed] ++ leBytes 8 e.result

/-- R346: an interrupt of the pair falls due. -/
def ringDue (d : Dev) (q : Nat) : Dev := (d.modPair q fun p => { p with due := true }).doneLatch (d.qpGroup q)

/-- R346: a completion that counts. -/
def countDone (d : Dev) (q : Nat) : Dev :=
  let d1 := d.modPair q fun p => { p with irqCnt := p.irqCnt + 1, irqSn := if p.irqCnt = 0 then d.sn else p.irqSn }
  if d.qslot q F.SLOT_IRQ_EN = 1 ∧ max 1 (d.qslot q F.SLOT_COAL_CNT) ≤ (d1.pair q).irqCnt then d1.ringDue q else d1

/-- The job leaves the device. -/
def dropJob (d : Dev) (j : Job) : Dev :=
  (((d.modRings fun r => { r with jobs := r.jobs.filter (fun x => x.id != j.id) }).modTier fun t =>
    { t with jobFails := t.jobFails.filter (· != j.id) }).dropUser j.id).pairIdle j.pair

/-- R338: the completion has reached its point of visibility: CQ_TAIL advances, the counts of R355 and R346 follow. -/
def completed (d : Dev) (j : Job) (e : JobEnd) : Dev :=
  let q := j.pair
  let t := (d.qslot q F.SLOT_CQ_TAIL + 1) % d.cqSize q
  let d1 := d.putRing q F.SLOT_CQ_TAIL t
  let d2 := if t = 0 then d1.putRing q F.SLOT_PHASE (1 - d1.qslot q F.SLOT_PHASE) else d1
  let d3 := (d2.set Pg.qmg F.QMG_JOB_CNT_COUNT (d2.get Pg.qmg F.QMG_JOB_CNT_COUNT + 1)).tally Pg.qmg 0x0102 1
  let d4 := if e.status ≤ 1 then d3 else d3.addSat Pg.qmg F.QMG_ERR_CNT_COUNT 1
  (if j.desc.irq || e.status != 0 then d4.countDone q else d4).dropJob j

/-- R338, R342, R170: the completion of a job that has ended is written. -/
def writeDone (d : Dev) (j : Job) (e : JobEnd) (f : LineFault) : Dev :=
  let q := j.pair
  if d.isViral (d.qpLd q) then d.completed j e
  else
    let a := d.qslot q F.SLOT_CQ_BASE + 16 * d.qslot q F.SLOT_CQ_TAIL
    let (x, en) := lineImage (a % 64) (d.completion j e)
    match d.writeOff (d.pairWho q) a x en false f with
    | .wait d1 s b => d1.pairWait q s b
    | .fail d1 => (d1.haltPair q 3 5).dropJob j
    | .done _ d1 => ((d1.pairWait q none false).dropUser (2 ^ 65 + q)).completed j e

/-- R338: a job that has started and ended, every line of which is visible (R539: at the peer too). -/
def jobComplete (id : Nat) (f : LineFault) : Effect := fun d =>
  match d.findJob id with
  | some j =>
    match j.ended with
    | some e => if j.started && !d.twin.out.any (fun i => i.req == id) then (d.writeDone j e f).after else d
    | none => d
  | none => d

/-! ### Doorbell and completion events (R345, R346) -/

/-- R345: the dispatch of a doorbell event of a group. -/
def ringDoorbell (d : Dev) (g : Nat) : Dev :=
  let d1 := d.set Pg.qmg F.QMG_GRP_ARMED_DB (clrBit (d.get Pg.qmg F.QMG_GRP_ARMED_DB) g)
  if d1.recordOnly then d1
  else
    d1.modRings fun r =>
      { r with pairs := tmapv (fun _ => ({} : Pair)) id (r.pairs.map (fun x =>
          if x.2.pending && d1.qpGroup x.1 == g then
            (x.1, { x.2 with pending := false, active := x.2.active || (d1.pairOn x.1 && !d1.pairHalted x.1) }) else x)) }

/-- R346, R71: the message of a pair. -/
def ringMsg (d : Dev) (q : Nat) : Dev :=
  let ld := d.qpLd q
  let v := d.qslot q F.SLOT_VECTOR
  let d1 := d.modPair q fun p => { p with due := false, irqCnt := 0 }
  if v < d1.msixCount ld then (d1.sendMsix ld v).tally Pg.qmg 0x0103 1
  else d1.raise Src.irqInvalid (q + 2 ^ 16 + v * 2 ^ 17) ld 0

/-- R346: the dispatch of a completion event of a group: one message for each pair that has an interrupt due, ascending. -/
def ringDoneEvent (d : Dev) (g : Nat) : Dev :=
  let d1 := d.set Pg.qmg F.QMG_CQ_ARMED_CQ (clrBit (d.get Pg.qmg F.QMG_CQ_ARMED_CQ) g)
  if d1.recordOnly then d1
  else (d1.rings.pairs.filter (fun x => x.2.due && d1.qpGroup x.1 == g)).foldl (fun d x => d.ringMsg x.1) d1

/-- R345 at fabric cycle 1: the sources that were disarmed are armed again; one with a pending bit, or with an interrupt due, has its latch
set at once. -/
def ringRearm (d : Dev) : Dev :=
  let db := (List.range 64).filter (fun g => !d.ringArmed g)
  let cq := (List.range 64).filter (fun g => !d.doneArmed g)
  if db.isEmpty && cq.isEmpty then d
  else
    let d1 := (d.set Pg.qmg F.QMG_GRP_ARMED_DB (2 ^ 64 - 1)).set Pg.qmg F.QMG_CQ_ARMED_CQ (2 ^ 64 - 1)
    let d2 := db.foldl (fun d g => if d.rings.pairs.any (fun x => x.2.pending && d.qpGroup x.1 == g) then d.latch (Src.doorbell g) else d) d1
    cq.foldl (fun d g => if d.rings.pairs.any (fun x => x.2.due && d.qpGroup x.1 == g) then d.latch (Src.ringDone g) else d) d2

/-- R346: the time limit of a pair's interrupt has passed. -/
def coalesce (q : Nat) : Effect := fun d =>
  let p := d.pair q
  let n := d.qslot q F.SLOT_COAL_STITCH
  if d.qslot q F.SLOT_IRQ_EN = 1 ∧ n ≠ 0 ∧ p.irqCnt ≠ 0 ∧ !p.due ∧ p.irqSn + n ≤ d.sn then d.ringDue q else d

/-! ### The Frog of a pair (R344) -/

/-- The destination range of a job (R348): base, stride, part, total. -/
def destOf (x : Desc) : Nat × Nat × Nat × Nat :=
  let lin := fun (n : Nat) => (x.dst, max 1 n, max 1 n, n)
  match x.opcode with
  | 0x01 | 0x02 => lin x.len
  | 0x04 =>
    let w := x.arg0 % 2 ^ 32
    if xKind w = 1 then (x.dst, bits x.arg1 0 40, max 1 (x.len / xStreams w), x.len) else lin x.len
  | 0x05 => lin ((x.len / 256 + (if x.flush ∧ x.len % 256 ≠ 0 then 1 else 0)) * slotSize x.ratio)
  | 0x06 => lin (x.len / slotSize x.ratio * 256)
  | 0x0C => if x.arg0.testBit 0 then lin 32 else lin 0
  | _ => lin 0

/-- The label of a job's accesses (R334). -/
def jobWho (d : Dev) (j : Job) : Who :=
  { id := j.id, ld := d.qpLd j.pair, master := d.qpLd j.pair, gm := 64 + d.qpGroup j.pair, cls := max j.desc.cls (d.qpMinClass j.pair),
    rd := 4, wr := 5, snooped := j.snooped, since := j.since }

/-- R227, R344: the destination of a job that failed or was aborted holds unspecified contents. -/
def scramble (d : Dev) (j : Job) : Dev :=
  let (base, stride, part, total) := destOf j.desc
  (List.range ((total + part - 1) / part)).foldl
    (fun d k =>
      let a := base + k * stride
      let n := min part (total - k * part)
      (List.range ((a % 64 + n + 63) / 64)).foldl (fun d i => d.scrambleLine (d.jobWho j) (a / 64 * 64 + 64 * i)) d) d

/-- The compressor of a job is free. -/
def freeInst (d : Dev) (j : Job) : Dev := match j.inst with | some i => d.setCmpBusy i 0 | none => d

/-- R350: the moves that a job asked for and that have not started are no longer wanted; those under way go on for no job. -/
def forgetJob (d : Dev) (id : Nat) : Dev :=
  d.modTier fun t =>
    { t with wants := t.wants.filter (fun w => w.job != id), trials := t.trials.filter (fun x => x.job != id),
             migs := t.migs.map (fun m => if m.job = id then { m with job := 0 } else m) }

/-- R344: a job in flight ends with status Aborted; its completion is written if the CQ can be written. -/
def abortJob (d : Dev) (j : Job) : Dev :=
  let d1 := ((if j.started && j.ended.isNone then d.scramble j else d).freeInst j).forgetJob j.id
  let q := j.pair
  let e : JobEnd := { status := 0x10 }
  if d1.cqSize q ≤ d1.cqAhead q (d1.qslot q F.SLOT_CQ_TAIL) + 1 then d1.dropJob j
  else
    let d2 := d1.writeDone j e okFault
    d2.dropJob j

/-- R344: the Frog of a pair completes. -/
def frogPair (d : Dev) (q : Nat) : Dev :=
  let d1 := (d.pairJobs q).foldl (fun d j => d.abortJob j) (d.clearEn q)
  ((d1.modPair q fun p => { p with pending := false }).putRing q F.SLOT_FROGGED 1).pairIdle q

/-- R471: a Frog is accepted: the pair stops fetching. -/
def stopFetch (d : Dev) (q : Nat) : Dev := d.modPair q fun p => { p with active := false }

/-- The pairs that have work or are enabled, and those of an LD. -/
def busyPairs (d : Dev) : List Nat := (d.rings.live ++ d.rings.jobs.map (·.pair)).eraseDups
def ldPairs (d : Dev) (ld : Nat) : List Nat := d.busyPairs.filter (fun q => d.qpLd q == ld)

end Dev

/-! ### The commands -/

open Dev in
/-- R339, R341: SQ_TAIL_DOORBELL. -/
def execSqTailDoorbell (ld : Nat) (slot : Nat) (v : BitVec 16) (s : State) : Host.Outcome State Fault Refusal :=
  s.run (slotWrite ld (slot % 8192) 0x00 4 v.toNat (fun d => d.tailWrite (slot % 8192) v.toNat))

open Dev in
/-- R339, R341, R342: CQ_HEAD_WRITE. -/
def execCqHeadWrite (ld : Nat) (slot : Nat) (v : BitVec 16) (s : State) : Host.Outcome State Fault Refusal :=
  s.run (slotWrite ld (slot % 8192) 0x04 4 v.toNat (fun d => d.headWrite (slot % 8192) v.toNat))

open Dev in
/-- R340: RING_ENABLE. -/
def execRingEnable (ld : Nat) (slot : Nat) (v : BitVec 32) (s : State) : Host.Outcome State Fault Refusal :=
  s.run (slotWrite ld (slot % 8192) 0x18 4 (setBit v.toNat 24) (fun d => d.ringOn (slot % 8192) v.toNat))

open Dev in
/-- R340: RING_DISABLE. -/
def execRingDisable (ld : Nat) (slot : Nat) (v : BitVec 32) (s : State) : Host.Outcome State Fault Refusal :=
  s.run (slotWrite ld (slot % 8192) 0x18 4 (clrBit v.toNat 24) (fun d => d.ringOff (slot % 8192) v.toNat))

open Dev in
/-- R332, R355: QP_ASSIGN_WRITE, on the pair that QMG_QP_SEL names. -/
def execQpAssignWrite (a : Agent) (v : BitVec 32) (s : State) : Host.Outcome State Fault Refusal :=
  s.run (writeTo v.toNat a Pg.qmg 0x10C (qpAssign v.toNat))

open Dev in
/-- R341, R347: DESCRIPTOR_FETCHED. -/
def execDescriptorFetched (pair : Nat) (f : LineFault) (s : State) : Host.Outcome State Fault Refusal :=
  s.run (when (fun d => d.mayFetch pair) (fun d => (d.fetchDesc pair f).after))

/-- R343: JOB_START. -/
def execJobStart (pair : Nat) (s : State) : Host.Outcome State Fault Refusal := s.run (fun d => d.startJob pair)

/-- R338, R346: JOB_COMPLETE. -/
def execJobComplete (job : Nat) (f : LineFault) (s : State) : Host.Outcome State Fault Refusal := s.run (Dev.jobComplete job f)

/-- R346: COALESCE_TIMER. -/
def execCoalesceTimer (pair : Nat) (s : State) : Host.Outcome State Fault Refusal := s.run (Dev.coalesce pair)

end Sys2Proof.Machine
end

