-- ==== Sys2Proof/Machine/Jobs.lean ====
section
/-! DEFINITION. What the jobs of service rings do (R226 to R229, R348 to R353, R373): each command carries a job of its opcode as far as its
accesses go, to its end or to an access that waits; the next command of the job goes on from there. -/

namespace Sys2Proof.Machine

namespace Dev

/-- The progress of a running job: the device, the job, and whether it can go on in this command. -/
abbrev JobRun := Dev × Job × Bool

/-- A job ends. -/
def stopJob (r : Dev × Job) (status result : Nat) : JobRun := (r.1, { r.2 with ended := some { status := status, result := result } }, false)

/-- R353, R354: a job ends with Poisoned data. -/
def poisonEnd (d : Dev) (j : Job) (rel addr : Nat) : JobRun :=
  stopJob (d.raise Src.jobPoison addr (d.qpLd j.pair) 4, j) 0x0C rel

/-- The job's note of the first poisoned line it met. -/
def notePoison (j : Job) (poison : Bool) (rel addr : Nat) : Job :=
  match poison, j.poison with
  | true, none => { j with poison := some (rel, addr) }
  | true, some p => if rel < p.1 then { j with poison := some (rel, addr) } else j
  | _, _ => j

/-- Bytes of one line at an LD offset are read for a job; `start` is the offset that its position 0 names. -/
def jobRead (d : Dev) (j : Job) (fs : List LineFaultAt) (off n start : Nat) : Option (List Nat × Bool) × JobRun :=
  match d.readOff (d.jobWho j) off (faultAt fs (off / 64)) with
  | .done (bs, po) d1 => (some ((bs.drop (off % 64)).take n, po), d1, { j with snooped := none }, true)
  | .wait d1 s _ => (none, d1, { j with snooped := s }, false)
  | .fail d1 => (none, stopJob (d1.raise Src.jobAccess off (d1.qpLd j.pair) 4, j) 0x0B (off - start))

/-- Bytes at an LD offset that may lie in two lines: the bytes, each marked if its line is poisoned; the first poisoned line is noted. -/
def jobReadSpan (d : Dev) (j : Job) (fs : List LineFaultAt) (off n start : Nat) : Option (List Nat) × JobRun :=
  let n1 := min n (64 - off % 64)
  let note := fun (j : Job) (po : Bool) (a : Nat) => notePoison j po (max (a / 64 * 64) start - start) (a / 64 * 64)
  match d.jobRead j fs off n1 start with
  | (none, r) => (none, r)
  | (some (b1, p1), d1, j1, _) =>
    let j1 := note j1 p1 off
    if n1 = n then (some (mark p1 b1), d1, j1, true)
    else
      match d1.jobRead j1 fs (off + n1) (n - n1) start with
      | (none, r) => (none, r)
      | (some (b2, p2), d2, j2, _) => (some (mark p1 b1 ++ mark p2 b2), d2, note j2 p2 (off + n1), true)

/-- Bytes of one line at an LD offset are written for a job; bytes of a poisoned line make it a poisoned full write (R353). -/
def jobWrite (d : Dev) (j : Job) (fs : List LineFaultAt) (off : Nat) (bs : List Nat) (rel : Nat) : Bool × JobRun :=
  let (x, en) := lineImage (off % 64) bs
  match d.writeOff (d.jobWho j) off x en (anyBad bs) (faultAt fs (off / 64)) with
  | .done _ d1 => (true, d1, { j with snooped := none, since := none }, true)
  | .wait d1 s b => (false, d1, { j with snooped := s, since := if b then some (j.since.getD d.sn) else none }, false)
  | .fail d1 => (false, stopJob (d1.raise Src.jobAccess off (d1.qpLd j.pair) 5, j) 0x0B rel)

/-- Repeat a step while the job can go on. -/
def runSteps (step : Dev → Job → JobRun) : Nat → JobRun → JobRun
  | 0, r => r
  | n + 1, (d, j, go) => if go then runSteps step n (step d j) else (d, j, go)

/-- A beat of a job engine (R566). -/
def jobBeat (d : Dev) : Dev := d.tally Pg.dmv 0x0101 1

/-! ### Gathering and scattering -/

/-- Gather `total` bytes laid out from `base` in parts into the job's buffer, one line part at a time; `stopAt`: poison ends the job. -/
def gatherStep (fs : List LineFaultAt) (base stride part total : Nat) (stopAt : Bool) (d : Dev) (j : Job) : JobRun :=
  if total ≤ j.pos then (d, j, false)
  else
    let (a, n) := spanAt base stride part total j.pos
    match d.jobRead j fs a n base with
    | (none, r) => r
    | (some (bs, po), d1, j1, _) =>
      let line := a / 64 * 64
      if po && stopAt then d1.poisonEnd j1 (max line base - base) line
      else (d1.jobBeat, { notePoison j1 po (max line base - base) line with pos := j.pos + n, buf := j.buf ++ mark po bs }, true)

/-- Write the job's bytes, laid out from `base` in parts. -/
def scatterStep (fs : List LineFaultAt) (base stride part : Nat) (bs : List Nat) (d : Dev) (j : Job) : JobRun :=
  if bs.length ≤ j.wpos then (d, j, false)
  else
    let (a, n) := spanAt base stride part bs.length j.wpos
    match d.jobWrite j fs a ((bs.drop j.wpos).take n) j.wpos with
    | (false, r) => r
    | (true, d1, j1, _) => (d1.jobBeat, { j1 with wpos := j.wpos + n }, true)

/-- The number of steps that suffice for `n` bytes. -/
def stepsFor (n parts : Nat) : Nat := n / 64 + 2 * parts + 2

/-- A job that gathers its source, computes what it writes, and writes it: `make` gives the bytes to write, or ends the job; `fin` ends it
once everything is written. -/
def gatherJob (d : Dev) (j : Job) (fs : List LineFaultAt) (src dst : Nat × Nat × Nat × Nat) (stopAt : Bool)
    (make : Dev → Job → Option (List Nat) × JobRun) (fin : Dev → Job → JobRun) : JobRun :=
  let (sb, ss, sp, st) := src
  let (db, ds, dp, _) := dst
  let write := fun (d : Dev) (j : Job) (bs : List Nat) =>
    let (d1, j1, _) := runSteps (scatterStep fs db ds dp bs) (stepsFor bs.length (bs.length / dp + 1)) (d, j, true)
    if j1.ended.isNone && decide (bs.length ≤ j1.wpos) then fin d1 j1 else (d1, j1, false)
  match j.out with
  | some bs => write d j bs
  | none =>
    let (d1, j1, _) := runSteps (gatherStep fs sb ss sp st stopAt) (stepsFor st (st / sp + 1)) (d, j, true)
    if j1.ended.isSome || decide (j1.pos < st) then (d1, j1, false)
    else
      match make d1 j1 with
      | (none, r) => r
      | (some bs, d2, j2, _) => write d2 { j2 with out := some bs, buf := [] } bs

/-! ### Move, fill, compare (R349) -/

/-- The next part of a move: its offset in the job and its length. A destination that lies above its source and overlaps it is written from
its end, so that each byte is read as it stood. -/
def movePart (x : Desc) (pos : Nat) : Nat × Nat :=
  let left := x.len - pos
  if x.src < x.dst ∧ x.dst < x.src + x.len then
    let n := min ((x.dst + left - 1) % 64 + 1) left
    (left - n, n)
  else (pos, min (64 - (x.dst + pos) % 64) left)

def moveStep (fs : List LineFaultAt) (d : Dev) (j : Job) : JobRun :=
  let x := j.desc
  if x.len ≤ j.pos then (d, j, false)
  else
    let (o, n) := movePart x j.pos
    match d.jobReadSpan j fs (x.src + o) n x.src with
    | (none, r) => r
    | (some bs, d1, j1, _) =>
      match d1.jobWrite j1 fs (x.dst + o) bs o with
      | (false, r) => r
      | (true, d2, j2, _) => ((d2.jobBeat).jobBeat, { j2 with pos := j.pos + n }, true)

/-- The end of a job that poison does not end (R353): Success with `result`, or Poisoned data. -/
def finish (result : Nat) (d : Dev) (j : Job) : JobRun :=
  match j.poison with
  | some (rel, addr) => d.poisonEnd j rel addr
  | none => stopJob (d, j) 0x00 result

def runMove (d : Dev) (j : Job) (fs : List LineFaultAt) : JobRun :=
  let (d1, j1, _) := runSteps (moveStep fs) (stepsFor j.desc.len 1) (d, j, true)
  if j1.ended.isNone && decide (j.desc.len ≤ j1.pos) then finish j.desc.len d1 j1 else (d1, j1, false)

def fillStep (fs : List LineFaultAt) (d : Dev) (j : Job) : JobRun :=
  let x := j.desc
  if x.len ≤ j.pos then (d, j, false)
  else
    let n := min (64 - (x.dst + j.pos) % 64) (x.len - j.pos)
    match d.jobWrite j fs (x.dst + j.pos) ((List.range n).map (fun i => bits x.arg0 (8 * ((j.pos + i) % 8)) 8)) j.pos with
    | (false, r) => r
    | (true, d1, j1, _) => (d1.jobBeat, { j1 with pos := j.pos + n }, true)

def runFill (d : Dev) (j : Job) (fs : List LineFaultAt) : JobRun :=
  let (d1, j1, _) := runSteps (fillStep fs) (stepsFor j.desc.len 1) (d, j, true)
  if j1.ended.isNone && decide (j.desc.len ≤ j1.pos) then stopJob (d1, j1) 0x00 j.desc.len else (d1, j1, false)

/-- The first place where two lists differ. -/
def firstDiff : List Nat → List Nat → Nat → Option Nat
  | a :: as, b :: bs, i => if a = b then firstDiff as bs (i + 1) else some i
  | _, _, _ => none

def compareStep (fs : List LineFaultAt) (d : Dev) (j : Job) : JobRun :=
  let x := j.desc
  let second := bits x.arg0 0 52
  if x.len ≤ j.pos then (d, j, false)
  else
    let n := min (64 - (x.src + j.pos) % 64) (x.len - j.pos)
    match d.jobReadSpan j fs (x.src + j.pos) n x.src with
    | (none, r) => r
    | (some a, d1, j1, _) =>
      match j1.poison with
      | some (rel, addr) => d1.poisonEnd j1 rel addr
      | none =>
        match d1.jobReadSpan j1 fs (second + j.pos) n second with
        | (none, r) => r
        | (some b, d2, j2, _) =>
          match j2.poison with
          | some (rel, addr) => d2.poisonEnd j2 rel addr
          | none =>
            match firstDiff a b 0 with
            | some i => stopJob (d2, j2) 0x01 (j.pos + i)
            | none => ((d2.jobBeat).jobBeat, { j2 with pos := j.pos + n }, true)

def runCompare (d : Dev) (j : Job) (fs : List LineFaultAt) : JobRun :=
  let (d1, j1, _) := runSteps (compareStep fs) (stepsFor j.desc.len 1) (d, j, true)
  if j1.ended.isNone && decide (j.desc.len ≤ j1.pos) then stopJob (d1, j1) 0x00 0 else (d1, j1, false)

/-! ### Checksum and cable transforms -/

/-- R349: CRC-32C in RESULT, or the SM3 digest at DST. -/
def runChecksum (d : Dev) (j : Job) (fs : List LineFaultAt) : JobRun :=
  let x := j.desc
  let sm3 := x.arg0.testBit 0
  d.gatherJob j fs (x.src, x.len, x.len, x.len) (x.dst, 32, 32, 32) true
    (fun d j =>
      if sm3 then (some (beBytes 32 (Sm3.digest j.buf)), d, j, true)
      else (none, stopJob (d, j) 0x00 (crc32c (bits x.arg1 0 32) j.buf)))
    (fun d j => stopJob (d, j) 0x00 0)

/-- R373: the status of the check of a cable transform; 0 where it passes. -/
def cableCheck (x : Desc) : Nat :=
  let w := x.arg0 % 2 ^ 32
  let s := bits x.arg1 0 40
  let qe := x.len / xStreams w
  let wide := (xStreams w - 1) * s + qe
  let streams := xKind w == 1 || xKind w == 2
  let srcLen := if xKind w = 2 then wide else x.len
  let dstLen := if xKind w = 1 then wide else x.len
  if !xformOk w || x.len % xUnit w != 0 || overlaps x.src srcLen x.dst dstLen || (streams && (s < qe || x.arg1 >>> 40 != 0)) then 0x09
  else if x.dlen < dstLen then 0x0A else 0

/-- R370, R373. -/
def runCable (d : Dev) (j : Job) (fs : List LineFaultAt) : JobRun :=
  let x := j.desc
  let w := x.arg0 % 2 ^ 32
  let c := cableCheck x
  if c ≠ 0 then stopJob (d, j) c 0
  else if xKind w = 0 then d.runMove j fs
  else
    let qe := x.len / xStreams w
    let s := bits x.arg1 0 40
    d.gatherJob j fs (if xKind w = 2 then (x.src, s, qe, x.len) else (x.src, x.len, x.len, x.len)) (destOf x) false
      (fun d j => (some (transform w j.buf), d, j, true)) (finish x.len)

/-! ### Compress and decompress (R226 to R229) -/

/-- R223: a job's first block chooses its compressor. -/
def takeInst (d : Dev) (j : Job) (work : Nat) : Option (Nat × Dev × Job) :=
  match j.inst with
  | some i => some (i, d, j)
  | none => match d.idleCompressor 1 with
    | some i => some (i, d.setCmpBusy i work, { j with inst := some i })
    | none => none

/-- A compress or decompress job that failed after its checks: its destination counts as not written (R227, R228). -/
def failOut (d : Dev) (j : Job) (status result : Nat) : JobRun := stopJob (d.scramble j, j) status result

/-- R227: the blocks of a compress job. -/
def blocksOf (x : Desc) : Nat := x.len / 256 + (if x.flush ∧ x.len % 256 ≠ 0 then 1 else 0)

/-- R227: bytes consumed, slots written, pad bytes. -/
def compressResult (x : Desc) : Nat :=
  let r := x.len % 256
  let fl := x.flush && r != 0
  (if fl then x.len else x.len - r) + blocksOf x * 2 ^ 31 + (if fl then 256 - r else 0) * 2 ^ 54

/-- R213, R218, R227: the slots of the gathered blocks, in order; the first block that fits no scheme, or whose check failed, ends the job. -/
def encodeBlocks (i : Nat) (mismatch : Option Nat) (d : Dev) (j : Job) : Option (List Nat) × JobRun :=
  let x := j.desc
  let bytes := j.buf ++ List.replicate (256 * blocksOf x - j.buf.length) 0
  let t := slotSize x.ratio
  (List.range (blocksOf x)).foldl
    (fun (acc : Option (List Nat) × JobRun) b =>
      match acc with
      | (none, r) => (none, r)
      | (some out, d, j, _) =>
        match encodeSlot t (blockWords ((bytes.drop (256 * b)).take 256)) with
        | none => (none, (d.countEncode i false).failOut j 0x02 b)
        | some s =>
          let d1 := d.countEncode i true
          if mismatch = some b then
            (none, (d1.checkFailed i (s.headD 0) (b2n (t == 64)) (x.src + 256 * b) (d1.qpLd j.pair) 4).failOut j 0x03 b)
          else (some (out ++ s), d1, j, true)) (some [], d, j, true)

def runCompress (d : Dev) (j : Job) (mismatch : Option Nat) (fs : List LineFaultAt) : JobRun :=
  let x := j.desc
  let n := blocksOf x
  let size := n * slotSize x.ratio
  let take := if x.flush then x.len else x.len / 256 * 256
  if (x.ratio ≠ 1 ∧ x.ratio ≠ 2) ∨ x.dst % 64 ≠ 0 ∨ overlaps x.src x.len x.dst size then stopJob (d, j) 0x09 0
  else if x.dlen < size then stopJob (d, j) 0x0A 0
  else if n = 0 then stopJob (d, j) 0x00 0
  else
    match d.takeInst j 4 with
    | none => (d, j, false)
    | some (i, d1, j1) =>
      d1.gatherJob j1 fs (x.src, take, take, take) (x.dst, size, size, size) true (encodeBlocks i mismatch) (fun d j =>
        (d, { j with ended := some { status := 0x00, result := compressResult x, flushed := x.flush && x.len % 256 != 0 } }, false))

/-- R228: the blocks of the gathered slots; the first malformed slot ends the job. -/
def decodeSlots (i : Nat) (d : Dev) (j : Job) : Option (List Nat) × JobRun :=
  let x := j.desc
  let t := slotSize x.ratio
  (List.range (x.len / t)).foldl
    (fun (acc : Option (List Nat) × JobRun) k =>
      match acc with
      | (none, r) => (none, r)
      | (some out, d, j, _) =>
        let d1 := (d.cmpCount i F.CMP_DEC_CNT_COUNT 1).tally (Pg.cmp i) 0x0102 1
        match decodeSlot ((j.buf.drop (t * k)).take t) with
        | none => (none, ((d1.addSat (Pg.cmp i) F.CMP_FMT_CNT_COUNT 1).raise (Src.cmpFormat i) (x.src + t * k) (d1.qpLd j.pair) 4).failOut j 0x04 k)
        | some ws => (some (out ++ blockBytes ws), d1, j, true)) (some [], d, j, true)

def runDecompress (d : Dev) (j : Job) (fs : List LineFaultAt) : JobRun :=
  let x := j.desc
  let t := slotSize x.ratio
  let size := x.len / t * 256
  if (x.ratio ≠ 1 ∧ x.ratio ≠ 2) ∨ x.src % 64 ≠ 0 ∨ x.len % t ≠ 0 ∨ overlaps x.src x.len x.dst size then stopJob (d, j) 0x09 0
  else if x.dlen < size then stopJob (d, j) 0x0A 0
  else
    match d.takeInst j 5 with
    | none => (d, j, false)
    | some (i, d1, j1) =>
      d1.gatherJob j1 fs (x.src, x.len, x.len, x.len) (x.dst, size, size, size) true (decodeSlots i) (fun d j =>
        stopJob (d, j) 0x00 (size + x.len / t * 2 ^ 31))

/-! ### Promote and demote (R350) -/

/-- The first unit of a range that the LD's accesses do not reach (R112 but for what only makes a skein skipped). -/
def unitFault (d : Dev) (ld base unit n : Nat) : Option (Nat × Nat) :=
  (List.range n).findSome? fun i =>
    let off := base + unit * i
    match d.translate ld off with
    | none => some (unit * i, Src.unmappedHdm)
    | some dpa =>
      match d.skeinCheck ld dpa with
      | some src => if src = Src.roomDenied ∨ (src = Src.unmappedHdm ∧ (d.entry (dpaSkein dpa)).state ≠ St.unbacked) then some (unit * i, src) else none
      | none => none

/-- R353: an access of a job fails a check of R112. -/
def unitStop (d : Dev) (j : Job) (rel src : Nat) : JobRun :=
  let ld := d.qpLd j.pair
  let d1 := if src = Src.roomDenied then d.addSat (Pg.ldm ld) F.LDM_DENIED_COUNT 1 else d
  stopJob ((d1.raise src (j.desc.src + rel) ld 4).raise Src.jobAccess (j.desc.src + rel) ld 4, j) 0x0B rel

/-- The skeins of a range, ascending by offset. -/
def rangeSkeins (d : Dev) (ld base n : Nat) : List Nat :=
  (List.range n).filterMap fun i => (d.translate ld (base + 2 ^ 21 * i)).map dpaSkein

/-- R350: what a job does to a skein: a move to Open, a pack trial, a move to the Larder, or nothing. -/
def unitMove (d : Dev) (s : Nat) (target : Nat) (id : Nat) : Option Dev :=
  let e := d.entry s
  let w : Want := { skein := s, page := none, state := St.isOpen, ratio := 0, cause := 9, job := id }
  let add := fun (w : Want) => some (d.modTier fun t => { t with wants := t.wants ++ [w] })
  if !d.skeinValid s || e.state == St.unbacked || e.state == St.zero then none
  else if target = 0 then
    if e.state == St.packed || e.state == St.split || e.state == St.larder || e.state == St.motion then add w else none
  else if e.state != St.isOpen then none
  else if target = 1 then
    if e.compressible then some (d.modTier fun t => { t with trials := t.trials ++ [⟨s, 9, id⟩] }) else none
  else if e.larderOk && !e.pinned then add { w with state := St.larder } else none

/-- R350: the moves of a job are asked for at once; it ends when the last of them has ended. `pos` is 1 once they are asked for, `wpos` counts
the moves, and the skeins passed over are the rest. -/
def runMoves (d : Dev) (j : Job) (target : Nat) : JobRun :=
  let x := j.desc
  let n := x.len / 2 ^ 21
  if x.src % 2 ^ 21 ≠ 0 ∨ x.len % 2 ^ 21 ≠ 0 ∨ 2 < target then stopJob (d, j) 0x09 0
  else if j.pos = 0 then
    match d.unitFault (d.qpLd j.pair) x.src (2 ^ 21) n with
    | some (rel, src) => d.unitStop j rel src
    | none =>
      let (d1, k) := (d.rangeSkeins (d.qpLd j.pair) x.src n).foldl
        (fun (acc : Dev × Nat) s => match acc.1.unitMove s target j.id with
          | some d1 => (d1, acc.2 + 1)
          | none => acc) (d, 0)
      if k = 0 then stopJob (d1, j) 0x00 (n * 2 ^ 24) else (d1, { j with pos := 1, wpos := k }, false)
  else if d.mem.tier.wants.any (·.job == j.id) || d.mem.tier.trials.any (·.job == j.id) || d.mem.tier.migs.any (·.job == j.id) then (d, j, false)
  else
    let fails := (d.mem.tier.jobFails.filter (· == j.id)).length
    let moved := j.wpos - fails
    stopJob (d, j) 0x00 (moved + (n - moved) * 2 ^ 24)

/-! ### Pin and unpin (R350) -/

/-- The rooms of a range. -/
def rangeRooms (d : Dev) (ld base n : Nat) : List Nat := (List.range n).filterMap fun i => (d.translate ld (base + 2 ^ 30 * i)).map (· / 2 ^ 30)

def runPin (d : Dev) (j : Job) (on : Bool) : JobRun :=
  let x := j.desc
  let ld := d.qpLd j.pair
  let n := x.len / 2 ^ 30
  if x.src % 2 ^ 30 ≠ 0 ∨ x.len % 2 ^ 30 ≠ 0 then stopJob (d, j) 0x09 0
  else
    let rooms := d.rangeRooms ld x.src n
    if rooms.length < n then d.unitStop j 0 Src.unmappedHdm
    else if d.get (Bk.qp j.pair) F.QMG_QP_ASSIGN_ATTR_OK = 0 ∨ rooms.any (fun r => (d.room r).owner != ld) then stopJob (d, j) 0x0D 0
    else if d.mem.pat.roomCmd.isSome then (d, j, false)
    else
      let todo := sortBy (fun r => [r]) (rooms.filter (fun r => (d.room r).pinned != on))
      let d1 := todo.foldl
        (fun d r =>
          let was := d.room r
          let img := { was with pinned := on }
          (d.roomBegin r img).roomEnd r img was) d
      stopJob (d1, j) 0x00 todo.length

/-! ### Running a job -/

/-- A compress or decompress job that has begun to write leaves its destination unspecified (R227). -/
def scrambleIf (d : Dev) (j : Job) : Dev := if j.out.isSome ∧ (j.desc.opcode = 0x05 ∨ j.desc.opcode = 0x06) then d.scramble j else d

/-- A command of an opcode carries its job on: it must have started and not ended. A job of a viral LD ends (R353); one with LEN 0 ends at once
(R348), but for compress. What it held is freed at its end. -/
def runJob (opcodeOk : Nat → Bool) (zeroLen : Bool) (run : Dev → Job → JobRun) (id : Nat) : Effect := fun d =>
  match d.findJob id with
  | none => d
  | some j =>
    if !j.started || j.ended.isSome || !opcodeOk j.desc.opcode then d
    else
      let (d1, j1, _) :=
        if d.isViral (d.qpLd j.pair) then stopJob (d.scrambleIf j, j) 0x11 0
        else if zeroLen && j.desc.len == 0 then stopJob (d, j) 0x00 0
        else run d j
      if j1.ended.isSome then ((((d1.freeInst j1).dropUser id).forgetJob id).putJob { j1 with inst := none, buf := [], out := none }).after
      else (d1.putJob j1).after
/-- R353: the opcodes that the spec lists (0x07 is reserved). -/
def opcodeListed (n : Nat) : Bool := n ≤ 0x06 || (0x08 ≤ n && n ≤ 0x0C)

end Dev

/-! ### The commands -/

open Dev in
/-- R348: NO_OP. -/
def execNoOp (job : Nat) (s : State) : Host.Outcome State Fault Refusal :=
  s.run (runJob (· == 0x00) true (fun d j => stopJob (d, j) 0x00 0) job)

open Dev in
/-- R349, R353: MOVE. -/
def execMove (job : Nat) (faults : List LineFaultAt) (s : State) : Host.Outcome State Fault Refusal :=
  s.run (runJob (· == 0x01) true (fun d j => d.runMove j faults) job)

open Dev in
/-- R349: FILL. -/
def execFill (job : Nat) (faults : List LineFaultAt) (s : State) : Host.Outcome State Fault Refusal :=
  s.run (runJob (· == 0x02) true (fun d j => d.runFill j faults) job)

open Dev in
/-- R349: COMPARE. -/
def execCompare (job : Nat) (faults : List LineFaultAt) (s : State) : Host.Outcome State Fault Refusal :=
  s.run (runJob (· == 0x03) true (fun d j => d.runCompare j faults) job)

open Dev in
/-- R370, R373: CABLE_TRANSFORM. -/
def execCableTransform (job : Nat) (faults : List LineFaultAt) (s : State) : Host.Outcome State Fault Refusal :=
  s.run (runJob (· == 0x04) true (fun d j => d.runCable j faults) job)

open Dev in
/-- R226, R227: COMPRESS; `mismatch` is the block whose paired check failed. -/
def execCompress (job : Nat) (mismatch : Option Nat) (faults : List LineFaultAt) (s : State) : Host.Outcome State Fault Refusal :=
  s.run (runJob (· == 0x05) false (fun d j => d.runCompress j mismatch faults) job)

open Dev in
/-- R226, R228: DECOMPRESS. -/
def execDecompress (job : Nat) (faults : List LineFaultAt) (s : State) : Host.Outcome State Fault Refusal :=
  s.run (runJob (· == 0x06) true (fun d j => d.runDecompress j faults) job)

open Dev in
/-- R350: PROMOTE. -/
def execPromote (job : Nat) (s : State) : Host.Outcome State Fault Refusal :=
  s.run (runJob (· == 0x08) true (fun d j => d.runMoves j 0) job)

open Dev in
/-- R350: DEMOTE; a target of 0 or 3 is reserved. -/
def execDemote (job : Nat) (s : State) : Host.Outcome State Fault Refusal :=
  s.run (runJob (· == 0x09) true (fun d j => d.runMoves j (let t := bits j.desc.arg0 0 2; if t = 0 then 3 else t)) job)

open Dev in
/-- R350: PIN. -/
def execPin (job : Nat) (s : State) : Host.Outcome State Fault Refusal := s.run (runJob (· == 0x0A) true (fun d j => d.runPin j true) job)

open Dev in
/-- R350: UNPIN. -/
def execUnpin (job : Nat) (s : State) : Host.Outcome State Fault Refusal := s.run (runJob (· == 0x0B) true (fun d j => d.runPin j false) job)

open Dev in
/-- R349: CHECKSUM. -/
def execChecksum (job : Nat) (faults : List LineFaultAt) (s : State) : Host.Outcome State Fault Refusal :=
  s.run (runJob (· == 0x0C) true (fun d j => d.runChecksum j faults) job)

open Dev in
/-- R348: INVALID_OPCODE. -/
def execInvalidOpcode (job : Nat) (s : State) : Host.Outcome State Fault Refusal :=
  s.run (runJob (fun n => !opcodeListed n) false (fun d j => stopJob (d, j) 0x08 0) job)

end Sys2Proof.Machine
end

