-- ==== Sys2Proof/Machine/Mover.lean ====
section
/-! DEFINITION. The Data Mover (chapter 12): channels, triggers and timers (R363 to R365), the beats of the channel engines (R357, R366, R367), chunks
and cable transforms (R370 to R372), completion by read-back (R368), halts (R374) and the Frog of a channel (R377). -/

namespace Sys2Proof.Machine

/-- One side of a channel: its base, the size at which a position wraps (0: linear), its streams and their distance, and the position. -/
structure Side where
  base : Nat
  wrap : Nat
  streams : Nat
  stride : Nat
  pos : Nat

/-- R362, R370: the address of position `p` of stream `j`. -/
def Side.addr (s : Side) (j p : Nat) : Nat := s.base + j * s.stride + (if s.wrap = 0 then p else p % s.wrap)

/-- The line parts that `left` bytes from position `p` of a stream lie in, in ascending position. -/
def Side.walk (s : Side) (j : Nat) : Nat → Nat → Nat → List (Nat × Nat)
  | 0, _, _ => []
  | fuel + 1, p, left =>
    if left = 0 then []
    else
      let a := s.addr j p
      let n := min (64 - a % 64) left
      (a, n) :: s.walk j fuel (p + n) (left - n)

/-- R372: the line parts of `len` bytes that follow the first `done` bytes of a round: stream by stream. -/
def Side.spans (s : Side) (done len : Nat) : List (Nat × Nat) :=
  (List.range s.streams).flatMap fun j =>
    s.walk j (len / s.streams / 64 + 2) (s.pos + done / s.streams) (len / s.streams)

/-- The position after a round of `n` bytes (R362, R370). -/
def Side.next (s : Side) (n : Nat) : Nat :=
  let p := s.pos + n / s.streams
  if s.wrap = 0 then p % 2 ^ 48 else p % s.wrap

namespace Dev

def mover (d : Dev) (ch : Nat) : Mover := tget (fun _ => ({} : Mover)) d.dmv.chans ch
def modMover (d : Dev) (ch : Nat) (f : Mover → Mover) : Dev :=
  { d with dmv := { d.dmv with chans := tput (fun _ => ({} : Mover)) d.dmv.chans ch (f (d.mover ch)) } }
/-- A register field of a channel. -/
def chReg (d : Dev) (ch : Nat) (f : Fld) : Nat := d.get (Bk.dmv ch) f
def putChan (d : Dev) (ch : Nat) (f : Fld) (v : Nat) : Dev := d.set (Bk.dmv ch) f v

def chXform (d : Dev) (ch : Nat) : Nat := d.chReg ch F.DMV_CH_XFORM_XFORM
def chView (d : Dev) (ch : Nat) : Bool := d.chReg ch F.DMV_CH_CTL_VIEW == 1
/-- The size of a circular buffer, or 0. -/
def chSize (log : Nat) : Nat := if log = 0 then 0 else 2 ^ log

def chSrc (d : Dev) (ch : Nat) : Side :=
  let w := d.chXform ch
  let s := d.chReg ch F.DMV_CH_STRIDE_S
  let base := d.chReg ch F.DMV_CH_SRC_BASE
  let pos := d.chReg ch F.DMV_CH_SRC_POS_POS
  if xKind w = 2 then ⟨base, s, xStreams w, s, pos⟩
  else ⟨base, chSize (d.chReg ch F.DMV_CH_SRC_SIZE_LOG), 1, 0, if d.chView ch then pos / 64 * 64 else pos⟩

def chDst (d : Dev) (ch : Nat) : Side :=
  let w := d.chXform ch
  let s := d.chReg ch F.DMV_CH_STRIDE_S
  let base := d.chReg ch F.DMV_CH_DST_BASE
  let pos := d.chReg ch F.DMV_CH_DST_POS_POS
  if xKind w = 1 then ⟨base, s, xStreams w, s, pos⟩ else ⟨base, chSize (d.chReg ch F.DMV_CH_DST_SIZE_LOG), 1, 0, pos⟩

/-- R371: the size of the chunk that follows the first `done` source bytes of a round of `bytes`. -/
def chunkSize (unit bytes done : Nat) : Nat :=
  let u := Nat.lcm 64 (max 1 unit)
  min (8192 / u * u) (bytes - done)

/-- R361: the label of a channel's accesses; its number is another for each round, so that a round's lines at a Twin peer can be told. -/
def chWho (d : Dev) (ch : Nat) : Who :=
  { id := 2 ^ 64 + ch + 64 * ((d.mover ch).round % 2 ^ 32), ld := 64, master := 0x40 + ch, gm := 129, cls := d.chReg ch F.DMV_CH_CTL_CLASS, rd := 6,
    wr := 6, snooped := (d.mover ch).snooped, since := (d.mover ch).since }

/-! ### Enable and triggers (R363, R364, R374, R376) -/

/-- R362: a side's base and size can stand. -/
def sideOk (log base : Nat) : Bool := (log == 0 || decide (12 ≤ log ∧ log ≤ 40)) && base % (if log = 0 then 64 else 2 ^ log) == 0

/-- R374, ERR 1: the fields of a channel let it be enabled. -/
def chOk (d : Dev) (ch : Nat) : Bool :=
  let f := d.chReg ch
  let w := d.chXform ch
  let k := xKind w
  let s := f F.DMV_CH_STRIDE_S
  let n := f F.DMV_CH_ROUND_BYTES
  let sl := f F.DMV_CH_SRC_SIZE_LOG
  let dl := f F.DMV_CH_DST_SIZE_LOG
  let view := d.chView ch
  let streams := k == 1 || k == 2
  let t := f F.DMV_CH_CTL_TRIG
  (!view || (f F.DMV_CH_CTL_SRC_SPACE == 1 && k == 0)) && sideOk sl (f F.DMV_CH_SRC_BASE) && sideOk dl (f F.DMV_CH_DST_BASE) &&
    xformOk w && n % 64 == 0 && n % xUnit w == 0 && (!streams || (s % 64 == 0 && s != 0)) && (k != 1 || dl == 0) && (k != 2 || sl == 0) &&
    t != 3 && (t != 1 || decide (f F.DMV_CH_CTL_TRIG_SRC ≤ 31)) &&
    (let a := (d.chSrc ch).wrap; a == 0 || decide (f F.DMV_CH_SRC_POS_POS < a)) &&
    (let a := (d.chDst ch).wrap; a == 0 || decide (f F.DMV_CH_DST_POS_POS < a))

/-- A round starts. -/
def startRound (d : Dev) (ch : Nat) : Dev :=
  (d.modMover ch fun m => { running := true, round := m.round + 1 }).putChan ch F.DMV_CH_STS_ACTIVE 1

/-- No round starts while events are records only after a fatal error (R467), or while power transitions hold new work back (R487). -/
def chBlocked (d : Dev) : Bool := d.fatal || d.quiesced

/-- R364: a trigger reaches a channel. -/
def chTrigger (d : Dev) (ch : Nat) : Dev :=
  if d.chReg ch F.DMV_CH_CTL_EN = 0 ∨ !d.enabled Pg.dmv then d
  else if !(d.mover ch).running && !d.chBlocked then d.startRound ch
  else if d.chReg ch F.DMV_CH_STS_PEND < 15 then d.putChan ch F.DMV_CH_STS_PEND (d.chReg ch F.DMV_CH_STS_PEND + 1)
  else (d.putChan ch F.DMV_CH_STS_OVR 1).raise Src.dmvOverrun ch (0x40 + ch) 6

/-- R376: EN reads 0 and no trigger is pending. -/
def chOff (d : Dev) (ch : Nat) : Dev := (d.putChan ch F.DMV_CH_CTL_EN 0).putChan ch F.DMV_CH_STS_PEND 0

/-- R374, R376: EN is written with 1 while it reads 0. -/
def chOn (d : Dev) (ch : Nat) : Dev :=
  if !d.enabled Pg.dmv then d
  else if !d.chOk ch then (d.putChan ch F.DMV_CH_STS_ERR 1).raise Src.dmvError 0 (0x40 + ch) 6
  else
    let sts := [F.DMV_CH_STS_HALTED, F.DMV_CH_STS_FROGGED, F.DMV_CH_STS_ERR, F.DMV_CH_STS_PEND, F.DMV_CH_STS_OVR, F.DMV_CH_STS_POISON,
                F.DMV_CH_DONE_CNT_COUNT]
    (sts.foldl (fun d f => d.putChan ch f 0) d).putChan ch F.DMV_CH_CTL_EN 1

/-- The fields of DMV_CH_CTL other than EN and GO. -/
def chFields : List Fld :=
  [F.DMV_CH_CTL_LEVEL, F.DMV_CH_CTL_CLASS, F.DMV_CH_CTL_TRIG, F.DMV_CH_CTL_TRIG_SRC, F.DMV_CH_CTL_VIEW, F.DMV_CH_CTL_SRC_SPACE,
   F.DMV_CH_CTL_DST_SPACE]

/-- R376, R364: a write of DMV_CH_CTL to the selected channel. -/
def chCtl (v : Nat) : Effect := fun d =>
  let ch := d.get Pg.dmv F.DMV_CH_SEL_CH
  let put := fun (d : Dev) (f : Fld) => d.putChan ch f (bits v f.lsb f.width)
  let go := fun (d : Dev) => if v.testBit 1 then d.chTrigger ch else d
  if d.chReg ch F.DMV_CH_CTL_EN = 1 then
    let d1 := put d F.DMV_CH_CTL_LEVEL
    if v.testBit 0 then go d1 else d1.chOff ch
  else
    let d1 := chFields.foldl put d
    if v.testBit 0 then go (d1.chOn ch) else d1

/-! ### Timers (R365) -/

def timerFld (f : Fld) (t : Nat) : Fld := f.sh (8 * t)
def timer (d : Dev) (f : Fld) (t : Nat) : Nat := d.get Pg.dmv (timerFld f t)

/-- R365 at a boundary: running timers count down. -/
def timersTick (d : Dev) : Dev :=
  if !d.pageReady Pg.dmv then d
  else (List.range 32).foldl
    (fun d t =>
      let c := d.timer F.DMV_TMR_COUNT t
      if d.timer F.DMV_TMR_EN t = 1 ∧ c ≠ 0 then d.set Pg.dmv (timerFld F.DMV_TMR_COUNT t) (c - 1) else d) d

/-- The timers whose write comes into force at this boundary. -/
def timersDue (d : Dev) : List Nat :=
  (List.range 32).filter fun t => d.stc.align.any fun a => a.due ≠ 0 ∧ a.due ≤ d.sn ∧ a.key = rkey Pg.dmv (0x800 + 8 * t)

/-- R365: a write that has come into force loads COUNT where EN reads 1. -/
def timersLoad (d : Dev) (ts : List Nat) : Dev :=
  ts.foldl (fun d t =>
    if d.timer F.DMV_TMR_EN t = 1 then d.set Pg.dmv (timerFld F.DMV_TMR_COUNT t) (d.timer F.DMV_TMR_PERIOD t) else d) d

/-- R364: the channels that a trigger of a kind with a source reaches. -/
def chained (d : Dev) (trig src : Nat) : List Nat :=
  (List.range 64).filter fun ch => d.chReg ch F.DMV_CH_CTL_TRIG == trig && d.chReg ch F.DMV_CH_CTL_TRIG_SRC == src

/-- R364, R365: a timer fires. -/
def timerFire (t : Nat) : Effect := fun d =>
  if d.timer F.DMV_TMR_EN t = 1 ∧ d.timer F.DMV_TMR_COUNT t = 0 ∧ d.timer F.DMV_TMR_PERIOD t ≠ 0 then
    let d1 := d.set Pg.dmv (timerFld F.DMV_TMR_COUNT t) (d.timer F.DMV_TMR_PERIOD t)
    (d1.chained 1 t).foldl chTrigger d1
  else d

/-- Channels whose triggers had to wait for a power transition start their rounds. -/
def moversResume (d : Dev) : Dev :=
  if d.chBlocked then d
  else (List.range 64).foldl
    (fun d ch =>
      let p := d.chReg ch F.DMV_CH_STS_PEND
      if p ≠ 0 ∧ !(d.mover ch).running ∧ d.chReg ch F.DMV_CH_CTL_EN = 1 then (d.putChan ch F.DMV_CH_STS_PEND (p - 1)).startRound ch else d) d

/-! ### Accesses (R359, R360) -/

/-- R359: the checks of an access by DPA: ERR and the source of the check that fails. -/
def windowCheck (d : Dev) (master dpa need : Nat) : Option (Nat × Option Nat) :=
  let s := dpaSkein dpa
  if d.get Pg.pat F.PAT_WIN_ROOMS_ROOMS ≤ dpa >>> 30 then some (3, some Src.unmappedHdm)
  else if (d.entry s).state = St.unbacked && !d.mem.pat.bad.contains s then some (3, some Src.unmappedHdm)
  else if !d.hasRight master 0 (dpa >>> 30) need then some (2, some Src.rightsDenied)
  else (d.skeinCheck 64 dpa).map fun src => (3, some src)

/-- R359, R261: the checks of an access by DRA; `plain`: not in the ciphertext view. -/
def draCheck (d : Dev) (master dra need : Nat) (plain : Bool) : Option (Nat × Option Nat) :=
  if d.installed ≤ dra then some (3, none)
  else if if plain then d.draRight master dra need else d.hasRight master 1 (dra / 2 ^ 19) need then none
  else some (2, some Src.rightsDenied)

/-- A line of a Device frame is read by DRA; `view`: as the 128-byte record of R262. -/
def readDra (d : Dev) (w : Who) (dra : Nat) (view : Bool) (f : LineFault) : Got MovedLine :=
  let a := dra / 64 * 64
  if view && d.unwritten a then .done (List.replicate 128 0, false) d
  else
    match d.chanGate a with
    | .wait => .wait (d.chanWait a) none false
    | .refuse => .done (if view then onesLine ++ onesLine else onesLine, true) (d.chanRefuse a a w.rd)
    | .open =>
      match d.passOr w a 1 0 with
      | (false, d1) => .wait d1 none false
      | (true, d1) =>
        if view then .done (d1.record a, false) (d1.bursts (d1.place a).1 false false 1)
        else
          let (ok, d2) := d1.engineLine a 3 a a w.master w.rd f
          if !ok || (d2.side a).poison then .done (onesLine, true) d2 else .done (d2.readBytes a 64, false) d2

/-- A line of a Device frame is written by DRA. -/
def writeDra (d : Dev) (w : Who) (dra : Nat) (data : BitVec 512) (en : BitVec 64) (poison : Bool) (f : LineFault) : Got Unit :=
  let a := dra / 64 * 64
  match d.chanGate a with
  | .wait => .wait (d.chanWait a) none false
  | .refuse => .done () d -- R291
  | .open =>
    let l := (d.place a).1
    let full := poison || en == BitVec.allOnes 64
    if d.wqFull l a then .wait d none false
    else
      match d.passOr w a (if full then 0 else 1) 1 with
      | (false, d1) => .wait d1 none false
      | (true, d1) =>
        let put := fun (d : Dev) (bs : List Nat) (po : Bool) =>
          let d1 := d.putDevice a bs
          (if po then d1.setSide a { d1.side a with poison := true } else d1).pushWqNew l a
        if full then .done () (put d1 (lineBytes data) poison)
        else
          let (ok, d2) := d1.engineLine a 3 a a w.master w.wr f
          let old := d2.readBytes a 64
          if !ok || (d2.side a).poison then .done () ((put d2 old true).raise (Src.ptlFailed (l / 2)) a w.master 3)
          else .done () (put d2 (mergeBytes old data en) false)

/-- The outcome of one access of a channel. -/
inductive Beat where
  | issued (d : Dev)
  | waits (d : Dev)
  | halted (d : Dev)

/-- R374: the channel halts. -/
def chHalt (d : Dev) (ch err addr : Nat) : Dev :=
  let w := d.chWho ch
  let d1 := ((((d.chOff ch).putChan ch F.DMV_CH_STS_HALTED 1).putChan ch F.DMV_CH_STS_ERR err).putChan ch F.DMV_CH_ERR_ADDR_ADDR addr).putChan
    ch F.DMV_CH_STS_ACTIVE 0
  ((d1.modMover ch fun m => { round := m.round }).dropUser w.id).raise Src.dmvError addr (0x40 + ch) 6

/-- The checks of an access (R359); where one fails its source is raised, and the channel halts. -/
def chCheck (d : Dev) (ch space addr need : Nat) (plain : Bool) : Dev × Bool :=
  let m := 0x40 + ch
  let d1 := if space = 0 ∧ addr >>> 30 < d.get Pg.pat F.PAT_WIN_ROOMS_ROOMS then d.see (dpaSkein addr) 129 (d.chReg ch F.DMV_CH_CTL_CLASS) else d
  match if space = 0 then d1.windowCheck m addr need else d1.draCheck m addr need plain with
  | none => (d1, true)
  | some (err, some src) => ((d1.raise src addr m 6).chHalt ch err addr, false)
  | some (err, none) => (d1.chHalt ch err addr, false)

/-- What an access that waits leaves with its channel. -/
def chWaits (d : Dev) (ch : Nat) (snoop : Option Nat) (backing : Bool) : Dev :=
  d.modMover ch fun m => { m with waits := true, snooped := snoop, since := if backing then some (m.since.getD d.sn) else none }

/-- R375: a poisoned line of the source. -/
def chPoison (d : Dev) (ch addr : Nat) : Dev :=
  if (d.mover ch).poison.isSome then d
  else ((d.modMover ch fun m => { m with poison := some addr }).putChan ch F.DMV_CH_STS_POISON 1).raise Src.dmvPoison addr (0x40 + ch) 6

/-- A line part at an address is read: its bytes, marked if the line is poisoned. -/
def chRead (d : Dev) (ch space addr n : Nat) (view : Bool) (f : LineFault) : Option (List Nat) × Beat :=
  match d.chCheck ch space addr (if view then 1 else 2) (!view) with
  | (d1, false) => (none, .halted d1)
  | (d1, true) =>
    let w := d1.chWho ch
    match if space = 0 then d1.readWindow w addr addr f else d1.readDra w addr view f with
    | .done (bs, po) d2 =>
      let d3 := (if space = 0 then d2.jobHeat addr else d2).modMover ch fun m => { m with waits := false, snooped := none, since := none }
      (some (mark po (if view then bs else (bs.drop (addr % 64)).take n)), .issued d3)
    | .wait d2 s b => (none, .waits (d2.chWaits ch s b))
    | .fail d2 => (none, .waits d2)

/-- Bytes of one line are written; bytes of a poisoned line make it a poisoned full write (R375). -/
def chWrite (d : Dev) (ch space addr : Nat) (bs : List Nat) (f : LineFault) : Beat :=
  match d.chCheck ch space addr 3 true with
  | (d1, false) => .halted d1
  | (d1, true) =>
    let w := d1.chWho ch
    let (x, en) := lineImage (addr % 64) bs
    match if space = 0 then d1.writeWindow w addr addr x en (anyBad bs) f else d1.writeDra w addr x en (anyBad bs) f with
    | .done _ d2 =>
      .issued ((if space = 0 then d2.jobHeat addr else d2).modMover ch fun m => { m with waits := false, snooped := none, since := none })
    | .wait d2 s b => .waits (d2.chWaits ch s b)
    | .fail d2 => .waits d2

/-! ### Beats (R357, R366, R367, R371, R372) -/

/-- A chunk whose last write is issued: the next chunk, or the read-back. -/
def chunkDone (m : Mover) (size bytes last : Nat) : Mover :=
  { m with done := m.done + size, rd := 0, wr := 0, staged := [], last := some last, readBack := decide (bytes ≤ m.done + size) }

/-- The next beat of a channel with a round running: a line of the chunk is read, or, once all of them are staged, written. -/
def chBeat (d : Dev) (ch : Nat) (f : LineFault) : Beat :=
  let m := d.mover ch
  let w := d.chXform ch
  let bytes := d.chReg ch F.DMV_CH_ROUND_BYTES
  let view := d.chView ch
  let size := chunkSize (xUnit w) bytes m.done
  if size = 0 then .waits (d.modMover ch fun m => { m with readBack := true })
  else
    let reads := (d.chSrc ch).spans m.done size
    match reads[m.rd]? with
    | some (a, n) =>
      match d.chRead ch (d.chReg ch F.DMV_CH_CTL_SRC_SPACE) a n view f with
      | (some bs, .issued d1) =>
        .issued ((if anyBad bs then d1.chPoison ch (a / 64 * 64) else d1).modMover ch fun m => { m with rd := m.rd + 1, staged := m.staged ++ bs })
      | (_, b) => b
    | none =>
      let out := transform w m.staged
      let writes := (d.chDst ch).spans (if view then 2 * m.done else m.done) (if view then 2 * size else size)
      match writes[m.wr]? with
      | none => .waits (d.modMover ch fun m => chunkDone m size bytes (m.last.getD 0))
      | some (a, n) =>
        let at' := ((writes.take m.wr).map (·.2)).foldl (· + ·) 0
        match d.chWrite ch (d.chReg ch F.DMV_CH_CTL_DST_SPACE) a ((out.drop at').take n) f with
        | .issued d1 => .issued (d1.modMover ch fun m =>
            if writes.length ≤ m.wr + 1 then chunkDone m size bytes a else { m with wr := m.wr + 1 })
        | b => b

/-- R366: a channel has a round running and a beat to issue. -/
def chBusy (d : Dev) (ch : Nat) : Bool :=
  (d.mover ch).running && !(d.mover ch).readBack && !d.frogOn Pg.dmv && !d.frogHits (.dmv ch)

/-- R366: the channels of an engine at a level, in the order in which they are served: the channel that last held the engine at that level,
then the others, ascending and wrapping. -/
def chOrder (d : Dev) (e level : Nat) : List Nat :=
  let h := tget (fun _ => 0) d.dmv.holder (4 * e + level)
  let first := if h = 0 then 0 else (h - 1) % 16
  ((List.range 16).map fun i => 16 * e + (first + i) % 16).filter fun ch => d.chBusy ch && d.chReg ch F.DMV_CH_CTL_LEVEL == level

/-- R367: the channel takes the engine; one of a lower level that held it and has beats left is pre-empted. -/
def takeEngine (d : Dev) (e ch : Nat) : Dev :=
  let l := tget (fun _ => 0) d.dmv.lastCh e
  let level := d.chReg ch F.DMV_CH_CTL_LEVEL
  let cut := l ≠ 0 ∧ l - 1 ≠ ch ∧ d.chBusy (l - 1) ∧ d.chReg (l - 1) F.DMV_CH_CTL_LEVEL < level
  let d1 := if cut then (d.putChan (l - 1) F.DMV_CH_STS_PREEMPTED 1).tally Pg.dmv 0x0102 1 else d
  let d2 : Dev := { d1 with dmv := { d1.dmv with holder := tput (fun _ => 0) d1.dmv.holder (4 * e + level) (ch + 1),
                                                 lastCh := tput (fun _ => 0) d1.dmv.lastCh e (ch + 1) } }
  (d2.putChan ch F.DMV_CH_STS_PREEMPTED 0).tally Pg.dmv 0x0100 1

/-- R366: the first of the channels that can issue its beat does; one whose access fails halts and takes the beat. -/
def serve (e : Nat) (f : LineFault) : List Nat → Dev → Dev
  | [], d => d
  | ch :: rest, d =>
    match d.chBeat ch f with
    | .issued d1 => d1.takeEngine e ch
    | .halted d1 => d1
    | .waits d1 => serve e f rest d1

/-- R357, R366: a beat of channel engine `e`. -/
def moverBeat (e : Nat) (f : LineFault) : Effect := fun d =>
  if !d.pageReady Pg.dmv then d
  else (serve e f ([3, 2, 1, 0].flatMap (d.chOrder e)) d).after

/-! ### Completion (R368) -/

/-- R368, R363: the round completes. -/
def roundDone (d : Dev) (ch : Nat) : Dev :=
  let n := d.chReg ch F.DMV_CH_ROUND_BYTES
  let src := (d.chSrc ch).next n
  let dst := (d.chDst ch).next (if d.chView ch then 2 * n else n)
  let d1 := (d.putChan ch F.DMV_CH_SRC_POS_POS src).putChan ch F.DMV_CH_DST_POS_POS dst
  let cnt := (d1.chReg ch F.DMV_CH_DONE_CNT_COUNT + 1) % 2 ^ 32
  let d2 := (d1.putChan ch F.DMV_CH_DONE_CNT_COUNT cnt).putChan ch F.DMV_CH_DONE_SN_SN d.sn
  let w := d.chWho ch
  let d3 := ((d2.modMover ch fun m => { round := m.round }).dropUser w.id).putChan ch F.DMV_CH_STS_ACTIVE 0
  let d4 := (d3.latch (Src.dmvDone ch)).tally Pg.dmv 0x0103 1
  let rounds := d4.chReg ch F.DMV_CH_ROUND_ROUNDS
  if rounds ≠ 0 ∧ cnt = rounds then d4.chOff ch
  else
    let p := d4.chReg ch F.DMV_CH_STS_PEND
    if p ≠ 0 ∧ !d4.chBlocked then (d4.putChan ch F.DMV_CH_STS_PEND (p - 1)).startRound ch else d4

/-- R368: the read-back of the line written last returns, once every line of the round is visible (R539: at the peer too). -/
def readBack (ch : Nat) (f : LineFault) : Effect := fun d =>
  let m := d.mover ch
  let id := (d.chWho ch).id
  if !(m.running && m.readBack) || d.twin.out.any (fun i => i.req == id) then d
  else
    match m.last with
    | none => d.roundDone ch
    | some a =>
      match d.chRead ch (d.chReg ch F.DMV_CH_CTL_DST_SPACE) a 0 false f with
      | (some _, .issued d1) => (d1.roundDone ch).after
      | (_, .issued d1) | (_, .waits d1) | (_, .halted d1) => d1.after

/-- R368, R364: the dispatch of a channel's completion event. -/
def moverEvent (d : Dev) (ch : Nat) : Dev :=
  let d1 := d.set Pg.dmv F.DMV_DONE_DONE (setBit (d.get Pg.dmv F.DMV_DONE_DONE) ch)
  let d2 := d1.setPageBits Pg.dmv 1
  if d.recordOnly then d2 else (d2.chained 2 ch).foldl chTrigger d2

/-- R377: the Frog of a channel completes. -/
def frogChan (d : Dev) (ch : Nat) : Dev :=
  let w := d.chWho ch
  ((((d.chOff ch).putChan ch F.DMV_CH_STS_FROGGED 1).putChan ch F.DMV_CH_STS_ACTIVE 0).modMover ch fun m => { round := m.round }).dropUser w.id

end Dev

/-! ### The commands -/

open Dev in
/-- R374, R376: DMV_CHANNEL_ENABLE: DMV_CH_CTL is written with EN 1. -/
def execDmvChannelEnable (a : Agent) (v : BitVec 32) (s : State) : Host.Outcome State Fault Refusal :=
  s.run (writeTo (setBit v.toNat 0) a Pg.dmv 0x128 (chCtl (setBit v.toNat 0)))

open Dev in
/-- R376: DMV_CHANNEL_DISABLE: DMV_CH_CTL is written with EN 0. -/
def execDmvChannelDisable (a : Agent) (v : BitVec 32) (s : State) : Host.Outcome State Fault Refusal :=
  s.run (writeTo (clrBit v.toNat 0) a Pg.dmv 0x128 (chCtl (clrBit v.toNat 0)))

open Dev in
/-- R364: DMV_GO: DMV_CH_CTL is written with GO 1. -/
def execDmvGo (a : Agent) (v : BitVec 32) (s : State) : Host.Outcome State Fault Refusal :=
  s.run (writeTo (setBit v.toNat 1) a Pg.dmv 0x128 (chCtl (setBit v.toNat 1)))

/-- R364, R365: DMV_TIMER_FIRE. -/
def execDmvTimerFire (t : Nat) (s : State) : Host.Outcome State Fault Refusal := s.run (Dev.timerFire (t % 32))

/-- R357, R366: DMV_BEAT. -/
def execDmvBeat (engine : Nat) (f : LineFault) (s : State) : Host.Outcome State Fault Refusal := s.run (Dev.moverBeat (engine % 4) f)

/-- R368: DMV_ROUND_COMPLETE. -/
def execDmvRoundComplete (ch : Nat) (f : LineFault) (s : State) : Host.Outcome State Fault Refusal := s.run (Dev.readBack (ch % 64) f)

end Sys2Proof.Machine
end

