-- ==== Sys2Proof/Machine/Ddr.lean ====
section
/-! DEFINITION. The DDR5 channels (chapter 9): the choice of the next command (R273 to R279), refresh and periodic calibration (R281, R282),
patrol scrub (R284), command retry (R286 to R289), repair (R290), sparing (R291 to R294) and the interleave (R268). The timing constraints of
the DRAM reach the model as the operand `DdrReady` of a command slot. -/

namespace Sys2Proof.Machine

namespace Dev

/-- The channel is powered and trained, out of self-refresh (R297). -/
def dcOn (d : Dev) (c : Nat) : Bool :=
  decide (c < 16) && d.pageReady (Pg.dc c) && d.flag (Pg.dc c) F.DC_CFG_TRAINED && !(d.chan c).selfRef

/-- DRA of a subchannel address: the inverse of R270. -/
def draOf (d : Dev) (l sa : Nat) : Nat :=
  let u := sa / 256
  u * 2 ^ (8 + d.ilvN) + (l ^^^ foldU d.ilvN u) * 256 + sa % 256

/-! ### Candidates (R271, R273 to R278) -/

/-- What a command slot could issue: the next command for a queued read or a queued write, or a refresh of a rank. -/
inductive Cand where
  | read (r : Req) | write (w : WqEntry) | refresh (rank : Nat)
  deriving DecidableEq, Repr

def bankOfKey (s : SubCh) (k : Nat) : BankSt := tget (fun _ => ({} : BankSt)) s.banks k
def setBank (s : SubCh) (k : Nat) (b : BankSt) : SubCh := { s with banks := tput (fun _ => ({} : BankSt)) s.banks k b }

/-- Rank, bank key (32 * rank + 4 * bank group + bank) and row of a DRA at a subchannel. -/
def bankRow (d : Dev) (l dra : Nat) : Nat × Nat × Nat :=
  let p := d.place dra
  let sa := if p.1 = l then p.2 else (d.draMap dra).2
  let (k, b, row) := d.cellOf l sa
  (k, 32 * k + b, row)

/-- The queued reads of a subchannel. -/
def queued (d : Dev) (l : Nat) : List Req := (d.sub l).queue.filterMap d.findReq

/-- A field of the configuration of an internal port. -/
def portCfg (d : Dev) (c n : Nat) (f : Fld) : Nat := d.get (Pg.dc c) (f.sh (4 * n))

/-- R273: the target of a port; 0 acts as 256. -/
def portTarget (d : Dev) (c n : Nat) : Nat := let t := d.portCfg c n F.DC_PORT_CFG_TARGET; if t = 0 then 256 else t

/-- R273: the deadline of a read at its subchannel. -/
def subDeadline (d : Dev) (r : Req) : Nat := min r.deadline (r.subSn + d.portTarget (r.sub / 2) 0)

/-- R273: urgency from the slack. -/
def urgency (d : Dev) (c n deadline : Nat) : Nat :=
  if deadline ≤ d.sn then 3
  else
    let slack := deadline - d.sn
    if d.portCfg c n F.DC_PORT_CFG_U2 < slack then 0 else if d.portCfg c n F.DC_PORT_CFG_U1 < slack then 1 else 2

/-- R274: the panic level of port 0. -/
def panic (d : Dev) (l : Nat) : Nat :=
  let n := (d.sub l).queue.length
  ([F.DC_PANIC_P1, F.DC_PANIC_P2, F.DC_PANIC_P3].filter (fun f => decide (d.get (Pg.dc (l / 2)) f ≤ n))).length

/-- R273, R274: the level of a read of port 0. -/
def readLevel (d : Dev) (l : Nat) (r : Req) : Nat :=
  let u := d.urgency (l / 2) 0 (d.subDeadline r)
  max (if r.prio3 then max u (d.get (Pg.dc (l / 2)) F.DC_PORT_CFG_HEARTH_MIN) else u) (d.panic l)

/-- R278: the write queue drains now: not while a level-3 read waits unless it is full, and always while no read waits. -/
def drains (d : Dev) (l : Nat) : Bool :=
  let s := d.sub l
  if decide (s.wq.length < 128) && (d.queued l).any (fun r => d.readLevel l r == 3) then false else s.draining || s.queue.isEmpty

/-- R274: the level of a queued write. -/
def writeLevel (d : Dev) (l : Nat) : Nat := if 128 ≤ (d.sub l).wq.length then 3 else if d.drains l then 2 else 0

/-- R281: refreshes that a rank may owe before the oldest is mandatory. -/
def postponed (d : Dev) (c : Nat) : Nat := 4 * min 4 (d.get (Pg.dc c) F.DC_REF_CFG_POSTPONE)
def owedOf (s : SubCh) (k : Nat) : Nat := tget (fun _ => 0) s.owed k
def mandatory (d : Dev) (l k : Nat) : Bool := decide (d.postponed (l / 2) < owedOf (d.sub l) k)

/-- R281: the bank index of the oldest refresh that a rank owes. -/
def refIndex (s : SubCh) (k : Nat) : Nat := (4 - owedOf s k % 4) % 4
/-- The eight banks that it refreshes. -/
def refBanks (s : SubCh) (k : Nat) : List Nat := (List.range 8).map (fun g => 32 * k + 4 * g + refIndex s k)

/-- R281: the level-3 Hearth reads in the queues of the banks of a refresh. -/
def refWaits (d : Dev) (l k : Nat) : List Nat :=
  let bs := refBanks (d.sub l) k
  ((d.queued l).filter (fun r => r.prio3 && d.readLevel l r == 3 && bs.contains (d.bankRow l r.dra).2.1)).map (·.id)

/-- R281: when a refresh of a rank becomes mandatory, what it waits for is fixed. -/
def noteMandatory (d : Dev) (l k : Nat) : Dev :=
  let ws := if d.mandatory l k then d.refWaits l k else []
  d.modSub l fun s => { s with mandWait := tput (fun _ => []) s.mandWait k ws }

/-- A mandatory refresh that can go ahead. -/
def refDue (d : Dev) (l k : Nat) : Bool :=
  d.mandatory l k && !(tget (fun _ => []) (d.sub l).mandWait k).any (fun i => (d.sub l).queue.contains i)

/-- R281: an owed refresh whose banks are idle. -/
def refIdle (d : Dev) (l k : Nat) : Bool :=
  decide (0 < owedOf (d.sub l) k) && (refBanks (d.sub l) k).all (fun b => (bankOfKey (d.sub l) b).row.isNone)

/-- R290: a bank under repair takes no new command; reads of the row are served from the channel's buffer. -/
def pprHolds (d : Dev) (l bank : Nat) : Bool :=
  match (d.chan (l / 2)).pprBank with
  | some (s, k, b, _) => l % 2 == s && bank == 32 * k + b
  | none => false
def pprRow (d : Dev) (l bank row : Nat) : Bool :=
  match (d.chan (l / 2)).pprBank with
  | some (s, k, b, r) => l % 2 == s && bank == 32 * k + b && row == r
  | none => false

/-- The bank and row of a candidate. -/
def candBank (d : Dev) (l : Nat) : Cand → Nat × Nat
  | .read r => (d.bankRow l r.dra).2
  | .write w => (d.bankRow l w.dra).2
  | .refresh k => (32 * k + refIndex (d.sub l) k, 0)

/-- The next command of a candidate is a column command: its row is open. -/
def hitsRow (d : Dev) (l : Nat) (c : Cand) : Bool :=
  let (b, row) := d.candBank l c
  match c with
  | .refresh _ => false
  | _ => (bankOfKey (d.sub l) b).row == some row

/-- Another queued request waits for the bank of a candidate with another row. -/
def othersWait (d : Dev) (l : Nat) (c : Cand) : Bool :=
  let (b, row) := d.candBank l c
  (d.queued l).any (fun r => (d.bankRow l r.dra).2.1 == b && (d.bankRow l r.dra).2.2 != row)

/-- R276: the keys of a candidate, the least first. -/
def candKey (d : Dev) (l : Nat) (c : Cand) : List Nat :=
  let s := d.sub l
  let (b, _) := d.candBank l c
  let cap := max 1 (d.get (Pg.dc (l / 2)) F.DC_HIT_CAP_CAP)
  let col := if d.hitsRow l c && !(decide (cap ≤ (bankOfKey s b).hits) && d.othersWait l c) then 0 else 1
  let last := tget (fun _ => 0) s.lastBg (b / 32)
  let bg := (b % 32 / 4 + 8 - last % 8 - 1) % 8
  match c with
  | .refresh k => [if d.refDue l k then 0 else 1, 4, 0, 0, 0, 0, k]
  | .read r => [1, 3 - d.readLevel l r, b2n (!r.prio3), col, d.subDeadline r, bg, r.subSn, 0, r.id]
  | .write w => [1, 3 - d.writeLevel l, 1, col, w.sn + d.portTarget (l / 2) 1, bg, w.sn, 1, w.id]

/-- R276: the moveCands of a slot: refreshes that may go, queued reads and, while the queue drains, queued writes, as the DRAM's timing
allows. -/
def moveCands (d : Dev) (l : Nat) (t : DdrReady) : List Cand :=
  let s := d.sub l
  let refs := (s.owed.map (·.1)).filter (fun k => d.refDue l k || (!d.mandatory l k && d.refIdle l k))
  let free := fun (c : Cand) (bus : Bool) =>
    !d.pprHolds l (d.candBank l c).1 && (!d.hitsRow l c || bus)
  let reads := (d.queued l).filter (fun r =>
    let (b, row) := (d.bankRow l r.dra).2
    d.pprRow l b row || (t.ready.contains r.id && free (.read r) t.readBus))
  let writes := if d.drains l then s.wq.filter (fun w => t.ready.contains w.id && free (.write w) t.writeBus) else []
  refs.map Cand.refresh ++ reads.map Cand.read ++ writes.map Cand.write

/-! ### Issue -/

/-- R286, R288: a command enters the retry buffer; the oldest of 64 leaves it retired. -/
def keepCmd (d : Dev) (l : Nat) (c : DdrCmd) : Dev :=
  let full := decide (64 ≤ (d.sub l).retry.length)
  let d1 := d.modSub l fun s => { s with retry := (if full then s.retry.drop 1 else s.retry) ++ [(d.sn, c)] }
  if full then d1.modChan (l / 2) fun x => { x with replays := 0 } else d1

/-- R277: a column command at a bank. -/
def touchRow (d : Dev) (l b row : Nat) : Dev :=
  let hit := (d.queued l).any (fun r => (d.bankRow l r.dra).2 == (b, row))
  d.modSub l fun s =>
    let x := bankOfKey s b
    setBank s b { x with hits := x.hits + 1, idleT := if x.kept then min 256 (2 * x.idleT) else x.idleT, kept := !hit }

/-- R277: the row of a bank is closed for a request that needs another one. -/
def closeRow (d : Dev) (l b : Nat) : Dev :=
  d.modSub l fun s =>
    let x := bankOfKey s b
    setBank s b { x with row := none, hits := 0, kept := false, idleT := if x.kept then max 8 (x.idleT / 2) else x.idleT }

/-- Activate a row. -/
def openRow (d : Dev) (l b row : Nat) : Dev :=
  ((d.modSub l fun s =>
    { setBank s b { bankOfKey s b with row := some row, hits := 0, kept := false } with
      lastBg := tput (fun _ => 0) s.lastBg (b / 32) (b % 32 / 4) }).keepCmd l (.activate b row)).dcTally l 2 1

/-- The writes that waited for the write queue of a subchannel go on, while it has room (R278). -/
def wqReleased (d : Dev) (l : Nat) : Dev :=
  (d.mem.reqs.filter (fun r => decide (r.stage = .wqWait) && r.sub == l)).foldl
    (fun d r => if d.wqFull l r.dra then d else d.retryWrite r) d

/-- R276 to R279, R281: the next command of a candidate is issued. -/
def issueCand (d : Dev) (l : Nat) (c : Cand) : Dev :=
  let (b, row) := d.candBank l c
  let open' := (bankOfKey (d.sub l) b).row
  match c with
  | .read r =>
    if open' = some row ∨ d.pprHolds l b then
      let lines := if r.ratio = 1 then 2 else 1
      let d0 := if d.readLevel l r = 3 then d.dcTally l 8 1 else d
      let d1 := (d0.modSub l fun s => { s with queue := s.queue.filter (· != r.id) }).putReq { r with stage := .issued }
      let d2 := d1.bursts l false false lines
      if d.pprHolds l b then d2 else ((d2.touchRow l b row).keepCmd l (.read r.id b)).dcTally l 3 lines
    else if open'.isSome then (d.closeRow l b).keepCmd l (.precharge b)
    else d.openRow l b row
  | .write w =>
    if open' = some row then
      let d0 := if d.writeLevel l = 3 then d.dcTally l 8 1 else d
      let d1 := d0.modSub l fun s =>
        let s1 := { s with wq := s.wq.filter (fun x => x.id != w.id) }
        { s1 with draining := d.drainState l s1 }
      ((((d1.touchRow l b row).keepCmd l (.write w.id b)).bursts l true false 1).dcTally l 3 1).wqReleased l
    else if open'.isSome then (d.closeRow l b).keepCmd l (.precharge b)
    else d.openRow l b row
  | .refresh k =>
    let bs := refBanks (d.sub l) k
    if bs.any (fun x => (bankOfKey (d.sub l) x).row.isSome) then
      (bs.foldl (fun d x => d.modSub l fun s => setBank s x { bankOfKey s x with row := none, hits := 0, kept := false }) d).keepCmd l
        (.precharge (32 * k + refIndex (d.sub l) k))
    else
      let d1 := if d.mandatory l k then d.dcTally l 5 1 else d
      (((d1.keepCmd l (.refresh k (refIndex (d.sub l) k))).modSub l fun s =>
        { s with owed := tput (fun _ => 0) s.owed k (owedOf s k - 1) }).noteMandatory l k).dcTally l 4 1

/-- R289: while a halted channel's source is below fatal, its requests are answered without data. -/
def haltedAnswers (d : Dev) (c : Nat) : Dev :=
  if d.severity (Src.chHalted c) = 5 then d
  else
    let mine := d.mem.reqs.filter (fun r => r.sub / 2 == c && (match r.stage with | .queue | .issued | .wqWait => true | _ => false))
    (mine.foldl (fun d r => d.refuse r) d).modChan c fun x =>
      { x with subA := { x.subA with queue := [] }, subB := { x.subB with queue := [] } }

/-- R291: requests that wait in a subchannel when their rank is marked failed are answered without data, and its queued writes discarded. -/
def failedAnswers (d : Dev) (l : Nat) : Dev :=
  let failed := d.get (Pg.dc (l / 2)) F.DC_RANK_MAP_FAILED
  if failed = 0 then d
  else
    let bad := (d.queued l).filter (fun r => failed.testBit (d.bankRow l r.dra).1)
    let d1 := d.modSub l fun s =>
      { s with queue := s.queue.filter (fun i => !bad.any (fun r => r.id == i)), wq := s.wq.filter (fun w => !failed.testBit (d.bankRow l w.dra).1) }
    bad.foldl (fun d r => (d.failedRank r).refuse r) d1

/-- R276: DDR_COMMAND_SLOT. -/
def commandSlot (c sub : Nat) (t : DdrReady) : Effect := when (fun d => d.dcOn c) fun d =>
  let l := 2 * c + sub % 2
  if (d.sub l).replaying then d
  else if d.chHalted c then (d.haltedAnswers c).after
  else
    let d0 := d.failedAnswers l
    let d1 := if !(d0.drains l) && !(d0.sub l).queue.isEmpty then d0.modSub l fun s => { s with draining := false } else d0
    match minBy (d1.candKey l) (d1.moveCands l t) with
    | some x => (d1.issueCand l x).after
    | none => d1

/-- R277: BANK_IDLE_CLOSE: an open row that no queued request hits is closed. -/
def idleClose (c sub bank : Nat) : Effect := when (fun d => d.dcOn c && !d.chHalted c) fun d =>
  let l := 2 * c + sub % 2
  match (bankOfKey (d.sub l) bank).row with
  | none => d
  | some row =>
    if (d.sub l).replaying || (d.queued l).any (fun r => (d.bankRow l r.dra).2 == (bank, row)) then d
    else (d.modSub l fun s => setBank s bank { bankOfKey s bank with row := none, hits := 0, kept := false }).keepCmd l (.precharge bank)

/-! ### Refresh and calibration (R281, R282) -/

/-- R281, R291: REFRESH_INTERVAL: a rank owes four more REFsb; a failed rank receives none. -/
def refreshInterval (c sub rank : Nat) : Effect :=
  when (fun d => d.dcOn c && decide (rank < min 8 (d.rankCount c)) && !(d.get (Pg.dc c) F.DC_RANK_MAP_FAILED).testBit rank) fun d =>
    let l := 2 * c + sub % 2
    let was := d.mandatory l rank
    let d1 := d.modSub l fun s => { s with owed := tput (fun _ => 0) s.owed rank (owedOf s rank + 4) }
    if was then d1 else d1.noteMandatory l rank

/-- A periodic action of a rank is due: it was never run since the training, or its period has passed. -/
def periodDue (t : Tbl Nat) (key sn period : Nat) : Bool :=
  let last := tget (fun _ => 0) t key
  last == 0 || decide (last + period ≤ sn)

/-- R282: OSCILLATOR_READ: the write timing of a rank follows its oscillator. -/
def oscRead (c sub rank count : Nat) : Effect :=
  when (fun d => d.dcOn c && !d.chHalted c && decide (rank < 8) && periodDue (d.chan c).oscSn (8 * (sub % 2) + rank) d.sn 1024) fun d =>
    d.modChan c fun x =>
      { x with oscSn := tput (fun _ => 0) x.oscSn (8 * (sub % 2) + rank) d.sn, osc := tput (fun _ => 0) x.osc (8 * (sub % 2) + rank) count }

/-- R282: ZQ_CALIBRATION. -/
def zqCal (c sub rank : Nat) : Effect :=
  when (fun d => d.dcOn c && !d.chHalted c && decide (rank < 8) && periodDue (d.chan c).zqSn (8 * (sub % 2) + rank) d.sn 7813) fun d =>
    d.modChan c fun x => { x with zqSn := tput (fun _ => 0) x.zqSn (8 * (sub % 2) + rank) d.sn }

/-! ### Lines that the channel itself visits (R284, R292) -/

/-- The knit address of a stored line (R238, R240), from its side-band. -/
def knitOf (m : LineMeta) (dra : Nat) : Nat := if m.tier = 3 then dra / 64 * 64 else if m.tier = 1 then m.a / 4 * 256 else 64 * m.a
/-- R298: the address and owner captured for a stored line. -/
def lineOwner (d : Dev) (m : LineMeta) (dra : Nat) : Nat × Nat :=
  if m.tier = 3 then (dra / 64 * 64, 0xFF) else (64 * m.a, (d.entry (dpaSkein (64 * m.a))).owner)

/-- R246, R248, R284: a stored line is checked in place. -/
def checkLine (d : Dev) (dra acc : Nat) (f : LineFault) : Dev :=
  let m := d.side dra
  let (addr, owner) := d.lineOwner m dra
  (d.engineLine dra m.tier (knitOf m dra) addr owner acc f).2

/-- R284: the scrub of one line, and the next position. -/
def scrubLine (d : Dev) (c : Nat) (f : LineFault) : Dev :=
  let p := Pg.dc c
  let sa := d.get p F.DC_SCRUB_POS_SA
  let sub := d.get p F.DC_SCRUB_POS_SUB
  let dra := d.draOf (2 * c + sub) sa
  let d1 := if d.frameFree (dra >>> 19) then d else d.checkLine dra 8 f
  if sub = 0 then d1.set p F.DC_SCRUB_POS_SUB 1
  else
    let d2 := d1.set p F.DC_SCRUB_POS_SUB 0
    if sa + 64 < d.lsize then d2.set p F.DC_SCRUB_POS_SA (sa + 64)
    else
      let n := d2.get p F.DC_SCRUB_PASS_COUNT + 1
      ((d2.set p F.DC_SCRUB_POS_SA 0).set p F.DC_SCRUB_PASS_COUNT n).raise (Src.scrubPass c) (n % 2 ^ 32) 0xFF 8

/-- R284: PATROL_SCRUB: the lines of one Gauge window; the faults met are given by line. -/
def scrub (c : Nat) (fs : List LineFaultAt) : Effect :=
  when (fun d => d.dcOn c && !d.chHalted c && d.flag (Pg.dc c) F.DC_CFG_SCRUB_EN && decide (0 < d.installed ∧ 2 * c < d.ilvW)) fun d =>
    ((List.range (d.get (Pg.dc c) F.DC_SCRUB_CFG_LINES)).foldl (fun d i => d.scrubLine c (faultAt fs i)) d).after

/-! ### Command retry (R286 to R289) -/

def modSubs (d : Dev) (c : Nat) (f : SubCh → SubCh) : Dev := d.modChan c fun x => { x with subA := f x.subA, subB := f x.subB }

/-- R288: the channel halts. -/
def haltChan (d : Dev) (c : Nat) : Dev :=
  let p := Pg.dc c
  let d1 := (d.modSubs c fun s => { s with replaying := false }).modChan c fun x => { x with replays := 0 }
  (((((d1.setFlag p F.DC_STS_REPLAY false).setFlag p F.DC_STS_HALTED true).raise (Src.chHalted c) 0 0xFF 0).refreshPlan c).haltedAnswers c).after

/-- R288: one replay has ended, by its completion or by an alert: at the limit the channel halts. -/
def replayEnded (d : Dev) (c : Nat) : Dev :=
  let n := (d.chan c).replays + 1
  if max 1 (d.get (Pg.dc c) F.DC_RETRY_CFG_LIMIT) ≤ n then d.haltChan c else d.modChan c fun x => { x with replays := n }

/-- R287, R288: DDR_ALERT. -/
def ddrAlert (c : Nat) : Effect := when (fun d => d.dcOn c && !d.chHalted c && !(d.chan c).alertLow) fun d =>
  let running := (d.chan c).subA.replaying || (d.chan c).subB.replaying
  let d1 := d.modChan c fun x => { x with alertLow := true }
  let d2 := if running then d1.replayEnded c else d1
  if d2.chHalted c then d2
  else
    (((d2.modSubs c fun s => { s with replaying := true }).setFlag (Pg.dc c) F.DC_STS_REPLAY true).dcTally (2 * c) 9 1).tally (Pg.dc c) 0x0309 1

/-- R287: the open row of a bank once the commands of the retry buffer have been reissued. -/
def reissued (s : SubCh) (b : Nat) : BankSt :=
  let x := bankOfKey s b
  let row := s.retry.foldl
    (fun (r : Option Nat) c => match c.2 with
      | .activate k n => if k = b then some n else r
      | .precharge k => if k = b then none else r
      | .read _ k | .write _ k => if k = b then x.row else r
      | .refresh k i => if b / 32 = k ∧ b % 4 = i then none else r) none
  { x with row := row, hits := 0, kept := false }

/-- R287, R288: REPLAY_COMPLETE of a subchannel, once alert_n is high. -/
def replayDone (c sub : Nat) : Effect := fun d =>
  let l := 2 * c + sub % 2
  if !(d.sub l).replaying || (d.chan c).alertLow then d
  else
    let p := Pg.dc c
    let d1 := d.modSub l fun s => { s with replaying := false, banks := (s.banks.map (·.1)).foldl (fun t b => tput (fun _ => ({} : BankSt)) t b (reissued s b)) [] }
    let d2 := (d1.addSat p F.DC_RETRY_CNT_COUNT 1).raise (Src.cmdRetry c) 0 0xFF 0
    if (d2.chan c).subA.replaying || (d2.chan c).subB.replaying then d2
    else (d2.setFlag p F.DC_STS_REPLAY false).replayEnded c

/-- R289: DC_RESTART: a halted channel, retrained, takes requests again; reads that had been issued go back to their queues. -/
def restart (c : Nat) : Effect := when (fun d => d.chHalted c) fun d =>
  let back := fun (l : Nat) => (d.mem.reqs.filter (fun r => r.sub == l && decide (r.stage = .issued))).map (·.id)
  let d1 := (d.mem.reqs.filter (fun r => r.sub / 2 == c && decide (r.stage = .issued))).foldl (fun d r => d.putReq { r with stage := .queue }) d
  let fresh := fun (s : SubCh) (l : Nat) => { s with queue := back l ++ s.queue, banks := [], retry := [], replaying := false }
  let d2 := d1.modChan c fun x => { x with subA := fresh x.subA (2 * c), subB := fresh x.subB (2 * c + 1), replays := 0 }
  ((d2.setFlag (Pg.dc c) F.DC_STS_HALTED false).refreshPlan c).after

/-! ### Repair (R290) -/

/-- R290: PPR_START: a write of DC_PPR_CTL; GO starts a repair of the row that it and DC_PPR_ROW name. -/
def pprStart (c v : Nat) : Effect := fun d =>
  let p := Pg.dc c
  let d1 := d.store p 0x188 (if (d.chan c).everTrained then 0x7FFC else 0x7FFE) v false
  if !v.testBit 0 || d.flag p F.DC_PPR_ROW_BUSY then d1
  else
    ((d1.setFlag p F.DC_PPR_CTL_GO true).setFlag p F.DC_PPR_ROW_BUSY true).modChan c fun x =>
      { x with pprBank := some (d1.get p F.DC_PPR_CTL_SUB, d1.get p F.DC_PPR_CTL_RANK,
                                4 * d1.get p F.DC_PPR_CTL_BG + d1.get p F.DC_PPR_CTL_BANK, d1.get p F.DC_PPR_ROW_ROW) }

/-- R290: PPR_COMPLETE: the row has been written back, and the bank is available again. -/
def pprDone (c : Nat) (ok : Bool) : Effect := when (fun d => d.flag (Pg.dc c) F.DC_PPR_ROW_BUSY) fun d =>
  let p := Pg.dc c
  let d1 := ((d.setFlag p F.DC_PPR_CTL_GO false).setFlag p F.DC_PPR_ROW_BUSY false).setFlag p F.DC_PPR_ROW_FAIL (!ok)
  (d1.modChan c fun x => { x with pprBank := none }).raise (if ok then Src.pprDone c else Src.pprFailed c) 0 0xFF 0

/-! ### Sparing (R291 to R294) -/

/-- The fields of a write of DC_SPARE_CTL while no copy runs. -/
def spareFields (d : Dev) (c v : Nat) : Dev :=
  let p := Pg.dc c
  let d1 := if v.testBit 5 then d.setFlag p F.DC_SPARE_CTL_REFUSED false else d
  if d.flag p F.DC_SPARE_CTL_START then d1 else d1.store p 0x178 0x1E v false

/-- A sparing copy begins at a subchannel address. -/
def spareGo (d : Dev) (c sa : Nat) : Dev :=
  let p := Pg.dc c
  (((d.setFlag p F.DC_SPARE_CTL_START true).setFlag p F.DC_STS_SPARING true).set p F.DC_SPARE_PTR_SA sa).modChan c fun x =>
    { x with spareB := false, spareOn := none }

/-- R292: RANK_SPARING_START. A start while no spare rank is held is refused (DESIGN CHOICE). -/
def rankSpare (c v : Nat) : Effect := fun d =>
  let p := Pg.dc c
  let d1 := d.spareFields c v
  if !v.testBit 0 || d.flag p F.DC_SPARE_CTL_START || d1.flag p F.DC_SPARE_CTL_KIND then d1
  else if !d1.flag p F.DC_RANK_MAP_SPARE_EN then d1.setFlag p F.DC_SPARE_CTL_REFUSED true
  else d1.spareGo c (d1.get p F.DC_SPARE_CTL_RANK * d1.rankSize c)

/-- A field of remap entry `i`. -/
def remap (d : Dev) (i : Nat) (f : Fld) : Nat := d.get (Pg.dc 0) (f.sh (4 * i))

/-- R293: the conditions of a replacement of channel `c`. -/
def remapOk (d : Dev) (c : Nat) : Bool :=
  let g := d.get (Pg.dc 0) F.DC_ILV_LSIZE
  let piece := g / 16
  let t := fun i => d.remap i F.DC_REMAP_TARGET
  let b := fun i => d.remap i F.DC_REMAP_BASE
  decide (g % 16 = 0) &&
    (List.range 32).all (fun i =>
      d.remap i F.DC_REMAP_VALID == 1 && t i / 2 != c && decide (g ≤ b i) && decide ((b i + piece) * 2 ^ 30 ≤ d.physCap (t i / 2)) &&
        (List.range i).all (fun j => t i != t j || decide (b i + piece ≤ b j) || decide (b j + piece ≤ b i)))

/-- R293, R294: CHANNEL_SPARING_START. -/
def chanSpare (c v : Nat) : Effect := fun d =>
  let p := Pg.dc c
  let d1 := d.spareFields c v
  let other := (List.range 16).any (fun k => d.flag (Pg.dc k) F.DC_SPARE_CTL_START && d.flag (Pg.dc k) F.DC_SPARE_CTL_KIND)
  if !v.testBit 0 || d.flag p F.DC_SPARE_CTL_START || !d1.flag p F.DC_SPARE_CTL_KIND then d1
  else if !d1.remapOk c || d1.flag (Pg.dc 0) F.DC_CHSPARE_ACTIVE || other then d1.setFlag p F.DC_SPARE_CTL_REFUSED true
  else d1.spareGo c 0

/-- R292, R294: the end of a sparing copy. -/
def spareEnd (d : Dev) (c : Nat) : Dev :=
  let p := Pg.dc c
  let d1 := ((d.setFlag p F.DC_SPARE_CTL_START false).setFlag p F.DC_STS_SPARING false).raise (Src.sparingDone c) 0 0xFF 0
  if d.flag p F.DC_SPARE_CTL_KIND then
    ((d1.set (Pg.dc 0) F.DC_CHSPARE_CH c).setFlag (Pg.dc 0) F.DC_CHSPARE_ACTIVE true).refreshPlan c
  else
    let k := d.get p F.DC_SPARE_CTL_RANK
    let s := d.get p F.DC_RANK_MAP_SPARE
    let map := setBits (setBits (d.get p F.DC_RANK_MAP_MAP) (3 * k) 3 (d.physRank c s)) (3 * s) 3 (d.physRank c k)
    ((d1.set p F.DC_RANK_MAP_MAP map).set p F.DC_RANK_MAP_FAILED (setBit (d.get p F.DC_RANK_MAP_FAILED) s)).setFlag p F.DC_RANK_MAP_SPARE_EN false

/-- R289: the write of the copy's last line is still in a retry buffer. -/
def spareHeld (d : Dev) (c : Nat) : Bool :=
  match (d.chan c).spareOn with
  | none => false
  | some id => (List.range 32).any (fun l => (d.sub l).retry.any (fun x => match x.2 with | .write w _ => w == id | _ => false))

/-- R292: SPARE_COPY_LINE: one line is checked and enters the write queue for its new place; the pointer passes it. -/
def spareLine (c : Nat) (f : LineFault) : Effect :=
  when (fun d => d.dcOn c && !d.chHalted c && d.flag (Pg.dc c) F.DC_SPARE_CTL_START &&
      decide ((d.chan c).spareUsed < d.get (Pg.dc c) F.DC_SPARE_CFG_LINES) && !d.spareHeld c) fun d =>
    let p := Pg.dc c
    let sa := d.get p F.DC_SPARE_PTR_SA
    let b := (d.chan c).spareB
    let l := 2 * c + b2n b
    let dra := d.draOf l sa
    let last := if d.flag p F.DC_SPARE_CTL_KIND then d.lsize else (d.get p F.DC_SPARE_CTL_RANK + 1) * d.rankSize c
    let pass := fun (d : Dev) =>
      let d1 := d.modChan c fun x => { x with spareB := !b, spareUsed := x.spareUsed + 1 }
      let d2 := if b then d1.set p F.DC_SPARE_PTR_SA (sa + 64) else d1
      if b && decide (last ≤ sa + 64) then d2.spareEnd c else d2
    if d.installed ≤ dra ∨ d.ilvW ≤ l then pass d
    else
      let d1 := d.checkLine dra 0 f
      let dest := if d.flag p F.DC_SPARE_CTL_KIND then
          d.remap (16 * b2n b + sa / (max 1 (d.lsize / 16))) F.DC_REMAP_TARGET else l
      if d1.wqFull dest dra then d
      else
        let id := d1.mem.nextReq
        pass ((d1.pushWqNew dest dra).modChan c fun x => { x with spareOn := some id })

/-! ### Interleave (R268, R270, R294) -/

/-- R268, R269, R294: the interleave of `n` and `g` GiB can be put in force. -/
def ilvOk (d : Dev) (n g : Nat) : Bool :=
  let cs := (List.range (2 ^ n / 2)).filter (fun c => !d.chReplaced c)
  let first := (cs.head?.map (fun c => d.word (Pg.dc c) 0x104)).getD 0
  decide (g ≠ 0) && cs.all (fun c =>
    d.word (Pg.dc c) 0x104 == first && d.flag (Pg.dc c) F.DC_STS_TRAINED && decide (g * 2 ^ 30 ≤ d.physCap c))

/-- R268, R301: DC_ILV_ENABLE: a write of DC_ILV. -/
def ilvEnable (v : Nat) : Effect := fun d =>
  let p := Pg.dc 0
  if d.flag p F.DC_ILV_EN then (if v.testBit 4 then d.setFlag p F.DC_ILV_REFUSED false else d)
  else
    let d1 := (d.store p 0x200 0x1FF0007 v false)
    let d2 := if v.testBit 4 then d1.setFlag p F.DC_ILV_REFUSED false else d1
    if !v.testBit 3 then d2
    else if d2.ilvOk d2.ilvN (d2.get p F.DC_ILV_LSIZE) then
      let d3 := (d2.setFlag p F.DC_ILV_EN true).setFlag p F.DC_ILV_REFUSED false
      (List.range 16).foldl (fun d c => if 2 * c < d.ilvW then d else d.setAbsent (pageDomain (Pg.dc c))) d3 -- R481
    else d2.setFlag p F.DC_ILV_REFUSED true

/-- R294: DC_CHSPARE_WRITE: firmware puts a replacement back in force. -/
def chspareWrite (v : Nat) : Effect := fun d =>
  let p := Pg.dc 0
  let c := v % 16
  if d.flag p F.DC_ILV_EN || d.flag p F.DC_CHSPARE_ACTIVE || !v.testBit 4 || !d.remapOk c then d
  else ((d.set p F.DC_CHSPARE_CH c).setFlag p F.DC_CHSPARE_ACTIVE true).refreshPlan c

/-! ### The stitch boundary of a channel -/

/-- R286: at a boundary, commands of earlier stitches leave the retry buffers of a channel that does not replay; a retired command ends
the run of consecutive replays (R288). -/
def retireCmds (d : Dev) (c : Nat) : Dev :=
  let x := d.chan c
  if x.alertLow || x.subA.replaying || x.subB.replaying || (x.subA.retry.isEmpty && x.subB.retry.isEmpty) then d
  else
    let old := fun (s : SubCh) => s.retry.any (fun r => decide (r.1 < d.sn))
    let cut := fun (s : SubCh) => { s with retry := s.retry.filter (fun r => decide (d.sn ≤ r.1)) }
    d.modChan c fun y =>
      { y with subA := cut y.subA, subB := cut y.subB, replays := if old x.subA || old x.subB then 0 else y.replays }

/-- R440, R297: requests that were held at the boundary of a domain, or of a channel that was not accepting, go on where it serves now. -/
def deliverHeld (d : Dev) : Dev :=
  (d.mem.reqs.filter (fun r => decide (r.stage = .domain))).foldl
    (fun d r =>
      if r.granted then
        (if d.dcOn (r.sub / 2) && d.enabled (Pg.dc (r.sub / 2)) && !d.domHeld (5 + r.sub / 2) then d.enterChannel r else d)
      else if d.pageReady Pg.pat && !d.domHeld 2 then d.resume r else d) d

/-- R281, R283, R297: what a channel does at a stitch boundary: retirement, DC_PLAN and HOT follow its settings, and requests held while it was
not accepting enter it. -/
def dcBoundary (d : Dev) : Dev :=
  ((List.range 16).foldl
    (fun d c => if d.pageReady (Pg.dc c) then ((d.retireCmds c).setFlag (Pg.dc c) F.DC_STS_HOT (d.chHot c)).refreshPlan c else d)
    d).deliverHeld

end Dev

/-- R276: DDR_COMMAND_SLOT. -/
def execDdrCommandSlot (ch sub : Nat) (ready : DdrReady) (s : State) : Host.Outcome State Fault Refusal :=
  s.run (Dev.commandSlot ch sub ready)

/-- R277: BANK_IDLE_CLOSE; `bank` is 32 * rank + 4 * bank group + bank. -/
def execBankIdleClose (ch sub bank : Nat) (s : State) : Host.Outcome State Fault Refusal := s.run (Dev.idleClose ch sub bank)

/-- R281: REFRESH_INTERVAL. -/
def execRefreshInterval (ch sub rank : Nat) (s : State) : Host.Outcome State Fault Refusal := s.run (Dev.refreshInterval ch sub rank)

/-- R282: OSCILLATOR_READ. -/
def execOscillatorRead (ch sub rank : Nat) (count : BitVec 16) (s : State) : Host.Outcome State Fault Refusal :=
  s.run (Dev.oscRead ch sub rank count.toNat)

/-- R282: ZQ_CALIBRATION. -/
def execZqCalibration (ch sub rank : Nat) (s : State) : Host.Outcome State Fault Refusal := s.run (Dev.zqCal ch sub rank)

/-- R284: PATROL_SCRUB. -/
def execPatrolScrub (ch : Nat) (faults : List LineFaultAt) (s : State) : Host.Outcome State Fault Refusal := s.run (Dev.scrub ch faults)

/-- R287: DDR_ALERT. -/
def execDdrAlert (ch : Nat) (s : State) : Host.Outcome State Fault Refusal := s.run (Dev.ddrAlert ch)

/-- R287: ALERT_N_RELEASE. -/
def execAlertNRelease (ch : Nat) (s : State) : Host.Outcome State Fault Refusal :=
  s.run (when (fun d => decide (ch < 16) && (d.chan ch).alertLow) fun d => d.modChan ch fun x => { x with alertLow := false })

/-- R287, R288: REPLAY_COMPLETE. -/
def execReplayComplete (ch sub : Nat) (s : State) : Host.Outcome State Fault Refusal := s.run (Dev.replayDone ch sub)

/-- R289: DC_RESTART. -/
def execDcRestart (a : Agent) (ch : Nat) (s : State) : Host.Outcome State Fault Refusal :=
  s.run (Dev.writeTo 0x80 a (Pg.dc (ch % 16)) 0x100 (Dev.restart (ch % 16)))

/-- R290: PPR_START. -/
def execPprStart (a : Agent) (ch : Nat) (v : BitVec 32) (s : State) : Host.Outcome State Fault Refusal :=
  s.run (Dev.writeTo v.toNat a (Pg.dc (ch % 16)) 0x188 (Dev.pprStart (ch % 16) v.toNat))

/-- R290: PPR_COMPLETE. -/
def execPprComplete (ch : Nat) (ok : Bool) (s : State) : Host.Outcome State Fault Refusal := s.run (Dev.pprDone (ch % 16) ok)

/-- R292: RANK_SPARING_START. -/
def execRankSparingStart (a : Agent) (ch : Nat) (v : BitVec 32) (s : State) : Host.Outcome State Fault Refusal :=
  s.run (Dev.writeTo v.toNat a (Pg.dc (ch % 16)) 0x178 (Dev.rankSpare (ch % 16) v.toNat))

/-- R293: CHANNEL_SPARING_START. -/
def execChannelSparingStart (a : Agent) (ch : Nat) (v : BitVec 32) (s : State) : Host.Outcome State Fault Refusal :=
  s.run (Dev.writeTo (2 ^ 32 + v.toNat) a (Pg.dc (ch % 16)) 0x178 (Dev.chanSpare (ch % 16) v.toNat))

/-- R292: SPARE_COPY_LINE. -/
def execSpareCopyLine (ch : Nat) (fault : LineFault) (s : State) : Host.Outcome State Fault Refusal := s.run (Dev.spareLine ch fault)

/-- R268: DC_ILV_ENABLE. -/
def execDcIlvEnable (a : Agent) (v : BitVec 32) (s : State) : Host.Outcome State Fault Refusal :=
  s.run (Dev.writeTo v.toNat a (Pg.dc 0) 0x200 (Dev.ilvEnable v.toNat))

/-- R294: DC_CHSPARE_WRITE. -/
def execDcChspareWrite (a : Agent) (v : BitVec 32) (s : State) : Host.Outcome State Fault Refusal :=
  s.run (Dev.writeTo v.toNat a (Pg.dc 0) 0x210 (Dev.chspareWrite v.toNat))

end Sys2Proof.Machine
end

