-- ==== Sys2Proof/Machine/Yarn.lean ====
section
/-! DEFINITION. The commands of a Yarn-type link (chapter 13, R534): packets and training sets that its partner sends, and its timers. Link 0 to 15 is
a Yarn port, link 16 the Hallway. -/

namespace Sys2Proof.Machine

namespace Dev

/-- The effect of a link command: on a link that exists and whose domain is on. -/
def onLink (l : Nat) (f : Dev → Dev) : Effect := when (fun d => decide (l < 17) && !d.linkOff l) f

/-- R392, R393: a NOP, with its acknowledgement. -/
def rxNop (l : Nat) (ack : Option (BitVec 12)) : Effect :=
  onLink l (when (·.linkActive l) fun d => ((d.modLnk l fun s => { s with rxSn := d.sn }).takeAck l ack).pump)

/-- R393, R396: a NAK: an acknowledgement, then a replay from its SEQ where that packet is stored, after freeing those before it. -/
def rxNak (l seq : Nat) (ack : Option (BitVec 12)) : Effect :=
  onLink l (when (·.linkActive l) fun d =>
    let d1 := ((d.modLnk l fun s => { s with rxSn := d.sn }).linkCount l F.YP_NAK_RX_CNT_COUNT).takeAck l ack
    if (d1.lnk l).stored.any (fun p => p.seq == seq) then (((d1.ackPacket l ((seq + 4095) % 4096)).replay l seq false).syncLink l).pump
    else d1.pump)

/-- R384, R389 to R392: a packet that the receiver drops. -/
def rxBad (l : Nat) (why : BadPacket) : Effect :=
  onLink l (when (·.linkActive l) fun d =>
    match why with
    | .crc | .length | .type => d.rxError l
    | .tag => d.tagFailure l (d.lget l F.YP_RX_STS_NEXT_RX)
    | .seqGap => (d.modLnk l fun s => { s with rxSn := d.sn }).nakDue l
    | .duplicate => d.modLnk l fun s => { s with rxSn := d.sn, ackDue := true })

/-- R392: an acknowledgement that is due goes out in a NOP. -/
def ackDue (l : Nat) : Effect := onLink l (when (fun d => d.linkActive l && (d.lnk l).ackDue) fun d => d.sendNop l)

/-- R396: the replay timer has reached ACK_TO. -/
def replayTimeout (l : Nat) : Effect :=
  onLink l (when (fun d => d.linkActive l && decide ((d.lnk l).timerSn + d.ackTo l ≤ d.sn)) fun d =>
    match (d.lnk l).stored with
    | [] => d
    | p :: _ => (d.replay l p.seq true).syncLink l)

/-- R399: an attempt from Down. -/
def detectTimer (l : Nat) : Effect :=
  onLink l (when (fun d => d.linkState l == 0 && d.lget l F.YP_CTL_AUTO_UP == 1 && decide ((d.lnk l).stateSn + d.detectInt l ≤ d.sn))
    fun d => d.enterDetect l)

/-- R399 to R401: TS1 from the partner. -/
def ts1 (l : Nat) (retrain : Bool) (p : Proposal) : Effect :=
  onLink l fun d =>
    let keep := fun (d : Dev) => d.modLnk l fun s => { s with partner := some p }
    match d.linkState l with
    | 0 => keep (d.enterDetect l)
    | 1 => keep (d.lset l (fState l) 2)
    | 2 => keep d
    | 3 => if retrain then (keep (d.enterRetrain l)).modLnk l fun s => { s with sentRetrain := false } else d
    | 4 => (keep d).modLnk l fun s => { s with gotRetrain := s.gotRetrain || retrain }
    | _ => if retrain then keep (d.enterRetrain l) else d.modLnk l fun s => { s with waking := true }

/-- R399, R400: eight TS2 each way with one result: Active. -/
def ts2 (l : Nat) (p : Proposal) : Effect :=
  onLink l fun d =>
    match agree l (d.proposal l) p with
    | none => d
    | some r =>
      match d.linkState l with
      | 2 => (d.enterActive l r).emit (.ts l true false r)
      | 4 => (d.emit (.ts l true true r)).endRetrain l r
      | _ => d

/-- R399: TRAIN_TO stitches without reaching Active. -/
def trainTimeout (l : Nat) : Effect :=
  onLink l (when (fun d => (d.linkState l == 1 || d.linkState l == 2 || d.linkState l == 4) &&
    decide ((d.lnk l).stateSn + d.trainTo l ≤ d.sn)) fun d => d.enterDown l)

/-- R399: no good packet for SILENCE stitches. -/
def silenceTimeout (l : Nat) : Effect :=
  onLink l (when (fun d => d.linkActive l && decide ((d.lnk l).rxSn + d.silenceTo l ≤ d.sn)) fun d => d.enterRetrain l)

/-- R399, R400: loss of lock on an active lane: the lane is lost to the proposal. -/
def lossOfLock (l lane : Nat) : Effect :=
  onLink l (when (fun d => d.linkActive l && (d.lget l (lf l F.YP_LINK_STS_LANES F.HWL_LINK_STS_LANES)).testBit lane) fun d =>
    (d.modLnk l fun s => { s with lost := setBit s.lost lane }).enterRetrain l)

/-- R399, R487: entry to Doze, by the power controller's request or by idleness. -/
def dozeEntry (l : Nat) (powerRequest : Bool) : Effect :=
  onLink l (when (fun d => d.linkActive l &&
      (if powerRequest then d.flag Pg.pwr F.PWR_STS_IN_PROGRESS && d.pwr.target == 2
       else d.lget l F.YP_CTL_DOZE_EN == 1 && d.lget l F.YP_DOWN_CFG_DOZE_IDLE != 0 && (d.lnk l).stored.isEmpty &&
         (l == 16 || (d.outstanding l).isEmpty) && decide ((d.lnk l).busySn + d.lget l F.YP_DOWN_CFG_DOZE_IDLE ≤ d.sn))) fun d =>
    (d.lset l (fState l) 5).modLnk l fun s => { s with stateSn := d.sn, waking := false })

/-- R382, R399, R492: WAKE arrives: the link's wake source is latched and the link leaves Doze by resynchronisation. -/
def wakeReceived (l : Nat) : Effect :=
  onLink l (when (fun d => d.linkState l == 5) fun d =>
    (d.modLnk l fun s => { s with waking := true }).latch (if l < 16 then Src.yarnWake l else Src.hallwayWake))

/-- R399: the resynchronisation of a link that leaves Doze has ended. -/
def dozeResync (l : Nat) (ok : Bool) : Effect :=
  onLink l (when (fun d => d.linkState l == 5 && (d.lnk l).waking) fun d => if ok then d.endDoze l else d.enterRetrain l)

/-- The links of a power domain (R480). -/
def domainLinks (k : Nat) : List Nat :=
  if k = 4 then [16] else if 25 ≤ k ∧ k < 29 then (List.range 4).map (fun i => 4 * (k - 25) + i) else []

/-- R399, R406: the domain of links is powered: they are Down, their page at its reset column. -/
def linkDomainOn (d : Dev) (k : Nat) : Dev :=
  (domainLinks k).foldl (fun d l =>
    (d.resetPage (Pg.link l)).modLnk l fun _ => { stateSn := d.sn, txSn := d.sn, rxSn := d.sn }) d

/-- R399: the power domain of a group of links changes. -/
def domainPower (k : Nat) (on : Bool) : Effect :=
  when (fun d => !(domainLinks k).isEmpty && d.domOn k != on) fun d =>
    if on then
      let d1 := (d.setDom k true).linkDomainOn k
      { d1 with pwr := { d1.pwr with ready := setBit d1.pwr.ready k } }
    else
      let d1 := (domainLinks k).foldl (fun d l => d.linkDomainOff l) d
      let d2 := d1.setDom k false
      { d2 with pwr := { d2.pwr with ready := clrBit d2.pwr.ready k } }

/-- R405, R399: a held write of YP_CTL or HWL_CTL: RETRAIN or DOWN. -/
def linkControl (l v : Nat) : Effect :=
  if v = 2 then when (·.linkActive l) (·.enterRetrain l) else when (fun d => d.linkState l != 0) (·.enterDown l)

end Dev

/-! ### The commands -/

/-- R392, R393: YARN_RX_NOP. -/
def execYarnRxNop (link : Nat) (ack : Option (BitVec 12)) (s : State) : Host.Outcome State Fault Refusal := s.run (Dev.rxNop link ack)

/-- R393, R396: YARN_RX_NAK. -/
def execYarnRxNak (link : Nat) (seq : BitVec 12) (ack : Option (BitVec 12)) (s : State) : Host.Outcome State Fault Refusal :=
  s.run (Dev.rxNak link seq.toNat ack)

/-- R390, R391: YARN_RX_BAD_PACKET. -/
def execYarnRxBadPacket (link : Nat) (why : BadPacket) (s : State) : Host.Outcome State Fault Refusal := s.run (Dev.rxBad link why)

/-- R392: YARN_ACK_DUE. -/
def execYarnAckDue (link : Nat) (s : State) : Host.Outcome State Fault Refusal := s.run (Dev.ackDue link)

/-- R396, R397: YARN_REPLAY_TIMEOUT. -/
def execYarnReplayTimeout (link : Nat) (s : State) : Host.Outcome State Fault Refusal := s.run (Dev.replayTimeout link)

/-- R399: YARN_DETECT_TIMER. -/
def execYarnDetectTimer (link : Nat) (s : State) : Host.Outcome State Fault Refusal := s.run (Dev.detectTimer link)

/-- R399 to R401: YARN_TS1_RECEIVED. -/
def execYarnTs1Received (link : Nat) (retrain : Bool) (p : Proposal) (s : State) : Host.Outcome State Fault Refusal :=
  s.run (Dev.ts1 link retrain p)

/-- R399, R400: YARN_TS2_AGREED. -/
def execYarnTs2Agreed (link : Nat) (p : Proposal) (s : State) : Host.Outcome State Fault Refusal := s.run (Dev.ts2 link p)

/-- R399: YARN_TRAIN_TIMEOUT. -/
def execYarnTrainTimeout (link : Nat) (s : State) : Host.Outcome State Fault Refusal := s.run (Dev.trainTimeout link)

/-- R399: YARN_SILENCE_TIMEOUT. -/
def execYarnSilenceTimeout (link : Nat) (s : State) : Host.Outcome State Fault Refusal := s.run (Dev.silenceTimeout link)

/-- R399: YARN_LOSS_OF_LOCK. -/
def execYarnLossOfLock (link lane : Nat) (s : State) : Host.Outcome State Fault Refusal := s.run (Dev.lossOfLock link lane)

/-- R399, R406: YARN_CTL_RETRAIN. -/
def execYarnCtlRetrain (a : Agent) (link : Nat) (s : State) : Host.Outcome State Fault Refusal :=
  s.run (Dev.writeTo 2 a (Pg.link link) 0x100 (when (·.linkActive (min link 16)) (·.enterRetrain (min link 16))))

/-- R399, R406: YARN_CTL_DOWN. -/
def execYarnCtlDown (a : Agent) (link : Nat) (s : State) : Host.Outcome State Fault Refusal :=
  s.run (Dev.writeTo 4 a (Pg.link link) 0x100 (when (fun d => d.linkState (min link 16) != 0) (·.enterDown (min link 16))))

/-- R399, R487: YARN_DOZE_ENTRY. -/
def execYarnDozeEntry (link : Nat) (powerRequest : Bool) (s : State) : Host.Outcome State Fault Refusal :=
  s.run (Dev.dozeEntry link powerRequest)

/-- R399, R492: YARN_WAKE_RECEIVED. -/
def execYarnWakeReceived (link : Nat) (s : State) : Host.Outcome State Fault Refusal := s.run (Dev.wakeReceived link)

/-- R399: YARN_DOZE_RESYNC. -/
def execYarnDozeResync (link : Nat) (ok : Bool) (s : State) : Host.Outcome State Fault Refusal := s.run (Dev.dozeResync link ok)

/-- R399, R406: YARN_DOMAIN_POWER. -/
def execYarnDomainPower (domain : Nat) (on : Bool) (s : State) : Host.Outcome State Fault Refusal := s.run (Dev.domainPower domain on)

end Sys2Proof.Machine
end

