-- ==== Sys2Proof/Machine/Noc.lean ====
section
/-! DEFINITION. The on-chip network (chapter 15): route-table epochs, planes, header errors, and packets held for domains that sleep. Flits in
flight are not modelled: what a packet carries acts when its command acts. -/

namespace Sys2Proof.Machine

/-- R432: the endpoints of the part. -/
def endpointPresent (e : Nat) : Bool :=
  decide (e < 8 ∨ (0x10 ≤ e ∧ e ≤ 0x40) ∨ (0x48 ≤ e ∧ e ≤ 0xB4) ∨ (0xC0 ≤ e ∧ e ≤ 0xDC))

/-- R432, R480: the power domain of an endpoint. -/
def endpointDomain (e : Nat) : Nat :=
  if e < 8 then 21 + e / 2
  else if 0x10 ≤ e ∧ e < 0x30 then 5 + (e - 0x10) / 2
  else if 0x30 ≤ e ∧ e < 0x40 then 25 + (e - 0x30) / 4
  else if e = 0x40 then 4
  else if e = 0xAE then 3
  else if 0xB0 ≤ e ∧ e ≤ 0xB4 then 1
  else if 0xC0 ≤ e ∧ e ≤ 0xDC then e - 0xC0
  else 2

/-- The key of a route-table entry, as NOC_RT_SEL holds it. -/
def rtKey (dest net router : Nat) : Nat := dest % 2 ^ 10 + (net % 4) * 2 ^ 10 + router * 2 ^ 12

/-- R442: the plane of an entry. -/
def RtTab.plane (t : RtTab) (k : Nat) : Bool := t.fill.testBit (k / 2 ^ 10 % 4) != tget (fun _ => false) t.diff k

/-- Write one entry. -/
def RtTab.setPlane (t : RtTab) (k : Nat) (plane : Bool) : RtTab :=
  { t with diff := tput (fun _ => false) t.diff k (plane != t.fill.testBit (k / 2 ^ 10 % 4)) }

/-- R451, NOC_RT_CMD OP 2: every entry of a network. -/
def RtTab.fillNet (t : RtTab) (net : Nat) (plane : Bool) : RtTab :=
  { fill := if plane then setBit t.fill (net % 4) else clrBit t.fill (net % 4)
    diff := tfilter (fun k => k / 2 ^ 10 % 4 != net % 4) t.diff }

/-- R443, R447: some entry for an endpoint present on the part selects plane `k` of network `n`. -/
def RtTab.selects (t : RtTab) (n : Nat) (k : Bool) : Bool :=
  let changed := (t.diff.filter (fun x => x.1 / 2 ^ 10 % 4 == n && endpointPresent (x.1 % 2 ^ 10))).length
  if t.fill.testBit n == k then decide (changed < 24 * ((List.range 0xDD).filter endpointPresent).length) else decide (0 < changed)

namespace Dev

def modNoc (d : Dev) (f : NocSt → NocSt) : Dev := { d with noc := f d.noc }

/-- R443: a committed swap acts at a stitch boundary, or is refused. -/
def nocSwap (d : Dev) : Dev :=
  if !d.flag Pg.noc F.NOC_RT_CTL_SWAP then d
  else
    let en := d.get Pg.noc F.NOC_PLANE_CFG_EN
    let bad := (List.range 4).any (fun n =>
      (!en.testBit (2 * n) && d.noc.shadow.selects n false) || (!en.testBit (2 * n + 1) && d.noc.shadow.selects n true))
    let result :=
      if d.flag Pg.noc F.NOC_STS_DRAINING then 1
      else if (match d.noc.lastSwap with | some sn => decide (d.sn < sn + 64) | none => false) then 2
      else if bad then 3 else 0
    let d1 := (d.setFlag Pg.noc F.NOC_RT_CTL_SWAP false).set Pg.noc F.NOC_RT_CTL_RESULT result
    if result ≠ 0 then d1
    else
      ((((d1.set Pg.noc F.NOC_STS_EPOCH (1 - d1.get Pg.noc F.NOC_STS_EPOCH)).setFlag Pg.noc F.NOC_STS_DRAINING true).set Pg.noc
        F.NOC_SWAP_SN_SN d1.sn)).modNoc fun x => { live := x.shadow, shadow := x.live, old := some x.live, lastSwap := some d.sn }

/-- R446: every router has dropped the old epoch. -/
def nocDrained : Effect := when (fun d => d.flag Pg.noc F.NOC_STS_DRAINING) fun d =>
  ((((d.setFlag Pg.noc F.NOC_STS_DRAINING false).set Pg.noc F.NOC_DRAIN_SN_SN d.sn).modNoc fun x => { x with old := none }).raise
    Src.nocDrained (d.get Pg.noc F.NOC_STS_EPOCH) 0xFF 0)

/-- R442, R452: the shadow entry that NOC_RT_SEL names; ignored while SWAP reads 1, and for a router that does not exist. -/
def writeRtEnt (d : Dev) (v : Nat) : Dev :=
  let router := d.get Pg.noc F.NOC_RT_SEL_ROUTER
  if d.flag Pg.noc F.NOC_RT_CTL_SWAP || decide (24 ≤ router) then d
  else
    let k := rtKey (d.get Pg.noc F.NOC_RT_SEL_DEST) (d.get Pg.noc F.NOC_RT_SEL_NET) router
    d.modNoc fun x => { x with shadow := x.shadow.setPlane k (v.testBit 0) }

/-- R451: NOC_RT_ENT as it reads. -/
def readRtEnt (d : Dev) : Nat :=
  let router := d.get Pg.noc F.NOC_RT_SEL_ROUTER
  if 24 ≤ router then 0
  else
    let k := rtKey (d.get Pg.noc F.NOC_RT_SEL_DEST) (d.get Pg.noc F.NOC_RT_SEL_NET) router
    b2n (d.noc.shadow.plane k) + 2 * b2n (d.noc.live.plane k)

/-- R451: NOC_EP_INFO of the endpoint that NOC_EP_SEL names. -/
def endpointInfo (d : Dev) : Nat :=
  let e := d.get Pg.noc F.NOC_EP_SEL_EP
  if endpointPresent e then (Config.endpointPort e).toNat + endpointDomain e * 2 ^ 9 + 2 ^ 14 else 0

/-- R442, R452: a bulk command on the shadow tables; ignored while SWAP reads 1. -/
def rtCommand (f : NocSt → NocSt) : Effect := when (fun d => !d.flag Pg.noc F.NOC_RT_CTL_SWAP) fun d => d.modNoc f

/-- R447: a write of NOC_PLANE_CFG; one that clears the bit of a plane that a live entry selects, or that an undrained old epoch selects, is
ignored. -/
def planeWrite (v : Nat) : Effect := fun d =>
  let cleared := clearBits (d.get Pg.noc F.NOC_PLANE_CFG_EN) v
  let used := (List.range 8).any fun b => cleared.testBit b &&
    (d.noc.live.selects (b / 2) (b % 2 == 1) || (match d.noc.old with | some t => t.selects (b / 2) (b % 2 == 1) | none => false))
  if used then d else d.store Pg.noc 0x118 0xFF v true

/-- R447: the correctable errors of a plane have reached NOC_PLANE_THR in this Gauge window. -/
def planeFault (net plane errors : Nat) : Effect :=
  when (fun d => decide (net < 4 ∧ plane < 2) && d.get Pg.noc F.NOC_PLANE_THR_COUNT != 0 &&
      decide (d.get Pg.noc F.NOC_PLANE_THR_COUNT ≤ errors)) fun d =>
    d.raise Src.nocPlaneFault (2 * net + plane) 0xFF 0

/-- R439: the packet of a request is dropped: the request leaves the queues and is never answered. -/
def losePacket (d : Dev) (id : Nat) : Dev :=
  match d.findReq id with
  | none => d
  | some r =>
    match r.stage with
    | .ingress | .miss | .order | .gate | .queue | .issued | .domain =>
      ((d.putReq { r with stage := .lost, locking := false }).modSub r.sub fun s =>
        { s with queue := s.queue.filter (· != id), mandWait := tmapv (fun _ => []) (fun l => l.filter (· != id)) s.mandWait })
    | _ => d

/-- R439: what a router's check of a header flit finds. -/
def headerError (router port : Nat) (kind : FlitError) (request : Option Nat) : Effect :=
  when (fun d => decide (router < 24 ∧ port < 10) && d.pageReady Pg.noc) fun d =>
    match kind with
    | .corrected => (d.addSat Pg.noc F.NOC_ECC_CNT_COUNT 1).raise Src.nocEccCe (router * 16 + port) 0xFF 0
    | .uncorrectable =>
      let d1 := d.raise Src.nocHeaderUe (router * 16 + port) 0xFF 0
      match request with
      | some id => (d1.losePacket id).after
      | none => d1

/-- R441: a request held for a domain for NOC_WAKE_TO stitches is answered by the edge router. -/
def wakeTimeout (id : Nat) : Effect := fun d =>
  match d.findReq id with
  | none => d
  | some r =>
    let (dom, ep) := if r.granted then (5 + r.sub / 2, 0x010 + r.sub) else (2, 0x0A0)
    let ready := if r.granted then d.pageReady (Pg.dc (r.sub / 2)) else d.pageReady Pg.pat
    if !(r.stage = .domain) || ready || (d.domGoing dom && !d.domDown dom) ||
        decide (d.sn < r.subSn + max 1 (d.get Pg.noc F.NOC_WAKE_TO_STITCHES)) then d
    else ((d.raise Src.nocWakeTo ep r.ld r.kind.acc).refuse r).after

/-- R440: the domain is on and its registers are usable again: what was held for it is delivered. -/
def domainReady (k : Nat) : Effect :=
  when (fun d => decide (0 < k ∧ k < 29) && d.domOn k && !d.pwr.ready.testBit k) fun d =>
    let d1 : Dev := if (domainLinks k).isEmpty then d else d.linkDomainOn k
    ({ d1 with pwr := { d1.pwr with ready := setBit d1.pwr.ready k } } : Dev).deliverHeld.after

/-- R495: a packet or a register access reaches a trimmed domain: it alone is powered. -/
def trimmedWake (k : Nat) : Effect :=
  when (fun d => decide (4 ≤ k ∧ k < 29) && d.get Pg.pwr F.PWR_STS_STATE == 1 && !d.domOn k &&
      (d.get Pg.pwr F.PWR_TRIM_DOM_OFF).testBit k && !d.pwr.absent.testBit k) fun d =>
    (d.setDom k true).set Pg.pwr F.PWR_DOM_WOKEN_WOKEN (setBit (d.get Pg.pwr F.PWR_DOM_WOKEN_WOKEN) k)

end Dev

open Dev in
/-- R443: NOC_RT_SWAP_WRITE: SWAP is set; it acts at the next boundary. -/
def execNocRtSwapWrite (a : Agent) (s : State) : Host.Outcome State Fault Refusal :=
  s.run (writeTo 1 a Pg.noc 0x108 (fun d => d.setFlag Pg.noc F.NOC_RT_CTL_SWAP true))

/-- R446: NOC_EPOCH_DRAINED. -/
def execNocEpochDrained (s : State) : Host.Outcome State Fault Refusal := s.run Dev.nocDrained

open Dev in
/-- R442, R451: NOC_RT_COPY: every live table into the shadow. -/
def execNocRtCopy (a : Agent) (s : State) : Host.Outcome State Fault Refusal :=
  s.run (writeTo 1 a Pg.noc 0x114 (rtCommand fun x => { x with shadow := x.live }))

open Dev in
/-- R442, R451: NOC_RT_FILL: the shadow of one network with one plane. -/
def execNocRtFill (a : Agent) (net plane : Nat) (s : State) : Host.Outcome State Fault Refusal :=
  s.run (writeTo (2 + (net % 4) * 4 + (plane % 2) * 16) a Pg.noc 0x114
    (rtCommand fun x => { x with shadow := x.shadow.fillNet net (plane % 2 == 1) }))

open Dev in
/-- R447: NOC_PLANE_CFG_WRITE. -/
def execNocPlaneCfgWrite (a : Agent) (v : BitVec 32) (s : State) : Host.Outcome State Fault Refusal :=
  s.run (writeTo v.toNat a Pg.noc 0x118 (planeWrite v.toNat))

/-- R447: NOC_PLANE_FAULT. -/
def execNocPlaneFault (net plane errors : Nat) (s : State) : Host.Outcome State Fault Refusal := s.run (Dev.planeFault net plane errors)

/-- R439: NOC_HEADER_ERROR. -/
def execNocHeaderError (router port : Nat) (kind : FlitError) (request : Option Nat) (s : State) : Host.Outcome State Fault Refusal :=
  s.run (Dev.headerError router port kind request)

/-- R441: NOC_WAKE_TIMEOUT. -/
def execNocWakeTimeout (id : Nat) (s : State) : Host.Outcome State Fault Refusal := s.run (Dev.wakeTimeout id)

/-- R440: DOMAIN_READY. -/
def execDomainReady (domain : Nat) (s : State) : Host.Outcome State Fault Refusal := s.run (Dev.domainReady domain)

/-- R495: TRIMMED_DOMAIN_WAKE. -/
def execTrimmedDomainWake (domain : Nat) (s : State) : Host.Outcome State Fault Refusal := s.run (Dev.trimmedWake domain)

end Sys2Proof.Machine
end

