-- ==== Sys2Proof/Machine/Reknit.lean ====
section
/-! DEFINITION. Re-knit (R252 to R258): its start, the walk of the structure knit line and of the knit line, one item at a time, and its end. -/

namespace Sys2Proof.Machine

namespace Dev

def modCry (d : Dev) (f : Crypto → Crypto) : Dev := d.modMem fun m => { m with cry := f m.cry }

/-- R252: the reference stitch. -/
def reknitRef (d : Dev) : Nat := if d.mem.cry.accepted then d.get Pg.cry F.CRY_REKNIT_START_SN_SN else d.mem.cry.startSn

/-- R252: a cartridge is attached. -/
def anyAttached (d : Dev) : Bool := (List.range 16).any (fun n => decide (2 ≤ d.cartState n ∧ d.cartState n ≤ 4))

/-- R252: the least number of seconds from the reference stitch to a start. -/
def reknitLimit (d : Dev) : Nat := if d.anyAttached then 86400 else 3600

/-- R252: a request to start a Re-knit is refused. -/
def reknitRefused (d : Dev) : Bool :=
  d.reknit || d.mem.cry.starting || !d.enabled Pg.cry || decide (d.sn < d.reknitRef + d.reknitLimit * 7812500)

/-- R252, R253 step 1: a request to start a Re-knit. -/
def reknitRequest (d : Dev) : Dev :=
  if d.reknitRefused then d.setFlag Pg.cry F.CRY_REKNIT_STS_REFUSED true
  else ((d.set Pg.cry F.CRY_REKNIT_START_SN_SN d.sn).modCry fun c => { c with starting := true, accepted := true, drawNext := d.fresh }).draw

/-- The lowest DRA of the Device frames, frames counted whole (R253). -/
def firstDevice (d : Dev) : Nat := ((firstFrom (fun f => d.isDevice f) 1 d.frameCount 0).getD 0) * 2 ^ 19

/-- R253 step 2. -/
def reknitActivate : Effect := when (fun d => d.mem.cry.starting) fun d =>
  let d1 := ((d.setFlag Pg.cry F.CRY_STS_REKNIT_ACTIVE true).set Pg.cry F.CRY_STS_PHASE 0).set Pg.cry F.CRY_KNIT_LINE_DPA 0
  (d1.set Pg.cry F.CRY_TBL_KNIT_DRA d1.firstDevice).modCry fun c => { c with starting := false, walkDone := false, skipped := [], yStage := 0 }

/-- The first written line at or above `lo` and below `hi` (R254). -/
def nextWritten (d : Dev) (lo hi : Nat) : Option Nat := firstFrom (fun a => !d.unwritten a) 64 ((hi - lo) / 64) lo

/-- R254, R255: the next structure line to re-knit, at or above `lo`. -/
def nextStruct (d : Dev) (lo : Nat) : Option Nat :=
  (List.range d.frameCount).findSome? fun f =>
    if (f + 1) * 2 ^ 19 ≤ lo || !d.isDevice f then none else d.nextWritten (max lo (f * 2 ^ 19)) ((f + 1) * 2 ^ 19)

/-- R255, R256: a stored line is checked under g and written under g + 1; one that cannot be corrected is written as poisoned ones. The result
says whether it failed. -/
def knitLine (d : Dev) (dra tier knit addr owner : Nat) (f : LineFault) : Bool × Dev :=
  let l := (d.place dra).1
  let genOk := (d.side dra).gen % 2 == d.expGen tier knit % 2
  let (v, d1) := d.verdict l dra genOk f
  let bad := v == .uncorrectable || v == .alarm
  let d2 := if bad then d1.writeBytes dra onesLine else d1.verdictEvent (l / 2) v addr owner 9
  let m := d2.side dra
  (bad, (d2.setSide dra { m with poison := m.poison || bad, gen := d2.genCount + 1 }).pushWqNew l dra)

def reknitFail (d : Dev) (addr owner : Nat) : Dev := d.raise Src.reknitFailed addr owner 9

/-- Phase 1 of R253: one structure line, or the end of the phase. -/
def knitStruct (d : Dev) (f : LineFault) : Dev :=
  match d.nextStruct (d.get Pg.cry F.CRY_TBL_KNIT_DRA) with
  | none => (d.set Pg.cry F.CRY_STS_PHASE 1).set Pg.cry F.CRY_TBL_KNIT_DRA d.installed
  | some dra =>
    let (bad, d1) := d.knitLine dra 3 dra dra 0xFF f
    let d2 := if bad then d1.reknitFail dra 0xFF else d1
    (d2.set Pg.cry F.CRY_TBL_KNIT_DRA (dra + 64)).modCry fun c => { c with lines := c.lines + 1 }

/-- The knit line moves to `k`, out of skein `s` or of a page of it: GEN follows where it passes their last line (R257). -/
def knitTo (d : Dev) (k : Nat) : Dev :=
  let old := d.get Pg.cry F.CRY_KNIT_LINE_DPA
  let s := dpaSkein old
  let bit := (d.genCount + 1).testBit 0
  let e := d.entry s
  let d1 :=
    if e.state = St.split ∧ k / 4096 ≠ old / 4096 ∧ d.skeinValid s then
      let pe := d.pageEntry (locFrame e.loc) (dpaPage old)
      if pe.gen = bit then d else d.setPageEntry (locFrame e.loc) (dpaPage old) { pe with gen := bit }
    else d
  let d2 := if dpaSkein k ≠ s ∧ d1.skeinValid s ∧ e.state ≠ St.unbacked ∧ e.gen ≠ bit then d1.putEntry s { d1.entry s with gen := bit } else d1
  ((d2.set Pg.cry F.CRY_KNIT_LINE_DPA k).setFlag Pg.cry F.CRY_REKNIT_STS_WAIT_MOVE false).setFlag Pg.cry F.CRY_REKNIT_STS_WAIT_PORT false

/-- R258: the walk passes over what lies on a cartridge whose port is down. -/
def knitSkip (d : Dev) (s k : Nat) : Dev :=
  let d1 := if d.mem.cry.skipped.contains s then d
    else (d.raise Src.reknitSkipped (s * 2 ^ 21) (d.entry s).owner 9).modCry fun c => { c with skipped := c.skipped ++ [s] }
  d1.knitTo k

/-- R255: a page on a cartridge: fetched, rewritten in place under g + 1, passed once its write is acknowledged. -/
def knitCart (d : Dev) (s n : Nat) (p : PageLoc) (next : Nat) : Dev :=
  let wait := fun (d : Dev) => d.setFlag Pg.cry F.CRY_REKNIT_STS_WAIT_PORT true
  let c := d.mem.cry
  let fetch := d.fetches.find? (fun f => f.knit)
  if c.yStage = 3 then
    let d1 := match fetch with | some f => d.dropFetch f.id | none => d
    (d1.modCry fun c => { c with yStage := 0, ylines := c.ylines + 1 + (match fetch with | some f => f.lines.length | none => 0) }).knitTo next
  else if d.linkState p.cart = 4 then wait d
  else if !(d.portOpen p.cart || (d.linkState p.cart == 5 && (d.cartState p.cart == 3 || d.cartState p.cart == 4))) then
    let d1 := match fetch with | some f => d.dropFetch f.id | none => d
    (d1.modCry fun c => { c with yStage := 0 }).knitSkip s next
  else if d.ctgGet p.cart F.CTG_STS_RO = 1 ∧ c.yStage = 0 ∧ d.flag Pg.cry F.CRY_REKNIT_STS_WAIT_PORT then d
  else if c.yStage = 0 then
    if d.get Pg.cry F.CRY_REKNIT_YRATE_LINES ≤ c.ylines ∨ !d.bufferFree then d
    else
      let d1 := match fetch with | some f => d.dropFetch f.id | none => d
      (d1.newFetch { id := 0, cart := p.cart, extent := p.extent, slot := p.slot, skein := s, page := n, sn := 0, cls := 3,
                     knit := true }).modCry fun c => { c with yStage := 1 }
  else
    match c.yStage, fetch with
    | 1, some f =>
      if !f.landed then d
      else
        (d.modCart p.cart fun x =>
          { x with txns := x.txns ++ [{ tag := 0, op := 2, extent := p.extent, slot := p.slot, lines := f.lines.length, form := f.form, data := f.lines,
                                        gen := (d.genCount + 1).testBit 0, knit := true, sn := d.sn }] }).modCry fun c => { c with yStage := 2 }
    | _, _ => d

/-- Phase 2 of R253: one item of the window, or the passing over of what holds nothing (R254), or the end of the walk. -/
def knitWindow (d : Dev) (f : LineFault) : Dev :=
  let k := d.get Pg.cry F.CRY_KNIT_LINE_DPA
  let s := dpaSkein k
  let n := dpaPage k
  let e := d.entry s
  let nextPage := (k / 4096 + 1) * 4096
  let nextSkein := (s + 1) * 2 ^ 21
  let wait := d.setFlag Pg.cry F.CRY_REKNIT_STS_WAIT_MOVE true
  let count := fun (d : Dev) (m : Nat) => d.modCry fun c => { c with lines := c.lines + m }
  if d.winRooms * 2 ^ 30 ≤ k then d.modCry fun c => { c with walkDone := true }
  else if !(d.room (s / 512)).inService then d.knitTo ((s / 512 + 1) * 2 ^ 30)
  else if !d.skeinValid s || e.state == St.unbacked || e.state == St.zero then d.knitTo nextSkein
  else if e.state = St.motion then wait
  else
    let pe := if e.state = St.split then d.pageEntry (locFrame e.loc) n else {}
    if e.state = St.split ∧ (!pe.valid d.installed) then d.knitTo nextPage
    else if e.state = St.split ∧ pe.state = St.motion then wait
    else
      let p := if e.state = St.split then pe.place else d.pageAt e.state e.ratio e.loc n
      if p.st = St.larder then d.knitCart s n p nextPage
      else if p.st = St.isOpen then
        match d.nextWritten (p.dra + k % 4096) (p.dra + 4096) with
        | none => d.knitTo nextPage
        | some dra =>
          let a := k / 4096 * 4096 + (dra - p.dra)
          let (bad, d1) := d.knitLine dra 0 a a e.owner f
          let d2 := if bad then d1.reknitFail a e.owner else d1
          (count d2 1).knitTo (a + 64)
      else if p.st = St.packed then
        let b := k / 256 * 256
        let dra := p.dra + slotSize p.ratio * (b % 4096 / 256)
        if d.unwritten dra then d.knitTo (b + 256)
        else
          let (bad, d1) := d.knitLine dra 1 b b e.owner f
          let d2 := if p.ratio = 2 then d1 else (d1.knitLine (dra + 64) 1 b b e.owner okFault).2
          let d3 := if bad then
              let m := d2.side (dra + 64)
              (if p.ratio = 2 then d2 else (d2.writeBytes (dra + 64) onesLine).setSide (dra + 64) { m with poison := true }).reknitFail b e.owner
            else d2
          (count d3 (slotSize p.ratio / 64)).knitTo (b + 256)
      else d.knitTo nextPage

/-- R253 to R258: one item of the walk, at its configured rate. -/
def reknitItem (f : LineFault) : Effect :=
  when (fun d => d.reknit && !d.mem.cry.walkDone && !d.flag Pg.cry F.CRY_REKNIT_CTL_PAUSE && !d.quiesced &&
    decide (d.mem.cry.lines < d.get Pg.cry F.CRY_REKNIT_RATE_LINES)) fun d =>
  (if d.flag Pg.cry F.CRY_STS_PHASE then d.knitWindow f else d.knitStruct f).after

/-- R253 step 5, R236. -/
def reknitEnd : Effect := when (fun d => d.reknit && d.mem.cry.walkDone) fun d =>
  let d1 := ((d.set Pg.cry F.CRY_GEN_G (d.genCount + 1)).setFlag Pg.cry F.CRY_STS_REKNIT_ACTIVE false).set Pg.cry F.CRY_STS_PHASE 0
  let d2 := ((d1.set Pg.cry F.CRY_KNIT_LINE_DPA 0).set Pg.cry F.CRY_TBL_KNIT_DRA 0).set Pg.cry F.CRY_REKNIT_END_SN_SN d.sn
  (d2.modCry fun c => { c with draw := c.drawNext, walkDone := false, skipped := [] }).raise Src.reknitDone 0 0xFF 9

end Dev

/-- R252, R253: REKNIT_START. -/
def execReknitStart (a : Agent) (s : State) : Host.Outcome State Fault Refusal := s.run (Dev.writeTo 1 a Pg.cry 0x120 Dev.reknitRequest)

/-- R252: REKNIT_AUTO_START. -/
def execReknitAutoStart (s : State) : Host.Outcome State Fault Refusal :=
  s.run (when (fun d => d.flag Pg.cry F.CRY_CFG_AUTO_REKNIT && !d.reknitRefused &&
    decide (d.reknitRef + max d.reknitLimit (d.get Pg.cry F.CRY_REKNIT_PERIOD_SECONDS) * 7812500 ≤ d.sn)) Dev.reknitRequest)

/-- R253 step 2: REKNIT_ACTIVATE. -/
def execReknitActivate (s : State) : Host.Outcome State Fault Refusal := s.run Dev.reknitActivate

/-- R253 to R258: REKNIT_ITEM. -/
def execReknitItem (fault : LineFault) (s : State) : Host.Outcome State Fault Refusal := s.run (Dev.reknitItem fault)

/-- R253 step 5, R236: REKNIT_END. -/
def execReknitEnd (s : State) : Host.Outcome State Fault Refusal := s.run Dev.reknitEnd

/-- R253: REKNIT_PAUSE_WRITE. -/
def execReknitPauseWrite (a : Agent) (on : Bool) (s : State) : Host.Outcome State Fault Refusal :=
  s.run (Dev.writeTo (2 * b2n on) a Pg.cry 0x120 (fun d => d.setFlag Pg.cry F.CRY_REKNIT_CTL_PAUSE on))

end Sys2Proof.Machine
end

