-- ==== Sys2Proof/Machine/Frog.lean ====
section
/-! DEFINITION. Frog (R470 to R476): acceptance at a stitch boundary, what each target does then, and its completion within 256 stitches. -/

namespace Sys2Proof.Machine

namespace Dev

/-- A request leaves its subchannel's queues and gives back the compressor that has its block. -/
def unqueue (d : Dev) (r : Req) : Dev :=
  let d1 := match r.inst with | some i => d.setCmpBusy i 0 | none => d
  d1.modSub r.sub fun s =>
    { s with queue := s.queue.filter (· != r.id), mandWait := tmapv (fun _ => []) (fun l => l.filter (· != r.id)) s.mandWait }

/-- R472: a request of a frogged LD is answered: reads with all ones and poison, writes with Cmp. One whose data were forwarded only keeps
its late check. -/
def frogRequest (d : Dev) (r : Req) : Dev := if r.stage = .late then d else (d.unqueue r).refuse r

/-- R472 by completion: every request of the LD, its parked ones among them (R156), and every pair assigned to it. -/
def frogLd (d : Dev) (n : Nat) : Dev :=
  let d1 := (d.mem.reqs.filter (fun r => r.ld == n)).foldl (fun d r => d.frogRequest r) d
  let live := d1.mem.reqs.map (·.id)
  let d2 : Dev := { d1 with twin := { d1.twin with repairs := d1.twin.repairs.filter (fun x => live.contains x.1 || x.1 == 0) } }
  (d2.ldPairs n).foldl (fun d q => d.frogPair q) d2

/-- R471, R473, R419: at acceptance of a Frog of a Yarn port its outstanding transactions are detached for good and the migrations with an end
on its cartridge fail. -/
def detachPort (d : Dev) (n : Nat) : Dev :=
  let knit := (d.cart n).txns.any (·.knit)
  let d1 := (d.modCart n fun c =>
    { c with dead := c.dead ++ (c.txns.filter (·.sent)).map (·.tag), txns := c.txns.filter (fun t => !t.sent) }).syncTxn n
  let d2 := if knit then d1.modCry fun c => { c with yStage := 0 } else d1
  d2.failAll (d2.migOn n) 1

/-- R156, R402: by completion of a Frog of a Yarn port: the requests parked on its cartridge are ended, its fetches forgotten and its failed
migrations settled. -/
def frogPort (d : Dev) (n : Nat) : Dev :=
  let d1 := d.settleAll (fun m => m.reason == 1 && d.migOn n m) 1
  let ids := (d1.fetches.filter (fun f => f.cart == n)).map (·.id)
  let d2 := (d1.mem.reqs.filter (fun r => match r.stage with
      | .parked .larder => ids.contains r.wait || (match d1.locate r.dpa r.kind.isWrite with | .larder c _ _ => c == n | _ => false)
      | _ => false)).foldl (fun d r => d.larderEnd r) d1
  (d2.modTier fun t => { t with fetches := t.fetches.filter (fun f => f.cart != n) }).modCart n fun c =>
    { c with txns := c.txns.filter (fun t => t.op == 3) }

/-- R225: by completion of a Frog of a CMP instance: device work on it is taken up by another instance, its job ends Aborted. -/
def frogCmp (d : Dev) (i : Nat) : Dev :=
  let d1 := (d.mem.reqs.filter (fun r => r.inst == some i)).foldl (fun d r => d.putReq { r with inst := none }) (d.setCmpBusy i 0)
  let d2 := (d1.rings.jobs.filter (fun j => j.inst == some i && j.ended.isNone)).foldl
    (fun d j => (d.scramble j).putJob { j with inst := none, ended := some { status := 0x10 } }) d1
  d2.assignEncoders

/-- The pages and functions that a Frog of a page covers: the LDs of a port (R471). -/
def frogLds (p : Nat) : List Nat :=
  match pageKind p with
  | some .ldm => [pageInst p]
  | some .hp => (List.range 16).map (fun n => 16 * pageInst p + n)
  | _ => []

/-- R470: the target has nothing in progress. -/
def frogIdle (d : Dev) : FrogTarget → Bool
  | .ring q => (d.pairJobs q).isEmpty && !(d.pair q).active
  | .dmv ch => !(d.mover ch).running
  | .migration id => (d.findMig id).isNone
  | .page p =>
    match pageKind p with
    | some .ldm | some .hp =>
      (frogLds p).all (fun n => !d.mem.reqs.any (fun r => r.ld == n) && (d.ldPairs n).all (fun q => (d.pairJobs q).isEmpty))
    | some .yp =>
      let n := pageInst p
      (d.cart n).txns.isEmpty && !d.fetches.any (fun f => f.cart == n) && !d.migs.any (d.migOn n)
    | some .cmp => d.cmpBusy (pageInst p) == 0
    | some .qmg => d.rings.jobs.isEmpty
    | some .dmv => (List.range 64).all (fun ch => !(d.mover ch).running)
    | some .tir => d.migs.isEmpty
    | _ => true

/-- R474: a Frog that covers another. -/
def frogCovers (d : Dev) : FrogTarget → FrogTarget → Bool
  | .page p, .ring q => p == Pg.qmg || (frogLds p).contains (d.qpLd q)
  | .page p, .dmv _ => p == Pg.dmv
  | .page p, .migration _ => p == Pg.tir
  | .page p, .page q => p != q && pageKind p == some .hp && pageKind q == some .ldm && (frogLds p).contains (pageInst q)
  | _, _ => false

/-- R471: what a target does at acceptance. -/
def frogAt (d : Dev) : FrogTarget → Dev
  | .ring q => d.stopFetch q
  | .dmv _ => d
  | .migration id => match d.findMig id with | some m => d.failMig m 1 | none => d
  | .page p =>
    match pageKind p with
    | some .ldm | some .hp =>
      { d with host := { d.host with frogged := (frogLds p).foldl setBit d.host.frogged } }
    | some .yp => d.detachPort (pageInst p)
    | some .qmg => d.busyPairs.foldl (fun d q => d.stopFetch q) d
    | some .tir => d.failAll (fun _ => true) 1
    | _ => d

/-- R471: what is done by completion. -/
def frogDone (d : Dev) : FrogTarget → Dev
  | .ring q => d.frogPair q
  | .dmv ch => d.frogChan ch
  | .migration id =>
    match d.findMig id with
    | some m => (d.settleMig m 1).set Pg.tir F.TIR_FAIL_SN_SN d.sn
    | none => d.set Pg.tir F.TIR_FAIL_SN_SN d.sn
  | .page p =>
    match pageKind p with
    | some .ldm | some .hp => (frogLds p).foldl (fun d n => d.frogLd n) d
    | some .yp => d.frogPort (pageInst p)
    | some .cmp => d.frogCmp (pageInst p)
    | some .qmg => d.busyPairs.foldl (fun d q => d.frogPair q) d
    | some .dmv => (List.range 64).foldl (fun d ch => d.frogChan ch) d
    | some .tir => d.settleAll (fun _ => true) 1
    | _ => d

/-- R476, R65: the completion SN is reported: PG_FROG_STS of the page with ENABLE and FROG cleared and FROGGED set, the command's output. -/
def frogReport (d : Dev) (f : FrogRec) : Dev :=
  let d1 := match f.target with
    | .page p =>
      (((d.setFlag p F.PG_CTL_ENABLE false).setFlag p F.PG_CTL_FROG false).setFlag p F.PG_STS_FROGGED true).set p F.PG_FROG_STS_SN d.sn
    | _ => d
  match f.mbox with
  | some ld => d1.emit (.mbox ld .success [d.sn])
  | none => d1

/-- R474: Frogs in progress that a Frog covers. -/
def coveredBy (d : Dev) (f : FrogRec) : List FrogRec :=
  d.frogs.filter (fun g => g.acceptSn != 0 && g.id != f.id && decide (f.acceptSn ≤ g.acceptSn) &&
    (d.frogCovers f.target g.target || decide (f.target = g.target)))

/-- A Frog completes, and with it every Frog that it covers. -/
def frogEnd (d : Dev) (f : FrogRec) : Dev :=
  let all := f :: d.coveredBy f
  let d1 := d.frogDone f.target
  let d2 := (all.filter (fun g => g.target ≠ f.target)).foldl (fun d g => d.frogDone g.target) d1
  let d3 := all.foldl (fun d g => d.frogReport g) d2
  ({ d3 with frogs := d3.frogs.filter (fun g => !(all.map (·.id)).contains g.id) } : Dev).after

/-- R470: Frogs asked for since the last boundary are accepted; one whose target has nothing in progress completes at once. -/
def frogAccept (d : Dev) : Dev :=
  let new := d.frogs.filter (fun f => f.acceptSn == 0)
  let d1 : Dev := { d with frogs := d.frogs.map (fun f => if f.acceptSn = 0 then { f with acceptSn := d.sn } else f) }
  let d2 := new.foldl (fun d f => d.frogAt f.target) d1
  (d2.frogs.filter (fun f => f.acceptSn == d.sn && new.any (fun g => g.id == f.id))).foldl
    (fun d f => if d.frogs.any (fun g => g.id == f.id) && d.frogIdle f.target then d.frogEnd f else d) d2

/-- R470: at a stitch boundary a Frog accepted 256 stitches ago completes at the latest. -/
def frogForce (d : Dev) : Dev :=
  (d.frogs.filter (fun f => f.acceptSn != 0 && decide (f.acceptSn + 256 ≤ d.sn))).foldl
    (fun d f => if d.frogs.any (fun g => g.id == f.id) then d.frogEnd f else d) d

/-- R470: a Frog completes. One that a wider Frog in progress covers completes with it (R474). -/
def frogComplete (id : Nat) : Effect := fun d =>
  match d.frogs.find? (fun f => f.id == id && f.acceptSn != 0) with
  | none => d
  | some f =>
    if d.frogs.any (fun g => g.acceptSn != 0 && decide (g.acceptSn ≤ f.acceptSn) &&
        (d.frogCovers g.target f.target || (decide (g.target = f.target) && decide (g.id < f.id)))) then d
    else d.frogEnd f

end Dev

/-- R470: FROG_COMPLETE. -/
def execFrogComplete (id : Nat) (s : State) : Host.Outcome State Fault Refusal := s.run (Dev.frogComplete id)

end Sys2Proof.Machine
end

