-- ==== Sys2Proof/Machine/Gauge.lean ====
section
/-! DEFINITION. The Gauge's commits and windows (chapter 10): staging and admission (R308, R309), the end of a window (R310, R322 to R326), the
bandwidth windows of chapter 20 (R570), the plan of a stitch with its standing plan and pool (R311, R312, R316). -/

namespace Sys2Proof.Machine

namespace Dev

/-! ### Links as the Gauge sees them (R77, R84) -/

/-- A field of HP_LINK_STS of a port half. -/
def linkSts (d : Dev) (port half : Nat) (f : Fld) : Nat := d.get (Pg.hp port) (f.sh (4 * half))

/-- R77: sixteen times the planning bandwidth of a link in GB/s. -/
def planBw16 (d : Dev) (port half : Nat) : Nat :=
  (match d.linkSts port half F.HP_LINK_STS_SPEED with | 1 => 12 | 2 => 24 | 3 => 48 | 4 => 104 | _ => 0) * d.linkSts port half F.HP_LINK_STS_WIDTH

/-- R83, R84: the LDs reached through a link. -/
def linkLds (d : Dev) (port half : Nat) : List Nat :=
  let split := d.flag (Pg.hp port) F.HP_CFG_SPLIT
  let base := 16 * port + 8 * half
  if d.linkSts port half F.HP_LINK_STS_MLD = 1 then (List.range (if split then 8 else 16)).map (base + ·) else [base]

/-! ### Admission (R308, R309) -/

/-- The staged fields of GAU_ADM_CFG, with the values that act (R329). -/
def stagedAdm (d : Dev) : AdmCfg :=
  { skew := max 16 (d.get Pg.gau F.GAU_ADM_CFG_SKEW), mr := d.get Pg.gau F.GAU_ADM_CFG_MR, hburst := d.get Pg.gau F.GAU_ADM_CFG_HBURST,
    hearthMax := min 16 (d.get Pg.gau F.GAU_ADM_CFG_HEARTH_MAX) }

/-- The staging table: GAU_BUD of every master and class. -/
def stagedSet (d : Dev) : BudgetSet :=
  { adm := d.stagedAdm,
    budgets := (List.range 528).foldl
      (fun t i =>
        let p := Bk.bud (i / 4) (i % 4)
        tput (fun _ => (0, 0)) t i (if i / 4 < 128 then d.get p F.GAU_BUD_GUAR else 0, d.get p F.GAU_BUD_CEIL)) [] }

/-- R309: the outcome of the check of a set: RESULT, SUB, PORT_HALF. -/
def admitSet (d : Dev) (b : BudgetSet) : Nat × Nat × Nat :=
  let w := d.ilvW
  let gh := gSum b w 0
  let rest := gSum b w 1 + gSum b w 2 + gSum b w 3
  let hr := hrOf b w
  let dm := d.deliverMin
  let links := (List.range 8).filter (fun k => d.linkSts (k / 2) (k % 2) F.HP_LINK_STS_UP == 1)
  let sum := fun k => ((d.linkLds (k / 2) (k % 2)).map (fun m => guar b m 0 + guar b m 1 + guar b m 2 + guar b m 3)).foldl (· + ·) 0
  let dec := fun ch => ([0, 1, 2].filter (fun i => d.enabled (Pg.cmp (32 + 3 * ch + i)))).length
  if !d.flag (Pg.dc 0) F.DC_ILV_EN then (6, 0, 0)
  else if b.budgets.any (fun x => x.2.2 != 0 && decide (x.2.2 < x.2.1)) then (5, 0, 0)
  else if b.adm.hearthMax < hr then (1, 0, 0)
  else if 64 * dm < 64 * hr + rest + 64 * b.adm.mr then
    (2, ((List.range w).find? (fun l => d.deliver l == dm)).getD 0, 0)
  else if 4096 < 2 * (64 * (hr + b.adm.mr) + rest) then (7, 0, 0)
  else
    match links.find? (fun k => decide (8 * d.planBw16 (k / 2) (k % 2) < sum k)) with
    | some k => (3, 0, k)
    | none =>
      match (List.range (w / 2)).find? (fun ch => decide (2048 * dec ch < 2 * (gh + rest))) with
      | some ch => (4, 2 * ch, 0)
      | none => (0, 0, 0)

/-- R308: the result of a check is recorded; an accepted set waits for its boundary. -/
def recordCheck (d : Dev) (b : BudgetSet) : Dev :=
  let (res, sub, ph) := d.admitSet b
  let p := Pg.gau
  let d1 := (((((d.setFlag p F.GAU_COMMIT_GO false).setFlag p F.GAU_COMMIT_BUSY false).set p F.GAU_COMMIT_RESULT res).set p F.GAU_COMMIT_SUB sub).set
    p F.GAU_COMMIT_PORT_HALF ph).modGau fun g => { g with checking := none }
  let d2 := if d.flag (Pg.dc 0) F.DC_ILV_EN then d1.set p F.GAU_CAP_DELIVER_MIN d.deliverMin else d1
  if res = 0 then (d2.setFlag p F.GAU_COMMIT_PENDING true).modGau fun g => { g with pending := some b, pendingSn := d.sn } else d2

/-- R308: GAU_COMMIT_GO. -/
def commitGo : Effect := when (fun d => !d.flag Pg.gau F.GAU_COMMIT_BUSY) fun d =>
  ((d.setFlag Pg.gau F.GAU_COMMIT_GO true).setFlag Pg.gau F.GAU_COMMIT_BUSY true).modGau fun g => { g with checking := some d.stagedSet }

/-- R309: ADMISSION_CHECK_DONE. -/
def checkDone : Effect := fun d =>
  match d.mem.gau.checking with
  | some b => d.recordCheck b
  | none => d

/-! ### Scales (R322, R323) -/

/-- R323: the scales of Parlour, Kitchen and Cellar, and Hearth over capacity. -/
def scalesFor (dm mr hr gp gk gc : Nat) : Nat × Nat × Nat × Bool :=
  if dm < mr + hr then (0, 0, 0, true)
  else
    let n := 64 * (dm - mr - hr)
    if gp + gk + gc ≤ n then (256, 256, 256, false)
    else if gp + gk ≤ n then (256, 256, 256 * (n - gp - gk) / gc, false)
    else if gp ≤ n then (256, 256 * (n - gp) / gk, 0, false)
    else (256 * n / gp, 0, 0, false)

/-- New scales take force: a change raises "Gauge scale change". -/
def setScales (d : Dev) (sp sk sc : Nat) (hOver : Bool) : Dev :=
  let p := Pg.gau
  let d1 := (((d.set p F.GAU_SCALE_SP sp).set p F.GAU_SCALE_SK sk).set p F.GAU_SCALE_SC sc).setFlag p F.GAU_SCALE_H_OVER hOver
  let d2 := if d.get p F.GAU_SCALE_SP = sp ∧ d.get p F.GAU_SCALE_SK = sk ∧ d.get p F.GAU_SCALE_SC = sc then d1
    else d1.raise Src.gauScaleChange (d1.word p 0x14C).toNat 0xFF 0
  if hOver then d2.raise Src.gauHearthOver 0 0xFF 0 else d2

/-- R322: D is computed anew and the classes are scaled. -/
def rescale (d : Dev) : Dev :=
  let b := d.mem.gau.live
  let w := d.ilvW
  let dm := d.deliverMin
  let (sp, sk, sc, hOver) := scalesFor dm b.adm.mr d.hr (gSum b w 1) (gSum b w 2) (gSum b w 3)
  (d.set Pg.gau F.GAU_CAP_DELIVER_MIN dm).setScales sp sk sc hOver

/-- R308: an accepted set comes into force. -/
def setInForce (d : Dev) (b : BudgetSet) : Dev :=
  let p := Pg.gau
  let w := d.ilvW
  let d1 := d.modGau fun g => { g with live := b, inForce := true, pending := none }
  let d2 := ((((d1.set p F.GAU_ADM_SUM_GH (gSum b w 0)).set p F.GAU_ADM_SUM_GP (gSum b w 1)).set p F.GAU_ADM_SUM_GK (gSum b w 2)).set
    p F.GAU_ADM_SUM_GC (gSum b w 3)).set p F.GAU_CAP_HR (hrOf b w)
  let d3 := ((d2.setFlag p F.GAU_COMMIT_PENDING false).set p F.GAU_COMMIT_SN_SN d.sn).raise Src.gauCommitDone d.sn 0xFF 0
  if d.mem.gau.capChange then d3 else d3.setScales 256 256 256 false

/-! ### The end of a window (R310, R325, R326, R87) -/

/-- Requests of a pair waiting at the gate. -/
def waiting (d : Dev) (m c : Nat) : List Req := d.gateReqs.filter (fun r => r.ld == m && d.effClass r.ld r.cls == c)

/-- R325: a pair has missed its guarantee in the window that ends. -/
def missed (d : Dev) (m c : Nat) : Bool :=
  decide (0 < guar d.mem.gau.live m c * d.scaleOf c / 256) &&
    (d.waiting m c).any (fun r => decide (d.grantedOf m c r.sub < d.share m c))

/-- R326: the budget of an LD. -/
def budgetOf (d : Dev) (m : Nat) : Nat :=
  let b := d.mem.gau.live
  ([0, 1, 2, 3].map (fun c => if ceiling b m c ≠ 0 then ceiling b m c else guar b m c)).foldl (· + ·) 0

/-- R87: DevLoad of an LD for the window that ends: 0 light, 1 optimal, 2 moderate, 3 severe. -/
def loadOf (d : Dev) (m : Nat) (miss : Bool) : Nat :=
  let b := d.budgetOf m
  let use := d.useOf m 0 + d.useOf m 1 + d.useOf m 2 + d.useOf m 3
  if b = 0 then 0
  else if miss then 3
  else if d.gateReqs.any (fun r => r.ld == m) || decide (9 * b ≤ 10 * use) then 2
  else if b ≤ 2 * use then 1 else 0

/-- R325, R329: misses are judged, GAU_MON and DevLoad follow the window that ends. -/
def judge (d : Dev) : Dev :=
  let p := Pg.gau
  let ms := if d.gauOn then (List.range 128).filter (fun m => [0, 1, 2, 3].any (fun c => d.missed m c)) else []
  let d1 := (d.set p F.GAU_MISS_LO_MISS (bitMask (ms.filter (· < 64)))).set p F.GAU_MISS_HI_MISS (bitMask ((ms.filter (64 ≤ ·)).map (· - 64)))
  let d2 := if d.flag p F.GAU_CFG_MISS_EN then ms.foldl (fun d m => d.latch (Src.gauMiss m)) d1 else d1
  let pairs := ((d.mem.gau.use.map (·.1)) ++ (d.gateReqs.map (fun r => 4 * r.ld + d.effClass r.ld r.cls))).eraseDups
  let d3 := pairs.foldl
    (fun a k =>
      let q := Bk.mon (k / 4) (k % 4)
      ((a.set q F.GAU_MON_USE (d.useOf (k / 4) (k % 4))).set q F.GAU_MON_WAIT (d.waiting (k / 4) (k % 4)).length).setFlag q F.GAU_MON_MISSED
        (d.gauOn && decide (k / 4 < 128) && d.missed (k / 4) (k % 4))) (d2.resetBank 5)
  d.boundLds.foldl (fun a n => a.modLd n fun l => { l with devLoad := d.loadOf n (ms.contains n) }) d3

/-- R570: the bandwidth registers take the counts of the window that ends. -/
def bandwidth (d : Dev) : Dev :=
  let part := fun (p : Nat) => d.tal.partialDoms.testBit (pageDomain p)
  let d1 := (List.range 4).foldl
    (fun a p =>
      let v := fun (half wr : Nat) => tget (fun _ => 0) d.tal.hp (4 * (2 * p + half) + wr)
      if !d.domOn (pageDomain (Pg.hp p)) then a
      else
        ((((a.set (Pg.hp p) F.HP_BW_RD_BYTES (v 0 0)).set (Pg.hp p) (F.HP_BW_RD_BYTES.sh 4) (v 1 0)).set (Pg.hp p) F.HP_BW_WR_BYTES (v 0 1)).set
          (Pg.hp p) (F.HP_BW_WR_BYTES.sh 4) (v 1 1)).setFlag (Pg.hp p) F.HP_BW_STS_PARTIAL (part (Pg.hp p))) d
  let d2 := (List.range 16).foldl
    (fun a c =>
      let v := fun (i : Nat) => tget (fun _ => 0) d.tal.dc (8 * c + i)
      if !d.domOn (pageDomain (Pg.dc c)) then a
      else
        (((((a.set (Pg.dc c) F.DC_BW_RDA_BYTES (v 0)).set (Pg.dc c) F.DC_BW_WRA_BYTES (v 1)).set (Pg.dc c) F.DC_BW_RDB_BYTES (v 2)).set
          (Pg.dc c) F.DC_BW_WRB_BYTES (v 3)).set (Pg.dc c) F.DC_BW_MAINT_BYTES (v 4)).setFlag (Pg.dc c) F.DC_BW_STS_PARTIAL (part (Pg.dc c))) d1
  let off := bitMask ((List.range 29).filter (fun k => !d.domOn k))
  let d3 : Dev := { d2 with tal := { d2.tal with hp := [], dc := [], partialDoms := off } }
  if d.flag Pg.mgc F.MGC_TAL_CFG_SAMPLE_EN then d3.latch 0x7FF else d3

/-- R281: the mode-register reads of the boundary. -/
def readMr4 (d : Dev) (rs : List Mr4Read) : Dev :=
  rs.foldl
    (fun d r =>
      if d.dcOn r.ch then
        let d1 := d.set (Pg.dc r.ch) F.DC_TEMP_MR4 r.mr4.toNat
        (d1.setFlag (Pg.dc r.ch) F.DC_STS_HOT (d1.chHot r.ch)).refreshPlan r.ch
      else d) d

/-- What counts per window starts anew. -/
def freshWindow (d : Dev) : Dev :=
  let g := d.mem.gau
  { d with
    mem := { d.mem with
      gau := { g with use := [], granted := [], standing := none, latMax := 0 },
      tier := { d.mem.tier with copies := 0, scanUsed := 0 },
      cry := { d.mem.cry with lines := 0, ylines := 0 },
      chans := tmapv (fun _ => ({} : Chan)) (fun c => { c with tagFails := [], spareUsed := 0 }) d.mem.chans },
    carts := tmapv (fun _ => ({} : Cart)) (fun c => { c with reclaimed := 0 }) d.carts,
    host := { d.host with links := tmapv (fun _ => ({} : HostLink)) (fun l => { l with winReplays := 0 }) d.host.links } }

/-- R310, R308, R325: the counts of a window start again, and the set and the scales that come into force with it do. -/
def newWindow (d : Dev) : Dev :=
  let d1 := d.freshWindow
  let d2 := match d.mem.gau.pending with
    | some b => if d.mem.gau.pendingSn + 1 ≤ d.sn then d1.setInForce b else d1
    | none => d1
  if d.mem.gau.capChange then (d2.rescale).modGau fun g => { g with capChange := false } else d2

/-- A window begins at this boundary, and GAUGE_WINDOW_END has not yet been sent. -/
def windowDue (d : Dev) : Bool := decide (d.sn % 64 = 0 ∧ d.get Pg.gau F.GAU_WIN_SN_SN ≠ d.sn)

/-- R310: the boundary that begins a window: GAUGE_WINDOW_END. -/
def windowEnd (mr4 : List Mr4Read) : Effect :=
  when (fun d => d.clk.fabricOn && d.windowDue) fun d =>
    let d1 := (d.judge.set Pg.gau F.GAU_HEARTH_LAT_WIN_MAX d.mem.gau.latMax).bandwidth.newWindow
    (d1.set Pg.gau F.GAU_WIN_SN_SN d.sn).readMr4 mr4

/-! ### The stitch (R311, R312, R316) -/

/-- R312: the pool of a subchannel: what is unused of its maintenance and class allowances goes to waiting requests, by class and deadline. -/
def poolPass (d : Dev) (l : Nat) : Dev :=
  let ws := sortBy (fun r => [d.effClass r.ld r.cls, r.deadline, r.id]) (d.gateReqs.filter (fun r => r.sub == l && d.effClass r.ld r.cls != 0))
  if ws.isEmpty then d
  else
    let pool := d.allowOf l 0 + d.allowOf l 2 + d.allowOf l 3 + d.allowOf l 4
    let d0 := (((d.setAllow l 0 0).setAllow l 2 0).setAllow l 3 0).setAllow l 4 0
    (ws.foldl
      (fun (acc : Nat × Dev) r =>
        match acc.2.findReq r.id with
        | none => acc
        | some x =>
          let c := acc.2.effClass x.ld x.cls
          if x.stage ≠ .gate ∨ acc.1 = 0 ∨ c = 0 then acc
          else
            match (acc.2.setAllow l (1 + c) acc.1).tryPass x with
            | none => acc
            | some d1 =>
              let left := d1.allowOf l (1 + c)
              let d2 := d1.setAllow l (1 + c) 0
              (left, match d2.findReq x.id with | some y => d2.flow y | none => d2)) (pool, d0)).2

/-- R312: ALLOWANCE_POOL of the stitch that ends, at every subchannel. -/
def gaugePool (d : Dev) : Dev := (List.range d.ilvW).foldl (fun d l => d.poolPass l) d

/-- R311, R316, R44: the Gauge at a stitch boundary: the plan of the stitch that begins; the first plan of a window is made with the window's
own budgets (R310). -/
def gaugeBoundary (d : Dev) (complete : Bool) : Dev :=
  let d2 := d.setPlan (if d.windowDue then d.newWindow else d) complete
  if !d.gauOn then d2
  else if !(d.flag Pg.gau F.GAU_CFG_FORCE_STANDING) && complete then d2
  else
    let d3 := (d2.addSat Pg.gau F.GAU_STANDING_CNT_COUNT 1).tally Pg.gau 0x0103 1
    if d.mem.gau.standing.isSome then d3
    else (d3.modGau fun g => { g with standing := some d.sn }).raise Src.gauStanding d.sn 0xFF 0

end Dev

/-- R308: GAU_COMMIT_GO. -/
def execGauCommitGo (a : Agent) (s : State) : Host.Outcome State Fault Refusal := s.run (Dev.writeTo 1 a Pg.gau 0x138 Dev.commitGo)

/-- R309: ADMISSION_CHECK_DONE. -/
def execAdmissionCheckDone (s : State) : Host.Outcome State Fault Refusal := s.run Dev.checkDone

/-- R310, R322, R323, R325, R87, R281, R570: GAUGE_WINDOW_END; `mr4` is what the ranks' mode registers answer. -/
def execGaugeWindowEnd (mr4 : List Mr4Read) (s : State) : Host.Outcome State Fault Refusal := s.run (Dev.windowEnd mr4)

end Sys2Proof.Machine
end

