-- ==== Sys2Proof/Machine/Power.lean ====
section
/-! DEFINITION. Power states and wake (chapter 17): requests, the start of a transition and its refusal, the commit point, the steps that
end a transition, Hush and its wakes, and the other wake sources. -/

namespace Sys2Proof.Machine

namespace Dev

/-- The device state (R482): 0 Full, 1 Trim, 2 Hush, 3 Recovery-Sleep. -/
def powerState (d : Dev) : Nat := d.get Pg.pwr F.PWR_STS_STATE

/-- A transition runs. -/
def inTransition (d : Dev) : Bool := d.flag Pg.pwr F.PWR_STS_IN_PROGRESS

/-- Change the power record. -/
def modPwr (d : Dev) (f : Power → Power) : Dev := { d with pwr := f d.pwr }

/-- R484: source 0x470 is active: a request is pending, every powered management core is in WAIT, and the one before it has ended. -/
def readyToStart (d : Dev) : Bool :=
  d.flag Pg.pwr F.PWR_STS_PENDING && !d.inTransition && d.powerState != 2 && (!d.domOn 1 || d.pwr.coreWait == 0xF)

/-- PWR_MODE.GO reads 1 while a request is pending or in progress. -/
def syncGo (d : Dev) : Dev :=
  d.setFlag Pg.pwr F.PWR_MODE_GO (d.flag Pg.pwr F.PWR_STS_PENDING || d.inTransition)

/-- A transition ends: its flags clear and PWR_DONE_SN is loaded. -/
def endTransition (d : Dev) : Dev :=
  ((((d.setFlag Pg.pwr F.PWR_STS_IN_PROGRESS false).setFlag Pg.pwr F.PWR_STS_COMMITTED false).set Pg.pwr F.PWR_DONE_SN_SN d.sn).modPwr
    fun p => { p with beforeCommit := false, wakeAfter := none }).syncGo

/-- R490, R491: a transition is cancelled before its commit point. -/
def cancelTransition (d : Dev) : Dev :=
  ((d.endTransition.setFlag Pg.pwr F.PWR_STS_CANCELLED true).setPageBits Pg.pwr (2 ^ 5)).latch Src.pwrDone

/-- R484, R490: a write of PWR_MODE with GO. `after`: it reaches the page after the commit point of this stitch. -/
def powerRequest (v : Nat) (after : Bool) : Effect := fun d =>
  let t := v % 4
  let d1 := d.set Pg.pwr F.PWR_MODE_TARGET t
  if !v.testBit 2 then d1
  else if d1.inTransition && d1.pwr.beforeCommit && !after && t == d1.pwr.source then
    (d1.setFlag Pg.pwr F.PWR_STS_PENDING false).cancelTransition
  else ((d1.setFlag Pg.pwr F.PWR_STS_PENDING true).modPwr fun p => { p with reqTarget := t }).syncGo

/-- The halves of the host ports. -/
def halves : List (Nat × Nat) := (List.range 8).map (fun i => (i / 2, i % 2))

/-- R485 row 4: a domain that PWR_TRIM_DOM names is in use. -/
def domainInUse (d : Dev) (k : Nat) : Bool :=
  if k = 4 then decide (1 ≤ d.get Pg.twn F.TWN_STS_STATE ∧ d.get Pg.twn F.TWN_STS_STATE ≤ 4)
  else if k < 21 then d.flag (Pg.dc 0) F.DC_ILV_EN && decide (2 * (k - 5) < 2 ^ max 1 (min 5 (d.get (Pg.dc 0) F.DC_ILV_WLOG)))
  else if k < 25 then (d.link (k - 21) 0).up || (d.link (k - 21) 1).up
  else d.domOn k && (domainLinks k).any (fun l => d.linkState l != 0)

/-- The domains that PWR_TRIM_DOM names (R483: 4 to 28). -/
def trimDoms (d : Dev) : List Nat := ((List.range 29).drop 4).filter (fun k => (d.get Pg.pwr F.PWR_TRIM_DOM_OFF).testBit k)

/-- R482: the transitions that a request may ask for. -/
def transitionOk : Nat → Nat → Bool
  | 0, 1 | 0, 2 | 0, 3 | 1, 0 | 1, 2 | 1, 3 => true
  | _, _ => false

/-- R485: why a request is refused, 0 where it is accepted. -/
def requestRefusal (d : Dev) (t : Nat) : Nat :=
  if !transitionOk d.powerState t then 1
  else if t = 2 ∧ halves.any (fun h => (d.link h.1 h.2).up && !(d.link h.1 h.2).aspmL1) then 2
  else if t = 2 ∧ d.domainInUse 4 then 3
  else if t = 1 ∧ d.trimDoms.any d.domainInUse then 4
  else 0

/-- R484, R485, R487 step 1: the dispatch of source 0x470 starts the transition, or refuses it. -/
def transitionStart (d : Dev) : Dev :=
  if d.recordOnly || d.inTransition || !d.flag Pg.pwr F.PWR_STS_PENDING then d
  else
    let t := d.pwr.reqTarget
    let why := d.requestRefusal t
    let d1 := (d.setFlag Pg.pwr F.PWR_STS_PENDING false).set Pg.pwr F.PWR_STS_RESULT why
    if why ≠ 0 then (d1.syncGo).raise Src.pwrRefused why 0xFF 0
    else
      let d2 := ((((d1.setFlag Pg.pwr F.PWR_STS_IN_PROGRESS true).setFlag Pg.pwr F.PWR_STS_COMMITTED false).set
        Pg.pwr F.PWR_REQ_SN_SN d.sn).modPwr fun p =>
          { p with target := t, source := d.powerState, beforeCommit := true, wakeAfter := none }).syncGo
      if t = 2 then halves.foldl (fun d h => if (d.link h.1 h.2).up then d.emit (.l1Request h.1 h.2) else d) d2 else d2

/-- R486: the commit point of a transition, cycle 240 of the stitch it started in. -/
def powerCommit (d : Dev) : Dev :=
  if d.inTransition && d.pwr.beforeCommit then
    (d.setFlag Pg.pwr F.PWR_STS_COMMITTED true).modPwr fun p => { p with beforeCommit := false }
  else d

/-- R488: PWR_WAKE_EN enables a wake source for Hush. -/
def wakeEnabled (d : Dev) (src : Nat) : Bool :=
  decide (0x441 ≤ src ∧ src ≤ 0x462) && (d.get Pg.pwr F.PWR_WAKE_EN_EN).testBit (src - 0x440)

/-- R491, R497: the dispatch of a wake source: before the commit point of an entry to Hush it cancels the entry, after it the exit follows
step 5; the wake that ended Hush sets its page bit. -/
def wakeDispatch (d : Dev) (e : Ev) : Dev :=
  if d.inTransition && d.pwr.target == 2 && d.wakeEnabled e.src && !d.recordOnly then
    if d.pwr.beforeCommit then d.cancelTransition
    else
      (d.modPwr fun p => { p with wakeAfter := some (p.wakeAfter.getD (e.src, e.sn)) }).setPageBits Pg.pwr (2 ^ 4)
  else if d.pwr.exitWake = some (e.src, e.sn) then (d.modPwr fun p => { p with exitWake := none }).setPageBits Pg.pwr (2 ^ 4)
  else d

/-- A group of domains is ready for register access, or is not. -/
def setReady (d : Dev) (ks : List Nat) (on : Bool) : Dev :=
  d.modPwr fun p => { p with ready := ks.foldl (fun r k => if on then setBit r k else clrBit r k) p.ready }

/-- R488 step 1, R493: a wake starts the exit from Hush: the fabric clock restarts, domains 1 to 3 leave retention and the dozing links are
woken. -/
def exitHush (d : Dev) (src sn : Nat) : Dev :=
  let d1 : Dev := { d with clk := { d.clk with fabricOn := true } }
  let d2 := ((d1.setReady [1, 2, 3] true).set Pg.pwr F.PWR_LAST_WAKE_INDEX src).set Pg.pwr F.PWR_LAST_WAKE_SN_SN sn
  let d3 := d2.modPwr fun p => { p with exiting := true, exitWake := some (src, sn) }
  (List.range 17).foldl (fun d l =>
    if d.linkState l == 5 && !(d.lnk l).waking then (d.modLnk l fun s => { s with waking := true }).emit (.wake l) else d) d3

/-- R295: a channel in self-refresh: its write queue, its retry buffers and its owed refreshes are empty, its banks closed. -/
def selfRefresh (d : Dev) (c : Nat) : Dev :=
  let still := fun (s : SubCh) => { s with wq := [], draining := false, banks := [], lastBg := [], owed := [], mandWait := [], retry := [] }
  d.modChan c fun x => { x with subA := still x.subA, subB := still x.subB, selfRef := true }

/-- R487 steps 3 and 4: the work in flight has ended. -/
def workEnded (d : Dev) : Bool :=
  d.mem.reqs.all (fun r => match r.stage with | .domain | .lost | .late => true | _ => false) &&
    !d.migs.any (·.copying) && !d.rings.jobs.any (·.started) && !(List.range 64).any (fun ch => (d.mover ch).running)

/-- R440: what is held for domains that are down wakes them. -/
def heldWake (d : Dev) : Dev :=
  let held := d.mem.reqs.any (fun r => decide (r.stage = .domain)) || !d.bar.waits.isEmpty
  let d1 : Dev := { d with mem := { d.mem with
    reqs := d.mem.reqs.map (fun r => if r.stage = .domain then { r with subSn := d.sn } else r) } }
  if held then (d1.latch Src.nocWake).tally Pg.noc 0x0103 1 else d1

/-- R487 step 5: a host link that is not in L1 counts as a wake sampled now. -/
def linkWakes (d : Dev) : List Nat :=
  (halves.filter (fun h => (d.link h.1 h.2).up && !(d.link h.1 h.2).l1)).map (fun h => Src.l1Exit h.1 h.2)

/-- R487 steps 4 and 5: Hush is entered. -/
def hushEntry : Effect :=
  when (fun d => d.inTransition && d.flag Pg.pwr F.PWR_STS_COMMITTED && d.pwr.target == 2 && d.workEnded) fun d =>
    let later := d.pwr.wakeAfter
    let d1 := (List.range 16).foldl (fun d c => if d.domOn (5 + c) then d.selfRefresh c else d) d
    let d2 := (List.range 17).foldl (fun d l =>
      if d.linkActive l then (d.lset l (fState l) 5).modLnk l fun s => { s with stateSn := d.sn, waking := false } else d) d1
    let d3 : Dev := { d2 with clk := { d2.clk with fabricOn := false } }
    let d4 := (((d3.setReady (List.range 29) false).set Pg.pwr F.PWR_STS_STATE 2).set Pg.pwr F.PWR_STS_RETURN d.pwr.source).endTransition.heldWake
    let ws := d4.linkWakes
    let d5 : Dev := { d4 with stc := { d4.stc with events := d4.stc.events ++ ws.map (fun w => ⟨d.sn, w, 4, 0, 0, 0, 0, 0⟩) } }
    match later, ws.filter d5.wakeEnabled with
    | some (src, sn), _ => d5.exitHush src sn
    | none, w :: _ => d5.exitHush w d.sn
    | none, [] => d5

/-- R488, R493: in Hush, a wake source that was sampled and is enabled starts the exit; the lowest index of its stitch is recorded. -/
def hushWake (src : Nat) : Effect :=
  when (fun d => d.powerState == 2 && !d.pwr.exiting && d.wakeEnabled src) fun d =>
    match d.stc.events.find? (fun e => e.src == src) with
    | none => d
    | some e =>
      let first := d.stc.events.foldl (fun m x => if x.sn == e.sn && d.wakeEnabled x.src then min m x.src else m) src
      d.exitHush first e.sn

/-- R488 steps 3 and 4, R296: the exit from Hush ends: the channels accept again, STATE takes the return state, the cores leave WAIT and the
held packets are delivered. -/
def hushExit : Effect :=
  when (fun d => d.powerState == 2 && d.pwr.exiting) fun d =>
    let d1 := (List.range 16).foldl (fun d c =>
      if (d.chan c).selfRef then d.modChan c fun x => { x with selfRef := false } else d) d
    let d2 := (d1.setReady ((List.range 29).filter d1.domOn) true).set Pg.pwr F.PWR_STS_STATE (d1.get Pg.pwr F.PWR_STS_RETURN)
    let d3 := (d2.modPwr fun p => { p with exiting := false, coreWait := 0 }).set Pg.pwr F.PWR_DONE_SN_SN d.sn
    (d3.latch Src.pwrDone).deliverHeld.after

/-- A start-up value that a reset of an HP page leaves: HP_CFG.SPLIT, which changes only at cold reset (R108). -/
def resetKeep (d : Dev) (p : Nat) : Dev :=
  match pageKind p with
  | some .hp => let s := d.get p F.HP_CFG_SPLIT; (d.resetPage p).set p F.HP_CFG_SPLIT s
  | _ => d.resetPage p

/-- The pages of a domain. -/
def domPages (k : Nat) : List Nat := allPages.filter (fun p => pageDomain p == k)

/-- A domain of 4 to 28 goes off: its links are Off, its pages return to their reset column, its channel holds nothing. -/
def domainOff (d : Dev) (k : Nat) : Dev :=
  if !d.domOn k then d
  else
    let d0 := (domainLinks k).foldl (fun d l => d.linkDomainOff l) d
    let d1 := (((domPages k).foldl (fun d p => d.resetKeep p) d0).setDom k false).setReady [k] false
    if 5 ≤ k ∧ k < 21 then d1.modChan (k - 5) fun _ => {} else d1

/-- A domain of 4 to 28 comes on. -/
def domainOn (d : Dev) (k : Nat) : Dev :=
  if d.domOn k || d.pwr.absent.testBit k then d else ((d.setDom k true).linkDomainOn k).setReady [k] true

/-- A committed transition to `t` runs. -/
def entering (t : Nat) (d : Dev) : Bool := d.inTransition && d.flag Pg.pwr F.PWR_STS_COMMITTED && d.pwr.target == t

/-- R483: Trim is entered: the domains of PWR_TRIM_DOM go off, the woken ones among them (R495). -/
def trimEntry : Effect :=
  when (entering 1) fun d =>
    ((d.trimDoms.foldl domainOff d).set Pg.pwr F.PWR_STS_STATE 1).endTransition.latch Src.pwrDone

/-- R482: Full is entered: every domain that Trim had off comes on. -/
def fullEntry : Effect :=
  when (entering 0) fun d =>
    (((((List.range 29).drop 4).foldl domainOn d).set Pg.pwr F.PWR_STS_STATE 0).endTransition.latch Src.pwrDone).deliverHeld.after

/-- R487: a step of the entry to or the exit from Hush has overrun its bound. -/
def transitionOverrun (step : Nat) : Effect :=
  when (fun d => (d.inTransition && d.pwr.target == 2) || d.pwr.exiting) fun d => d.raise Src.pwrOverrun step 0xFF 0

/-- R484: a management core executes WAIT. -/
def waitCore (core : Nat) : Effect :=
  when (fun d => decide (core < 4) && d.pageReady Pg.mgc && d.clk.coresRun.testBit core) fun d =>
    d.modPwr fun p => { p with coreWait := setBit p.coreWait core }

/-- R494: vsense has crossed THRESH, after its hysteresis, to the side `above`. -/
def vsenseCross (above : Bool) : Effect :=
  when (fun d => d.clk.porN) fun d =>
    let d1 := d.setFlag Pg.pwr F.PWR_VSENSE_STS_ABOVE above
    if d.flag Pg.pwr F.PWR_VSENSE_CFG_DIR == above then (d1.setFlag Pg.pwr F.PWR_VSENSE_STS_CROSSED true).latch Src.vsense else d1

end Dev

open Dev in
/-- R484, R490: PWR_MODE_REQUEST, a write of PWR_MODE. -/
def execPwrModeRequest (a : Agent) (v : BitVec 32) (afterCommit : Bool) (s : State) : Host.Outcome State Fault Refusal :=
  s.run (writeTo v.toNat a Pg.pwr 0x100 (powerRequest v.toNat afterCommit))

/-- R484: CORE_WAIT. -/
def execCoreWait (core : Nat) (s : State) : Host.Outcome State Fault Refusal := s.run (Dev.waitCore core)

/-- R487, R295: HUSH_ENTRY_COMPLETE. -/
def execHushEntryComplete (s : State) : Host.Outcome State Fault Refusal := s.run Dev.hushEntry

/-- R483: TRIM_ENTRY_COMPLETE. -/
def execTrimEntryComplete (s : State) : Host.Outcome State Fault Refusal := s.run Dev.trimEntry

/-- R480, R482: FULL_ENTRY_COMPLETE. -/
def execFullEntryComplete (s : State) : Host.Outcome State Fault Refusal := s.run Dev.fullEntry

/-- R488, R493: HUSH_WAKE. -/
def execHushWake (src : Nat) (s : State) : Host.Outcome State Fault Refusal := s.run (Dev.hushWake src)

/-- R488, R296: HUSH_EXIT_COMPLETE. -/
def execHushExitComplete (s : State) : Host.Outcome State Fault Refusal := s.run Dev.hushExit

/-- R487: POWER_TRANSITION_OVERRUN. -/
def execPowerTransitionOverrun (step : Nat) (s : State) : Host.Outcome State Fault Refusal := s.run (Dev.transitionOverrun step)

/-- R494: VSENSE_CROSSING. -/
def execVsenseCrossing (above : Bool) (s : State) : Host.Outcome State Fault Refusal := s.run (Dev.vsenseCross above)

/-- R492: WAKE_TIMER: SN has reached PWR_WAKE_SN. -/
def execWakeTimer (s : State) : Host.Outcome State Fault Refusal :=
  s.run (when (fun d => d.get Pg.pwr F.PWR_WAKE_SN_SN != 0 && d.sn == d.get Pg.pwr F.PWR_WAKE_SN_SN) (Dev.latch · Src.wakeTimer))

/-- R492: MCTP_WAKE: a packet on SMBus or I3C is addressed to the device. -/
def execMctpWake (s : State) : Host.Outcome State Fault Refusal := s.run (when (fun d => d.clk.porN) (Dev.latch · Src.mctp))

end Sys2Proof.Machine
end

