-- ==== Sys2Proof/Machine/Sources.lean ====
section
/-! DEFINITION. What the stitch clock and the fault collection unit ask of a source: its status set, its exemption from stuck masking and
quarantine, its waiting events. -/

namespace Sys2Proof.Machine

namespace Dev

/-- R456: the SET bit of an FCU source. -/
def fcuSet (d : Dev) (i : Nat) : Bool := d.flag (Bk.fcu i) F.FCU_SRC_STS_SET

/-- R39: a source is exempt from stuck masking and quarantine now. -/
def exempt (d : Dev) (i : Nat) : Bool :=
  if i < 0x400 then d.severity i == 5 || d.severity i == 0 || (0x008 ≤ i && i < 0x00C)
  else decide (i < 0x420)

/-- STC_SRC_STS.WAITING: an event of the source awaits dispatch. -/
def srcWaiting (d : Dev) (i : Nat) : Bool := d.stc.events.any (fun e => e.src == i)

/-- A word of 32 bits, bit `b` by `f`. -/
def wordOf (f : Nat → Bool) : Nat := bitMask ((List.range 32).filter f)

end Dev

end Sys2Proof.Machine
end

