-- ==== Sys2Proof/Machine/Registers.lean ====
section
/-! DEFINITION. Register commands (chapter 2): accesses that wait for a domain and time out, the common page header, the interrupt route
and page access tables, the STC's release registers and the Tally selection registers. -/

namespace Sys2Proof.Machine

namespace Dev

/-! ### Header registers -/

/-- R68 case 2: a write to PG_INT_STS, PG_INT_EN or PG_CTL that leaves the page pending sends one interrupt. -/
def afterHeaderWrite (d : Dev) (p : Nat) : Dev :=
  if d.pagePending p then d.pageInterrupt p else d

/-- R585, R586: what firmware makes known to the host when it brings a page into service (DESIGN CHOICE: with ENABLE): the mailboxes of a port,
the memory of an LD; R472: the LD takes requests again. -/
def serviceOn (d : Dev) (p : Nat) : Dev :=
  match pageKind p with
  | some .hp => { d with host := { d.host with mboxReady := setBit d.host.mboxReady (pageInst p) } }
  | some .ldm =>
    ({ d with host := { d.host with frogged := clrBit d.host.frogged (pageInst p) } } : Dev).modLd (pageInst p) fun l =>
      { l with memActive := true, mediaReady := true }
  | _ => d

/-- R64: a write of ENABLE. A 1 while FROG reads 1 is ignored; a 1 clears FROGGED. -/
def enableEffect (p : Nat) (on : Bool) : Effect := fun d =>
  let d1 :=
    if on then
      if d.flag p F.PG_CTL_FROG then d
      else ((d.setFlag p F.PG_CTL_ENABLE true).setFlag p F.PG_STS_FROGGED false).serviceOn p
    else d.setFlag p F.PG_CTL_ENABLE false
  d1.afterHeaderWrite p

/-- R65: the pages whose function FROG aborts. -/
def frogPage (p : Nat) : Bool :=
  match pageKind p with
  | some .ldm | some .yp | some .cmp | some .qmg | some .dmv | some .tir | some .hp => true
  | _ => false

/-- R470: a Frog is asked for; it is accepted at the next stitch boundary. -/
def askFrog (d : Dev) (t : FrogTarget) (mbox : Option Nat) : Dev :=
  { d with frogs := d.frogs ++ [⟨d.nextFrog, t, mbox, 0⟩], nextFrog := d.nextFrog + 1 }

/-- R65: a write of 1 to PG_CTL.FROG. -/
def frogEffect (p : Nat) : Effect := fun d =>
  if !frogPage p || d.flag p F.PG_CTL_FROG then d.afterHeaderWrite p
  else ((d.setFlag p F.PG_CTL_FROG true).askFrog (.page p) none).afterHeaderWrite p

/-- The PG_INT_STS write: W1C, with the bits that events of the same fabric cycle set left set (R70). -/
def intStsClear (p v coincident : Nat) : Effect := fun d =>
  let w := clearBits (d.get p F.PG_INT_STS_STS) v ||| coincident
  (d.set p F.PG_INT_STS_STS w).afterHeaderWrite p

/-- R68, R69: a write to PG_INT_SET sets bits of STS when it completes, outside the dispatch order; a page that becomes pending sends
its interrupt. RSV bits stay 0 (R15). -/
def intSet (p v : Nat) : Effect := fun d =>
  let was := d.pagePending p
  let defined := match pageKind p with | some k => v % 2 ^ intStsBits k | none => 0
  let d1 := d.set p F.PG_INT_STS_STS (d.get p F.PG_INT_STS_STS ||| defined)
  if !was && d1.pagePending p then d1.pageInterrupt p else d1

/-! ### STC releases -/

/-- R36, R29: releasing a masked source clears its consecutive count, and its next active sample is an assertion. -/
def releaseMask (d : Dev) (src : Nat) : Dev :=
  if d.flag (Bk.stc src) F.STC_SRC_STS_MASKED then
    ((d.setFlag (Bk.stc src) F.STC_SRC_STS_MASKED false).set (Bk.stc src) F.STC_SRC_STS_RUN 0).setFlag
      (Bk.stc src) F.STC_SRC_STS_SAMPLE false
  else d

/-- R37, R29: releasing a quarantined source clears its count for the current rate window, and its next active sample is an assertion. -/
def releaseQuar (d : Dev) (src : Nat) : Dev :=
  if d.flag (Bk.stc src) F.STC_SRC_STS_QUAR then
    ((d.setFlag (Bk.stc src) F.STC_SRC_STS_QUAR false).set (Bk.stc src) F.STC_SRC_COUNT_ASSERTS 0).setFlag
      (Bk.stc src) F.STC_SRC_STS_SAMPLE false
  else d

/-- Apply a release to every source of word `k` whose bit is written with 1. -/
def releaseWord (d : Dev) (f : Dev → Nat → Dev) (k v : Nat) : Dev :=
  (bitList 32 v).foldl (fun d b => f d (32 * k + b)) d

end Dev

/-! ### The commands -/

/-- The page that a held access is for; offsets from 2^32 on are those of BAR4, which the QMG serves. -/
def waitPage (off : Nat) : Nat := if 2 ^ 32 ≤ off then Pg.qmg else off / 4096

/-- R56: BAR2_DOMAIN_TIMEOUT: an access that has waited 1024 stitches for READY is given up: a read returns ones, a write is dropped, and
"BAR2 domain timeout" is raised. -/
def barTimeout (id : Nat) : Effect := fun d =>
  match d.bar.waits.find? (fun w => w.id = id) with
  | none => d
  | some w =>
    if d.sn < w.sn + 1024 ∨ d.pageReady (waitPage w.off) then d
    else
      let d1 : Dev := { d with bar := { d.bar with waits := d.bar.waits.filter (fun x => x.id ≠ id) } }
      let d2 := if w.write.isNone then d1.emit (.barData w.agent w.off w.width (2 ^ (8 * w.width) - 1)) else d1
      d2.raise Src.barTimeout w.off (agentMaster w.agent) (agentAcc w.agent)

/-- R56: BAR2_DOMAIN_TIMEOUT. -/
def execBar2DomainTimeout (id : Nat) (s : State) : Host.Outcome State Fault Refusal := s.run (barTimeout id)

open Dev in
/-- R64: PG_ENABLE_WRITE. -/
def execPgEnableWrite (a : Agent) (page : Nat) (on : Bool) (s : State) : Host.Outcome State Fault Refusal :=
  s.run (writeTo (2 ^ 32 + b2n on) a page 0x008 (enableEffect page on))

open Dev in
/-- R65: PG_FROG_WRITE. -/
def execPgFrogWrite (a : Agent) (page : Nat) (s : State) : Host.Outcome State Fault Refusal :=
  s.run (writeTo (2 * 2 ^ 32) a page 0x008 (frogEffect page))

open Dev in
/-- R67, R68: PG_TEST_INT_WRITE. -/
def execPgTestIntWrite (a : Agent) (page : Nat) (on : Bool) (s : State) : Host.Outcome State Fault Refusal :=
  s.run (writeTo (3 * 2 ^ 32 + b2n on) a page 0x008
    (fun d => (d.setFlag page F.PG_CTL_TEST_INT on).afterHeaderWrite page))

open Dev in
/-- R68, R70: PG_INT_STS_CLEAR; `coincident` are the bits that events of the same fabric cycle set. -/
def execPgIntStsClear (a : Agent) (page : Nat) (v coincident : BitVec 32) (s : State) : Host.Outcome State Fault Refusal :=
  s.run (writeTo v.toNat a page 0x010 (intStsClear page v.toNat coincident.toNat))

open Dev in
/-- R67, R68: PG_INT_EN_WRITE. -/
def execPgIntEnWrite (a : Agent) (page : Nat) (v : BitVec 32) (s : State) : Host.Outcome State Fault Refusal :=
  s.run (writeTo v.toNat a page 0x014
    (fun d => (d.set page F.PG_INT_EN_EN v.toNat).afterHeaderWrite page))

open Dev in
/-- R69: PG_INT_SET_WRITE. -/
def execPgIntSetWrite (a : Agent) (page : Nat) (v : BitVec 32) (s : State) : Host.Outcome State Fault Refusal :=
  s.run (writeTo v.toNat a page 0x018 (intSet page v.toNat))

/-- The RW bits of GEN_IRQ_ROUTE (R72). -/
def routeMask : Nat := 0x7FF + 0x3F * 2 ^ 16 + 3 * 2 ^ 24 + 3 * 2 ^ 26 + 2 ^ 31

/-- R68, R72, R73: a new route entry for page `p`; clearing MASK while the page is pending sends one interrupt. -/
def setRoute (p v : Nat) : Effect := fun d =>
  if (pageKind p).isNone then d
  else
    let was := d.flag (Bk.route p) F.GEN_IRQ_ROUTE_MASK
    let d1 := d.store (Bk.route p) 0x124 routeMask v false
    if was && !d1.flag (Bk.route p) F.GEN_IRQ_ROUTE_MASK && d1.pagePending p then d1.pageInterrupt p else d1

open Dev in
/-- R68, R73: GEN_IRQ_ROUTE_WRITE, on the page that GEN_IRQ_SEL names. -/
def execGenIrqRouteWrite (a : Agent) (v : BitVec 32) (s : State) : Host.Outcome State Fault Refusal :=
  s.run (writeTo v.toNat a Pg.gen 0x124 (fun d => setRoute (d.get Pg.gen F.GEN_IRQ_SEL_PAGE) v.toNat d))

/-- R60: the pages whose access table entry is fixed. -/
def fixedAccess (p : Nat) : Bool :=
  match pageKind p with
  | some .gen | some .stc | some .str | some .mgc | some .dbg | none => true
  | _ => false

/-- R60, R61: a new access table entry, from the next stitch boundary. -/
def setAccess (p v : Nat) : Effect := fun d => if fixedAccess p then d else d.store (Bk.acc p) 0x12C 0xFF v true

open Dev in
/-- R60, R61, R73: GEN_ACC_WRITE, by firmware and management LDs, on the page that GEN_ACC_SEL names. -/
def execGenAccWrite (a : Agent) (v : BitVec 32) (s : State) : Host.Outcome State Fault Refusal :=
  s.run (writeTo v.toNat a Pg.gen 0x12C (fun d => setAccess (d.get Pg.gen F.GEN_ACC_SEL_PAGE) v.toNat d))

/-- R73: a new mask of management LDs; half a write combines with the other half as it reads, and a write that would leave none is ignored. -/
def setMgmt (h : Half64) (v : Nat) : Effect := fun d =>
  let cur := d.pendGet Pg.gen F.GEN_MGMT_LD_MGMT
  let new := match h with
    | .both => v
    | .lo => cur / 2 ^ 32 * 2 ^ 32 + v % 2 ^ 32
    | .hi => (v % 2 ^ 32) * 2 ^ 32 + cur % 2 ^ 32
  if new = 0 then d
  else (d.store Pg.gen 0x130 (2 ^ 32 - 1) (new % 2 ^ 32) true).store Pg.gen 0x134 (2 ^ 32 - 1) (new / 2 ^ 32) true

open Dev in
/-- R73: GEN_MGMT_LD_WRITE. -/
def execGenMgmtLdWrite (a : Agent) (h : Half64) (v : BitVec 64) (s : State) : Host.Outcome State Fault Refusal :=
  s.run (writeTo v.toNat a Pg.gen 0x130 (setMgmt h v.toNat))

open Dev in
/-- R36: STC_MASKED_RELEASE of word `word` of STC_MASKED. -/
def execStcMaskedRelease (a : Agent) (word : Nat) (v : BitVec 32) (s : State) : Host.Outcome State Fault Refusal :=
  s.run (writeTo v.toNat a Pg.stc (0x400 + 4 * (word % 64))
    (fun d => d.releaseWord releaseMask (word % 64) v.toNat))

open Dev in
/-- R37: STC_QUAR_RELEASE of word `word` of STC_QUAR. -/
def execStcQuarRelease (a : Agent) (word : Nat) (v : BitVec 32) (s : State) : Host.Outcome State Fault Refusal :=
  s.run (writeTo v.toNat a Pg.stc (0x500 + 4 * (word % 64))
    (fun d => d.releaseWord releaseQuar (word % 64) v.toNat))

end Sys2Proof.Machine
end

