-- ==== Sys2Proof/Machine/Strongroom.lean ====
section
/-! DEFINITION. The Strongroom (chapter 18): identity, SPDM, secured requests and the life-cycle, rights granted to masters, live
activation, and the debug grant. The outcome of a signature check is an operand of the command that carries the signature. -/

namespace Sys2Proof.Machine

namespace Dev

/-! ### Life-cycle, owner and measurements -/

/-- R511, R515: the life-cycle state is the last entry of the log that counts; Manufacture before any. -/
def lcState (d : Dev) : Nat := d.str.fuses.lcLog.getLastD 0

/-- The current owner slot: key hash and OWNER_SIGN, in Deployed (R512). -/
def owner (d : Dev) : Option (BitVec 256 × Bool) := if d.lcState = 2 then d.str.fuses.owners.getLast? else none

/-- R523: the debug level of a state without a token, with a Halvas token, with an owner token (`none`: not accepted). -/
def debugCap (lc : Nat) (token : Nat) : Option Nat :=
  match lc, token with
  | 0, 0 => some 4 | 0, 1 => some 4 | 0, _ => none
  | 1, 0 => some 1 | 1, 1 => some 4 | 1, _ => none
  | 2, 0 => some 0 | 2, 1 => some 1 | 2, _ => some 3
  | 3, 0 => some 1 | 3, 1 => some 4 | 3, _ => none
  | _, 0 => some 1 | _, 1 => some 1 | _, _ => none

/-- The level without a token. -/
def noTokenCap (d : Dev) : Nat := (debugCap d.lcState 0).getD 0

/-- The bytes of a digest in the order of its standard. -/
def digestBytes (x : Nat) : List Nat := Sm3.bytesBE 32 x

/-- R507: measurement block `i` of 1 to 5, as a digest. Block 4, whose value is longer than a digest, reads as the SM3 of its value
(DEDUCED). -/
def measurement (d : Dev) (i : Nat) : Nat :=
  let f := d.str.fuses
  match i with
  | 1 => Config.romDigest.toNat
  | 2 => match d.str.running with | some im => im.digest.toNat | none => 0
  | 3 => d.str.loaded.foldl (fun c k => Sm3.digest (digestBytes c ++ digestBytes k.toNat)) 0
  | 4 =>
    let (h, sg) := match d.owner with | some (h, sg) => (h.toNat, b2n sg) | none => (0, 0)
    Sm3.digest ([d.lcState, d.get Pg.dbg F.DBG_STS_LEVEL] ++ Sm3.bytesLE 4 f.minSvn ++ digestBytes h ++ [sg])
  | 5 =>
    Sm3.digest (((List.range 8).map fun k =>
      let (h, r) := f.anchors.getD k (0, false)
      digestBytes h.toNat ++ [b2n r]).flatten)
  | _ => 0

/-- R530: the HW fields of both pages are loaded; the debug level is that of the state without a token. -/
def loadStrPages (d : Dev) : Dev := d.set Pg.dbg F.DBG_STS_LEVEL d.noTokenCap

/-! ### Sessions and nonces -/

/-- R505, R585: the Strongroom answers SPDM from step 2 of the boot chain. -/
def spdmServes (d : Dev) : Bool := decide (2 ≤ d.clk.bootStep)

/-- The step that the SPDM connection of a transport has reached: 1 version, 2 capabilities, 3 algorithms. -/
def spdmStep (d : Dev) (t : Transport) : Nat := ((d.str.spdmState.find? fun x => x.1 = t).map (·.2)).getD 0

/-- Move an SPDM connection to a step. -/
def setSpdmStep (d : Dev) (t : Transport) (k : Nat) : Dev :=
  { d with str := { d.str with spdmState := d.str.spdmState.filter (fun x => x.1 ≠ t) ++ [(t, k)] } }

/-- A finished session (R508). -/
def session? (d : Dev) (id : Nat) : Option Session := d.str.sessions.find? fun x => x.id = id ∧ x.finished

/-- R509: the DOE of a management LD, or MCTP. -/
def secureTransport (d : Dev) : Transport → Bool
  | .doe p => d.isMgmt p
  | .mctp => true

/-- R509: a nonce presented on a session is one that the session fetched and that is still valid. -/
def nonceValid (d : Dev) (session : Nat) (v : BitVec 256) : Bool :=
  d.str.nonces.any fun n => n.1 = session ∧ Config.nonce n.2.1 = v ∧ d.sn ≤ n.2.2 + 78125000

/-- R509: any use consumes the nonce. -/
def useNonce (d : Dev) (session : Nat) (v : BitVec 256) : Dev :=
  { d with str := { d.str with nonces := d.str.nonces.filter fun n => ¬ (n.1 = session ∧ Config.nonce n.2.1 = v) } }

/-- A fresh nonce for a session (0: the debug port). -/
def newNonce (d : Dev) (session : Nat) : Dev :=
  let d1 : Dev := { d with str := { d.str with nonces := d.str.nonces.filter (fun n => n.1 ≠ session) ++ [(session, d.fresh, d.sn)] } }
  d1.draw

/-- A fresh nonce in DBG_CHAL (R524). -/
def newDebugNonce (d : Dev) : Dev := ({ d with str := { d.str with dbgNonce := d.fresh } } : Dev).draw

/-! ### Secured requests (R509, R510) -/

/-- Who signed: 0 nobody, 1 Halvas, 2 the current owner, 3 another key. In Manufacture the manufacturing key is Halvas's (R510). -/
def signerOf (d : Dev) (signed : Bool) (h : BitVec 256) : Nat :=
  if !signed then 0
  else if h = (if d.lcState = 0 then d.str.fuses.mfgHash else d.str.fuses.relHash) then 1
  else match d.owner with
    | some (o, _) => if h = o then 2 else 3
    | none => 3

/-- R514: a life-cycle request is answered busy while another is in progress or a live activation is pending or paused. -/
def lcBusy (d : Dev) : Bool :=
  d.str.committing || d.flag Pg.str F.STR_ACT_CTL_PENDING || d.flag Pg.str F.STR_ACT_CTL_PAUSED

/-- STATUS of a request before its fuses are touched: 1 signature, 2 nonce, 3 state or signer, 6 busy (in this order: DESIGN CHOICE). -/
def secureStatus (d : Dev) (q : SecureReq) (stateOk signerOk : Bool) : Nat :=
  if !q.signatureOk then 1
  else if !d.nonceValid q.session q.nonce then 2
  else if !(stateOk && signerOk) then 3
  else if d.lcBusy then 6
  else 0

/-- The answer to a secured request; one that fails raises "life-cycle request rejected" (R526). -/
def answerSecure (d : Dev) (q : SecureReq) (code status : Nat) : Dev :=
  let d1 := (d.useNonce q.session q.nonce).emit (.spdmSession q.session code [status])
  if status = 0 then d1 else d1.raise Src.lcRejected (code * 256 + status) 0x85 0

/-- R514: a fuse item that reads back wrong: STATUS 5 and "life-cycle transition failed"; nothing is committed. -/
def fuseFailed (d : Dev) (q : SecureReq) (code item : Nat) : Dev :=
  ((d.useNonce q.session q.nonce).emit (.spdmSession q.session code [5])).raise Src.lcFailed item 0x85 0

/-- R509: a request is heard only inside a finished session of a transport that may carry it, once the Strongroom serves. -/
def secureHeard (d : Dev) (q : SecureReq) : Bool :=
  d.spdmServes && match d.session? q.session with | some x => d.secureTransport x.transport | none => false

/-- Change the fuses. -/
def modFuses (d : Dev) (f : Fuses → Fuses) : Dev := { d with str := { d.str with fuses := f d.str.fuses } }

/-- R512, R514: a life-cycle transition: checks, then the fuses, then the answer, then source 0x410 at the next boundary. `room` says
whether the fuses it consumes are left. -/
def transition (q : SecureReq) (code : Nat) (fuse : FuseResult) (stateOk signerOk room : Dev → Bool) (dest : Nat)
    (consume : Fuses → Fuses) : Effect := fun d =>
  if !d.secureHeard q then d
  else
    let st := d.secureStatus q (stateOk d) (signerOk d)
    if st ≠ 0 then d.answerSecure q code st
    else if !(room d) || decide (32 ≤ d.str.fuses.lcLog.length) then d.answerSecure q code 4
    else
      match fuse with
      | .failed item => d.fuseFailed q code item
      | .ok =>
        let d1 := d.modFuses fun f => { consume f with lcLog := f.lcLog ++ [dest], lcCopies := 3 }
        let d2 := d1.answerSecure q code 0
        let d3 : Dev := { d2 with str := { d2.str with committing := true } }
        (d3.setFlag Pg.str F.STR_STS_LC_BUSY true).latch Src.lifeCycle

/-- R510: a request that programs fuses without a life-cycle transition. -/
def fuseRequest (q : SecureReq) (code : Nat) (fuse : FuseResult) (stateOk signerOk : Dev → Bool) (early : Dev → Nat)
    (consume : Dev → Fuses → Fuses) : Effect := fun d =>
  if !d.secureHeard q then d
  else
    let st := d.secureStatus q (stateOk d) (signerOk d)
    let st := if st = 0 then early d else st
    if st ≠ 0 then d.answerSecure q code st
    else
      match fuse with
      | .failed item => d.fuseFailed q code item
      | .ok => (d.modFuses (consume d)).answerSecure q code 0

/-- R510: Halvas outside Deployed, the owner in Deployed. -/
def ownerOrHalvas (q : SecureReq) (d : Dev) : Bool :=
  let s := d.signerOf q.signed q.signer
  if d.lcState = 2 then s == 2 else s == 1

/-! ### Debug grant (R523, R524) -/

/-- One entry of the rights table as CRY_RIGHT holds it (R264). -/
def rightImage (master right space first last : Nat) (valid : Bool) : Nat :=
  master + right * 2 ^ 8 + space * 2 ^ 10 + b2n valid * 2 ^ 11 + first * 2 ^ 16 + last * 2 ^ 40

/-- The Strongroom writes an entry of the rights table; it acts from the next boundary (R265). -/
def writeRight (d : Dev) (e image : Nat) : Dev :=
  (d.store (Bk.right e) 0x158 (2 ^ 32 - 1) (image % 2 ^ 32) true).store (Bk.right e) 0x15C (2 ^ 32 - 1) (image / 2 ^ 32) true

/-- Frames of 2 MiB in the installed DRAM (DC_INSTALLED). -/
def installedFrames (d : Dev) : Nat := d.get (Pg.dc 0) F.DC_INSTALLED_BYTES / 2 ^ 21

/-- R522, R524: grant a level over rooms `first` to `last` for `dur` seconds (0: until the next start). -/
def grantDebug (d : Dev) (level first last dur : Nat) : Dev :=
  let d1 := d.set Pg.dbg F.DBG_STS_LEVEL level
  let d2 := d1.set Pg.dbg F.DBG_EXPIRY_SN_SN (if dur = 0 then 0 else d.sn + dur * 7812500)
  let d3 := (d2.set Pg.dbg F.DBG_ROOMS_FIRST first).set Pg.dbg F.DBG_ROOMS_LAST last
  let d4 : Dev := { d3 with str := { d3.str with grant := some level } }
  let top := d.installedFrames - 1
  let d5 := if 2 ≤ level then d4.writeRight 60 (rightImage 0x84 1 1 0 top true) else d4
  let right := if level = 4 then 3 else 2
  let d6 := if 3 ≤ level then
      (d5.writeRight 61 (rightImage 0x84 right 0 first last true)).writeRight 62 (rightImage 0x84 right 1 0 top true)
    else d5
  d6.raise Src.dbgGranted level 0x84 13

/-- R523: the grant ends: entries 60 to 62 become invalid and the level returns to its no-token cap. -/
def endGrant (d : Dev) : Dev :=
  match d.str.grant with
  | none => d
  | some level =>
    let d1 : Dev := { d with str := { d.str with grant := none } }
    let d2 := ((d1.writeRight 60 0).writeRight 61 0).writeRight 62 0
    let d3 := (d2.set Pg.dbg F.DBG_STS_LEVEL d.noTokenCap).set Pg.dbg F.DBG_EXPIRY_SN_SN 0
    d3.raise Src.dbgEnded level 0x84 13

/-- R523: the level that a Debug Unlock is granted: the lower of the level asked for and the cap of the state and token; `none` where the
token is not accepted in the state. -/
def unlockLevel (d : Dev) (signed : Bool) (signer : BitVec 256) (level : Nat) : Option Nat :=
  if d.lcState = 4 then none
  else
    match d.signerOf signed signer with
    | 0 => (debugCap d.lcState 0).map (min level)
    | 1 => (debugCap d.lcState 1).map (min level)
    | 2 => (debugCap d.lcState 2).map (min level)
    | _ => none

/-- Bytes of DBG_TOKEN (R529). -/
def tokenByte (d : Dev) (i : Nat) : Nat := ((tget (fun _ => (0 : Word)) d.bar.token (i / 4)).toNat >>> (8 * (i % 4))) % 256

/-- A little-endian field of DBG_TOKEN. -/
def tokenField (d : Dev) (i n : Nat) : Nat := Sm3.ofBytesLE ((List.range n).map fun k => d.tokenByte (i + k))

/-- R524: a Debug Unlock through the port, laid out as in R509 in DBG_TOKEN; `sigOk` is the outcome of its signature check. A SIGNER of
zeros is no token (DEDUCED). -/
def portUnlock (sigOk : Bool) : Effect := fun d =>
  let signerBytes := (List.range 64).map fun k => d.tokenByte (100 + k)
  let signed := signerBytes.any (· ≠ 0)
  let signer := BitVec.ofNat 256 (Sm3.digest signerBytes)
  let nonceOk := BitVec.ofNat 256 (d.tokenField 4 32) = Config.nonce d.str.dbgNonce
  let refuse := fun (d : Dev) (st : Nat) => (d.raise Src.dbgRefused st 0x84 13).newDebugNonce
  if d.pendGet Pg.dbg F.DBG_CTL_PORT_DIS ≠ 0 then refuse d 3
  else if d.tokenByte 0 ≠ 7 then refuse d 7
  else if signed && !sigOk then refuse d 1
  else if ¬ nonceOk then refuse d 2
  else
    match d.unlockLevel signed signer (d.tokenByte 36) with
    | none => refuse d 3
    | some lv => (d.grantDebug lv (d.tokenField 40 4) (d.tokenField 44 4) (d.tokenField 48 4)).newDebugNonce

/-! ### Rights requested by firmware (R521) -/

/-- R521: the Strongroom refuses an entry and image. -/
def rightRefused (d : Dev) (e image : Nat) : Bool :=
  let master := bits image 0 8
  decide (e < 4) || decide (60 ≤ e) || master == 0x84 || master == 0x85 || d.lcState == 4 ||
    (d.lcState == 2 && decide (0x80 ≤ master ∧ master ≤ 0x83) && decide (1 < bits image 8 2) && bits image 10 1 == 0)

/-- R521: a write of STR_RIGHT_CTL with GO. -/
def rightRequest (v : Nat) : Effect := fun d =>
  let e := bits v 0 6
  let d1 := d.set Pg.str F.STR_RIGHT_CTL_ENTRY e
  if !v.testBit 8 then d1
  else
    let image := d.get Pg.str F.STR_RIGHT_REQ_IMAGE
    if d.rightRefused e image then d1.setFlag Pg.str F.STR_RIGHT_CTL_RESULT true
    else (d1.writeRight e image).setFlag Pg.str F.STR_RIGHT_CTL_RESULT false

/-! ### Live activation (R518 to R520) -/

/-- P of the activation in progress. -/
def actP (d : Dev) : Nat := d.get Pg.str F.STR_ACT_SN_SN

/-- The image of slot 1 or 2. -/
def slot (d : Dev) (n : Nat) : FwSlot := if n = 2 then d.str.slot2 else d.str.slot1

/-- Write a firmware slot. -/
def setSlot (d : Dev) (n : Nat) (x : FwSlot) : Dev :=
  if n = 2 then { d with str := { d.str with slot2 := x } } else { d with str := { d.str with slot1 := x } }

/-- R520: at E one interrupt is sent to firmware for each page that is pending and routed there. -/
def sendWithheld (d : Dev) : Dev :=
  allPages.foldl (fun d p =>
    let dest := d.get (Bk.route p) F.GEN_IRQ_ROUTE_DEST
    if d.pagePending p && (dest == 2 || dest == 3) && !d.flag (Bk.route p) F.GEN_IRQ_ROUTE_MASK then
      d.coreInterrupt (d.get (Bk.route p) F.GEN_IRQ_ROUTE_CORE) p else d) d

/-- The pause ends at boundary E. -/
def endPause (d : Dev) (src : Nat) : Dev :=
  let d1 := (d.setFlag Pg.str F.STR_ACT_CTL_PAUSED false).set Pg.str F.STR_ACT_END_SN_SN d.sn
  let d2 : Dev := { d1 with str := { d1.str with activation := none } }
  (d2.raise src d.actP 0x85 0).sendWithheld

/-- R518: a write of READY while a live activation is paused. -/
def actReady : Effect := fun d =>
  match d.str.activation with
  | some x => if d.flag Pg.str F.STR_ACT_CTL_PAUSED then
      { d with str := { d.str with activation := some { x with ready := true, readySn := d.sn } } } else d
  | none => d

end Dev

open Dev

/-! ### SPDM (R508) -/

/-- An SPDM request over a transport whose connection has reached step `need`, answered with `code` and `payload`. In Decommissioned only
the requests that R513 names are answered (`always`). -/
def spdmAnswer (t : Transport) (need : Nat) (always : Bool) (code : Nat) (payload : Dev → List Nat) (f : Effect) : Effect :=
  when (fun d => d.spdmServes && decide (need ≤ d.spdmStep t) && (always || d.lcState != 4))
    (fun d => (f d).emit (.spdm t code (payload d)))

/-- SPDM GET_VERSION: versions 1.2 and 1.3. -/
def execSpdmGetVersion (t : Transport) (s : State) : Host.Outcome State Fault Refusal :=
  s.run (spdmAnswer t 0 true 0x04 (fun _ => [0x12, 0x13]) (fun d => d.setSpdmStep t 1))

/-- SPDM GET_CAPABILITIES: CERT, CHAL, MEAS with signature, MEAS_FRESH, ENCRYPT, MAC, MUT_AUTH, KEY_EX, HBEAT, KEY_UPD (R508). -/
def execSpdmGetCapabilities (t : Transport) (s : State) : Host.Outcome State Fault Refusal :=
  s.run (spdmAnswer t 1 true 0x61 (fun _ => [0x2 + 0x4 + 0x10 + 0x20 + 0x40 + 0x80 + 0x100 + 0x200 + 0x2000 + 0x4000])
    (fun d => d.setSpdmStep t 2))

/-- SPDM NEGOTIATE_ALGORITHMS: the SM suite if the requester offers it, else an error. -/
def execSpdmNegotiateAlgorithms (t : Transport) (offersSm : Bool) (s : State) : Host.Outcome State Fault Refusal :=
  s.run (if offersSm then spdmAnswer t 2 false 0x63 (fun _ => [0x200, 0x40, 0x40, 0x40, 0x8]) (fun d => d.setSpdmStep t 3)
    else spdmAnswer t 2 false 0x7F (fun _ => [1]) id)

/-- The certificate slots that read as provisioned (R501, R508): slot 0 unless the identity chain is invalid, slot 1 with a running image. -/
def certSlots (d : Dev) : Nat := b2n (!d.str.chainBad) + 2 * b2n (!d.str.chainBad && d.str.running.isSome)

/-- SPDM GET_DIGESTS. -/
def execSpdmGetDigests (t : Transport) (s : State) : Host.Outcome State Fault Refusal :=
  s.run (spdmAnswer t 3 false 0x01 (fun d => [certSlots d]) id)

/-- SPDM GET_CERTIFICATE of slot 0 or 1; an unprovisioned slot is an error. -/
def execSpdmGetCertificate (t : Transport) (slot : Nat) (s : State) : Host.Outcome State Fault Refusal :=
  s.run (fun d => if (certSlots d).testBit slot then spdmAnswer t 3 false 0x02 (fun _ => [slot]) id d
    else spdmAnswer t 3 false 0x7F (fun _ => [1]) id d)

/-- SPDM CHALLENGE: CHALLENGE_AUTH signed by the identity key (slot 0) or the alias key (slot 1); the signature is a fresh value. -/
def execSpdmChallenge (t : Transport) (slot : Nat) (s : State) : Host.Outcome State Fault Refusal :=
  s.run (fun d => if (certSlots d).testBit slot then
      spdmAnswer t 3 false 0x03 (fun d => [slot, (Config.sm2Value d.fresh).toNat]) Dev.draw d
    else spdmAnswer t 3 false 0x7F (fun _ => [1]) id d)

/-- SPDM GET_MEASUREMENTS: block `index` of R507, all five for 0xFF, their number for 0; unsigned ones are answered even in
Decommissioned (R513). -/
def execSpdmGetMeasurements (t : Transport) (index : Nat) (signed : Bool) (s : State) : Host.Outcome State Fault Refusal :=
  s.run (spdmAnswer t (if signed then 3 else 1) (!signed) 0x60
    (fun d => (if index = 0 then [5] else if index = 0xFF then (List.range 5).map (fun k => d.measurement (k + 1))
        else [d.measurement index]) ++ (if signed then [(Config.sm2Value d.fresh).toNat] else []))
    (if signed then Dev.draw else id))

/-- SPDM KEY_EXCHANGE: one of at most 8 sessions opens; `ok` is the outcome of the exchange's checks. -/
def execSpdmKeyExchange (t : Transport) (slot : Nat) (ok : Bool) (s : State) : Host.Outcome State Fault Refusal :=
  s.run (fun d =>
    if ok && (certSlots d).testBit slot && decide (d.str.sessions.length < 8) then
      spdmAnswer t 3 false 0x64 (fun d => [d.str.nextSession]) (fun d =>
        let x := d.str
        { d with str := { x with sessions := x.sessions ++ [⟨x.nextSession, t, false⟩], nextSession := x.nextSession + 1 } }) d
    else spdmAnswer t 3 false 0x7F (fun _ => [5]) id d)

/-- SPDM FINISH: the session is established, or closed if its check fails. -/
def execSpdmFinish (session : Nat) (ok : Bool) (s : State) : Host.Outcome State Fault Refusal :=
  s.run (when (fun d => d.str.sessions.any (fun x => x.id == session && !x.finished)) (fun d =>
    if ok then
      ({ d with str := { d.str with sessions := d.str.sessions.map fun x => if x.id = session then { x with finished := true } else x } } :
        Dev).emit (.spdmSession session 0x65 [])
    else
      ({ d with str := { d.str with sessions := d.str.sessions.filter fun x => x.id ≠ session } } : Dev).emit
        (.spdmSession session 0x7F [6])))

/-- SPDM HEARTBEAT of a session. -/
def execSpdmHeartbeat (session : Nat) (s : State) : Host.Outcome State Fault Refusal :=
  s.run (when (fun d => (d.session? session).isSome) (fun d => d.emit (.spdmSession session 0x68 [])))

/-- SPDM KEY_UPDATE of a session: fresh session keys. -/
def execSpdmKeyUpdate (session : Nat) (s : State) : Host.Outcome State Fault Refusal :=
  s.run (when (fun d => (d.session? session).isSome) (fun d => d.draw.emit (.spdmSession session 0x69 [])))

/-- SPDM END_SESSION: the session and its nonces end. -/
def execSpdmEndSession (session : Nat) (s : State) : Host.Outcome State Fault Refusal :=
  s.run (when (fun d => (d.session? session).isSome) (fun d =>
    ({ d with str := { d.str with
        sessions := d.str.sessions.filter fun x => x.id ≠ session
        nonces := d.str.nonces.filter fun n => n.1 ≠ session } } : Dev).emit (.spdmSession session 0x6C [])))

/-! ### Halvas requests (R510) -/

/-- GET_NONCE (code 0x01): a fresh nonce for the session. -/
def execGetNonce (session : Nat) (s : State) : Host.Outcome State Fault Refusal :=
  s.run (when (fun d => d.spdmServes && (match d.session? session with | some x => d.secureTransport x.transport | none => false))
    (fun d => (d.newNonce session).emit (.spdmSession session 0x01 [0, (Config.nonce d.fresh).toNat])))

/-- TAKE_OWNERSHIP (0x02): Provisioned to Deployed; the new owner key itself signs. -/
def execTakeOwnership (q : SecureReq) (fuse : FuseResult) (s : State) : Host.Outcome State Fault Refusal :=
  s.run (transition q 0x02 fuse (fun d => d.lcState == 1) (fun _ => q.signed) (fun d => decide (d.str.fuses.owners.length < 8)) 2
    (fun f => { f with owners := f.owners ++ [(q.signer, q.value.testBit 0)] }))

/-- TRANSFER_OWNERSHIP (0x03): a new owner in Deployed. -/
def execTransferOwnership (q : SecureReq) (fuse : FuseResult) (s : State) : Host.Outcome State Fault Refusal :=
  s.run (transition q 0x03 fuse (fun d => d.lcState == 2) (fun d => d.signerOf q.signed q.signer == 2)
    (fun d => decide (d.str.fuses.owners.length < 8)) 2
    (fun f => { f with owners := f.owners ++ [(q.digest, q.value.testBit 0)] }))

/-- RELEASE (0x04): Deployed to Returned. -/
def execRelease (q : SecureReq) (fuse : FuseResult) (s : State) : Host.Outcome State Fault Refusal :=
  s.run (transition q 0x04 fuse (fun d => d.lcState == 2) (fun d => d.signerOf q.signed q.signer == 2) (fun _ => true) 3 id)

/-- REFURBISH (0x05): Returned to Provisioned, at most three times. -/
def execRefurbish (q : SecureReq) (fuse : FuseResult) (s : State) : Host.Outcome State Fault Refusal :=
  s.run (transition q 0x05 fuse (fun d => d.lcState == 3) (fun d => d.signerOf q.signed q.signer == 1)
    (fun d => decide (d.str.fuses.refurb < 3)) 1 (fun f => { f with refurb := f.refurb + 1 }))

/-- DECOMMISSION (0x06): from any other state; every seed bit is blown. -/
def execDecommission (q : SecureReq) (fuse : FuseResult) (s : State) : Host.Outcome State Fault Refusal :=
  s.run (transition q 0x06 fuse (fun d => d.lcState != 4) (ownerOrHalvas q) (fun _ => true) 4
    (fun f => { f with seedBlown := true }))

/-- PROVISION (0x0B): Manufacture to Provisioned, with the identity chain hash. -/
def execProvision (q : SecureReq) (fuse : FuseResult) (s : State) : Host.Outcome State Fault Refusal :=
  s.run (transition q 0x0B fuse (fun d => d.lcState == 0) (fun d => d.signerOf q.signed q.signer == 1) (fun _ => true) 1
    (fun f => { f with chainHash := q.digest }))

/-- INSTALL_ANCHOR (0x08): the next anchor slot is programmed; STATUS 4 once all eight are. -/
def execInstallAnchor (q : SecureReq) (fuse : FuseResult) (s : State) : Host.Outcome State Fault Refusal :=
  s.run (fuseRequest q 0x08 fuse (fun d => d.lcState == 0 || d.lcState == 2) (ownerOrHalvas q)
    (fun d => if 8 ≤ d.str.fuses.anchors.length then 4 else 0)
    (fun _ f => { f with anchors := f.anchors ++ [(q.digest, false)] }))

/-- REVOKE_ANCHOR (0x09): a slot outside 0 to 7 is malformed, one not programmed is not allowed. -/
def execRevokeAnchor (q : SecureReq) (fuse : FuseResult) (s : State) : Host.Outcome State Fault Refusal :=
  s.run (fuseRequest q 0x09 fuse (fun d => d.lcState == 0 || d.lcState == 2) (ownerOrHalvas q)
    (fun d => if 8 ≤ q.slot then 7 else if d.str.fuses.anchors.length ≤ q.slot then 3 else 0)
    (fun _ f => { f with anchors := f.anchors.mapIdx fun i x => if i = q.slot then (x.1, true) else x }))

/-- COMMIT_SVN (0x0A): the fused minimum rises to the SVN of the running image. -/
def execCommitSvn (q : SecureReq) (fuse : FuseResult) (s : State) : Host.Outcome State Fault Refusal :=
  s.run (fuseRequest q 0x0A fuse (fun d => d.lcState != 4) (ownerOrHalvas q)
    (fun d => if d.str.running.isNone then 3 else 0)
    (fun d f => { f with minSvn := max f.minSvn (match d.str.running with | some im => im.svn | none => 0) }))

/-- DEBUG_UNLOCK (0x07) through SPDM: grants for the port as an unlock through the port does (R524). -/
def execDebugUnlock (q : SecureReq) (s : State) : Host.Outcome State Fault Refusal :=
  s.run (fun d =>
    if !d.secureHeard q then d
    else
      let refuse := fun st => ((d.useNonce q.session q.nonce).emit (.spdmSession q.session 0x07 [st])).raise Src.dbgRefused st 0x84 13
      if q.signed && !q.signatureOk then refuse 1
      else if !d.nonceValid q.session q.nonce then refuse 2
      else
        match d.unlockLevel q.signed q.signer q.value with
        | none => refuse 3
        | some lv => ((d.useNonce q.session q.nonce).grantDebug lv q.slot q.aux q.dur).emit (.spdmSession q.session 0x07 [0]))

/-- NONCE_EXPIRY: a nonce unused for 78,125,000 stitches becomes invalid (R509). -/
def execNonceExpiry (session : Nat) (s : State) : Host.Outcome State Fault Refusal :=
  s.run (fun d =>
    { d with str := { d.str with nonces := d.str.nonces.filter fun n => ¬ (n.1 = session ∧ n.2.2 + 78125000 < d.sn) } })

/-! ### Live activation -/

/-- ACTIVATION_PAUSE_BEGIN (R518 step 3): at boundary P the pause begins and the cores restart in the new image. -/
def execActivationPauseBegin (s : State) : Host.Outcome State Fault Refusal :=
  s.run (when (fun d => d.flag Pg.str F.STR_ACT_CTL_PENDING && decide (d.actP ≤ d.sn)) (fun d =>
    let d1 := (d.setFlag Pg.str F.STR_ACT_CTL_PENDING false).setFlag Pg.str F.STR_ACT_CTL_PAUSED true
    { d1 with pwr := { d1.pwr with coreWait := 0 } }))

/-- ACT_READY_WRITE (R518 step 4): firmware writes STR_ACT_CTL.READY. -/
def execActReadyWrite (a : Agent) (s : State) : Host.Outcome State Fault Refusal :=
  s.run (writeTo 1 a Pg.str 0x128 Dev.actReady)

/-- ACTIVATION_REVERT (R519): no READY by the end of stitch P + 11718: the cores restart in the old image. -/
def execActivationRevert (s : State) : Host.Outcome State Fault Refusal :=
  s.run (fun d =>
    match d.str.activation with
    | some x =>
      if d.flag Pg.str F.STR_ACT_CTL_PAUSED && !x.ready && !x.reverted && decide (d.actP + 11719 ≤ d.sn) then
        let d1 : Dev := { d with str := { d.str with activation := some { x with reverted := true } } }
        ({ d1 with pwr := { d1.pwr with coreWait := 0 } } : Dev).setFlag Pg.str F.STR_ACT_CTL_REVERTED true
      else d
    | none => d)

/-! ### Rights and debug access -/

/-- STR_RIGHT_REQUEST (R521): a write of STR_RIGHT_CTL. -/
def execStrRightRequest (a : Agent) (v : BitVec 32) (s : State) : Host.Outcome State Fault Refusal :=
  s.run (writeTo v.toNat a Pg.str 0x160 (rightRequest v.toNat))

/-- DBG_UNLOCK (R524): a write of DBG_CTL.UNLOCK. -/
def execDbgUnlock (a : Agent) (signatureOk : Bool) (s : State) : Host.Outcome State Fault Refusal :=
  s.run fun d => writeTo (4 + 2 ^ 32 * b2n signatureOk) a Pg.dbg 0x118 (portUnlock signatureOk) (d.portUsed a)

/-- DBG_LOCK (R523): a write of DBG_CTL.LOCK ends the grant. -/
def execDbgLock (a : Agent) (s : State) : Host.Outcome State Fault Refusal :=
  s.run (writeTo 1 a Pg.dbg 0x118 Dev.endGrant)

/-- DBG_PORT_DISABLE (R523, R530): firmware writes 1 to DBG_CTL.PORT_DIS; the grant ends, and the port's unlocks are refused. -/
def execDbgPortDisable (a : Agent) (s : State) : Host.Outcome State Fault Refusal :=
  s.run (writeTo 2 a Pg.dbg 0x118 (fun d =>
    match a with
    | .core _ => (d.store Pg.dbg 0x118 2 2 true).endGrant
    | _ => d))

/-- DEBUG_GRANT_EXPIRY (R523): DURATION has ended. -/
def execDebugGrantExpiry (s : State) : Host.Outcome State Fault Refusal :=
  s.run (when (fun d => d.str.grant.isSome && d.get Pg.dbg F.DBG_EXPIRY_SN_SN != 0 && decide (d.get Pg.dbg F.DBG_EXPIRY_SN_SN ≤ d.sn))
    Dev.endGrant)

end Sys2Proof.Machine
end

