-- ==== Sys2Proof/Machine/StartUp.lean ====
section
/-! DEFINITION. The kinds of start and what each keeps (R575 to R578), the boot chain (R505), the clock, the start-up gate, Recovery-Sleep and the
thermal trip. -/

namespace Sys2Proof.Machine

namespace Dev

/-! ### What a start keeps -/

/-- R578: the register pages that every start but a cold reset keeps: the AON pages and the tables behind their selection registers. -/
def aonPage (p : Nat) : Bool := decide (p < 4) || (decide (Bk.stc 0 ≤ p) && decide (p < Bk.bud 0 0))

/-- R301, R578: the bits of a word of a DC page that a warm reset keeps: FAILED and SPARE_EN of DC_RANK_MAP, DC_CHSPARE, DC_REMAP. -/
def warmMask (p off : Nat) : Nat :=
  match pageKind p with
  | some .dc =>
    if off = 0x170 then 2 ^ 27 + 15 * 2 ^ 28
    else if off = 0x174 then 15
    else if off = 0x210 ∨ (0x280 ≤ off ∧ off < 0x300) then 2 ^ 32 - 1
    else 0
  | _ => 0

/-- R578: the register words after a start: the words of AON pages, and after a warm reset or a life-cycle commit the channel replacements. -/
def keptRegs (d : Dev) (warm : Bool) : Tbl Word :=
  d.regs.foldr (fun x acc =>
    let p := x.1 / 4096
    let off := x.1 % 4096
    if aonPage p then x :: acc
    else if warm && warmMask p off != 0 then
      let r := (resetWord x.1).toNat
      let w := BitVec.ofNat 32 (clearBits r (warmMask p off) + (x.2.toNat &&& warmMask p off))
      if w = resetWord x.1 then acc else (x.1, w) :: acc
    else acc) []

/-- The HW fields that follow from the straps (R76, R531): HP_CFG.SPLIT and TWN_STS.ROLE. -/
def loadStraps (d : Dev) : Dev :=
  ((List.range 4).foldl (fun d n => d.set (Pg.hp n) F.HP_CFG_SPLIT (b2n (d.clk.straps.bifurcate.getLsbD n))) d).set
    Pg.twn F.TWN_STS_ROLE (b2n d.clk.straps.twinRole)

/-- Every domain is powered; none but AON is ready. -/
def powerAll (d : Dev) : Dev := (d.set Pg.pwr F.PWR_DOM_STS_ON (2 ^ 29 - 1)).modPwr fun _ => {}

/-- R399: the links after their domains have been reset: Down since now. -/
def freshLinks (d : Dev) : Dev :=
  (List.range 17).foldl (fun d l => d.modLnk l fun _ => { stateSn := d.sn, txSn := d.sn, rxSn := d.sn }) { d with links := [] }

/-- R577, R578: every start but a cold reset, in the dispatch slot of its event or at the boundary of a Recovery-Sleep exit. `cause` is
STR_START.CAUSE: 1 warm reset, 2 Recovery-Sleep exit, 3 life-cycle commit. Requests are dropped without an answer, links are Off, and
every domain but AON is reset and powered again. -/
def startDevice (d : Dev) (cause : Nat) : Dev :=
  let d1 : Dev := { d with
    regs := d.keptRegs (cause != 2)
    frogs := []
    bar := { d.bar with latch := tfilter aonPage d.bar.latch, waits := [], msix := [], token := [] }
    clk := { d.clk with bootStep := 0, bootTried := 0, bootSlot := 0, starting := true, gateHold := false, testHold := false, coresRun := 0 }
    host := {}
    str := { d.str with sessions := [], spdmState := [], nonces := [], committing := false, activation := none, grant := none, dbgAcc := none,
                        running := none, loaded := [], dbgNonce := 0, chainBad := false, startCause := cause }
    tal := { partialDoms := 2 ^ 29 - 2 }
    mem := {}
    carts := []
    twin := {}
    rings := {}
    dmv := {}
    noc := {}
    stc := { d.stc with events := if cause = 2 then d.stc.events else [], recordOnly := false, latched := [], errs := [],
                        align := d.stc.align.filter (fun a => aonPage (a.key / 4096)) } }
  let d2 := (d1.powerAll.loadStraps.freshLinks).setFlag Pg.fcu F.FCU_FATAL_ACTIVE (cause = 2 && d.fatal)
  let d3 := ((((d2.set Pg.pwr F.PWR_STS_STATE 0).setFlag Pg.pwr F.PWR_STS_PENDING false).setFlag Pg.pwr F.PWR_STS_IN_PROGRESS false).setFlag
    Pg.pwr F.PWR_STS_COMMITTED false).setFlag Pg.pwr F.PWR_MODE_GO false
  let d4 := (d3.set Pg.str F.STR_START_CAUSE cause).set Pg.str F.STR_START_SN_SN d.sn
  match d.str.grant with
  | some level => d4.raise Src.dbgEnded level 0x84 13 -- R516, R523
  | none => d4

/-- R575, R578: por_n falls, or vdd_aon is lost: everything is at its reset column but what the fuses, the boot flash and the pins hold. -/
def coldReset : Effect := fun d =>
  { fresh := d.fresh
    out := d.out
    clk := { warmRstN := d.clk.warmRstN, perstN := d.clk.perstN, refclk := d.clk.refclk }
    str := { fuses := d.str.fuses, slot1 := d.str.slot1, slot2 := d.str.slot2, activeSlot := d.str.activeSlot } }

/-- R580, R581, R590: por_n rises: the straps are sampled, SN starts at 0, and with vs_gate the start-up gate is armed. -/
def porRelease (st : Straps) : Effect :=
  when (fun d => !d.clk.porN) fun d =>
    let d1 : Dev := { d with sn := 0, clk := { d.clk with porN := true, straps := st, starting := true, gateHold := st.vsGate, tsBase := 0, tsSn := 0 } }
    let d2 := (d1.powerAll.loadStraps.freshLinks).set Pg.str F.STR_START_CAUSE 0
    if st.vsGate then
      (((d2.set Pg.pwr F.PWR_VSENSE_CFG_THRESH 600).set Pg.pwr F.PWR_VSENSE_CFG_DIR 1).set Pg.pwr F.PWR_VSENSE_CFG_HYST 4).set
        Pg.pwr F.PWR_VSENSE_CFG_ARM 1
    else d2

/-! ### Clock (R23 to R25, R581) -/

/-- The fabric clock is stopped for its loop to lock: not in Hush, Recovery-Sleep or after a thermal trip. -/
def relocking (d : Dev) : Bool := d.clk.porN && !d.clk.fabricOn && !d.clk.thermtrip && decide (d.powerState < 2)

/-- R25, R581: the fabric PLL has locked. -/
def pllLock : Effect := when (fun d => d.relocking && d.clk.refclk) fun d => { d with clk := { d.clk with fabricOn := true } }

/-- R581: no lock within 7813 stitches of por_n rising. -/
def pllRetry : Effect := when (fun d => d.relocking && decide (7813 ≤ d.sn)) fun d => d.setFlag Pg.stc F.STC_STS_PLL_RETRY true

/-- R24: the reference clock is absent while the fabric clock is stopped. -/
def refLoss : Effect :=
  when (fun d => d.clk.porN && !d.clk.fabricOn && d.clk.refclk) fun d =>
    (({ d with clk := { d.clk with refclk := false } } : Dev).setFlag Pg.stc F.STC_STS_SN_APPROX true).raise Src.refLoss 0 0xFF 0

/-- R24: the reference clock comes back. -/
def refReturn : Effect := when (fun d => !d.clk.refclk) fun d => { d with clk := { d.clk with refclk := true } }

/-! ### The boot chain (R505) -/

/-- Step `k` of the boot chain has been completed and the next may run. -/
def atStep (k : Nat) (d : Dev) : Bool := d.clk.porN && d.clk.fabricOn && !d.clk.starting && d.clk.bootStep == k

/-- Change the clock and start-up record. -/
def modClk (d : Dev) (f : Clk → Clk) : Dev := { d with clk := f d.clk }

/-- R577: the domains are reset and powered again and warm_rst_n reads high: the boot chain begins. The pages of domains 1 and 3 are ready
once the boot ROM has loaded their HW fields (R530). -/
def bootStart : Effect :=
  when (fun d => d.clk.porN && d.clk.fabricOn && d.clk.warmRstN && d.clk.starting && !d.clk.thermtrip) fun d =>
    (d.setReady ((List.range 29).filter (fun k => k != 1 && k != 3)) true).modClk fun c => { c with starting := false }

/-- Step 1: the fuse shadow is read; a copy of a log entry that disagrees is rewritten (R515); the identity chain is compared (R501). -/
def bootRom (chainOk : Bool) : Effect :=
  when (fun d => atStep 0 d && !d.clk.gateHold) fun d =>
    let d1 := d.modClk fun c => { c with bootStep := 1 }
    let d2 := if d1.str.fuses.lcCopies < 3 then
        (d1.modFuses fun f => { f with lcCopies := 3 }).raise Src.fuseRepaired (d1.str.fuses.lcLog.length - 1) 0x85 0
      else d1
    let d3 : Dev := { d2 with str := { d2.str with chainBad := !chainOk } }
    let d4 := if chainOk then d3 else d3.raise Src.idChainInvalid 0 0x85 0
    (d4.loadStrPages.newDebugNonce).setReady [1, 3] true

/-- Step 2: the memory secret is drawn (R233), the keys are loaded (R234, R236) and KEYS_READY sets; with a TRNG test that fails three times in
succession the draw stops and it stays 0 (R527). -/
def trngDraw (failing : Option Nat) : Effect :=
  when (atStep 1) fun d =>
    let d1 := d.modClk fun c => { c with bootStep := 2 }
    match failing with
    | some t => (d1.addSat Pg.str F.STR_TRNG_FAIL_COUNT 1).raise Src.trngFailure t 0x85 0
    | none =>
      let d2 := (d1.setFlag Pg.cry F.CRY_STS_KEYS_READY true).setFlag Pg.str F.STR_STS_TRNG_OK true
      (d2.modCry fun c => { c with draw := d.fresh, startSn := d.sn }).draw

/-- R504: the first of its checks that an image fails, from 1; `none` for a valid image. -/
def imageCheck (d : Dev) (im : FwImage) : Option Nat :=
  if !(im.magicOk && im.lengthOk && decide (im.svn ≤ 64)) then some 1
  else if !(decide (im.minStep ≤ d.get Pg.gen F.GEN_DEV_ID_STEP) && im.lcMask.testBit d.lcState) then some 2
  else if im.svn < d.str.fuses.minSvn then some 3
  else if !im.digestOk then some 4
  else if !im.halvasSigned then some 5
  else match d.owner with
    | some (_, true) => if im.ownerSigned then none else some 6
    | _ => none

/-- R504 for a slot: an empty slot fails the first check. -/
def slotCheck (d : Dev) (n : Nat) : Option Nat := match (d.slot n).image with | none => some 1 | some im => d.imageCheck im

/-- Step 4: the active slot is checked, then the other; with both failed, ROM recovery (R506), whose mailbox the boot ROM serves. -/
def imageStep : Effect :=
  when (fun d => atStep 2 d && d.lcState != 4) fun d =>
    let n := if d.clk.bootTried = 0 then d.str.activeSlot else 3 - d.str.activeSlot
    match d.slotCheck n with
    | none => d.modClk fun c => { c with bootStep := 4, bootSlot := n }
    | some k =>
      let d1 := d.raise Src.imgRejected (16 * n + k) 0x85 0
      if d.clk.bootTried = 0 then d1.modClk fun c => { c with bootTried := 1 }
      else
        let d2 := (d1.setFlag Pg.str F.STR_STS_RECOVERY true).modClk fun c => { c with bootStep := 3 }
        { d2 with host := { d2.host with mboxReady := 0xF } }

/-- Steps 5 and 6: the body is copied and measured (R507) and the cores are released at ENTRY. -/
def coreRelease : Effect :=
  when (fun d => atStep 4 d && !d.clk.testHold) fun d =>
    match (d.slot d.clk.bootSlot).image with
    | none => d
    | some im =>
      let d1 : Dev := { d with str := { d.str with running := some im, loaded := [im.digest] } }
      (d1.set Pg.str F.STR_FW_SLOT_RUNNING d.clk.bootSlot).modClk fun c => { c with bootStep := 6, coresRun := 0xF }

/-! ### The start-up gate, Recovery-Sleep and the thermal trip -/

/-- R590, R497: the dispatch of a VSENSE crossing: its page bit, and while ARM is 1 the release of the start-up gate and of the test hold. -/
def vsenseDispatch (d : Dev) : Dev :=
  let d1 := d.setPageBits Pg.pwr (2 ^ 2)
  if d1.flag Pg.pwr F.PWR_VSENSE_CFG_ARM && !d1.recordOnly then d1.modClk fun c => { c with gateHold := false, testHold := false } else d1

/-- R489: Recovery-Sleep is entered: every domain but AON goes off, its registers and its memory are lost, requests are dropped without an
answer and links go down. -/
def sleepEntry : Effect :=
  when (entering 3) fun d =>
    let d1 : Dev := { d with
      regs := d.keptRegs false, host := {}, mem := {}, carts := [], links := [], twin := {}, rings := {}, dmv := {}, noc := {}, frogs := []
      bar := { d.bar with latch := tfilter aonPage d.bar.latch, waits := [], msix := [], token := [] }
      clk := { d.clk with fabricOn := false, coresRun := 0, bootStep := 0 }
      str := { d.str with sessions := [], spdmState := [], nonces := [], activation := none, grant := none, dbgAcc := none, running := none, loaded := [] }
      tal := { partialDoms := 2 ^ 29 - 2 } }
    let d2 := (d1.set Pg.pwr F.PWR_DOM_STS_ON 1).set Pg.pwr F.PWR_STS_STATE 3
    ((d2.modPwr fun p => { p with ready := 0, coreWait := 0, absent := 0 }).endTransition).loadStraps

/-- R488, R489, R494: a VSENSE crossing sampled in Recovery-Sleep while ARM is 1 is the wake: the device starts, and the wake is recorded. -/
def sleepWake (d : Dev) : Dev :=
  if d.powerState == 3 && d.flag Pg.pwr F.PWR_VSENSE_CFG_ARM && d.stc.events.any (fun e => e.src == Src.vsense && e.sn == d.sn) then
    let d1 := (d.startDevice 2).modClk fun c => { c with fabricOn := true }
    (d1.set Pg.pwr F.PWR_LAST_WAKE_INDEX Src.vsense).set Pg.pwr F.PWR_LAST_WAKE_SN_SN d.sn
  else d

/-- R609: the hot-spot sensor reads 125 degrees or more: thermtrip_n is driven low, the fabric clock stops and every domain but AON is held in
reset until por_n falls; no event is dispatched. -/
def thermalTrip : Effect :=
  when (fun d => d.clk.porN && !d.clk.thermtrip) fun d =>
    let d1 : Dev := { d with
      regs := d.keptRegs false, host := {}, mem := {}, carts := [], links := [], twin := {}, rings := {}, dmv := {}, noc := {}, frogs := []
      bar := { d.bar with waits := [], msix := [], token := [] }
      clk := { d.clk with fabricOn := false, coresRun := 0, bootStep := 0, thermtrip := true }
      str := { d.str with sessions := [], spdmState := [], nonces := [], activation := none, grant := none, dbgAcc := none, running := none, loaded := [] } }
    (d1.setReady (List.range 29) false).emit .thermtrip

end Dev

/-- R575, R578: COLD_RESET. -/
def execColdReset (s : State) : Host.Outcome State Fault Refusal := s.run Dev.coldReset

/-- R580, R581, R590: POR_RELEASE. -/
def execPorRelease (straps : Straps) (s : State) : Host.Outcome State Fault Refusal := s.run (Dev.porRelease straps)

/-- R25, R581: PLL_LOCK. -/
def execPllLock (s : State) : Host.Outcome State Fault Refusal := s.run Dev.pllLock

/-- R581: PLL_LOCK_RETRY. -/
def execPllLockRetry (s : State) : Host.Outcome State Fault Refusal := s.run Dev.pllRetry

/-- R24: REFERENCE_CLOCK_LOSS. -/
def execReferenceClockLoss (s : State) : Host.Outcome State Fault Refusal := s.run Dev.refLoss

/-- R24: REFERENCE_CLOCK_RETURN. -/
def execReferenceClockReturn (s : State) : Host.Outcome State Fault Refusal := s.run Dev.refReturn

/-- R577: BOOT_START. -/
def execBootStart (s : State) : Host.Outcome State Fault Refusal := s.run Dev.bootStart

/-- R505 step 1, R501, R515: BOOT_ROM_DONE. -/
def execBootRomDone (chainOk : Bool) (s : State) : Host.Outcome State Fault Refusal := s.run (Dev.bootRom chainOk)

/-- R505 step 2, R233, R527: TRNG_DRAW_DONE. -/
def execTrngDrawDone (failing : Option Nat) (s : State) : Host.Outcome State Fault Refusal := s.run (Dev.trngDraw failing)

/-- R505 step 4, R504, R506: IMAGE_CHECK_DONE. -/
def execImageCheckDone (s : State) : Host.Outcome State Fault Refusal := s.run Dev.imageStep

/-- R505 steps 5 and 6: CORE_RELEASE. -/
def execCoreRelease (s : State) : Host.Outcome State Fault Refusal := s.run Dev.coreRelease

/-- R489: RECOVERY_SLEEP_ENTRY. -/
def execRecoverySleepEntry (s : State) : Host.Outcome State Fault Refusal := s.run Dev.sleepEntry

/-- R609: THERMAL_TRIP. -/
def execThermalTrip (s : State) : Host.Outcome State Fault Refusal := s.run Dev.thermalTrip

end Sys2Proof.Machine
end

