-- ==== Sys2Proof/Machine/HostPorts.lean ====
section
/-! DEFINITION. Host ports (chapter 3): link events and their dispatch, L0p and L1, the resets of R82, binding, HDM decoders, the allocations of
MSI-X entries and decoders, IDE, link replays and MSI-X masking. -/

namespace Sys2Proof.Machine

namespace Dev

/-! ### Links (R76 to R80, R84) -/

/-- The port runs as two links (R76). -/
def split (d : Dev) (port : Nat) : Bool := d.flag (Pg.hp port) F.HP_CFG_SPLIT

/-- A half that the port has. -/
def halfOk (d : Dev) (port half : Nat) : Bool := decide (port < 4) && (half == 0 || half == 1 && d.split port)

/-- R585: the port trains: its domain is powered and usable, the fabric clock runs and hpN_perst_n is high. -/
def portTrains (d : Dev) (port : Nat) : Bool :=
  d.clk.fabricOn && d.pageReady (Pg.hp port) && d.clk.perstN.testBit port

/-- R77: a speed code that MAX_SPEED allows and a width that the half has. -/
def trainedOk (d : Dev) (port speed width : Nat) : Bool :=
  decide (1 ≤ speed ∧ speed ≤ 4 - d.get (Pg.hp port) F.HP_CFG_MAX_SPEED) && decide (1 ≤ width ∧ width ≤ if d.split port then 8 else 16)

/-- R79: a link comes up; its event is latched. -/
def linkUp (port half speed width : Nat) (mld : Bool) : Effect :=
  when (fun d => d.halfOk port half && d.portTrains port && !(d.link port half).up && d.trainedOk port speed width) fun d =>
    (d.modLink port half fun l =>
      { l with up := true, speed := speed, width := width, mldCap := mld, sawUp := true, l1 := false, insecure := false, ide := [] }).latch
        (Src.hostLink port half)

/-- R79, R80: a link that is up goes down: no response leaves for the requests it brought. -/
def takeDown (d : Dev) (port half : Nat) : Dev :=
  if !(d.link port half).up then d
  else
    let d1 := (d.modLink port half fun l => { l with up := false, sawDown := true, l1 := false, ide := [] }).latch (Src.hostLink port half)
    { d1 with mem := { d1.mem with
      reqs := d1.mem.reqs.map (fun r => if r.port = port ∧ r.half = half then { r with dropped := true } else r) } }

/-- R79: the speed or the width of a link changes without its going down. -/
def linkChange (port half speed width : Nat) : Effect :=
  when (fun d => d.halfOk port half && (d.link port half).up && d.trainedOk port speed width) fun d =>
    (d.modLink port half fun l => { l with speed := speed, width := width, sawChg := true }).latch (Src.hostLink port half)

/-- The LD-IDs of a half (R83). -/
def halfLds (d : Dev) (port half : Nat) : List Nat :=
  if d.split port then (List.range 8).map (8 * half + ·) else List.range 16

/-- Set or clear the bit of an LD-ID in HP_LD_BOUND. -/
def setBound (d : Dev) (port n : Nat) (on : Bool) : Dev :=
  let b := d.get (Pg.hp port) F.HP_LD_BOUND_BOUND
  d.set (Pg.hp port) F.HP_LD_BOUND_BOUND (if on then setBit b n else clrBit b n)

/-- R79, R84, R106: the dispatch of a host link's event: HP_LINK_STS, the bound LDs, and the page bits of what happened. -/
def hostLinkDispatch (d : Dev) (port half : Nat) : Dev :=
  let l := d.link port half
  let p := Pg.hp port
  let put := fun (d : Dev) (f : Fld) (v : Nat) => d.set p (f.sh (4 * half)) v
  let v := fun (x : Nat) => if l.up then x else 0
  let d1 := put (put (put (put (put (put d F.HP_LINK_STS_UP (b2n l.up)) F.HP_LINK_STS_SPEED (v l.speed)) F.HP_LINK_STS_WIDTH (v l.width))
    F.HP_LINK_STS_FLIT256 (v (b2n (l.speed == 4)))) F.HP_LINK_STS_MLD (v (b2n l.mldCap))) F.HP_LINK_STS_L0P_WIDTH (v l.width)
  let d2 := if l.up then d1 else put d1 F.HP_LINK_STS_IDE 0
  let d3 := if l.sawDown then (d2.halfLds port half).foldl (fun d n => d.setBound port n false) d2 else d2
  let d4 := if l.up && l.sawUp && !l.mldCap then d3.setBound port (8 * half) true else d3
  let d5 := d4.modLink port half fun l => { l with sawUp := false, sawDown := false, sawChg := false }
  d5.setPageBits p (b2n l.sawUp * 2 ^ (2 * half) + b2n l.sawDown * 2 ^ (2 * half + 1) + b2n l.sawChg * 2 ^ (4 + half))

/-- R78: an L0p request of the link partner, in 256-byte flit mode; a wider width is a wake source. -/
def l0p (port half width : Nat) : Effect :=
  when (fun d => d.halfOk port half && (d.link port half).up && (d.link port half).speed == 4 && d.flag (Pg.hp port) F.HP_CFG_L0P_EN &&
      [1, 2, 4, 8, 16].contains width && decide (width ≤ (d.link port half).width)) fun d =>
    let f := F.HP_LINK_STS_L0P_WIDTH.sh (4 * half)
    let d1 := if d.get (Pg.hp port) f < width then d.latch (Src.l1Exit port half) else d
    (d1.set (Pg.hp port) f width).emit (.l0pAck port half width)

/-- R78, R487: a link enters L1. -/
def l1Entry (port half : Nat) : Effect :=
  when (fun d => d.halfOk port half && (d.link port half).up && (d.link port half).aspmL1) fun d =>
    d.modLink port half fun l => { l with l1 := true }

/-- R78, R492: the partner asks for the exit from L1. -/
def l1Wake (port half : Nat) : Effect :=
  when (fun d => d.halfOk port half && (d.link port half).up && (d.link port half).l1) fun d =>
    (d.modLink port half fun l => { l with l1 := false }).latch (Src.l1Exit port half)

/-! ### Resets (R82, R93, R108, R356) -/

/-- The MSI-X entries of an LD return to their defaults. -/
def resetMsix (d : Dev) (n : Nat) : Dev := { d with bar := { d.bar with msix := tfilter (fun k => k / 4096 != n) d.bar.msix } }

/-- R82: an LD's CXL.mem state after a conventional or a CXL reset: no decoder committed, viral cleared. -/
def resetCxlMem (d : Dev) (n : Nat) : Dev := (d.modLd n fun l => { l with decoders := [] }).clearViral n

/-- R82: a conventional reset of a port. -/
def conventional (port : Nat) (perst : Bool) : Effect :=
  when (fun d => decide (port < 4) && d.domOn (21 + port)) fun d =>
    let d1 := if perst then
        let d1 := d.modClk fun c => { c with perstN := clrBit c.perstN port }
        let d2 := d1.latch (Src.l1Exit port 0)
        if d2.split port then d2.latch (Src.l1Exit port 1) else d2
      else d
    let lds := (List.range 16).map (16 * port + ·)
    let d2 := lds.foldl (fun d n =>
      let d1 := ((d.resetCxlMem n).resetMsix n).modLd n fun l => { l with eventPolicy := 0, cxlReset := none }
      (d1.ldPairs n).foldl (fun d q => d.frogPair q) d1) d1
    let d3 := ((d2.takeDown port 0).takeDown port 1).resetKeep (Pg.hp port)
    ({ d3 with host := { d3.host with mboxReady := clrBit d3.host.mboxReady port } } : Dev).after

/-- R82: a Function Level Reset: the CXL.io state of the LD alone. -/
def functionReset (ld : Nat) : Effect :=
  when (fun d => decide (ld < 64) && d.bound ld) fun d => (d.resetMsix ld).modLd ld fun l => { l with eventPolicy := 0 }

/-- R82, R203: a CXL Reset begins; with Memory Clear every skein of the LD becomes zero-pending, so that reads from now on return zeros. -/
def cxlResetStart (ld : Nat) (clear : Bool) : Effect :=
  when (fun d => decide (ld < 64) && d.bound ld) fun d =>
    let d1 := d.resetCxlMem ld
    let d2 := if clear then d1.clearLd ld else d1
    (d2.modLd ld fun l => { l with cxlReset := some clear }).after

/-- R82: a CXL Reset ends. -/
def cxlResetEnd (ld : Nat) : Effect :=
  when (fun d => (d.ld ld).cxlReset.isSome) fun d => d.modLd ld fun l => { l with cxlReset := none }

/-- R84: the first configuration request for an LD-ID on an MLD link binds its LD. -/
def bindLd (port n : Nat) : Effect :=
  when (fun _ => decide (port < 4 ∧ n < 16)) fun d =>
    let half := if d.split port then n / 8 else 0
    if d.linkSts port half F.HP_LINK_STS_UP = 1 ∧ d.linkSts port half F.HP_LINK_STS_MLD = 1 then d.setBound port n true else d

/-! ### HDM decoders and allocations (R88, R93, R94) -/

/-- The decoder counts that the HDM Decoder Capability can encode. -/
def hdmCounts : List Nat := [0, 1, 2, 4, 6, 8, 10, 12, 14, 16]

/-- R88: what a decoder supports. -/
def decoderOk (x : HdmDecoder) : Bool :=
  [1, 2, 3, 4, 6, 8, 12, 16].contains x.ways && [256, 512, 1024, 2048, 4096, 8192, 16384].contains x.gran && decide (x.pos < x.ways) &&
    decide (0 < x.size)

/-- R88: a decoder is committed; one locked on commit changes no more. -/
def commitDecoder (ld index : Nat) (x : HdmDecoder) : Effect :=
  when (fun d => decide (ld < 64) && d.bound ld && decide (index < d.get (Pg.hp (ld / 16)) (F.HP_HDM_ALLOC_COUNT.sh (4 * (ld % 16)))) &&
      decoderOk x && !(d.ld ld).decoders.any (fun y => y.1 == index && y.2.lock)) fun d =>
    d.modLd ld fun l => { l with decoders := tins l.decoders index x }

/-- The sum of a count over the LD-IDs of a port, with `v` in place of that of `n`. -/
def allocSum (d : Dev) (port : Nat) (f : Fld) (n v : Nat) : Nat :=
  (List.range 16).foldl (fun t k => t + if k = n then v else d.get (Pg.hp port) (f.sh (4 * k))) 0

/-- R94: the allocation of an LD may change. -/
def allocFree (d : Dev) (port n : Nat) : Bool := !d.bound (16 * port + n) && (d.ld (16 * port + n)).decoders.isEmpty

/-- R93, R94: a count of MSI-X entries that the port takes. -/
def vecOk (v sum : Nat) : Bool := decide (32 ≤ v ∧ v ≤ 2048 ∧ sum ≤ 2048)

/-- R93, R107: a write of HP_VEC_ALLOCn; the count is rounded down to a multiple of 32. -/
def vecWrite (port n v : Nat) : Effect := fun d =>
  let c := v % 4096 / 32 * 32
  if d.allocFree port n && vecOk c (d.allocSum port F.HP_VEC_ALLOC_COUNT n c) then d.set (Pg.hp port) (F.HP_VEC_ALLOC_COUNT.sh (4 * n)) c else d

/-- R88, R94: a write of HP_HDM_ALLOCn. -/
def hdmWrite (port n v : Nat) : Effect := fun d =>
  let c := v % 32
  if d.allocFree port n && hdmCounts.contains c && decide (d.allocSum port F.HP_HDM_ALLOC_COUNT n c ≤ 16) then
    d.set (Pg.hp port) (F.HP_HDM_ALLOC_COUNT.sh (4 * n)) c
  else d

/-! ### IDE, replays, MSI-X masks -/

/-- R100: an IDE integrity failure takes the link to the insecure state. -/
def ideFailure (port half : Nat) : Effect :=
  when (fun d => d.halfOk port half && (d.link port half).up) fun d =>
    ((d.modLink port half fun l => { l with insecure := true, ide := [] }).set (Pg.hp port) (F.HP_LINK_STS_IDE.sh (4 * half)) 0).raise
      (Src.hpIdeFail port) half 0xFF 0

/-- R106, R107: `k` link-layer replays of a half; the Gauge window's number reaches HP_REPLAY_THR. -/
def linkReplays (port half k : Nat) : Effect :=
  when (fun d => d.halfOk port half && (d.link port half).up && d.pageReady (Pg.hp port)) fun d =>
    let p := Pg.hp port
    let was := (d.link port half).winReplays
    let thr := d.get p F.HP_REPLAY_THR_THR
    let d1 := ((d.addSat p (F.HP_REPLAY_CNT_COUNT.sh (4 * half)) k).tally p 0x0106 k).tally p (0x0206 + 0x100 * half) k
    let d2 := d1.modLink port half fun l => { l with winReplays := was + k }
    if thr ≠ 0 ∧ was < thr ∧ thr ≤ was + k then d2.raise (Src.hpReplayThr port) half 0xFF 0 else d2

/-- R106: a Gauge window ends: the replays are counted afresh. -/
def replayWindow (d : Dev) : Dev :=
  { d with host := { d.host with links := tmapv (fun _ => ({} : HostLink)) (fun l => { l with winReplays := 0 }) d.host.links } }

/-- R71: an MSI-X entry is unmasked; the message that its pending bit kept is sent. -/
def unmaskMsix (ld vec : Nat) : Effect :=
  when (fun d => decide (ld < 64) && decide (vec < d.msixCount ld)) fun d =>
    let e := d.msixEntry ld vec
    let d1 := d.setMsixEntry ld vec 0
    if e.testBit 1 then d1.emit (.msix ld vec) else d1

/-- The bits of an IDE stream's record: key programmed and running, in each direction. -/
def ideStream (d : Dev) (port half s : Nat) : Nat := (((d.link port half).ide.find? (fun x => x.1 == s)).map (·.2)).getD 0

/-- Write an IDE stream's record; link IDE is active while both directions of stream 0 run. -/
def setIdeStream (d : Dev) (port half s v : Nat) : Dev :=
  let d1 := d.modLink port half fun l => { l with ide := tput (fun _ => 0) l.ide s v, insecure := l.insecure && !(s == 0 && v.testBit 2 && v.testBit 3) }
  if s = 0 then d1.set (Pg.hp port) (F.HP_LINK_STS_IDE.sh (4 * half)) (b2n (v.testBit 2 && v.testBit 3)) else d1

/-- R100: an IDE key management message inside a secure session: keys are programmed, then a direction runs or stops. Stream 0 is link IDE,
streams 1 to 4 are selective. -/
def ideKm (session port half : Nat) (c : IdeCommand) : Effect :=
  when (fun d => (d.session? session).isSome && d.halfOk port half && (d.link port half).up) fun d =>
    let answer := fun (d : Dev) (code : Nat) => d.emit (.ide port half code)
    let bit := fun (rx : Bool) => if rx then 0 else 1
    match c with
    | .query => answer d 0
    | .keyProg s rx => if s ≤ 4 then answer (d.setIdeStream port half s (setBit (d.ideStream port half s) (bit rx))) 0 else answer d 1
    | .setGo s rx =>
      if (d.ideStream port half s).testBit (bit rx) then
        answer (d.setIdeStream port half s (setBit (d.ideStream port half s) (2 + bit rx))) 0
      else answer d 1
    | .setStop s rx => answer (d.setIdeStream port half s (clrBit (d.ideStream port half s) (2 + bit rx))) 0

end Dev

/-! ### The commands -/

/-- R77, R79: HOST_LINK_UP. -/
def execHostLinkUp (port half speed width : Nat) (mldCapable : Bool) (s : State) : Host.Outcome State Fault Refusal :=
  s.run (Dev.linkUp port half speed width mldCapable)

/-- R79, R80: HOST_LINK_DOWN. -/
def execHostLinkDown (port half : Nat) (s : State) : Host.Outcome State Fault Refusal := s.run (fun d => d.takeDown port half)

/-- R79: HOST_LINK_CHANGE. -/
def execHostLinkChange (port half speed width : Nat) (s : State) : Host.Outcome State Fault Refusal :=
  s.run (Dev.linkChange port half speed width)

/-- R78: L0P_REQUEST. -/
def execL0pRequest (port half width : Nat) (s : State) : Host.Outcome State Fault Refusal := s.run (Dev.l0p port half width)

/-- R78, R487: HOST_LINK_L1_ENTRY. -/
def execHostLinkL1Entry (port half : Nat) (s : State) : Host.Outcome State Fault Refusal := s.run (Dev.l1Entry port half)

/-- R78, R492: HOST_L1_EXIT_WAKE. -/
def execHostL1ExitWake (port half : Nat) (s : State) : Host.Outcome State Fault Refusal := s.run (Dev.l1Wake port half)

/-- R82, R80, R108: CONVENTIONAL_RESET. -/
def execConventionalReset (port : Nat) (byPerst : Bool) (s : State) : Host.Outcome State Fault Refusal := s.run (Dev.conventional port byPerst)

/-- R82, R585: PERST_DEASSERT. -/
def execPerstDeassert (port : Nat) (s : State) : Host.Outcome State Fault Refusal :=
  s.run (when (fun _ => decide (port < 4)) (Dev.modClk · fun c => { c with perstN := setBit c.perstN port }))

/-- R82: FUNCTION_LEVEL_RESET. -/
def execFunctionLevelReset (ld : Nat) (s : State) : Host.Outcome State Fault Refusal := s.run (Dev.functionReset ld)

/-- R82: CXL_RESET. -/
def execCxlReset (ld : Nat) (memoryClear : Bool) (s : State) : Host.Outcome State Fault Refusal := s.run (Dev.cxlResetStart ld memoryClear)

/-- R82, R203: CXL_RESET_COMPLETE. -/
def execCxlResetComplete (ld : Nat) (s : State) : Host.Outcome State Fault Refusal := s.run (Dev.cxlResetEnd ld)

/-- R84: LD_BIND. -/
def execLdBind (port ldId : Nat) (s : State) : Host.Outcome State Fault Refusal := s.run (Dev.bindLd port ldId)

/-- R88: HDM_DECODER_COMMIT. -/
def execHdmDecoderCommit (ld index : Nat) (d : HdmDecoder) (s : State) : Host.Outcome State Fault Refusal := s.run (Dev.commitDecoder ld index d)

open Dev in
/-- R93, R94: HP_VEC_ALLOC_WRITE. -/
def execHpVecAllocWrite (a : Agent) (port n : Nat) (v : BitVec 32) (s : State) : Host.Outcome State Fault Refusal :=
  s.run (writeTo v.toNat a (Pg.hp (port % 4)) (0x120 + 4 * (n % 16)) (vecWrite (port % 4) (n % 16) v.toNat))

open Dev in
/-- R88, R94: HP_HDM_ALLOC_WRITE. -/
def execHpHdmAllocWrite (a : Agent) (port n : Nat) (v : BitVec 32) (s : State) : Host.Outcome State Fault Refusal :=
  s.run (writeTo v.toNat a (Pg.hp (port % 4)) (0x160 + 4 * (n % 16)) (hdmWrite (port % 4) (n % 16) v.toNat))

/-- R100: IDE_INTEGRITY_FAILURE. -/
def execIdeIntegrityFailure (port half : Nat) (s : State) : Host.Outcome State Fault Refusal := s.run (Dev.ideFailure port half)

/-- R106: LINK_REPLAY_THRESHOLD. -/
def execLinkReplayThreshold (port half replays : Nat) (s : State) : Host.Outcome State Fault Refusal := s.run (Dev.linkReplays port half replays)

/-- R71: MSIX_VECTOR_UNMASK. -/
def execMsixVectorUnmask (ld vector : Nat) (s : State) : Host.Outcome State Fault Refusal := s.run (Dev.unmaskMsix ld vector)

/-- R100: IDE_KEY_MANAGEMENT. -/
def execIdeKeyManagement (session port half : Nat) (c : IdeCommand) (s : State) : Host.Outcome State Fault Refusal :=
  s.run (Dev.ideKm session port half c)

end Sys2Proof.Machine
end

