-- ==== Sys2Proof/Machine/Mailbox.lean ====
section
/-! DEFINITION. The mailbox of each LD (chapter 3): when a doorbell is heard (R585), held (R520) or turned away in ROM recovery (R506), and the
standard command sets of R95 but for Poison and Media and Dynamic Capacity. The payloads are lists of the fields the manual or the CXL
specification gives each answer. -/

namespace Sys2Proof.Machine

namespace Dev

/-! ### Hearing a command -/

/-- Answer a mailbox command. -/
def answer (d : Dev) (ld : Nat) (c : MbCode) (p : List Nat) : Dev := d.emit (.mbox ld c p)

/-- The mailbox of an LD has no foreground command in progress. -/
def mboxIdle (d : Dev) (ld : Nat) : Bool := (d.ld ld).poisonWait.isNone && !d.frogs.any (fun f => f.mbox == some ld) && !d.host.held.any (fun h => h.1 % 128 == ld)

/-- R585: the doorbell of an LD's mailbox is taken. -/
def mboxHeard (d : Dev) (ld : Nat) : Bool :=
  decide (ld < 64) && d.clk.fabricOn && d.bound ld && d.host.mboxReady.testBit (ld / 16) && d.mboxIdle ld

/-- R520, R103: a command waits for the end of a live activation's pause, in the order of the SN at which it was heard and then of its LD
(64 and the port, for a Fabric Manager command). -/
def holdCommand (d : Dev) (ld : Nat) (c : Instr) : Dev :=
  let key := 128 * d.sn + ld
  let before := d.host.held.filter (fun h => decide (h.1 ≤ key))
  let after := d.host.held.filter (fun h => decide (key < h.1))
  { d with host := { d.host with held := before ++ (key, c) :: after } }

/-- R520, R506, R585: a mailbox command `c` of an LD: held in a pause, answered Busy in ROM recovery unless it is one that the ROM serves. -/
def mbox (ld : Nat) (rom : Bool) (c : Instr) (f : Effect) : Effect :=
  when (fun d => d.mboxHeard ld) fun d =>
    if d.flag Pg.str F.STR_ACT_CTL_PAUSED then d.holdCommand ld c
    else if d.flag Pg.str F.STR_STS_RECOVERY && !rom then d.answer ld .busy []
    else f d

/-- R95: a command of management LDs only. -/
def mgmtOnly (ld : Nat) (f : Effect) : Effect := fun d => if d.isMgmt ld then f d else d.answer ld .unsupported []

/-! ### Events (R99) -/

/-- The number of a log. -/
def logNo : EventLog → Nat
  | .info => 0 | .warn => 1 | .fail => 2 | .fatal => 3 | .dc => 4

/-- The fields of a record as a mailbox command returns them. -/
def recFields (r : EvRec) : List Nat :=
  [r.handle, r.ts, r.sn, r.src, r.ld, r.kind, b2n (r.delay != 0), r.delay] ++ (match r.ext with | some e => [e.start, e.length] | none => [])

/-- Get Event Records: overflow count, number of records (at most 31 fill the payload), whether more remain, the records. -/
def mbGetEvents (ld : Nat) (log : EventLog) : Effect := fun d =>
  let rs := logOf (d.ld ld) (logNo log)
  let now := rs.take 31
  d.answer ld .success ([tget (fun _ => 0) (d.ld ld).overflow (logNo log), now.length, b2n (decide (31 < rs.length))] ++ (now.map recFields).flatten)

/-- Clear Event Records: all, or the oldest ones named in order. -/
def mbClearEvents (ld : Nat) (log : EventLog) (handles : List Nat) (all : Bool) : Effect := fun d =>
  let k := logNo log
  let rs := logOf (d.ld ld) k
  let clear := fun (rest : List EvRec) =>
    (d.modLd ld fun l => { setLog l k rest with overflow := tput (fun _ => 0) l.overflow k 0 }).answer ld .success []
  if all then clear []
  else if handles = (rs.take handles.length).map (·.handle) then clear (rs.drop handles.length)
  else d.answer ld .invalidHandle []

/-! ### Firmware update (R517 to R519) -/

/-- Get FW Info: slot count 2, the running and the active slot, online activation, the versions in the slots. -/
def mbFwInfo (ld : Nat) : Effect := mgmtOnly ld fun d =>
  let v := fun (n : Nat) => match (d.slot n).image with | some im => im.version | none => 0
  d.answer ld .success [2, d.get Pg.str F.STR_FW_SLOT_RUNNING, d.str.activeSlot, 1, v 1, v 2]

/-- A firmware slot that Transfer FW may write. -/
def slotFree (d : Dev) (n : Nat) : Bool := (n == 1 || n == 2) && d.get Pg.str F.STR_FW_SLOT_RUNNING != n

/-- R517: Transfer FW: the slot is written; its last part brings the check of R504. -/
def mbTransfer (ld n : Nat) (last : Bool) (im : FwImage) : Effect := mgmtOnly ld fun d =>
  if !d.slotFree n then d.answer ld .invalidSlot []
  else if !last then (d.setSlot n {}).answer ld .success []
  else
    match d.imageCheck im with
    | none => (d.setSlot n ⟨some im, true⟩).answer ld .success []
    | some k => ((d.setSlot n ⟨some im, false⟩).raise Src.imgRejected (16 * n + k) 0x85 0).answer ld .fwAuthFailed []

/-- R517: Activate FW on reset: a checked slot is named in the active-slot record. -/
def mbActivateReset (ld n : Nat) : Effect := mgmtOnly ld fun d =>
  if (n = 1 ∨ n = 2) ∧ ((d.slot n).checked ∨ d.get Pg.str F.STR_FW_SLOT_RUNNING = n) then
    ({ d with str := { d.str with activeSlot := n } } : Dev).answer ld .success []
  else d.answer ld .invalidSlot []

/-- R518 steps 1 and 2, R97: the image is staged, P is fixed, and every bound LD is told of it. -/
def stageActivation (d : Dev) (ld n : Nat) : Dev :=
  let p := d.sn + max 7813 (d.get Pg.str F.STR_ACT_CFG_LEAD)
  let d1 := ((((d.set Pg.str F.STR_ACT_SN_SN p).setFlag Pg.str F.STR_ACT_CTL_PENDING true).setFlag Pg.str F.STR_ACT_CTL_REVERTED false).set
    Pg.str F.STR_FW_SLOT_STAGED n)
  let d2 : Dev := { d1 with str := { d1.str with activation := some ⟨n, ld, false, 0, false⟩ } }
  d2.boundLds.foldl (fun d k => d.appendRec k 0 0xFFFF p) d2

/-- R518: Activate FW online. -/
def mbActivateOnline (ld n : Nat) (digestOk : Bool) : Effect := mgmtOnly ld fun d =>
  if d.fatal then d.answer ld .activationFailedColdReset []
  else if d.lcBusy then d.answer ld .busy []
  else if !(d.slotFree n && (d.slot n).checked) then d.answer ld .invalidSlot []
  else if !digestOk then d.answer ld .fwAuthFailed []
  else (d.stageActivation ld n).answer ld .success []

/-! ### Timestamp, logs, features (R95, R98) -/

/-- R98: Set Timestamp. -/
def mbSetTime (ld t : Nat) : Effect := mgmtOnly ld fun d =>
  ({ d with clk := { d.clk with tsBase := t, tsSn := d.sn } } : Dev).answer ld .success []

/-- Get Log: bytes of the Command Effects Log or of the vendor debug log, whose contents the manual does not give. -/
def mbGetLog (ld : Nat) (log : SupportedLog) (off len : Nat) : Effect := fun d =>
  let go := fun (k : Nat) =>
    if 4096 < len ∨ Config.logSize k < off + len then d.answer ld .invalidInput []
    else d.answer ld .success ((List.range len).map fun i => (Config.logByte k (off + i)).toNat)
  match log with
  | .cel => go 0
  | .vendor => go 1
  | .unknown => d.answer ld .invalidInput []

/-- Get Feature. -/
def mbGetFeature (ld id : Nat) : Effect := fun d =>
  if Config.featureIds.contains id then d.answer ld .success [tget (fun _ => 0) (d.ld ld).features id] else d.answer ld .unsupported []

/-- Set Feature. -/
def mbSetFeature (ld id v : Nat) : Effect := fun d =>
  if Config.featureIds.contains id then
    (d.modLd ld fun l => { l with features := tput (fun _ => 0) l.features id v }).answer ld .success []
  else d.answer ld .unsupported []

/-! ### Identity, health, alerts -/

/-- The rooms of an LD's space that its segments map into the window. -/
def ldRooms (d : Dev) (ld : Nat) : List Nat :=
  let p := Pg.ldm ld
  ((List.range 4).map fun k =>
    if d.flag p (F.LDM_SEG_A_EN.sh (16 * k)) then
      ((List.range (d.get p (F.LDM_SEG_A_ROOMS.sh (16 * k)))).map (d.get p (F.LDM_SEG_B_DRN_BASE.sh (16 * k)) + ·)).filter (fun r => decide (r < d.winRooms))
    else []).flatten

/-- The static capacity of an LD in bytes: its rooms that belong to no Dynamic Capacity region. -/
def staticBytes (d : Dev) (ld : Nat) : Nat := ((d.ldRooms ld).filter (fun r => !(d.room r).dc)).length * 2 ^ 30

/-- The version of the image that runs; 0 where none does. -/
def runVersion (d : Dev) : Nat := match d.str.running with | some im => im.version | none => 0

/-- Identify Memory Device: firmware version, total capacity, volatile capacity (all of it), no persistent capacity, no partitioning. -/
def identity (d : Dev) (ld : Nat) : List Nat := [d.runVersion, d.staticBytes ld, d.staticBytes ld, 0, 0]

/-- R585, R586: Media Status: 0 ready, 1 not ready, 2 error. -/
def mediaStatus (d : Dev) (ld : Nat) : Nat :=
  if (d.ld ld).mediaError then 2 else if (d.ld ld).mediaReady && !d.flag Pg.str F.STR_STS_RECOVERY then 0 else 1

/-- Get Health Info: Media Status and the device temperature, a fresh value. -/
def health (d : Dev) (ld : Nat) : List Nat := [d.mediaStatus ld, Config.freeNat d.fresh]

end Dev

/-! ### The commands -/

open Dev

/-- R99: GET_EVENT_RECORDS. -/
def execGetEventRecords (ld : Nat) (log : EventLog) (s : State) : Host.Outcome State Fault Refusal :=
  s.run (mbox ld false (.getEventRecords ld log) (mbGetEvents ld log))

/-- R99: CLEAR_EVENT_RECORDS. -/
def execClearEventRecords (ld : Nat) (log : EventLog) (handles : List Nat) (all : Bool) (s : State) : Host.Outcome State Fault Refusal :=
  s.run (mbox ld false (.clearEventRecords ld log handles all) (mbClearEvents ld log handles all))

/-- R95: the event interrupt policy of the LD. -/
def Dev.mbGetPolicy (ld : Nat) : Effect := fun d => d.answer ld .success [(d.ld ld).eventPolicy.toNat]

/-- R95: GET_EVENT_INTERRUPT_POLICY. -/
def execGetEventInterruptPolicy (ld : Nat) (s : State) : Host.Outcome State Fault Refusal :=
  s.run (mbox ld false (.getEventInterruptPolicy ld) (mbGetPolicy ld))

/-- R95: a new event interrupt policy. -/
def Dev.mbSetPolicy (ld : Nat) (policy : BitVec 40) : Effect := fun d =>
  (d.modLd ld fun l => { l with eventPolicy := policy }).answer ld .success []

/-- R95: SET_EVENT_INTERRUPT_POLICY. -/
def execSetEventInterruptPolicy (ld : Nat) (policy : BitVec 40) (s : State) : Host.Outcome State Fault Refusal :=
  s.run (mbox ld false (.setEventInterruptPolicy ld policy) (mbSetPolicy ld policy))

/-- R517, R506: GET_FW_INFO. -/
def execGetFwInfo (ld : Nat) (s : State) : Host.Outcome State Fault Refusal := s.run (mbox ld true (.getFwInfo ld) (mbFwInfo ld))

/-- R517, R506: TRANSFER_FW. -/
def execTransferFw (ld slot : Nat) (last : Bool) (image : FwImage) (s : State) : Host.Outcome State Fault Refusal :=
  s.run (mbox ld true (.transferFw ld slot last image) (mbTransfer ld slot last image))

/-- R517, R506: ACTIVATE_FW_ON_RESET. -/
def execActivateFwOnReset (ld slot : Nat) (s : State) : Host.Outcome State Fault Refusal :=
  s.run (mbox ld true (.activateFwOnReset ld slot) (mbActivateReset ld slot))

/-- R518, R97: ACTIVATE_FW_ONLINE. -/
def execActivateFwOnline (ld slot : Nat) (digestOk : Bool) (s : State) : Host.Outcome State Fault Refusal :=
  s.run (mbox ld false (.activateFwOnline ld slot digestOk) (mbActivateOnline ld slot digestOk))

/-- R98: the device timestamp. -/
def Dev.mbGetTime (ld : Nat) : Effect := fun d => d.answer ld .success [d.timestamp]

/-- R98: GET_TIMESTAMP. -/
def execGetTimestamp (ld : Nat) (s : State) : Host.Outcome State Fault Refusal := s.run (mbox ld false (.getTimestamp ld) (mbGetTime ld))

/-- R98: SET_TIMESTAMP. -/
def execSetTimestamp (ld : Nat) (t : BitVec 64) (s : State) : Host.Outcome State Fault Refusal :=
  s.run (mbox ld false (.setTimestamp ld t) (mbSetTime ld t.toNat))

/-- R95: the Command Effects Log and the vendor debug log, with their sizes. -/
def Dev.mbLogs (ld : Nat) : Effect := fun d => d.answer ld .success [0, Config.logSize 0, 1, Config.logSize 1]

/-- R95: GET_SUPPORTED_LOGS. -/
def execGetSupportedLogs (ld : Nat) (s : State) : Host.Outcome State Fault Refusal := s.run (mbox ld false (.getSupportedLogs ld) (mbLogs ld))

/-- R95: GET_LOG. -/
def execGetLog (ld : Nat) (log : SupportedLog) (offset length : Nat) (s : State) : Host.Outcome State Fault Refusal :=
  s.run (mbox ld false (.getLog ld log offset length) (mbGetLog ld log offset length))

/-- R95: the standard features that the device implements. -/
def Dev.mbFeatures (ld : Nat) : Effect := fun d => d.answer ld .success Config.featureIds

/-- R95: GET_SUPPORTED_FEATURES. -/
def execGetSupportedFeatures (ld : Nat) (s : State) : Host.Outcome State Fault Refusal :=
  s.run (mbox ld false (.getSupportedFeatures ld) (mbFeatures ld))

/-- R95: GET_FEATURE. -/
def execGetFeature (ld id : Nat) (s : State) : Host.Outcome State Fault Refusal := s.run (mbox ld false (.getFeature ld id) (mbGetFeature ld id))

/-- R95: SET_FEATURE. -/
def execSetFeature (ld id : Nat) (data : BitVec 64) (s : State) : Host.Outcome State Fault Refusal :=
  s.run (mbox ld false (.setFeature ld id data) (mbSetFeature ld id data.toNat))

/-- R95: volatile capacity only. -/
def Dev.mbIdentify (ld : Nat) : Effect := fun d => d.answer ld .success (d.identity ld)

/-- R95, R506: IDENTIFY_MEMORY_DEVICE. -/
def execIdentifyMemoryDevice (ld : Nat) (s : State) : Host.Outcome State Fault Refusal :=
  s.run (mbox ld true (.identifyMemoryDevice ld) (mbIdentify ld))

/-- R95: Media Status and temperature. -/
def Dev.mbHealth (ld : Nat) : Effect := fun d => d.draw.answer ld .success (d.health ld)

/-- R95: GET_HEALTH_INFO. -/
def execGetHealthInfo (ld : Nat) (s : State) : Host.Outcome State Fault Refusal := s.run (mbox ld false (.getHealthInfo ld) (mbHealth ld))

/-- R95: the alert configuration of the LD. -/
def Dev.mbGetAlert (ld : Nat) : Effect := fun d => d.answer ld .success [(d.ld ld).alertCfg.toNat]

/-- R95: GET_ALERT_CONFIGURATION. -/
def execGetAlertConfiguration (ld : Nat) (s : State) : Host.Outcome State Fault Refusal :=
  s.run (mbox ld false (.getAlertConfiguration ld) (mbGetAlert ld))

/-- R95: a new alert configuration. -/
def Dev.mbSetAlert (ld : Nat) (config : BitVec 96) : Effect := fun d => (d.modLd ld fun l => { l with alertCfg := config }).answer ld .success []

/-- R95: SET_ALERT_CONFIGURATION. -/
def execSetAlertConfiguration (ld : Nat) (config : BitVec 96) (s : State) : Host.Outcome State Fault Refusal :=
  s.run (mbox ld false (.setAlertConfiguration ld config) (mbSetAlert ld config))

/-- R95, R102: an opcode that the device does not implement. -/
def Dev.mbUnsupported (ld : Nat) : Effect := fun d => d.answer ld .unsupported []

/-- R95, R102: UNSUPPORTED_COMMAND. -/
def execUnsupportedCommand (ld : Nat) (opcode : BitVec 16) (s : State) : Host.Outcome State Fault Refusal :=
  s.run (mbox ld false (.unsupportedCommand ld opcode) (mbUnsupported ld))

end Sys2Proof.Machine
end

