-- ==== Sys2Proof/Machine/Media.lean ====
section
/-! DEFINITION. The mailbox's Sanitize, Poison and Media and Dynamic Capacity commands (R91, R92, R95, R96, R131, R203, R615, R616). -/

namespace Sys2Proof.Machine

namespace Dev

/-! ### Sanitize and Secure Erase (R96, R203) -/

/-- R96, R203: from the acceptance of the command every skein of the LD reads zeros; the command runs on in the background. -/
def mbSanitize (ld : Nat) (op : BgOp) : Effect := fun d =>
  if (d.ld ld).background.isSome then d.answer ld .busy []
  else (((d.clearLd ld).modLd ld fun l => { l with background := some op }).answer ld .background []).after

/-- R96: a background command completes; a scan's failing lines join the poison list. -/
def backgroundEnd (ld : Nat) : Effect := fun d =>
  match (d.ld ld).background with
  | none => d
  | some op =>
    (d.modLd ld fun l =>
      let l1 := { l with background := none }
      match op with
      | .scan bad => { l1 with poisonList := (l1.poisonList ++ bad).eraseDups, scanResult := bad }
      | .sanitize | .secureErase => l1).answer ld .success []

/-! ### Poison and Media (R615, R616) -/

/-- The mailbox as the master of an access. -/
def mediaWho (ld acc : Nat) : Who := { id := 0, ld := ld, master := ld, gm := ld, cls := 3, rd := acc, wr := acc }

/-- The lines of a range of `n` lines from an LD offset. -/
def mediaLines (start n : Nat) : List Nat := (List.range n).map fun k => start / 64 * 64 + 64 * k

/-- R615: every line of a range is checked; the first that fails raises the source of its step. -/
def mediaCheck (d : Dev) (ld acc : Nat) : List Nat → Bool × Dev
  | [] => (true, d)
  | o :: os =>
    match d.ringCheck (mediaWho ld acc) o acc with
    | (none, d1) => (false, d1)
    | (some _, d1) => mediaCheck d1 ld acc os

/-- A command that names a range: Invalid Input where a line of it fails a check. -/
def overRange (ld acc start n : Nat) (f : Effect) : Effect := fun d =>
  match d.mediaCheck ld acc (mediaLines start n) with
  | (false, d1) => d1.answer ld .invalidInput []
  | (true, d1) => f d1

/-- Get Poison List: the listed LD offsets in the range. -/
def mbPoisonList (ld start n : Nat) : Effect := overRange ld 0 start n fun d =>
  let hits := (d.ld ld).poisonList.filter fun o => decide (start / 64 * 64 ≤ o ∧ o < start / 64 * 64 + 64 * n)
  d.answer ld .success (hits.length :: hits)

/-- R616: Inject Poison (a write that changes no byte and carries poison) or Clear Poison (a full line of data) as a write of the LD. -/
def mbPoison (ld off : Nat) (inject : Bool) (data : BitVec 512) : Effect := fun d =>
  let o := off / 64 * 64
  match d.ringCheck (mediaWho ld 2) o 2 with
  | (none, d1) => d1.answer ld .invalidInput []
  | (some dpa, d1) =>
    let e := d1.entry (dpaSkein dpa)
    let r : Req :=
      { id := d1.mem.nextReq, kind := if inject then .partWrite else .write, ld := ld, port := ld / 16, half := 0, tag := 0, addr := o,
        metaVal := .invalid, data := data, enables := 0, poison := inject, sn := d1.sn, phase := (Config.cycle d1.fresh).toNat, cls := e.cls,
        deadline := d1.sn + d1.classTarget e.cls, dpa := dpa, checked := true, dropped := true, mbox := true }
    let d2 := (d1.draw.modMem fun m => { m with reqs := m.reqs ++ [r], nextReq := m.nextReq + 1 }).modLd ld fun l =>
      { l with poisonWait := some (inject, o), poisonFailed := false }
    (if d2.isViral ld then d2.refuse r else (d2.addHeat (dpaSkein dpa) (dpaPage dpa)).coherentFlow r).after

/-- R616: the write has reached its point of visibility, or was discarded: the command completes. -/
def poisonDone (ld : Nat) : Effect := fun d =>
  match (d.ld ld).poisonWait with
  | none => d
  | some (inject, off) =>
    if d.mem.reqs.any (fun r => r.mbox && r.ld == ld) then d
    else
      let bad := (d.ld ld).poisonFailed
      (d.modLd ld fun l =>
        { l with poisonWait := none, poisonFailed := false,
                 poisonList := if bad then l.poisonList else if inject then (l.poisonList ++ [off]).eraseDups else l.poisonList.filter (· != off) }).answer
        ld (if bad then .internalError else .success) []

/-- R248: a line of a cartridge's page whose tag fails in a scan. -/
def scanLarder (d : Dev) (cart dpa owner : Nat) (f : LineFault) : Bool × Dev :=
  if f.tagOk then (true, d) else (false, d.raise (Src.larderTagFail cart) (dpa / 64 * 64) owner 8)

/-- R96: one line is read and its tag checked; whether its data stand. -/
def scanLine (d : Dev) (dpa : Nat) (f : LineFault) : Bool × Dev :=
  let owner := (d.entry (dpaSkein dpa)).owner
  match d.locate dpa false with
  | .dram dra ratio =>
    if ratio = 0 then d.engineLine dra 0 (dpa / 64 * 64) (dpa / 64 * 64) owner 8 f else d.engineSlot dra ratio (blockBase dpa) owner 8 f
  | .larder c _ _ => d.scanLarder c dpa owner f
  | _ => (true, d)

/-- R96: Scan Media: the lines of the range are checked; those that fail are reported when the command completes. -/
def mbScan (ld start n : Nat) (fs : List LineFaultAt) : Effect := overRange ld 8 start n fun d =>
  if (d.ld ld).background.isSome then d.answer ld .busy []
  else
    let (bad, d1) := (mediaLines start n).foldl
      (fun (acc : List Nat × Dev) o =>
        match acc.2.translate ld o with
        | none => acc
        | some dpa =>
          let (ok, d2) := acc.2.scanLine dpa (faultAt fs (o / 64))
          (if ok then acc.1 else acc.1 ++ [o], d2)) ([], d)
    (d1.modLd ld fun l => { l with background := some (.scan bad) }).answer ld .background []

/-! ### Dynamic Capacity (R91, R92, R131) -/

/-- The blocks of 2 MiB of an extent. -/
def extBlocks (e : DcExtent) : List Nat := (List.range (e.length / 2 ^ 21)).map fun i => e.start + i * 2 ^ 21

/-- R91: an extent is a number of whole blocks. -/
def extOk (e : DcExtent) : Bool := e.start % 2 ^ 21 == 0 && e.length % 2 ^ 21 == 0 && e.length != 0

/-- The bytes of one extent lie within an extent of the list. -/
def extWithin (l : List DcExtent) (e : DcExtent) : Bool := l.any fun x => decide (x.start ≤ e.start ∧ e.start + e.length ≤ x.start + x.length)

/-- Every block of an extent lies within an extent of the list. -/
def extCovered (l : List DcExtent) (e : DcExtent) : Bool := (extBlocks e).all fun b => extWithin l ⟨b, 2 ^ 21⟩

/-- Two extents share a byte. -/
def extMeets (x y : DcExtent) : Bool := decide (x.start < y.start + y.length ∧ y.start < x.start + x.length)

/-- What is left of an extent without another. -/
def extMinus (x y : DcExtent) : List DcExtent :=
  if !extMeets x y then [x]
  else
    (if x.start < y.start then [⟨x.start, y.start - x.start⟩] else []) ++
      (if y.start + y.length < x.start + x.length then [⟨y.start + y.length, x.start + x.length - (y.start + y.length)⟩] else [])

/-- What is left of a list of extents without those of another. -/
def extSubtract (l out : List DcExtent) : List DcExtent := out.foldl (fun l y => (l.map fun x => extMinus x y).flatten) l

/-- R109: the skein at an LD offset. -/
def skeinAt (d : Dev) (ld off : Nat) : Option Nat := (d.translate ld off).map dpaSkein

/-- The skeins of extents. -/
def extSkeins (d : Dev) (ld : Nat) (es : List DcExtent) : List Nat := ((es.map extBlocks).flatten).filterMap (d.skeinAt ld)

/-- The fields of extents. -/
def extFields (es : List DcExtent) : List Nat := es.length :: (es.map fun e => [e.start, e.length]).flatten

/-- Get Dynamic Capacity Configuration: the regions and the block size. -/
def mbDcConfig (ld : Nat) : Effect := fun d => d.answer ld .success (extFields (d.ld ld).dcRegions ++ [2 ^ 21])

/-- Get Dynamic Capacity Extent List: the accepted extents. -/
def mbDcExtents (ld : Nat) : Effect := fun d => d.answer ld .success (extFields (d.ld ld).dcAccepted)

/-- R92, R131: Add Dynamic Capacity Response: of what was offered, the extents named are accepted and their skeins answer from now on. -/
def mbDcAdd (ld : Nat) (es : List DcExtent) : Effect := fun d =>
  let l := d.ld ld
  if !es.all (fun e => extOk e && extWithin l.dcOffered e) then d.answer ld .invalidInput []
  else
    let d1 := (d.extSkeins ld es).foldl (fun d s => d.putEntryQuiet s { d.entry s with dcAcc := true }) d
    ((d1.modLd ld fun l => { l with dcOffered := [], dcAccepted := l.dcAccepted ++ es }).answer ld .success []).after

/-- R92, R131: Release Dynamic Capacity: the skeins named are settled, freed and zero-pending, and answer no more. -/
def mbDcRelease (ld : Nat) (es : List DcExtent) : Effect := fun d =>
  let l := d.ld ld
  if !es.all (fun e => extOk e && extCovered l.dcAccepted e) then d.answer ld .invalidInput []
  else
    let d1 := d.releaseSkeins (d.extSkeins ld es)
    ((d1.modLd ld fun l =>
      { l with dcAccepted := extSubtract l.dcAccepted es, dcReleasing := extSubtract l.dcReleasing es }).answer ld .success []).after

/-- R615: Get Scan Media Results: the LD offsets that failed in the last scan. -/
def mbScanResults (ld : Nat) : Effect := fun d => d.answer ld .success ((d.ld ld).scanResult.length :: (d.ld ld).scanResult)

/-- R615: Get Scan Media Capabilities: the time a scan of the range takes, a fresh value. -/
def mbScanCaps (ld start n : Nat) : Effect := overRange ld 0 start n fun d => d.draw.answer ld .success [Config.freeNat d.fresh]

end Dev

/-! ### The commands -/

open Dev

/-- R96, R203: SANITIZE. -/
def execSanitize (ld : Nat) (s : State) : Host.Outcome State Fault Refusal := s.run (mbox ld false (.sanitize ld) (mbSanitize ld .sanitize))

/-- R96, R203: SECURE_ERASE. -/
def execSecureErase (ld : Nat) (s : State) : Host.Outcome State Fault Refusal :=
  s.run (mbox ld false (.secureErase ld) (mbSanitize ld .secureErase))

/-- R96: BACKGROUND_COMMAND_COMPLETE. -/
def execBackgroundCommandComplete (ld : Nat) (s : State) : Host.Outcome State Fault Refusal := s.run (backgroundEnd ld)

/-- R615: GET_POISON_LIST. -/
def execGetPoisonList (ld start length : Nat) (s : State) : Host.Outcome State Fault Refusal :=
  s.run (mbox ld false (.getPoisonList ld start length) (mbPoisonList ld start length))

/-- R615, R616: INJECT_POISON. -/
def execInjectPoison (ld offset : Nat) (s : State) : Host.Outcome State Fault Refusal :=
  s.run (mbox ld false (.injectPoison ld offset) (mbPoison ld offset true 0))

/-- R615, R616: CLEAR_POISON. -/
def execClearPoison (ld offset : Nat) (data : BitVec 512) (s : State) : Host.Outcome State Fault Refusal :=
  s.run (mbox ld false (.clearPoison ld offset data) (mbPoison ld offset false data))

/-- R616: POISON_WRITE_VISIBLE. -/
def execPoisonWriteVisible (ld : Nat) (s : State) : Host.Outcome State Fault Refusal := s.run (poisonDone ld)

/-- R615: GET_SCAN_MEDIA_CAPABILITIES. -/
def execGetScanMediaCapabilities (ld start length : Nat) (s : State) : Host.Outcome State Fault Refusal :=
  s.run (mbox ld false (.getScanMediaCapabilities ld start length) (mbScanCaps ld start length))

/-- R96, R615: SCAN_MEDIA. -/
def execScanMedia (ld start length : Nat) (faults : List LineFaultAt) (s : State) : Host.Outcome State Fault Refusal :=
  s.run (mbox ld false (.scanMedia ld start length faults) (mbScan ld start length faults))

/-- R615: GET_SCAN_MEDIA_RESULTS. -/
def execGetScanMediaResults (ld : Nat) (s : State) : Host.Outcome State Fault Refusal :=
  s.run (mbox ld false (.getScanMediaResults ld) (mbScanResults ld))

/-- R91: GET_DC_CONFIGURATION. -/
def execGetDcConfiguration (ld : Nat) (s : State) : Host.Outcome State Fault Refusal :=
  s.run (mbox ld false (.getDcConfiguration ld) (mbDcConfig ld))

/-- R91: GET_DC_EXTENT_LIST. -/
def execGetDcExtentList (ld : Nat) (s : State) : Host.Outcome State Fault Refusal := s.run (mbox ld false (.getDcExtentList ld) (mbDcExtents ld))

/-- R92, R131: ADD_DC_RESPONSE. -/
def execAddDcResponse (ld : Nat) (extents : List DcExtent) (s : State) : Host.Outcome State Fault Refusal :=
  s.run (mbox ld false (.addDcResponse ld extents) (mbDcAdd ld extents))

/-- R92, R131: RELEASE_DC. -/
def execReleaseDc (ld : Nat) (extents : List DcExtent) (s : State) : Host.Outcome State Fault Refusal :=
  s.run (mbox ld false (.releaseDc ld extents) (mbDcRelease ld extents))

end Sys2Proof.Machine
end

