-- ==== Sys2Proof/Machine/Fabric.lean ====
section
/-! DEFINITION. The Fabric Manager API of an MLD port (R85, R86, R135) and the DOE mailbox's Discovery and CDAT (R101). -/

namespace Sys2Proof.Machine

namespace Dev

/-! ### Hearing a command -/

/-- R84, R85: a link of the port runs in MLD mode. -/
def mldPort (d : Dev) (port : Nat) : Bool :=
  decide (port < 4) && [0, 1].any fun h => d.linkSts port h F.HP_LINK_STS_UP == 1 && d.linkSts port h F.HP_LINK_STS_MLD == 1

/-- R85, R506, R520: a Fabric Manager command of a port: held in a pause, Busy in ROM recovery. -/
def fmApi (port : Nat) (c : Instr) (f : Effect) : Effect :=
  when (fun d => d.clk.fabricOn && d.mldPort port && d.host.mboxReady.testBit port) fun d =>
    if d.flag Pg.str F.STR_ACT_CTL_PAUSED then d.holdCommand (64 + port) c
    else if d.flag Pg.str F.STR_STS_RECOVERY then d.emit (.fm port .busy [])
    else f d

/-- Answer a Fabric Manager command. -/
def fmAnswer (d : Dev) (port : Nat) (c : MbCode) (p : List Nat) : Dev := d.emit (.fm port c p)

/-- A command that names LD-IDs from `start` on, `n` of them. -/
def fmRange (port start n : Nat) (f : Effect) : Effect := fun d =>
  if n = 0 ∨ 16 < start + n then d.fmAnswer port .invalidInput [] else f d

/-! ### LD information and allocations (R85, R135) -/

/-- Get LD Info: the memory the window spans, 16 LDs, QoS telemetry. -/
def ldInfo (d : Dev) : List Nat := [d.winRooms * 2 ^ 30, 16, 1]

/-- The DRAM quota of an LD in GiB, as a read returns it. -/
def ldGib (d : Dev) (ld : Nat) : Nat := d.pendGet (Pg.ldm ld) F.LDM_QUOTA_DRAM_MIB / 1024

/-- Get LD Allocations: number of LDs, granularity code (1 GiB), first LD-ID, the quotas. -/
def fmGetAlloc (port start n : Nat) : Effect := fmRange port start n fun d =>
  d.fmAnswer port .success ([16, 2, start, n] ++ (List.range n).map fun k => d.ldGib (16 * port + start + k))

/-- R135: Set LD Allocations: LDM_QUOTA_DRAM of each LD named, a stitch-aligned register. -/
def fmSetAlloc (port start : Nat) (gib : List Nat) : Effect := fmRange port start gib.length fun d =>
  if gib.any (fun g => decide (2 ^ 14 ≤ g)) then d.fmAnswer port .invalidInput []
  else
    let d1 := gib.zipIdx.foldl (fun d x => d.store (Pg.ldm (16 * port + start + x.2)) 0x150 0xFFFFFF (1024 * x.1) true) d
    d1.fmAnswer port .success ([gib.length, start] ++ gib)

/-! ### QoS (R86, R87) -/

/-- QoS Control before the first Set QoS Control: the CXL defaults (PRESUMED). -/
def qosDefault : QosControl := ⟨false, false, 10, 25, 8⟩

/-- QoS Control of a port. -/
def qos (d : Dev) (port : Nat) : QosControl := tget (fun _ => qosDefault) d.host.qosControl port

/-- The fields of QoS Control. -/
def qosFields (c : QosControl) : List Nat := [b2n c.egressControl, b2n c.tempThrottle, c.modPct, c.sevPct, c.interval]

/-- Set QoS Control: percentages in order and an interval that is not 0. -/
def fmSetQos (port : Nat) (c : QosControl) : Effect := fun d =>
  if 100 < c.sevPct ∨ c.sevPct < c.modPct ∨ c.interval = 0 ∨ 16 ≤ c.interval then d.fmAnswer port .invalidInput []
  else
    ({ d with host := { d.host with qosControl := tput (fun _ => qosDefault) d.host.qosControl port c } } : Dev).fmAnswer port .success (qosFields c)

/-- The lines that the link of an LD carries in a Gauge window (R77). -/
def windowLines (d : Dev) (ld : Nat) : Nat := 8 * d.planBw16 (ld / 16) (if d.split (ld / 16) then ld % 16 / 8 else 0)

/-- R308: the set that a change of some budgets starts from: the accepted one, the one in force, or the staged one before any. -/
def baseSet (d : Dev) : BudgetSet :=
  match d.mem.gau.pending with
  | some b => b
  | none => if d.mem.gau.inForce then d.mem.gau.live else d.stagedSet

/-- R86: a fraction of the planning bandwidth, in 256ths, as lines for each window; and back. -/
def fracLines (d : Dev) (ld : Nat) (v : BitVec 8) : Nat := v.toNat * d.windowLines ld / 256
def linesFrac (d : Dev) (ld n : Nat) : Nat := if d.windowLines ld = 0 then 0 else min 255 (256 * n / d.windowLines ld)

/-- The pair of an LD and the Kitchen class in a budget set. -/
def kitchen (ld : Nat) : Nat := 4 * ld + 2

/-- R86: a new guarantee (`ceil` false) or ceiling of each LD named, through the Gauge's admission: all or none. -/
def fmBudget (port start : Nat) (ceil : Bool) (vs : List (BitVec 8)) : Effect := fmRange port start vs.length fun d =>
  if d.flag Pg.gau F.GAU_COMMIT_BUSY then d.fmAnswer port .busy []
  else
    let new := vs.zipIdx.map fun x => (16 * port + start + x.2, d.fracLines (16 * port + start + x.2) x.1)
    let b := d.baseSet
    let t := new.foldl (fun t x => tmod (fun _ => (0, 0)) t (kitchen x.1) fun y => if ceil then (y.1, x.2) else (x.2, y.2)) b.budgets
    let b1 := { b with budgets := t }
    if (d.admitSet b1).1 ≠ 0 then d.fmAnswer port .invalidInput []
    else
      let d1 := new.foldl (fun d x => d.set (Bk.bud x.1 2) (if ceil then F.GAU_BUD_CEIL else F.GAU_BUD_GUAR) x.2) d
      (d1.recordCheck b1).fmAnswer port .success ([vs.length, start] ++ vs.map (·.toNat))

/-- R86: the fractions that the Gauge's budgets come to. -/
def fmGetBudget (port start n : Nat) (ceil : Bool) : Effect := fmRange port start n fun d =>
  let b := d.baseSet
  d.fmAnswer port .success ([n, start] ++ (List.range n).map fun k =>
    let ld := 16 * port + start + k
    d.linesFrac ld (if ceil then ceiling b ld 2 else guar b ld 2))

/-! ### Tunnel and Dynamic Capacity (R85, R91, R92) -/

/-- Tunnel Management: a management command for one LD. -/
def fmTunnel (port n : Nat) (inner : TunnelledCommand) : Effect := fun d =>
  if 16 ≤ n then d.fmAnswer port .invalidInput []
  else
    match inner with
    | .identify => d.fmAnswer port .success (d.identity (16 * port + n))
    | .getHealth => d.draw.fmAnswer port .success (d.health (16 * port + n))
    | .getLdInfo => d.fmAnswer port .success d.ldInfo
    | .other _ => d.fmAnswer port .unsupported []

/-- R91, R131: the LD rooms of a region map to rooms with DC = 1. -/
def regionRooms (d : Dev) (ld room rooms : Nat) : Bool :=
  (List.range rooms).all fun k => match d.segment ld (room + k) with
    | some drn => decide (drn < d.winRooms) && (d.room drn).dc
    | none => false

/-- R91: a region of an LD is set, or removed where it has no rooms; at most eight, none of them overlapping. -/
def dcSet (port n room rooms : Nat) : Effect := fun d =>
  let ld := 16 * port + n
  let l := d.ld ld
  let r : DcExtent := ⟨room * 2 ^ 30, rooms * 2 ^ 30⟩
  let old := l.dcRegions.filter (fun x => x.start == r.start)
  let rest := l.dcRegions.filter (fun x => x.start != r.start)
  if (l.dcOffered ++ l.dcAccepted).any (fun x => (r :: old).any fun y => extMeets x y) || rest.any (fun x => extMeets x r) ||
      decide (8 < rest.length + 1) || !d.regionRooms ld room rooms then d.fmAnswer port .invalidInput []
  else (d.modLd ld fun l => { l with dcRegions := if rooms = 0 then rest else rest ++ [r] }).fmAnswer port .success []

/-- No two extents of a list overlap. -/
def extDisjoint : List DcExtent → Bool
  | [] => true
  | x :: xs => xs.all (fun y => !extMeets x y) && extDisjoint xs

/-- R91: extents that may be offered: blocks of a region, neither offered nor accepted, at most 4096 in each region. -/
def dcFits (l : Ld) (es : List DcExtent) : Bool :=
  let all := l.dcOffered ++ l.dcAccepted ++ es
  es.all (fun e => extOk e && extWithin l.dcRegions e && (l.dcOffered ++ l.dcAccepted).all (fun x => !extMeets x e)) && extDisjoint es &&
    l.dcRegions.all (fun r => decide ((all.filter (extMeets r)).length ≤ 4096))

/-- Dynamic Capacity records of an LD: 0 add, 1 release. -/
def dcRecords (d : Dev) (ld kind : Nat) (es : List DcExtent) : Dev := es.foldl (fun d e => d.appendWith ld 4 kind d.sn (some e)) d

/-- R85, R91: Dynamic Capacity Device management; LDs are named by LD-ID. -/
def fmDcd (port : Nat) (c : DcdCommand) : Effect := fun d =>
  let ok := fun (n : Nat) (f : Effect) => if n < 16 then f d else d.fmAnswer port .invalidInput []
  match c with
  | .getInfo => d.fmAnswer port .success [16, 8, 2 ^ 21, 4096]
  | .getConfig n => ok n fun d => d.fmAnswer port .success (extFields (d.ld (16 * port + n)).dcRegions ++ [2 ^ 21])
  | .setConfig n room rooms => ok n (dcSet port n room rooms)
  | .getExtents n => ok n fun d => d.fmAnswer port .success (extFields (d.ld (16 * port + n)).dcAccepted)
  | .add n es => ok n fun d =>
    let ld := 16 * port + n
    if !dcFits (d.ld ld) es then d.fmAnswer port .invalidInput []
    else ((d.modLd ld fun l => { l with dcOffered := l.dcOffered ++ es }).dcRecords ld 0 es).fmAnswer port .success []
  | .release n es => ok n fun d =>
    let ld := 16 * port + n
    if !es.all (fun e => extOk e && extCovered (d.ld ld).dcAccepted e) then d.fmAnswer port .invalidInput []
    else ((d.modLd ld fun l => { l with dcReleasing := l.dcReleasing ++ es }).dcRecords ld 1 es).fmAnswer port .success []

/-! ### DOE (R101, R585) -/

/-- The DOE mailbox of an LD is reached: its port's domain is powered and it is bound. -/
def doeHeard (d : Dev) (ld : Nat) : Bool := decide (ld < 64) && d.bound ld && d.pageReady (Pg.hp (ld / 16))

/-- R101: DOE Discovery: vendor, data object type and the next index: Discovery, SPDM, secured SPDM (of PCI-SIG) and CDAT (of CXL). -/
def discovery (index : Nat) : List Nat :=
  match index with
  | 0 => [0x0001, 0, 1]
  | 1 => [0x0001, 1, 2]
  | 2 => [0x0001, 2, 3]
  | 3 => [0x1E98, 2, 0]
  | _ => [0xFFFF, 0xFF, 0]

/-- R101: the bandwidth of an LD in MB/s: its guarantees under the Gauge, or the planning bandwidth of its link. -/
def cdatBandwidth (d : Dev) (ld : Nat) : Nat :=
  let b := d.mem.gau.live
  let g := guar b ld 0 + guar b ld 1 + guar b ld 2 + guar b ld 3
  if g ≠ 0 then g * 125 / 16 else d.windowLines ld * 125 / 16

/-- R101: the latency of an LD in nanoseconds. -/
def cdatLatency (d : Dev) (ld : Nat) : Nat :=
  let rs := d.ldRooms ld
  if !rs.isEmpty && rs.all (fun r => (d.room r).cls == 0) then 768 else 256

/-- R101: the CDAT of an LD: a DSMAS for its static capacity and one for each region (type, handle, base, length), and for each of them a DSLBIS of
latency and one of bandwidth (type, handle, what it gives, value). -/
def cdat (d : Dev) (ld : Nat) : List (List Nat) :=
  let rs : List DcExtent := ⟨0, d.staticBytes ld⟩ :: (d.ld ld).dcRegions
  (rs.zipIdx.map fun x => [0, x.2, x.1.start, x.1.length]) ++
    (rs.zipIdx.map fun x => [[1, x.2, 0, d.cdatLatency ld], [1, x.2, 3, d.cdatBandwidth ld]]).flatten

/-- R101: one entry of the CDAT, after the handle of the next. -/
def readCdat (ld n : Nat) : Effect :=
  when (fun d => d.doeHeard ld && d.host.mboxReady.testBit (ld / 16)) fun d =>
    let t := d.cdat ld
    d.emit (.doe ld ((if n + 1 < t.length then n + 1 else 0xFFFF) :: t.getD n []))

end Dev

/-! ### The commands -/

open Dev

/-- R85: the LD information of a port. -/
def Dev.fmInfo (port : Nat) : Effect := fun d => d.fmAnswer port .success d.ldInfo

/-- R85: GET_LD_INFO. -/
def execGetLdInfo (port : Nat) (s : State) : Host.Outcome State Fault Refusal := s.run (fmApi port (.getLdInfo port) (fmInfo port))

/-- R85: GET_LD_ALLOCATIONS. -/
def execGetLdAllocations (port start count : Nat) (s : State) : Host.Outcome State Fault Refusal :=
  s.run (fmApi port (.getLdAllocations port start count) (fmGetAlloc port start count))

/-- R135: SET_LD_ALLOCATIONS. -/
def execSetLdAllocations (port start : Nat) (gib : List Nat) (s : State) : Host.Outcome State Fault Refusal :=
  s.run (fmApi port (.setLdAllocations port start gib) (fmSetAlloc port start gib))

/-- R86: the QoS control parameters of a port. -/
def Dev.fmGetQos (port : Nat) : Effect := fun d => d.fmAnswer port .success (qosFields (d.qos port))

/-- R86: GET_QOS_CONTROL. -/
def execGetQosControl (port : Nat) (s : State) : Host.Outcome State Fault Refusal := s.run (fmApi port (.getQosControl port) (fmGetQos port))

/-- R86: SET_QOS_CONTROL. -/
def execSetQosControl (port : Nat) (c : QosControl) (s : State) : Host.Outcome State Fault Refusal :=
  s.run (fmApi port (.setQosControl port c) (fmSetQos port c))

/-- R87: the average backpressure of the port, a fresh value. -/
def Dev.fmQosStatus (port : Nat) : Effect := fun d => d.draw.fmAnswer port .success [Config.freeNat d.fresh]

/-- R87: GET_QOS_STATUS. -/
def execGetQosStatus (port : Nat) (s : State) : Host.Outcome State Fault Refusal := s.run (fmApi port (.getQosStatus port) (fmQosStatus port))

/-- R86: GET_QOS_ALLOCATED_BW. -/
def execGetQosAllocatedBw (port start count : Nat) (s : State) : Host.Outcome State Fault Refusal :=
  s.run (fmApi port (.getQosAllocatedBw port start count) (fmGetBudget port start count false))

/-- R86: SET_QOS_ALLOCATED_BW. -/
def execSetQosAllocatedBw (port start : Nat) (fractions : List (BitVec 8)) (s : State) : Host.Outcome State Fault Refusal :=
  s.run (fmApi port (.setQosAllocatedBw port start fractions) (fmBudget port start false fractions))

/-- R86: GET_QOS_BW_LIMIT. -/
def execGetQosBwLimit (port start count : Nat) (s : State) : Host.Outcome State Fault Refusal :=
  s.run (fmApi port (.getQosBwLimit port start count) (fmGetBudget port start count true))

/-- R86: SET_QOS_BW_LIMIT. -/
def execSetQosBwLimit (port start : Nat) (fractions : List (BitVec 8)) (s : State) : Host.Outcome State Fault Refusal :=
  s.run (fmApi port (.setQosBwLimit port start fractions) (fmBudget port start true fractions))

/-- R85: TUNNEL_MANAGEMENT. -/
def execTunnelManagement (port ldId : Nat) (inner : TunnelledCommand) (s : State) : Host.Outcome State Fault Refusal :=
  s.run (fmApi port (.tunnelManagement port ldId inner) (fmTunnel port ldId inner))

/-- R85, R91: DCD_MANAGEMENT. -/
def execDcdManagement (port : Nat) (c : DcdCommand) (s : State) : Host.Outcome State Fault Refusal :=
  s.run (fmApi port (.dcdManagement port c) (fmDcd port c))

/-- R101, R585: DOE_DISCOVERY. -/
def execDoeDiscovery (ld index : Nat) (s : State) : Host.Outcome State Fault Refusal :=
  s.run (when (fun d => d.doeHeard ld) fun d => d.emit (.doe ld (discovery index)))

/-- R101: CDAT_READ. -/
def execCdatRead (ld entry : Nat) (s : State) : Host.Outcome State Fault Refusal := s.run (readCdat ld entry)

end Sys2Proof.Machine
end

