-- ==== Sys2Proof/Machine/Twin.lean ====
section
/-! DEFINITION. Twin pairs over the Hallway (chapter 19): pairing, mirrored rooms, lines from the peer, repairs, heartbeats, split, decision and
resynchronisation. -/

namespace Sys2Proof.Machine

namespace Dev

/-! ### Access -/

def modTwin (d : Dev) (f : TwinSt → TwinSt) : Dev := { d with twin := f d.twin }
def twnSet (d : Dev) (f : Fld) (v : Nat) : Dev := d.set Pg.twn f v
def twnFlag (d : Dev) (f : Fld) : Bool := d.flag Pg.twn f
def setTwnState (d : Dev) (s : Nat) : Dev := d.twnSet F.TWN_STS_STATE s

/-- R558: the values that the split fields act as. -/
def silence (d : Dev) : Nat := max 16 (min 1024 (d.get Pg.twn F.TWN_SPLIT_CFG_SILENCE))
def downLim (d : Dev) : Nat := max 64 (d.get Pg.twn F.TWN_SPLIT_CFG_DOWN_LIM)

/-- R546: the decision margin, and the fence window. -/
def splitMargin (d : Dev) : Nat := d.silence + 64
def fenceWindow (d : Dev) : Nat := max (2 * d.splitMargin) (max 1024 (d.get Pg.twn F.TWN_FENCE_STITCHES))

/-- A sequenced packet to the peer (TAG 0, R536). -/
def toPeer (d : Dev) (b : PktBody) : Dev := d.sendPkt 16 0 b

/-- A fresh nonce in a packet to the peer. -/
def toPeerNonce (d : Dev) (b : BitVec 256 → PktBody) : Dev := (d.draw).toPeer (b (Config.nonce d.fresh))

/-- R532: the TWN page pairs. -/
def twinOn (d : Dev) : Bool := d.twnFlag F.TWN_CFG_EN && d.enabled Pg.twn && d.pageReady Pg.twn

/-- The pair stands: Syncing or Paired. -/
def pairStands (d : Dev) : Bool := d.twnState == 2 || d.twnState == 3

/-! ### Rooms (R538) -/

/-- Rooms that the peer has in service with MIRRORED 1. -/
def peerMirrored (d : Dev) : List Nat := (d.twin.peerRooms.filter (fun x => x.2 == 3)).map (·.1)

/-- The position of the copy moves to the first room still to be copied. -/
def syncAt (d : Dev) : Dev :=
  match d.twin.syncRooms with
  | [] => d.twnSet F.TWN_SYNC_POS_ACTIVE 0
  | r :: _ => (d.twnSet F.TWN_SYNC_POS_ACTIVE 1).twnSet F.TWN_SYNC_POS_DPA (r * 2 ^ 30)

/-- R538: rooms that have become mirrored on both members are to be copied by the owner and fenced at the other; those that no longer are leave. -/
def newLive (d : Dev) (both : List Nat) : Dev :=
  let fresh := both.filter (fun r => !d.twin.live.contains r)
  let keep := fun (l : List Nat) => l.filter both.contains
  let head := d.twin.syncRooms.head?
  let src := d.twnFlag F.TWN_STS_SOURCE
  let d1 := d.modTwin fun t =>
    { t with live := keep t.live ++ fresh, fenced := keep t.fenced ++ (if src then [] else fresh),
             syncRooms := if src then keep t.syncRooms ++ sortBy (fun r => [r]) fresh else [],
             syncDone := t.syncDone && fresh.isEmpty }
  if d1.twin.syncRooms.head? = head then d1 else d1.syncAt

/-- R538: rooms that are mirrored on one member alone, each raised when it becomes one. -/
def newPending (d : Dev) (l : List Nat) : Dev :=
  ((l.filter (fun r => !d.twin.pend.contains r)).foldl (fun d r => d.raise Src.twinPending r 0xFF 0) d).modTwin fun t => { t with pend := l }

/-- R538: what the members' rooms come to, after a change of either. -/
def refreshRooms (d : Dev) : Dev :=
  let peer := d.peerMirrored
  if d.pairStands then
    (d.newLive (d.twin.mine.filter peer.contains)).newPending
      (d.twin.mine.filter (fun r => !peer.contains r) ++ peer.filter (fun r => !d.twin.mine.contains r))
  else d.modTwin fun t => { t with live := t.live.filter t.mine.contains, fenced := t.fenced.filter t.mine.contains, pend := [] }

/-! ### Pairing (R532, R533, R553) -/

/-- R532: a failed check, or the time limit: REASON, the source, and the Hallway goes down. -/
def pairFail (d : Dev) (reason : Nat) : Dev :=
  let d1 := ((d.setTwnState d.twin.was).twnSet F.TWN_STS_REASON reason).modTwin fun t => { t with step := 0 }
  (d1.raise Src.twinPairRefused reason 0xFF 0).enterDown 16

/-- R532 step 1: what this member says of itself. -/
def ownHello (d : Dev) : HelloBody :=
  { serial := d.str.fuses.serial, role := d.twnFlag F.TWN_STS_ROLE, part := d.get Pg.gen F.GEN_DEV_ID_PART, state := d.twin.was,
    epoch := d.get Pg.twn F.TWN_EPOCH_EPOCH, owner := (match d.owner with | some (h, _) => h | none => 0),
    fence := d.get Pg.twn F.TWN_FENCE_STITCHES, silence := d.get Pg.twn F.TWN_SPLIT_CFG_SILENCE }

/-- R532 step 1: the checks on the peer's HELLO: 0, or the REASON of the first that fails. -/
def helloCheck (d : Dev) (b : HelloBody) : Nat :=
  let own := d.ownHello
  if b.role = own.role then 1
  else if b.part ≠ 0x9040 ∨ own.part ≠ 0x9040 then 2
  else if d.twnFlag F.TWN_CFG_PEER_PIN ∧
      b.serial.toNat ≠ d.get Pg.twn F.TWN_PEER_SERIAL_LO_SERIAL + d.get Pg.twn F.TWN_PEER_SERIAL_HI_SERIAL * 2 ^ 64 then 3
  else if d.lcState = 2 ∧ b.owner ≠ own.owner then 4
  else if b.silence ≠ own.silence ∨ b.fence ≠ own.fence then 9
  else 0

/-- R532: step 1 is done with the peer's HELLO: its challenge follows. A peer that is Solo holds no mirrored room. -/
def takeHello (d : Dev) (b : HelloBody) : Dev :=
  match d.helloCheck b with
  | 0 =>
    (d.modTwin fun t => { t with step := 2, peer := none, peerRooms := if b.state = 0 then [] else t.peerRooms }).toPeerNonce .challenge
  | r => (d.modTwin fun t => { t with peer := none }).pairFail r

/-- R532: pairing starts: HELLO goes out; one that the peer sent earlier is taken. -/
def startPairing (d : Dev) : Dev :=
  let st := d.twnState
  let d1 := ((d.modTwin fun t => { t with was := st, step := 1, startSn := d.sn }).setTwnState 1).twnSet F.TWN_STS_REASON 0
  let d2 := d1.toPeer (.hello d1.ownHello)
  match d.twin.peer with
  | some b => d2.takeHello b
  | none => d2

/-- R532: pairing may start. -/
def mayPair (d : Dev) : Bool := d.twinOn && d.linkActive 16 && (d.twnState == 0 || d.twnState == 5 || d.twnState == 6)

/-- A packet from the peer: received under R388 to R391, then acted on. -/
def fromPeer (h : YarnHeader) (early : Bool) (f : Effect) : Effect :=
  when (fun d => !d.linkOff 16) fun d =>
    let (ok, d1) := d.receive 16 h early
    (if ok then f d1 else d1).after

/-- R532 step 1: HELLO; after a divergence it starts pairing anew (R553). -/
def rxHello (b : HelloBody) : Effect := fun d =>
  if d.twnState = 1 ∧ d.twin.step = 1 then d.takeHello b
  else if d.mayPair then
    let d1 := d.modTwin fun t => { t with peer := some b }
    if d.get Pg.twn F.TWN_STS_REASON = 7 then d1.startPairing else d1
  else d.unexpected 16 0

/-- A step of pairing is in progress. -/
def atPairing (d : Dev) (k : Nat) : Bool := d.twnState == 1 && d.twin.step == k

/-- R532 step 2: the peer's identity chain and signature. -/
def rxIdentity (ok : Bool) : Effect := fun d =>
  if !d.atPairing 2 then d.unexpected 16 0
  else if !ok then d.pairFail 5
  else
    let d1 := d.modTwin fun t => { t with step := 3 }
    if d.twnFlag F.TWN_STS_ROLE then d1 else d1.toPeerNonce .keyInit

/-- R532 step 3: the key exchange yields K_H and the salt; SOURCE follows. -/
def rxKey (ok : Bool) : Effect := fun d =>
  if !d.atPairing 3 then d.unexpected 16 0
  else if !ok then d.pairFail 6
  else
    let d1 := if d.twnFlag F.TWN_STS_ROLE then d.toPeerNonce .keyInit else d.toPeer .keyConfirm
    ((d1.lset 16 (fSecure 16) 1).modTwin fun t => { t with step := 4 }).toPeer (.source ⟨d.twin.was, d.get Pg.twn F.TWN_EPOCH_EPOCH⟩)

/-- R532 step 5, R554: Syncing: every room that both members mirror is to be copied. -/
def startSync (d : Dev) : Dev :=
  let d1 := (d.setTwnState 2).modTwin fun t =>
    { t with step := 5, live := [], fenced := [], syncRooms := [], syncDone := false, out := [], rx := [], repairs := [], asked := [], snooped := [],
             ackWait := false, copied := 0, hbSn := d.sn, downSn := none, silent := false, pend := [] }
  let d2 := d1.twin.mine.foldl (fun d r => d.toPeer (.room r true true)) d1
  d2.syncAt.refreshRooms

/-- R532 step 4, R533, R553: owner, source and epoch are fixed; two members that are both Alone have diverged. -/
def rxSource (b : SourceBody) : Effect := fun d =>
  if !d.atPairing 4 then d.unexpected 16 0
  else if d.twin.was = 5 ∧ b.state = 5 then
    (((d.setTwnState 5).twnSet F.TWN_STS_REASON 7).modTwin fun t => { t with step := 0 }).raise Src.twinDivergence 0 0xFF 0
  else
    let first := !d.twnFlag F.TWN_STS_ROLE
    let own := if d.twin.was = 5 then true else if b.state = 5 then false else first
    let epoch := (max (d.get Pg.twn F.TWN_EPOCH_EPOCH) b.epoch + 1) % 2 ^ 32
    let d1 := (((d.twnSet F.TWN_STS_OWNER (b2n own)).twnSet F.TWN_STS_SOURCE (b2n own)).twnSet F.TWN_EPOCH_EPOCH epoch)
    let d2 := ((d1.twnSet F.TWN_WITNESS_STS_HELD 0).twnSet F.TWN_WITNESS_STS_WINNER 0).modTwin fun t => { t with offered := none }
    d2.startSync

/-- R532: step 5 not reached within 78,125 stitches of the start. -/
def pairingTimeout : Effect := when (fun d => d.twnState == 1 && decide (d.twin.startSn + 78125 ≤ d.sn)) fun d => d.pairFail 8

/-! ### Lines from the peer (R537, R539 to R543) -/

/-- R543: the master of the lines performed for the peer. -/
def twinWho (d : Dev) (id cls dpa : Nat) (peer : Option (Option Nat)) : Who :=
  { id := 2 ^ 65 + id, ld := 64, master := 131, gm := 131, cls := cls, rd := 11, wr := 11,
    snooped := if d.twin.snooped.contains (dpa / 64) then some (dpa / 64) else none, peer := peer }

/-- A line waits: the snoop that it issued is remembered. -/
def keepSnoop (d : Dev) (s : Option Nat) : Dev :=
  match s with
  | some l => d.modTwin fun t => { t with snooped := if t.snooped.contains l then t.snooped else t.snooped ++ [l] }
  | none => d

/-- A line is done: its snoop is forgotten, its fetch released. -/
def lineDone (d : Dev) (id dpa : Nat) : Dev :=
  (d.modTwin fun t => { t with snooped := t.snooped.filter (· != dpa / 64) }).dropUser (2 ^ 65 + id)

/-- R540: a line performed here follows the flow of its skein; storage it attaches is not checked against quota. -/
def twinWrite (d0 : Dev) (w : Who) (dpa : Nat) (data : BitVec 512) (en : BitVec 64) (poison : Bool) : Got Unit :=
  if (d0.entry (dpaSkein dpa)).state = St.unbacked then .done () d0
  else
    match d0.snoopStep w dpa true with
    | (some d, _) => .wait d (some (dpa / 64)) false
    | (none, d) =>
      match d.locate dpa true with
      | .dram dra ratio => d.writeDram w dra ratio dpa data en poison okFault
      | .larder c x n => .wait (d.awaitFetch w dpa c x n true) none false
      | .copying => .wait d none false
      | .invalid => .done () (d.raise Src.patInvalid dpa w.master w.wr)
      | .noStore page => d.attachWrite w dpa dpa page data en poison
      | .voidStore =>
        (d.openVoid (dpaSkein dpa)).writeDram w (locFrame (d.entry (dpaSkein dpa)).loc * 2 ^ 19 + dpaOff dpa / 64 * 64) 0 dpa data en poison okFault

/-- R554: a skein that the source holds no storage for is cleared as step 3 of R203. -/
def twinZero (d : Dev) (dpa : Nat) : Dev :=
  let p := fun s => s == dpaSkein dpa
  (((d.settleAll (fun m => p m.skein) 4).forgetWants p).endWrites p).clearSkein (dpaSkein dpa)

/-- The host request of an item of this member. -/
def itemReq (d : Dev) (i : MirrorItem) : Option Req :=
  match d.findReq i.req with
  | some r => if r.stage = .mirror ∨ r.stage = .parked .twin then some r else none
  | none => none

/-- An item is done: the request it belongs to completes. -/
def itemDone (d : Dev) (i : MirrorItem) : Dev :=
  let d1 := d.modTwin fun t => { t with out := t.out.filter (· != i) }
  match d1.itemReq i with
  | some r => d1.answerCmp r
  | none => d1

/-- R539: an echoed line stands here: the write that it echoes completes, with the directory as its meta value leaves it. -/
def echoDone (d : Dev) (mid : Nat) : Dev :=
  match d.twin.out.find? (fun i => i.mid == mid && i.req != 0 && !i.here) with
  | none => d
  | some i =>
    let d1 := match d.itemReq i with
      | some r => if (d.entry (dpaSkein r.dpa)).shared then let ((x, hs), _, _) := d.dirNext r; d.setDir (r.dpa / 64) x hs else d
      | none => d
    d1.itemDone i

/-- R537: a line from the peer stands here, or was discarded: its entry is free, MACK names it, and a write it echoes completes. -/
def rxVisible (d : Dev) (i : RxItem) : Dev :=
  let d1 := (d.modTwin fun t => { t with rx := t.rx.drop 1 }).lineDone 0 i.dpa
  let d2 := if d1.pairStands then d1.toPeer (.mack [i.mid]) else d1
  if i.echo then d2.echoDone i.mid else d2

/-- R539: the oldest line received is performed, if it can be. -/
def rxFront (d : Dev) : Dev :=
  match d.twin.rx with
  | [] => d
  | i :: _ =>
    if i.zero then (d.twinZero i.dpa).rxVisible i
    else
      let own := d.twnFlag F.TWN_STS_OWNER && !i.sync && !i.echo
      match d.twinWrite (d.twinWho 0 i.cls i.dpa (some (if own then some i.mid else none))) i.dpa i.data i.enables i.poison with
      | .done _ d1 => d1.rxVisible i
      | .fail d1 => d1.rxVisible i
      | .wait d1 s _ => d1.keepSnoop s

/-- R539: lines received are performed in order, until one has to wait; a SYNC_ACK that waited for them goes out. -/
def rxPump (d : Dev) : Dev :=
  let d1 := (List.range d.twin.rx.length).foldl (fun d _ => d.rxFront) d
  if d1.twin.ackWait && d1.twin.rx.isEmpty then (d1.modTwin fun t => { t with ackWait := false }).toPeer .syncAck else d1

/-- R537: a line is received. -/
def takeLine (d : Dev) (i : RxItem) : Dev :=
  if d.pairStands then (d.modTwin fun t => { t with rx := t.rx ++ [i] }).rxPump else d

/-- R539: MWR. -/
def rxMwr (b : MwrBody) : Effect := fun d =>
  d.takeLine { mid := b.mid, dpa := b.dpa / 64 * 64, data := b.data, enables := b.enables, poison := b.poison, cls := b.cls % 4, echo := b.echo,
               sync := false }

/-- R537, R539: a MACK names a line: the oldest of that MID; a host's write that stands at both members completes, one of the other member still
waits for its echo. -/
def mackOne (d : Dev) (mid : Nat) : Dev :=
  match d.twin.out.find? (fun i => i.sent && !i.acked && i.mid == mid) with
  | none => d.unexpected 16 mid
  | some i =>
    if i.here || i.req == 0 then d.itemDone i
    else d.modTwin fun t => { t with out := t.out.map (fun x => if x = i then { x with acked := true } else x) }

/-! ### Repairs (R541) -/

/-- R541, R246: no good copy came: the rules of an uncorrectable line apply. -/
def failRepair (d : Dev) (req dpa : Nat) : Dev :=
  if req ≠ 0 then
    match d.findReq req with
    | some r => if r.stage = .repair then d.uncorrectable r else d
    | none => d
  else
    match d.locate dpa false with
    | .dram dra ratio =>
      let knit := if ratio = 0 then dpa / 64 * 64 else blockBase dpa
      (d.verdictEvent ((d.place dra).1 / 2) .uncorrectable knit (d.entry (dpaSkein dpa)).owner 11).rewriteLine dra (if ratio = 0 then 0 else 1) knit true
    | _ => d

/-- R541: the line is rewritten with the peer's copy. -/
def rewriteFrom (d : Dev) (dpa : Nat) (bytes : List Nat) : Dev :=
  match d.locate dpa false with
  | .dram dra ratio =>
    let l := (d.place dra).1
    if ratio = 0 then (d.putOpen dra dpa false bytes).pushWqNew l dra
    else
      match decodeSlot (d.readBytes dra (slotSize ratio)) with
      | none => d
      | some ws =>
        let old := blockBytes ws
        let k := dpa % 256 / 64 * 64
        match encodeSlot (slotSize ratio) (blockWords (old.take k ++ bytes ++ old.drop (k + 64))) with
        | some s => (d.putSlot dra (blockBase dpa) false s).pushSlot l dra ratio
        | none => d
  | _ => d

/-- R541: a request that waited for the repair is served from it. -/
def serveRepair (d : Dev) (req : Nat) (data : BitVec 512) : Dev :=
  match d.findReq req with
  | some r =>
    if r.stage ≠ .repair then d
    else if r.kind.isRead then d.answerRead r data false
    else if r.ratio = 0 then d.goodLine { r with snap := lineBytes data, snapPoison := false, snapGood := true }
    else d.slotForRewrite r
  | none => d

/-- R541: SYNC_LINE REPAIR. -/
def takeRepair (d : Dev) (b : SyncBody) : Dev :=
  let dpa := b.dpa / 64 * 64
  let mine := d.twin.repairs.filter (fun x => x.2.1 == dpa)
  let d1 := (d.modTwin fun t => { t with repairs := t.repairs.filter (fun x => x.2.1 != dpa) }).toPeer (.mack [b.mid])
  if mine.isEmpty then d1
  else if b.poison then mine.foldl (fun d x => d.failRepair x.1 dpa) d1
  else
    let d2 := (d1.rewriteFrom dpa (lineBytes b.data)).raise Src.twinRepair dpa (d1.entry (dpaSkein dpa)).owner 0
    mine.foldl (fun d x => d.serveRepair x.1 b.data) d2

/-- R541: a repair has not come within 64 stitches. -/
def repairTimeout (dpa : Nat) : Effect := fun d =>
  let old := d.twin.repairs.filter (fun x => x.2.1 == dpa && decide (x.2.2.1 + 64 ≤ d.sn))
  let d1 := d.modTwin fun t => { t with repairs := t.repairs.filter (fun x => !old.contains x) }
  (old.foldl (fun d x => d.failRepair x.1 x.2.1) d1).after

/-- R541, R543: the lines that the peer asked for are read and sent, those that can be now. -/
def serveAsked (d : Dev) : Dev :=
  d.twin.asked.foldl
    (fun d a =>
      match d.readWindow (d.twinWho 2 3 a none) a a okFault with
      | .done (bs, p) d1 =>
        (((d1.modTwin fun t => { t with asked := t.asked.erase a }).lineDone 2 a).mirrorOut
          { mid := 0, req := 0, dpa := a, data := BitVec.ofNat 512 (ofBytes bs), enables := BitVec.allOnes 64, poison := p, sync := true, repair := true })
      | .wait d1 s _ => d1.keepSnoop s
      | .fail d1 => d1) d

/-- R541: LREQ. -/
def rxLreq (dpa : Nat) : Effect := fun d =>
  if d.pairStands then (d.modTwin fun t => { t with asked := t.asked ++ [dpa / 64 * 64] }).serveAsked else d

/-- R554, R541: SYNC_LINE. -/
def rxSync (b : SyncBody) : Effect := fun d =>
  if b.repair then (if d.pairStands then d.takeRepair b else d)
  else d.takeLine { mid := b.mid, dpa := b.dpa / 64 * 64, data := b.data, enables := BitVec.allOnes 64, poison := b.poison, cls := 3, echo := false,
                    sync := true, zero := b.zero }

/-! ### Resynchronisation (R554) -/

/-- The position of the copy goes on to `dpa`, or to the next room. -/
def syncTo (d : Dev) (dpa : Nat) : Dev :=
  match d.twin.syncRooms with
  | [] => d
  | r :: rest =>
    if dpa >>> 30 = r then d.twnSet F.TWN_SYNC_POS_DPA dpa
    else (d.modTwin fun t => { t with syncRooms := rest, copied := t.copied + 1 }).syncAt

/-- R554: the next line, or skein without storage, is sent; whether the copy can go on. -/
def copyLine (d : Dev) : Bool × Dev :=
  if d.twin.syncRooms.isEmpty then (false, d)
  else
    let a := d.get Pg.twn F.TWN_SYNC_POS_DPA
    let e := d.entry (dpaSkein a)
    let send := fun (d : Dev) (data : BitVec 512) (p z : Bool) => d.mirrorOut
      { mid := 0, req := 0, dpa := a, data := data, enables := BitVec.allOnes 64, poison := p, sync := true, zero := z }
    if a % 2 ^ 21 = 0 ∧ (e.state = St.unbacked ∨ (e.state = St.zero ∧ !e.locValid)) then (true, (send d 0 false true).syncTo (a + 2 ^ 21))
    else
      match d.readWindow (d.twinWho 1 3 a none) a a okFault with
      | .done (bs, p) d1 => (true, ((send d1 (BitVec.ofNat 512 (ofBytes bs)) p false).lineDone 1 a).syncTo (a + 64))
      | .wait d1 s _ => (false, d1.keepSnoop s)
      | .fail d1 => (false, d1)

/-- At most `n` lines. -/
def copyLines : Nat → Dev → Dev
  | 0, d => d
  | n + 1, d => match d.copyLine with
    | (true, d1) => copyLines n d1
    | (false, d1) => d1

/-- R554: a window of the copy; once every line has been sent, SYNC_DONE. -/
def resyncWindow : Effect :=
  when (fun d => d.pairStands && d.twnFlag F.TWN_STS_SOURCE && !d.fatal) fun d =>
    let d1 := (copyLines (d.get Pg.twn F.TWN_SYNC_CFG_LINES) d).after
    if d1.twin.syncRooms.isEmpty && !d1.twin.syncDone && !d1.twin.out.any (fun i => i.sync && !i.repair && !i.sent) &&
        (d1.twnState == 2 || d1.twin.copied != 0) then
      (d1.modTwin fun t => { t with syncDone := true }).toPeer .syncDone
    else d1

/-- R552, R554: the copies are equal: Paired, unless the pair was already. -/
def becomePaired (d : Dev) (copied : Nat) : Dev :=
  let d1 := d.raise Src.twinSyncDone copied 0xFF 0
  if d.twnState ≠ 2 then d1
  else
    let d2 := (d1.setTwnState 3).twnSet F.TWN_PAIR_SN_SN d.sn
    if d.twin.was = 5 ∨ d.twin.was = 6 then d2.latch Src.twinRejoin else d2

/-- R554: SYNC_DONE, answered once every line received is performed. -/
def rxSyncDone : Effect := fun d => if d.pairStands then (d.modTwin fun t => { t with ackWait := true }).rxPump else d

/-- R554: SYNC_ACK: the source is Paired and says so. -/
def rxSyncAck : Effect := fun d =>
  if d.pairStands && d.twin.syncDone then
    ((d.becomePaired d.twin.copied).modTwin fun t => { t with copied := 0 }).toPeer .paired
  else d

/-- R554: PAIRED: the destination's copies answer again. -/
def rxPaired : Effect := fun d =>
  if d.pairStands && !d.twnFlag F.TWN_STS_SOURCE then
    (d.becomePaired d.twin.fenced.length).modTwin fun t => { t with fenced := [] }
  else d

/-- R538: ROOM. -/
def rxRoom (drn : Nat) (mirrored inService : Bool) : Effect := fun d =>
  (d.modTwin fun t => { t with peerRooms := tput (fun _ => 0) t.peerRooms drn (b2n mirrored + 2 * b2n inService) }).refreshRooms

/-! ### Heartbeats and split (R544 to R546, R550) -/

/-- R544: a heartbeat. A good one is shown in TWN_PEER_STS. -/
def heartbeatIn (x : BitVec 128) : Effect :=
  when (fun d => !d.linkOff 16 && d.linkState 16 != 0) fun d =>
    let b := fun (i n : Nat) => bits x.toNat (8 * i) (8 * n)
    if b 0 1 = 0x4C ∧ b 14 2 = crc32c 0 ((List.range 14).map (fun i => b i 1)) % 2 ^ 16 then
      let d1 := (((d.twnSet F.TWN_PEER_STS_STATE (b 1 1 / 2 % 8)).twnSet F.TWN_PEER_STS_ROLE (b 1 1 % 2)).twnSet F.TWN_PEER_STS_EPOCH (b 2 4)).twnSet
        F.TWN_PEER_STS_COUNT (b 6 1)
      d1.modTwin fun t => { t with hbSn := d.sn }
    else d

/-- R544: the heartbeat of a stitch. -/
def heartbeatOut (d : Dev) : Dev :=
  if decide (1 ≤ d.twnState ∧ d.twnState ≤ 3) && !d.fatal && !d.twin.silent && !d.linkOff 16 && d.linkState 16 != 0 then
    (d.emit (.heartbeat d.twnState (d.twin.hbCount % 256) (d.twnFlag F.TWN_STS_ROLE) (d.get Pg.twn F.TWN_EPOCH_EPOCH))).modTwin fun t =>
      { t with hbCount := t.hbCount + 1 }
  else d

/-- R545: a split is detected. -/
def detectSplit (d : Dev) : Dev := if d.pairStands then d.latch Src.twinSplit else d

/-- R546: the dispatch of source 0x420: Window. Mirrored writes park, lines not yet acknowledged are dropped. -/
def splitDispatch (d : Dev) : Dev :=
  if !d.pairStands then d
  else
    let fw := d.fenceWindow
    let at' := if d.twnState = 3 then 0 else if d.twnFlag F.TWN_STS_SOURCE then 1 else 2
    let d1 := (((d.twnSet F.TWN_SPLIT_SN_SN d.sn).twnSet F.TWN_DECIDE_SN_SN (d.sn + fw - d.splitMargin)).twnSet F.TWN_SYNC_POS_ACTIVE 0).setTwnState 4
    let d2 := d1.modTwin fun t =>
      { t with fw := fw, atSplit := at', silent := true, syncRooms := [], syncDone := false, rx := [], asked := [], ackWait := false, pend := [],
               out := t.out.filter (fun i => i.req != 0 && !i.sync) }
    d2.modMem fun m => { m with reqs := m.reqs.map (fun r => if r.stage = .mirror then { r with stage := .parked .twin, outside := true } else r) }

/-- R545: no good heartbeat for SILENCE stitches. -/
def silenceSplit : Effect := when (fun d => d.pairStands && decide (d.twin.hbSn + d.silence ≤ d.sn)) fun d => d.detectSplit

/-- R545: the Hallway has not been Active for DOWN_LIM stitches, or is Down. -/
def downSplit : Effect :=
  when (fun d => d.pairStands && (d.linkState 16 == 0 || (match d.twin.downSn with | some s => decide (s + d.downLim ≤ d.sn) | none => false)))
    fun d => d.detectSplit

/-- R545, R559: a write of TWN_CFG, stitch-aligned; EN cleared while Syncing or Paired acts as a detection. -/
def writeCfg (v : Nat) : Effect := fun d =>
  let d1 := d.store Pg.twn 0x100 3 (v % 4) true
  if v % 2 = 0 then d1.detectSplit else d1

/-! ### Witness and decision (R547, R548) -/

/-- R547: a token is submitted: accepted, or refused. -/
def submitToken (d : Dev) (epoch winner : Nat) : Dev :=
  let st := d.twnState
  let role := d.get Pg.twn F.TWN_STS_ROLE
  let source := if d.twnFlag F.TWN_STS_SOURCE then role else 1 - role
  let ok := decide (epoch = d.get Pg.twn F.TWN_EPOCH_EPOCH) && decide (epoch ≠ 0) && decide (2 ≤ st ∧ st ≤ 4) &&
    (st != 4 || decide (d.sn < d.get Pg.twn F.TWN_DECIDE_SN_SN)) && (st != 2 || winner == source)
  let d1 := d.modTwin fun t => { t with staged := 0 }
  if ok then (d1.modTwin fun t => { t with offered := some winner }).latch Src.twinWitness else d1.twnSet F.TWN_WITNESS_STS_REFUSED 1

/-- R547: a write of TWN_WITNESS: of its lower word, its upper word (`v` the word written), or both. -/
def witness (h : Half64) (v : Nat) : Effect := fun d =>
  match h with
  | .lo => d.modTwin fun t => { t with staged := v % 2 ^ 32 }
  | .hi => d.submitToken d.twin.staged (v % 2)
  | .both => d.submitToken (v % 2 ^ 32) (v / 2 ^ 32 % 2)

/-- R547: the token is held from the dispatch of source 0x422; one dispatched at D or later does not count. -/
def tokenDispatch (d : Dev) : Dev :=
  match d.twin.offered with
  | none => d
  | some w =>
    let d1 := d.modTwin fun t => { t with offered := none }
    if d.twnState = 4 ∧ d.get Pg.twn F.TWN_DECIDE_SN_SN ≤ d.sn then d1
    else (d1.twnSet F.TWN_WITNESS_STS_HELD 1).twnSet F.TWN_WITNESS_STS_WINNER w

/-- R548: a member is Fenced: its parked writes are discarded with Cmp. -/
def becomeFenced (d : Dev) : Dev :=
  let ps := d.mem.reqs.filter (fun r => decide (r.stage = .parked .twin))
  let d1 := ((d.setTwnState 6).twnSet F.TWN_SOLO_SN_SN 0).modTwin fun t => { t with out := [] }
  let d2 := match ps with | [] => d1 | r :: _ => d1.raiseOnce Src.twinFenced r.dpa r.ld r.kind.acc
  ps.foldl (fun d r => d.refuse r) d2

/-- R548, R550: the outcome at D: the member continues Alone. -/
def staysAlone (d : Dev) : Bool :=
  if d.fatal then false
  else
    match d.twin.atSplit with
    | 2 => false
    | 1 => true
    | _ =>
      if d.twnFlag F.TWN_WITNESS_STS_HELD then d.get Pg.twn F.TWN_WITNESS_STS_WINNER == d.get Pg.twn F.TWN_STS_ROLE
      else !d.twnFlag F.TWN_STS_ROLE

/-- R548: stitch D. -/
def decision : Effect :=
  when (fun d => d.twnState == 4 && decide (d.get Pg.twn F.TWN_DECIDE_SN_SN ≤ d.sn)) fun d =>
    let d1 := (d.modTwin fun t => { t with silent := false }).latch Src.twinFence
    (if d.staysAlone then (d1.setTwnState 5).twnSet F.TWN_STS_OWNER 1 else d1.becomeFenced).after

/-- R548: an item of a write that stands here completes; one that waited for its echo is performed here first. -/
def soloItem (d : Dev) (i : MirrorItem) : Dev :=
  if i.here then d.itemDone i
  else
    match d.itemReq i with
    | some r => (d.modTwin fun t => { t with out := t.out.filter (· != i) }).resume r
    | none =>
      (d.modTwin fun t =>
        { t with out := t.out.filter (· != i),
                 rx := t.rx ++ [{ mid := 0, dpa := i.dpa, data := i.data, enables := i.enables, poison := i.poison, cls := i.cls, echo := false, sync := true }] })

/-- R548: stitch E: the Alone member releases its parked writes. -/
def solo : Effect :=
  when (fun d => d.twnStands == 5 && d.twinHolds && decide (d.get Pg.twn F.TWN_SPLIT_SN_SN + d.twin.fw ≤ d.sn)) fun d =>
    let d1 := d.twnSet F.TWN_SOLO_SN_SN (d.get Pg.twn F.TWN_SPLIT_SN_SN + d.twin.fw)
    let d2 := d1.twin.out.foldl (fun d i => d.soloItem i) d1
    let ws := (d2.mem.reqs.filter (fun r => decide (r.stage = .parked .twin))).map (·.id)
    ((ws.foldl (fun d id => d.unpark id) d2).rxPump).after

/-- R553: FORFEIT while Alone: Fenced, and pairing restarts at once. -/
def forfeit : Effect :=
  when (fun d => d.twnState == 5) fun d =>
    let d1 := d.becomeFenced
    (if d1.mayPair then d1.startPairing else d1).after

/-! ### Dispatch (R556) and the stitch -/

/-- The dispatch of a Twin source: what it does, and its page bit. -/
def twinDispatch (d : Dev) (src : Nat) : Dev :=
  let d1 := if src = Src.twinSplit then d.splitDispatch else if src = Src.twinWitness then d.tokenDispatch else d
  d1.setPageBits Pg.twn (2 ^ (src - Src.twinSplit))

/-- R532: the dispatch of the Hallway's link-up. -/
def hallUp (d : Dev) : Dev := if d.mayPair && !d.recordOnly then d.startPairing else d

/-- What the Twin does at each stitch boundary: rooms as they stand, lines that waited, the heartbeat, and the stitches without an Active link. -/
def twinBoundary (d : Dev) : Dev :=
  let down := if d.linkActive 16 then none else match d.twin.downSn with | some s => some s | none => some d.sn
  let d1 := if d.twin.mine.isEmpty && d.twin.peerRooms.isEmpty && d.twin.live.isEmpty then d else d.refreshRooms
  let d2 := if d1.twin.rx.isEmpty && !d1.twin.ackWait then d1 else d1.rxPump
  let d3 := if d2.twin.asked.isEmpty then d2 else d2.serveAsked
  (if d3.twnState = 0 then d3 else d3.modTwin fun t => { t with downSn := down }).heartbeatOut

end Dev

/-! ### The commands -/

open Dev

/-- R532 step 1: HELLO. -/
def execHello (h : YarnHeader) (b : HelloBody) (s : State) : Host.Outcome State Fault Refusal := s.run (fromPeer h true (rxHello b))

/-- R532 step 2: PEER_IDENTITY_CHALLENGE. -/
def execPeerIdentityChallenge (h : YarnHeader) (ok : Bool) (s : State) : Host.Outcome State Fault Refusal := s.run (fromPeer h true (rxIdentity ok))

/-- R532 step 3: HALLWAY_KEY. -/
def execHallwayKey (h : YarnHeader) (ok : Bool) (s : State) : Host.Outcome State Fault Refusal := s.run (fromPeer h true (rxKey ok))

/-- R553, R532 step 4: SOURCE. -/
def execSource (h : YarnHeader) (b : SourceBody) (s : State) : Host.Outcome State Fault Refusal := s.run (fromPeer h true (rxSource b))

/-- R532: PAIRING_TIMEOUT. -/
def execPairingTimeout (s : State) : Host.Outcome State Fault Refusal := s.run pairingTimeout

/-- R538: ROOM. -/
def execRoom (h : YarnHeader) (drn : Nat) (mirrored inService : Bool) (s : State) : Host.Outcome State Fault Refusal :=
  s.run (fromPeer h true (rxRoom drn mirrored inService))

/-- R539: MWR. -/
def execMwr (h : YarnHeader) (b : MwrBody) (s : State) : Host.Outcome State Fault Refusal := s.run (fromPeer h false (rxMwr b))

/-- R537: MACK. -/
def execMack (h : YarnHeader) (mids : List Nat) (s : State) : Host.Outcome State Fault Refusal :=
  s.run (fromPeer h false fun d => mids.foldl (fun d m => d.mackOne m) d)

/-- R554, R541: SYNC_LINE. -/
def execSyncLine (h : YarnHeader) (b : SyncBody) (s : State) : Host.Outcome State Fault Refusal := s.run (fromPeer h false (rxSync b))

/-- R541: LREQ. -/
def execLreq (h : YarnHeader) (dpa : Nat) (s : State) : Host.Outcome State Fault Refusal := s.run (fromPeer h false (rxLreq dpa))

/-- R554: SYNC_DONE. -/
def execSyncDone (h : YarnHeader) (s : State) : Host.Outcome State Fault Refusal := s.run (fromPeer h true rxSyncDone)

/-- R554: SYNC_ACK. -/
def execSyncAck (h : YarnHeader) (s : State) : Host.Outcome State Fault Refusal := s.run (fromPeer h true rxSyncAck)

/-- R554, R552: PAIRED. -/
def execPaired (h : YarnHeader) (s : State) : Host.Outcome State Fault Refusal := s.run (fromPeer h true rxPaired)

/-- R554: TWIN_RESYNC_WINDOW. -/
def execTwinResyncWindow (s : State) : Host.Outcome State Fault Refusal := s.run resyncWindow

/-- R541: MIRROR_REPAIR_TIMEOUT. -/
def execMirrorRepairTimeout (dpa : Nat) (s : State) : Host.Outcome State Fault Refusal := s.run (repairTimeout dpa)

/-- R544: HEARTBEAT_RECEIVED. -/
def execHeartbeatReceived (bytes : BitVec 128) (s : State) : Host.Outcome State Fault Refusal := s.run (heartbeatIn bytes)

/-- R545: HEARTBEAT_SILENCE. -/
def execHeartbeatSilence (s : State) : Host.Outcome State Fault Refusal := s.run silenceSplit

/-- R545: HALLWAY_DOWN_LIMIT. -/
def execHallwayDownLimit (s : State) : Host.Outcome State Fault Refusal := s.run downSplit

/-- R545, R559: TWIN_EN_CLEAR, a write of TWN_CFG. -/
def execTwinEnClear (a : Agent) (v : BitVec 32) (s : State) : Host.Outcome State Fault Refusal :=
  s.run (writeTo v.toNat a Pg.twn 0x100 (writeCfg v.toNat))

/-- The half that a held write of TWN_WITNESS covers, as a number. -/
def halfCode : Half64 → Nat
  | .lo => 0 | .hi => 1 | .both => 2

/-- R547: TWIN_WITNESS_WRITE. -/
def execTwinWitnessWrite (a : Agent) (h : Half64) (v : BitVec 64) (s : State) : Host.Outcome State Fault Refusal :=
  s.run (writeTo (v.toNat + 2 ^ 64 * halfCode h) a Pg.twn 0x128 (witness h v.toNat))

/-- R548, R550: TWIN_DECISION. -/
def execTwinDecision (s : State) : Host.Outcome State Fault Refusal := s.run decision

/-- R548: TWIN_SOLO. -/
def execTwinSolo (s : State) : Host.Outcome State Fault Refusal := s.run solo

/-- R553: TWIN_FORFEIT, a write of TWN_CTL.FORFEIT. -/
def execTwinForfeit (a : Agent) (s : State) : Host.Outcome State Fault Refusal := s.run (writeTo 1 a Pg.twn 0x158 forfeit)

end Sys2Proof.Machine
end

