-- ==== Sys2Proof/Machine/Flags.lean ====
section
/-! DEFINITION. Every status field that the device computes rather than stores: PG_STS, PG_ID, GEN_PEND, GEN_STS, STC_STS, the words that
mirror per-source state, and the read-only words of the blocks that follow from their state. -/

namespace Sys2Proof.Machine

namespace Dev

/-- PG_STS.FAULT (R66): some FCU source of the page's range has its status set. -/
def pageFault (d : Dev) (p : Nat) : Bool :=
  let (f, n) := pageFcu p
  (List.range n).any (fun k => d.fcuSet (f + k))

/-- QMG_QP_ASSIGN.ENABLED: the pair is enabled and not halted, or has jobs left (R340). -/
def ringEnabled (d : Dev) (q : Nat) : Bool := (d.pairOn q && !d.pairHalted q) || !(d.pairJobs q).isEmpty

/-- PG_STS.BUSY (R62): work that the block of the page has accepted is not complete. -/
def pageBusy (d : Dev) (p : Nat) : Bool :=
  let i := pageInst p
  match pageKind p with
  | some .pwr => d.flag p F.PWR_STS_PENDING || d.flag p F.PWR_STS_IN_PROGRESS
  | some .hp => d.mem.reqs.any (fun r => r.port == i)
  | some .ldm => d.mem.reqs.any (fun r => r.ld == i)
  | some .pat => d.flag p F.PAT_ROOM_CMD_BUSY || !d.mem.pat.misses.isEmpty
  | some .tir => !d.mem.tier.migs.isEmpty || !d.mem.store.filling.isEmpty
  | some .cmp => d.cmpBusy i != 0
  | some .cry => d.flag p F.CRY_STS_REKNIT_ACTIVE || d.mem.cry.starting
  | some .dc => !(d.chan i).subA.queue.isEmpty || !(d.chan i).subB.queue.isEmpty || !(d.chan i).subA.wq.isEmpty || !(d.chan i).subB.wq.isEmpty ||
      d.flag p F.DC_STS_SPARING
  | some .gau => d.flag p F.GAU_COMMIT_BUSY
  | some .qmg => !d.rings.jobs.isEmpty
  | some .dmv => (List.range 64).any (fun ch => (d.mover ch).running)
  | some .yp => !(d.lnk i).stored.isEmpty || !(d.cart i).txns.isEmpty
  | some .hwl => !(d.lnk 16).stored.isEmpty
  | some .ctg => (List.range 16).any (fun n => (d.cart n).step != 0)
  | some .noc => d.flag p F.NOC_STS_DRAINING
  | some .str => d.lcBusy
  | some .dbg => d.str.dbgAcc.isSome
  | _ => false

/-- PG_STS as it reads (R62). -/
def pgSts (d : Dev) (p : Nat) : Nat :=
  b2n (d.pageReady p) + 2 * b2n (d.pageBusy p) + 4 * d.get p F.PG_STS_FROGGED + 8 * b2n (d.pageFault p)

/-- GEN_STS.ALL_READY (R72): every page with ENABLE = 1 has READY = 1. -/
def allReady (d : Dev) : Bool := allPages.all (fun p => !d.enabled p || d.pageReady p)

/-- The words of the STC page that act on one source (R45): STC_SRC_CFG, STC_SRC_RATE, STC_SRC_STS, STC_SRC_COUNT. -/
def srcWord (d : Dev) (src off : Nat) : Nat :=
  if off = 0x134 then bits (d.pendWord (Bk.stc src) 0x134) 0 21 + b2n (!srcIsLevel src) * 2 ^ 21 + b2n (d.exempt src) * 2 ^ 22
  else if off = 0x13C then
    bits (d.word (Bk.stc src) 0x13C).toNat 0 3 + 8 * b2n (d.srcWaiting src) + 16 * d.category src + 2 ^ 8 * d.get (Bk.stc src) F.STC_SRC_STS_RUN
  else d.pendWord (Bk.stc src) off

/-- The computed words of the STC page (R45). -/
def stcWord (d : Dev) (off : Nat) : Option Nat :=
  if off = 0x100 then some (d.sn % 2 ^ 32)
  else if off = 0x104 then some ((tget (fun _ => (0 : Word)) d.bar.latch Pg.stc).toNat)
  else if off = 0x108 then some (Config.cycle d.fresh).toNat
  else if off = 0x114 then
    some (d.get Pg.stc F.STC_STS_SN_APPROX + 2 * b2n d.clk.refclk + 4 * b2n (!d.stc.align.isEmpty) +
      8 * d.get Pg.stc F.STC_STS_PLL_RETRY)
  else if off = 0x118 then some ((d.stc.events.filter (fun e => e.sn != d.sn)).length % 2 ^ 12)
  else if 0x134 ≤ off ∧ off < 0x144 then some (d.srcWord (d.get Pg.stc F.STC_SRC_SEL_INDEX) off)
  else if 0x400 ≤ off ∧ off < 0x500 then
    some (wordOf fun b => d.flag (Bk.stc (8 * (off - 0x400) + b)) F.STC_SRC_STS_MASKED)
  else if 0x500 ≤ off ∧ off < 0x600 then
    some (wordOf fun b => d.flag (Bk.stc (8 * (off - 0x500) + b)) F.STC_SRC_STS_QUAR)
  else none

/-- The computed words of the GEN page (R72, R73). -/
def genWord (d : Dev) (off : Nat) : Option Nat :=
  if off = 0x118 then some (b2n d.allReady)
  else if off = 0x124 then
    let p := d.get Pg.gen F.GEN_IRQ_SEL_PAGE
    some (if (pageKind p).isSome then (d.word (Bk.route p) 0x124).toNat else 0)
  else if off = 0x12C then
    let p := d.get Pg.gen F.GEN_ACC_SEL_PAGE
    some (if (pageKind p).isSome then d.pendWord (Bk.acc p) 0x12C else 0)
  else if 0x140 ≤ off ∧ off < 0x180 then some (wordOf fun b => d.pagePending (8 * (off - 0x140) + b))
  else none

/-- The computed words of the FCU page (R478). -/
def fcuWord (d : Dev) (off : Nat) : Option Nat :=
  if 0x200 ≤ off ∧ off < 0x280 then some (wordOf fun b => d.fcuSet (8 * (off - 0x200) + b)) else none

/-- The computed words of the LDM page of an LD (R137). -/
def ldmWord (d : Dev) (n off : Nat) : Option Nat :=
  if off = 0x100 then
    some (b2n (d.bound n) + 2 * b2n (d.isViral n) + 4 * b2n (d.overQuota n) +
      8 * b2n (d.flag (Pg.ldm n) F.LDM_STS_QUOTA_WARN && d.atWarn n (d.useKib n)))
  else none

/-- FIRST of HP_VEC_ALLOCn and HP_HDM_ALLOCn (R107): the sum of COUNT over the lower LD-IDs. -/
def hpWord (d : Dev) (port off : Nat) : Option Nat :=
  let p := Pg.hp port
  if 0x120 ≤ off ∧ off < 0x160 then
    let n := (off - 0x120) / 4
    some (d.get p (F.HP_VEC_ALLOC_COUNT.sh (4 * n)) +
      2 ^ 16 * ((List.range n).foldl (fun t k => t + d.get p (F.HP_VEC_ALLOC_COUNT.sh (4 * k))) 0))
  else if 0x160 ≤ off ∧ off < 0x1A0 then
    let n := (off - 0x160) / 4
    some (d.get p (F.HP_HDM_ALLOC_COUNT.sh (4 * n)) +
      2 ^ 8 * ((List.range n).foldl (fun t k => t + d.get p (F.HP_HDM_ALLOC_COUNT.sh (4 * k))) 0))
  else none

/-- The word at `off` of a 64-bit value that a register at `base` reads. -/
def halfOf (base off v : Nat) : Nat := if off = base then v % 2 ^ 32 else v >>> 32

/-- The computed words of the PAT page (R139). -/
def patWord (d : Dev) (off : Nat) : Option Nat :=
  if off = 0x124 then some d.mem.pat.cache.length
  else if off = 0x128 then some (d.mem.pat.cache.filter d.wayLocked).length
  else none

/-- TIR_MOVE_INFO of a migration (R206). -/
def moveInfo (d : Dev) (m : Mig) : Nat :=
  m.skein + m.page.getD 0 * 2 ^ 31 + b2n m.page.isSome * 2 ^ 40 + m.srcState * 2 ^ 41 + m.dstState * 2 ^ 44 + m.cause * 2 ^ 47 + 2 ^ 51 +
    (if m.page.isSome then 0 else (d.entry m.skein).progress) * 2 ^ 52

/-- The computed words of the TIR page (R206). -/
def tirWord (d : Dev) (off : Nat) : Option Nat :=
  let sel := d.mem.tier.migs.find? (fun m => m.id == d.get Pg.tir F.TIR_MOVE_SEL_ID)
  if off = 0x134 then some (d.mem.tier.migs.length + (d.mem.tier.fetches.filter (·.buffered)).length * 2 ^ 16)
  else if off = 0x154 then some d.mapsFree
  else if off = 0x168 then some d.framesFree
  else if off = 0x174 then some d.mem.store.filling.length
  else if off = 0x188 ∨ off = 0x18C then some (halfOf 0x188 off (match sel with | some m => d.moveInfo m | none => 0))
  else if off = 0x190 ∨ off = 0x194 then some (halfOf 0x190 off (match sel with | some m => m.sn | none => 0))
  else none

/-- The computed words of the GAU page (R329, R322): the scaled guarantee and the ceiling in force of the pair that GAU_BUD_SEL names. -/
def gauWord (d : Dev) (off : Nat) : Option Nat :=
  let m := d.get Pg.gau F.GAU_BUD_SEL_MASTER
  let c := d.get Pg.gau F.GAU_BUD_SEL_CLASS
  if off = 0x128 ∨ off = 0x12C then (if 132 ≤ m then some 0 else none)
  else if off = 0x130 then some (if 132 ≤ m then 0 else guar d.mem.gau.live m c * d.scaleOf c / 256)
  else if off = 0x134 then some (if 132 ≤ m then 0 else ceiling d.mem.gau.live m c)
  else if off = 0x180 ∨ off = 0x184 then (if 132 ≤ d.get Pg.gau F.GAU_MON_SEL_MASTER then some 0 else none)
  else none

/-- The computed words of the QMG page (R355). -/
def qmgWord (d : Dev) (off : Nat) : Option Nat :=
  let q := d.get Pg.qmg F.QMG_QP_SEL_PAIR
  if off = 0x104 then some d.jobsActive
  else if off = 0x10C then some (bits (d.word (Bk.qp q) 0x10C).toNat 0 31 + b2n (d.ringEnabled q) * 2 ^ 31)
  else if off = 0x110 then some (d.qslot q F.SLOT_SQ_HEAD + d.qslot q F.SLOT_CQ_TAIL * 2 ^ 16)
  else if off = 0x114 then some (d.inFlight q % 2 ^ 7 + d.qslot q F.SLOT_HALTED * 2 ^ 7 + d.qslot q F.SLOT_ERR * 2 ^ 8)
  else if 0x400 ≤ off ∧ off < 0x800 then some (wordOf fun b => d.pairHalted (8 * (off - 0x400) + b))
  else none

/-- The computed words of the DMV page (R379). -/
def dmvWord (d : Dev) (off : Nat) : Option Nat :=
  let mask := fun (f : Nat → Bool) => bitMask ((List.range 64).filter f)
  if off = 0x100 then some ((List.range 64).filter (fun ch => (d.mover ch).running)).length
  else if off = 0x110 ∨ off = 0x114 then some (halfOf 0x110 off (mask fun ch => d.chReg ch F.DMV_CH_STS_HALTED == 1))
  else if off = 0x118 ∨ off = 0x11C then some (halfOf 0x118 off (mask fun ch => d.chReg ch F.DMV_CH_CTL_EN == 1))
  else none

/-- The computed words of the CTG page (R428): STATE with BOUND, the free extents and the unclean ones, of each port. -/
def ctgWord (d : Dev) (off : Nat) : Option Nat :=
  let n := (off - 0x400) / 0x40
  if off < 0x400 ∨ 0x800 ≤ off then none
  else match off % 0x40 with
    | 0x00 => some (bits (d.word Pg.ctg off).toNat 0 14 + b2n (d.cart n).bound.isSome * 2 ^ 14)
    | 0x1C => some (d.extFree n)
    | 0x38 => some (d.extUnclean n)
    | _ => none

/-- The computed words of the NOC page (R451); probe counts and the trace are free values. -/
def nocWord (d : Dev) (off : Nat) : Option Nat :=
  if off = 0x110 then some d.readRtEnt
  else if off = 0x13C then some d.endpointInfo
  else if off = 0x144 then some ((Config.nocTrace d.fresh).toNat % 2 ^ 16)
  else if 0x150 ≤ off ∧ off < 0x160 then some (Config.nocTrace d.fresh).toNat
  else if 0x200 ≤ off ∧ off < 0x400 ∧ off % 32 = 0x10 then some (Config.nocTrace d.fresh).toNat
  else if 0x200 ≤ off ∧ off < 0x400 ∧ off % 32 = 0x14 then some ((Config.nocTrace d.fresh).toNat % 2 ^ 16)
  else none

/-- The words of the STR page that follow from the fuses, the running image and the sessions (R528). -/
def strWord (d : Dev) (off : Nat) : Option Nat :=
  let f := d.str.fuses
  if off = 0x100 then
    some (d.lcState + b2n d.owner.isSome * 2 ^ 3 + d.get Pg.str F.STR_STS_RECOVERY * 2 ^ 4 + d.get Pg.str F.STR_STS_TRNG_OK * 2 ^ 5 +
      b2n d.lcBusy * 2 ^ 6 + d.debugLevel * 2 ^ 7)
  else if off = 0x104 then
    some (b2n (match d.owner with | some (_, sg) => sg | none => false) + (if d.owner.isSome then f.owners.length - 1 else 0) * 2 +
      f.owners.length * 2 ^ 4 + f.refurb * 2 ^ 8 + (2 ^ f.anchors.length - 1) * 2 ^ 10 +
      bitMask ((List.range 8).filter fun a => (f.anchors[a]?.map (·.2)).getD false) * 2 ^ 18)
  else if 0x108 ≤ off ∧ off < 0x118 then some (bits f.serial.toNat (8 * (off - 0x108)) 32)
  else if off = 0x118 then some (match d.str.running with | some im => im.version % 2 ^ 32 | none => 0)
  else if off = 0x11C then some ((match d.str.running with | some im => im.svn | none => 0) % 2 ^ 8 + f.minSvn * 2 ^ 8)
  else if off = 0x120 then some (d.get Pg.str F.STR_FW_SLOT_RUNNING + d.str.activeSlot * 4 + d.get Pg.str F.STR_FW_SLOT_STAGED * 2 ^ 4)
  else if off = 0x154 then some d.str.sessions.length
  else if 0x180 ≤ off ∧ off < 0x220 then some (bits (d.measurement ((off - 0x180) / 32 + 1)) (8 * (off % 32)) 32)
  else none

/-- The nonce of the debug port (R524). -/
def dbgWord (d : Dev) (off : Nat) : Option Nat :=
  if 0x120 ≤ off ∧ off < 0x140 then some (bits (Config.nonce d.str.dbgNonce).toNat (8 * (off - 0x120)) 32) else none

/-- The computed words of the TWN page (R558). -/
def twnWord (d : Dev) (off : Nat) : Option Nat :=
  if off = 0x160 then some (d.get Pg.twn F.TWN_MWR_STS_OUT + d.twin.rx.length * 2 ^ 16)
  else if off = 0x178 then some (d.twin.live.filter (fun r => !d.twin.syncRooms.contains r && !d.twin.fenced.contains r)).length
  else if off = 0x17C then some d.twin.pend.length
  else none

/-- The computed words of a DC page: DC_STS with SELF_REF, and DC_INSTALLED of the DC0 page (R270, R300). -/
def dcWord (d : Dev) (p off : Nat) : Option Nat :=
  if off = 0x108 then some ((d.word p 0x108).toNat ||| 2 * b2n (d.chan (pageInst p)).selfRef)
  else if p = Pg.dc 0 ∧ (off = 0x208 ∨ off = 0x20C) then some (halfOf 0x208 off d.installed)
  else none

/-- The header words that are computed (R62). -/
def hdrWord (d : Dev) (p off : Nat) : Option Nat :=
  if off = 0x000 then some (1 + pageInst p * 2 ^ 8 + pageType p * 2 ^ 16)
  else if off = 0x004 then some (pageCap p)
  else if off = 0x00C then some (d.pgSts p)
  else if off = 0x018 then some 0
  else if off = 0x020 then some ((pageFcu p).1 + (pageFcu p).2 * 2 ^ 16)
  else none

/-- The word that the device computes at an offset of a page, if it is one of those. -/
def computedWord (d : Dev) (p off : Nat) : Option Nat :=
  if off < 0x100 then d.hdrWord p off
  else
    match pageKind p with
    | some .stc => d.stcWord off
    | some .gen => d.genWord off
    | some .fcu => d.fcuWord off
    | some .ldm => d.ldmWord (pageInst p) off
    | some .hp => d.hpWord (pageInst p) off
    | some .pat => d.patWord off
    | some .tir => d.tirWord off
    | some .gau => d.gauWord off
    | some .qmg => d.qmgWord off
    | some .dmv => d.dmvWord off
    | some .ctg => d.ctgWord off
    | some .noc => d.nocWord off
    | some .str => d.strWord off
    | some .dbg => d.dbgWord off
    | some .twn => d.twnWord off
    | some .cmp => if off = 0x108 then some (let w := d.cmpBusy (pageInst p); if w = 0 then 0 else 1 + 2 * w) else none
    | some .dc => d.dcWord p off
    | _ => none

/-- A register word as a read returns it: computed, or stored in the page or in the bank entry its selection register names, with the
pending stitch-aligned writes applied (R41). An offset that no table lists reads 0 (R15, RSV). -/
def readWord (d : Dev) (p off : Nat) : Nat :=
  match d.computedWord p off with
  | some v => v % 2 ^ 32
  | none =>
    match pageKind p with
    | none => 0
    | some k =>
      match findRow k off with
      | none => 0
      | some r => d.pendWord (if r.bank then d.bankOf p off else p) off

end Dev

end Sys2Proof.Machine
end

