-- ==== Sys2Proof/Machine/Vendor.lean ====
section
/-! DEFINITION. The vendor mailbox commands of chapter 3 (R102 to R105): who may issue one, the length of its payload, the ranges of its fields, and what
it answers. The order of the checks is R102's. A command is heard, held in a pause and turned away in ROM recovery as every mailbox command is. -/

namespace Sys2Proof.Machine

namespace Dev

/-- R102: an LD that the table does not allow gets Unsupported, a wrong length Invalid Payload Length. -/
def vendorOk (len want : Nat) (ok : Dev → Bool) (ld : Nat) (f : Effect) : Effect := fun d =>
  if !ok d then d.answer ld .unsupported []
  else if len ≠ want then d.answer ld .invalidPayloadLength []
  else f d

/-- A command of any LD. -/
def anyLd (ld len want : Nat) (rom : Bool) (c : Instr) (f : Effect) : Effect := mbox ld rom c (vendorOk len want (fun _ => true) ld f)

/-- A command of management LDs. -/
def mgmtLd (ld len want : Nat) (c : Instr) (f : Effect) : Effect := mbox ld false c (vendorOk len want (fun d => d.isMgmt ld) ld f)

/-- A field outside its range: Invalid Input and no effect. -/
def within (ld : Nat) (ok : Bool) (f : Effect) : Effect := fun d => if ok then f d else d.answer ld .invalidInput []

/-- Do an effect, then answer Success with a payload computed before it. -/
def doAnswer (ld : Nat) (f : Effect) (p : Dev → List Nat) : Effect := fun d => (f d).answer ld .success (p d)

/-- The version that Get Device Info reports: 0 in ROM recovery. -/
def infoVersion (d : Dev) : Nat := if d.flag Pg.str F.STR_STS_RECOVERY then 0 else d.runVersion

/-- The answer of Get Device Info. -/
def deviceInfo (d : Dev) (ld : Nat) : List Nat :=
  [0x9040, d.get Pg.gen F.GEN_DEV_ID_STEP, d.lcState, d.infoVersion, d.sn, ld / 16, ld % 16, ld, b2n (d.isMgmt ld)]

/-- The answer of Get STC Source. -/
def sourceInfo (d : Dev) (src : Nat) : List Nat := [0x134, 0x138, 0x13C, 0x140].map (d.srcWord src)

/-- Set STC Source: both registers of the source, from the next stitch boundary (R41). -/
def setSource (src cfg rate : Nat) : Effect := fun d =>
  (d.store (Bk.stc src) 0x134 0x1FFFFF cfg true).store (Bk.stc src) 0x138 0xFFFF rate true

/-- Release STC Source. -/
def releaseSource (src : Nat) (mask quar : Bool) : Effect := fun d =>
  let d1 := if mask then d.releaseMask src else d
  if quar then d1.releaseQuar src else d1

/-- The image of a route entry; a reserved page reads 0 (R73). -/
def routeImage (d : Dev) (p : Nat) : Nat := if (pageKind p).isNone then 0 else (d.word (Bk.route p) 0x124).toNat

/-- The image of an access entry, with a write that waits for its boundary read as written (R41); a reserved page reads 0 (R73). -/
def accessImage (d : Dev) (p : Nat) : Nat := if (pageKind p).isNone then 0 else d.pendWord (Bk.acc p) 0x12C

/-- R105: the targets of each type and their ranges. -/
def frogTarget (kind index : Nat) : Option FrogTarget :=
  match kind with
  | 0 => if index < 8192 then some (.ring index) else none
  | 1 => if index < 64 then some (.dmv index) else none
  | 2 => if 0 < index ∧ index < 4096 then some (.migration index) else none
  | 3 => if index < 64 then some (.page (Pg.ldm index)) else none
  | 4 => if index < 16 then some (.page (Pg.yp index)) else none
  | 5 => if index < 80 then some (.page (Pg.cmp index)) else none
  | _ => none

/-- R105: a service ring is frogged by the LD its pair is assigned to, or by a management LD; everything else by a management LD. -/
def frogIssuer (d : Dev) (ld kind index : Nat) : Bool :=
  d.isMgmt ld || (kind == 0 && decide (index < 8192) && d.qpLd index == ld)

/-- Frog: the request is taken; its completion answers the mailbox. Types 3 to 5 act as a write of PG_CTL.FROG of the target's page. -/
def mbFrog (ld kind index : Nat) : Effect := fun d =>
  match frogTarget kind index with
  | none => d.answer ld .invalidInput []
  | some (.page p) => (d.setFlag p F.PG_CTL_FROG true).askFrog (.page p) (some ld)
  | some t => d.askFrog t (some ld)

/-- The answer of Get Port Allocation. -/
def portAllocation (d : Dev) (port : Nat) : List Nat :=
  ((List.range 16).map fun n => [d.get (Pg.hp port) (F.HP_VEC_ALLOC_COUNT.sh (4 * n)), d.get (Pg.hp port) (F.HP_HDM_ALLOC_COUNT.sh (4 * n))]).flatten

/-- The entry of LD-ID `n` of a Set Port Allocation, where apply is set. -/
def applied (es : List AllocEntry) (n : Nat) : Option AllocEntry := (es[n]?).filter (·.apply)

/-- The counts of a port after a Set Port Allocation. -/
def newVec (d : Dev) (port : Nat) (es : List AllocEntry) (n : Nat) : Nat :=
  match applied es n with | some e => e.vectors | none => d.get (Pg.hp port) (F.HP_VEC_ALLOC_COUNT.sh (4 * n))

/-- As above, for HDM decoders. -/
def newHdm (d : Dev) (port : Nat) (es : List AllocEntry) (n : Nat) : Nat :=
  match applied es n with | some e => e.decoders | none => d.get (Pg.hp port) (F.HP_HDM_ALLOC_COUNT.sh (4 * n))

/-- R88, R93, R94, R104: every entry to be applied is one that R94 takes, with all of them applied together. -/
def allocOk (d : Dev) (port : Nat) (es : List AllocEntry) : Bool :=
  let vecs := ((List.range 16).map (d.newVec port es)).foldl (· + ·) 0
  let hdms := ((List.range 16).map (d.newHdm port es)).foldl (· + ·) 0
  decide (port < 4 ∧ es.length = 16 ∧ hdms ≤ 16) &&
  (List.range 16).all (fun n =>
    match applied es n with
    | none => true
    | some e => d.allocFree port n && e.vectors % 32 == 0 && vecOk e.vectors vecs && hdmCounts.contains e.decoders)

/-- Set Port Allocation: the counts of the applied entries. -/
def allocApply (port : Nat) (es : List AllocEntry) : Effect := fun d =>
  (List.range 16).foldl (fun d n =>
    match applied es n with
    | none => d
    | some e => (d.set (Pg.hp port) (F.HP_VEC_ALLOC_COUNT.sh (4 * n)) e.vectors).set (Pg.hp port) (F.HP_HDM_ALLOC_COUNT.sh (4 * n)) e.decoders) d

end Dev

open Dev

/-- R104, R506: GET_DEVICE_INFO, which the ROM serves too. -/
def execGetDeviceInfo (ld len : Nat) (s : State) : Host.Outcome State Fault Refusal :=
  s.run (anyLd ld len 0 true (.getDeviceInfo ld len) (doAnswer ld id (fun d => d.deviceInfo ld)))

/-- R104, R98: GET_STITCH_NUMBER: SN and the timestamp of the same stitch. -/
def execGetStitchNumber (ld len : Nat) (s : State) : Host.Outcome State Fault Refusal :=
  s.run (anyLd ld len 0 false (.getStitchNumber ld len) (doAnswer ld id (fun d => [d.sn, d.timestamp])))

/-- R104: GET_STC_SOURCE. -/
def execGetStcSource (ld len src : Nat) (s : State) : Host.Outcome State Fault Refusal :=
  s.run (mgmtLd ld len 2 (.getStcSource ld len src) (within ld (decide (src < 2048)) (doAnswer ld id (fun d => d.sourceInfo src))))

/-- R104, R41: SET_STC_SOURCE. -/
def execSetStcSource (ld len src : Nat) (cfg rate : BitVec 32) (s : State) : Host.Outcome State Fault Refusal :=
  s.run (mgmtLd ld len 12 (.setStcSource ld len src cfg rate) (within ld (decide (src < 2048))
    (doAnswer ld (setSource src cfg.toNat rate.toNat) (fun d => [d.sn + 1]))))

/-- R104, R36, R37: RELEASE_STC_SOURCE. -/
def execReleaseStcSource (ld len src : Nat) (mask quarantine : Bool) (s : State) : Host.Outcome State Fault Refusal :=
  s.run (mgmtLd ld len 4 (.releaseStcSource ld len src mask quarantine) (within ld (decide (src < 2048))
    (doAnswer ld (releaseSource src mask quarantine) (fun _ => []))))

/-- R104: GET_INTERRUPT_ROUTE. -/
def execGetInterruptRoute (ld len page : Nat) (s : State) : Host.Outcome State Fault Refusal :=
  s.run (mgmtLd ld len 2 (.getInterruptRoute ld len page) (within ld (decide (page < 16384)) (doAnswer ld id (fun d => [d.routeImage page]))))

/-- R104, R68: SET_INTERRUPT_ROUTE, in force when the command completes. -/
def execSetInterruptRoute (ld len page : Nat) (v : BitVec 32) (s : State) : Host.Outcome State Fault Refusal :=
  s.run (mgmtLd ld len 8 (.setInterruptRoute ld len page v) (within ld (decide (page < 16384)) (doAnswer ld (setRoute page v.toNat) (fun _ => []))))

/-- R104: GET_PAGE_ACCESS. -/
def execGetPageAccess (ld len page : Nat) (s : State) : Host.Outcome State Fault Refusal :=
  s.run (mgmtLd ld len 2 (.getPageAccess ld len page) (within ld (decide (page < 16384)) (doAnswer ld id (fun d => [d.accessImage page]))))

/-- R104, R61: SET_PAGE_ACCESS. -/
def execSetPageAccess (ld len page : Nat) (v : BitVec 32) (s : State) : Host.Outcome State Fault Refusal :=
  s.run (mgmtLd ld len 8 (.setPageAccess ld len page v) (within ld (decide (page < 16384))
    (doAnswer ld (setAccess page v.toNat) (fun d => [d.sn + 1]))))

/-- R105: FROG. -/
def execFrog (ld len kind index : Nat) (s : State) : Host.Outcome State Fault Refusal :=
  s.run (mbox ld false (.frog ld len kind index) (vendorOk len 4 (fun d => d.frogIssuer ld kind index) ld (mbFrog ld kind index)))

/-- R104: GET_PORT_ALLOCATION. -/
def execGetPortAllocation (ld len port : Nat) (s : State) : Host.Outcome State Fault Refusal :=
  s.run (mgmtLd ld len 4 (.getPortAllocation ld len port) (within ld (decide (port < 4)) (doAnswer ld id (fun d => d.portAllocation port))))

/-- R104, R94: SET_PORT_ALLOCATION: all the applied entries or none. -/
def execSetPortAllocation (ld len port : Nat) (entries : List AllocEntry) (s : State) : Host.Outcome State Fault Refusal :=
  s.run (mgmtLd ld len 68 (.setPortAllocation ld len port entries) (fun d =>
    within ld (d.allocOk port entries) (doAnswer ld (allocApply port entries) (fun _ => [])) d))

/-- R104, R73: SET_MANAGEMENT_LDS. -/
def execSetManagementLds (ld len : Nat) (mask : BitVec 64) (s : State) : Host.Outcome State Fault Refusal :=
  s.run (mgmtLd ld len 8 (.setManagementLds ld len mask) (within ld (mask != 0) (doAnswer ld (setMgmt .both mask.toNat) (fun d => [d.sn + 1]))))

end Sys2Proof.Machine
end

