-- ==== Sys2Proof/Machine/Activation.lean ====
section
/-! DEFINITION. The end of a live activation's pause (R518 to R520): the running image changes or is put back, and the mailbox commands that were
held run in the order of R103. -/

namespace Sys2Proof.Machine

namespace Dev

/-- R518 step 5, R519: boundary E after READY. -/
def actResume : Effect := fun d =>
  match d.str.activation with
  | none => d
  | some a =>
    if !(d.flag Pg.str F.STR_ACT_CTL_PAUSED && a.ready && decide (a.readySn < d.sn)) then d
    else if a.reverted then d.endPause Src.fwReverted
    else
      match (d.slot a.slot).image with
      | none => d.endPause Src.fwReverted
      | some im =>
        let d1 : Dev := { d with str := { d.str with running := some im, activeSlot := a.slot, loaded := d.str.loaded ++ [im.digest] } }
        ((d1.set Pg.str F.STR_FW_SLOT_RUNNING a.slot).set Pg.str F.STR_FW_SLOT_STAGED 0).endPause Src.fwActivated

end Dev

/-- A command that was held in the pause. -/
def heldMailbox (i : Instr) (s : State) : Host.Outcome State Fault Refusal :=
  match i with
  | .getLdInfo port => execGetLdInfo port s
  | .getLdAllocations port start count => execGetLdAllocations port start count s
  | .setLdAllocations port start gib => execSetLdAllocations port start gib s
  | .getQosControl port => execGetQosControl port s
  | .setQosControl port c => execSetQosControl port c s
  | .getQosStatus port => execGetQosStatus port s
  | .getQosAllocatedBw port start count => execGetQosAllocatedBw port start count s
  | .setQosAllocatedBw port start fractions => execSetQosAllocatedBw port start fractions s
  | .getQosBwLimit port start count => execGetQosBwLimit port start count s
  | .setQosBwLimit port start fractions => execSetQosBwLimit port start fractions s
  | .tunnelManagement port ldId inner => execTunnelManagement port ldId inner s
  | .dcdManagement port c => execDcdManagement port c s
  | .getEventRecords ld log => execGetEventRecords ld log s
  | .clearEventRecords ld log handles all => execClearEventRecords ld log handles all s
  | .getEventInterruptPolicy ld => execGetEventInterruptPolicy ld s
  | .setEventInterruptPolicy ld policy => execSetEventInterruptPolicy ld policy s
  | .getFwInfo ld => execGetFwInfo ld s
  | .transferFw ld slot last image => execTransferFw ld slot last image s
  | .activateFwOnReset ld slot => execActivateFwOnReset ld slot s
  | .activateFwOnline ld slot digestOk => execActivateFwOnline ld slot digestOk s
  | .getTimestamp ld => execGetTimestamp ld s
  | .setTimestamp ld t => execSetTimestamp ld t s
  | .getSupportedLogs ld => execGetSupportedLogs ld s
  | .getLog ld log offset length => execGetLog ld log offset length s
  | .getSupportedFeatures ld => execGetSupportedFeatures ld s
  | .getFeature ld id => execGetFeature ld id s
  | .setFeature ld id data => execSetFeature ld id data s
  | .identifyMemoryDevice ld => execIdentifyMemoryDevice ld s
  | .getHealthInfo ld => execGetHealthInfo ld s
  | .getAlertConfiguration ld => execGetAlertConfiguration ld s
  | .setAlertConfiguration ld config => execSetAlertConfiguration ld config s
  | .sanitize ld => execSanitize ld s
  | .secureErase ld => execSecureErase ld s
  | .getPoisonList ld start length => execGetPoisonList ld start length s
  | .injectPoison ld offset => execInjectPoison ld offset s
  | .clearPoison ld offset data => execClearPoison ld offset data s
  | .getScanMediaCapabilities ld start length => execGetScanMediaCapabilities ld start length s
  | .scanMedia ld start length faults => execScanMedia ld start length faults s
  | .getScanMediaResults ld => execGetScanMediaResults ld s
  | .getDcConfiguration ld => execGetDcConfiguration ld s
  | .getDcExtentList ld => execGetDcExtentList ld s
  | .addDcResponse ld extents => execAddDcResponse ld extents s
  | .releaseDc ld extents => execReleaseDc ld extents s
  | .unsupportedCommand ld opcode => execUnsupportedCommand ld opcode s
  | .getDeviceInfo ld len => execGetDeviceInfo ld len s
  | .getStitchNumber ld len => execGetStitchNumber ld len s
  | .getStcSource ld len src => execGetStcSource ld len src s
  | .setStcSource ld len src cfg rate => execSetStcSource ld len src cfg rate s
  | .releaseStcSource ld len src mask quarantine => execReleaseStcSource ld len src mask quarantine s
  | .getInterruptRoute ld len page => execGetInterruptRoute ld len page s
  | .setInterruptRoute ld len page v => execSetInterruptRoute ld len page v s
  | .getPageAccess ld len page => execGetPageAccess ld len page s
  | .setPageAccess ld len page v => execSetPageAccess ld len page v s
  | .frog ld len kind index => execFrog ld len kind index s
  | .getPortAllocation ld len port => execGetPortAllocation ld len port s
  | .setPortAllocation ld len port entries => execSetPortAllocation ld len port entries s
  | .setManagementLds ld len mask => execSetManagementLds ld len mask s
  | _ => .next s

/-- R520, R103: the held commands, one after another. -/
def runHeld : List (Nat × Instr) → State → Host.Outcome State Fault Refusal
  | [], s => .next s
  | x :: rest, s =>
    match heldMailbox x.2 s with
    | .next t => runHeld rest t
    | o => o

/-- After a step that may have ended the pause: the commands held are taken and run. -/
def afterPause (o : Host.Outcome State Fault Refusal) : Host.Outcome State Fault Refusal :=
  match o with
  | .next s =>
    if s.dev.flag Pg.str F.STR_ACT_CTL_PAUSED then .next s
    else runHeld s.dev.host.held { s with dev := { s.dev with host := { s.dev.host with held := [] } } }
  | o => o

/-- ACTIVATION_RESUME (R518 step 5, R519). -/
def execActivationResume (s : State) : Host.Outcome State Fault Refusal := afterPause (s.run Dev.actResume)

/-- ACTIVATION_FAIL (R519): the old image writes no READY by the end of stitch P + 15624: the pause ends and "firmware activation failed"
is raised beside "firmware activation reverted". -/
def execActivationFail (s : State) : Host.Outcome State Fault Refusal :=
  afterPause (s.run (fun d =>
    match d.str.activation with
    | some x =>
      if d.flag Pg.str F.STR_ACT_CTL_PAUSED && !x.ready && x.reverted && decide (d.actP + 15625 ≤ d.sn) then
        (d.endPause Src.fwReverted).raise Src.fwActFailed d.actP 0x85 0
      else d
    | none => d))

end Sys2Proof.Machine
end

