-- ==== Sys2Proof/Machine/Debug.lean ====
section
/-! DEFINITION. Memory access through the debug port (R525): one read or write of a line, or the read of a ciphertext record, as master
0x84. -/

namespace Sys2Proof.Machine

namespace Dev

def modStr (d : Dev) (f : Strongroom → Strongroom) : Dev := { d with str := f d.str }

/-- The debug port as a master of accesses (R260, R305); its class is Cellar (DESIGN CHOICE). -/
def dbgWho (x : DbgAccess) : Who :=
  { id := 2 ^ 66, ld := 64, master := 0x84, gm := 130, cls := 3, rd := 13, wr := 13, snooped := x.snooped, since := x.since }

/-- R525: the access ends with a RESULT. -/
def dbgEnd (d : Dev) (result : Nat) : Dev :=
  ((((d.modStr fun s => { s with dbgAcc := none }).setFlag Pg.dbg F.DBG_MEM_CTL_BUSY false).set Pg.dbg F.DBG_MEM_CTL_RESULT result).dropUser
    (2 ^ 66))

/-- Bytes into DBG_MEM_DATA, from DBG_MEM_DATA0 up. -/
def dbgPut (d : Dev) (bs : List Nat) : Dev :=
  (List.range (bs.length / 4)).foldl
    (fun d k => d.set Pg.dbg (F.DBG_MEM_DATA_DATA.sh (4 * k)) (ofBytes ((bs.drop (4 * k)).take 4))) d

/-- The 64 bytes of DBG_MEM_DATA0 to 15. -/
def dbgData (d : Dev) : BitVec 512 :=
  (List.range 16).foldl (fun v k => v + BitVec.ofNat 512 (d.get Pg.dbg (F.DBG_MEM_DATA_DATA.sh (4 * k)) * 2 ^ (32 * k))) 0

/-- The access waits: DBG_MEM_CTL.BUSY stays set. -/
def dbgWaits (d : Dev) (x : DbgAccess) (snoop : Option Nat) (backing : Bool) : Dev :=
  d.modStr fun s => { s with dbgAcc := some { x with snooped := snoop, since := if backing then some (x.since.getD d.sn) else none } }

/-- R525, R261, R262: the access is tried: a denied one gives RESULT 1, one that another check of R112 fails gives 3. -/
def dbgTry (d : Dev) (x : DbgAccess) (f : LineFault) : Dev :=
  let view := x.space == 1 && x.view == 1
  let need := if x.op = 2 then 3 else if view then 1 else 2
  if x.op = 2 ∧ view then d.dbgEnd 3
  else
    let d0 := if x.space = 0 ∧ x.addr >>> 30 < d.get Pg.pat F.PAT_WIN_ROOMS_ROOMS then d.see (dpaSkein x.addr) 130 3 else d
    match if x.space = 0 then d0.windowCheck 0x84 x.addr need else d0.draCheck 0x84 x.addr need (!view) with
    | some (err, src) =>
      let d1 := match src with | some s => d0.raise s x.addr 0x84 13 | none => d0
      d1.dbgEnd (if err = 2 then 1 else 3)
    | none =>
      let w := dbgWho x
      if x.op = 1 then
        match if x.space = 0 then d0.readWindow w x.addr x.addr f else d0.readDra w x.addr view f with
        | .done (bs, po) d1 => (d1.dbgPut bs).dbgEnd (if po then 2 else 0)
        | .wait d1 s b => d1.dbgWaits x s b
        | .fail d1 => d1.dbgEnd 3
      else
        let data := d0.dbgData
        match if x.space = 0 then d0.writeWindow w x.addr x.addr data (BitVec.allOnes 64) false f
              else d0.writeDra w x.addr data (BitVec.allOnes 64) false f with
        | .done _ d1 => d1.dbgEnd 0
        | .wait d1 s b => d1.dbgWaits x s b
        | .fail d1 => d1.dbgEnd 3

/-- R525: a write of DBG_MEM_CTL with OP 1 or 2 starts an access; while one runs the write changes nothing. -/
def dbgStart (op v : Nat) (f : LineFault) : Effect := fun d =>
  if d.str.dbgAcc.isSome then d
  else
    let x : DbgAccess := { op := op, space := bits v 2 1, view := bits v 3 1, addr := d.get Pg.dbg F.DBG_MEM_ADDR_ADDR / 64 * 64 }
    let d1 := ((d.set Pg.dbg F.DBG_MEM_CTL_SPACE x.space).set Pg.dbg F.DBG_MEM_CTL_VIEW x.view).setFlag Pg.dbg F.DBG_MEM_CTL_BUSY true
    (d1.dbgTry x f).after

/-- At a boundary an access that waits is tried again. -/
def dbgAgain (d : Dev) : Dev :=
  match d.str.dbgAcc with
  | some x => if d.pageReady Pg.pat then d.dbgTry x okFault else d
  | none => d

end Dev

open Dev in
/-- R525: DBG_MEM_READ, a write of DBG_MEM_CTL with OP 1; `f` is what the read meets in the DRAM array. -/
def execDbgMemRead (a : Agent) (v : BitVec 32) (f : LineFault) (s : State) : Host.Outcome State Fault Refusal :=
  s.run fun d => writeTo v.toNat a Pg.dbg 0x148 (dbgStart 1 v.toNat f) (d.portUsed a)

open Dev in
/-- R525: DBG_MEM_WRITE, a write of DBG_MEM_CTL with OP 2. -/
def execDbgMemWrite (a : Agent) (v : BitVec 32) (f : LineFault) (s : State) : Host.Outcome State Fault Refusal :=
  s.run fun d => writeTo v.toNat a Pg.dbg 0x148 (dbgStart 2 v.toNat f) (d.portUsed a)

end Sys2Proof.Machine
end

