-- ==== Sys2Proof/Machine/Fcu.lean ====
section
/-! DEFINITION. The Fault Collection Unit (chapter 16): what an event of an FCU source does in its dispatch slot (first error, further
error, escalation, record, containment, fatal state), the clearing of FCU_STS, and injection. -/

namespace Sys2Proof.Machine

namespace Dev

/-- R463: a write of 1 to a source's FCU_STS bit clears SET, MORE, ESC, PERSIST and the capture, and leaves the count at 0. -/
def fcuClear (d : Dev) (i : Nat) : Dev :=
  ((((d.setWord (Bk.fcu i) 0x118 0).set (Bk.fcu i) F.FCU_SRC_ADDR_ADDR 0).set (Bk.fcu i) F.FCU_SRC_SN_SN 0)).set
    (Bk.fcu i) F.FCU_SRC_COUNT_COUNT 0

/-- R463: the sources of word `k` of FCU_STS whose bit is written with 1. -/
def fcuClearWord (d : Dev) (k v : Nat) : Dev := (bitList 32 v).foldl (fun d b => d.fcuClear (32 * k + b)) d

/-- R458: a first error: SET, and the capture. -/
def fcuFirst (d : Dev) (e : Ev) : Dev :=
  let p := Bk.fcu e.src
  let sts := 1 + e.sev * 2 ^ 4 + b2n (e.sn != d.sn) * 2 ^ 7 + e.acc % 16 * 2 ^ 8 + e.master % 256 * 2 ^ 12
  (((d.setWord p 0x118 (BitVec.ofNat 32 sts)).set p F.FCU_SRC_ADDR_ADDR e.addr).set p F.FCU_SRC_SN_SN e.sn).set p
    F.FCU_SRC_COUNT_COUNT (min (2 ^ 32 - 1) e.errs)

/-- R460, R461: a further error: the count, MORE, and SEV_CAPT with ESC where its severity is higher. -/
def fcuFurther (d : Dev) (e : Ev) : Dev :=
  let p := Bk.fcu e.src
  let d1 := (d.addSat p F.FCU_SRC_COUNT_COUNT e.errs).setFlag p F.FCU_SRC_STS_MORE true
  if d1.get p F.FCU_SRC_STS_SEV_CAPT < e.sev then
    (d1.set p F.FCU_SRC_STS_SEV_CAPT e.sev).setFlag p F.FCU_SRC_STS_ESC true
  else d1

/-- R477: the roll-up bit of a severity. -/
def rollUpBit : Nat → Nat
  | 5 => 0 | 4 => 1 | 3 => 2 | 2 => 3 | _ => 4

/-- R466: the LD that a contained event makes viral: the LD in its own master ID. -/
def contain (d : Dev) (e : Ev) : Dev := if e.sev = 4 ∧ e.master < 0x40 then d.makeViral e.master else d

/-- R467: a fatal event: the fatal state, the viral state of every bound LD, and the FCU page's interrupt to every management core. -/
def enterFatal (d : Dev) (e : Ev) : Dev :=
  if d.fatal then d.setFlag Pg.fcu F.FCU_FATAL_MORE true
  else
    let d1 := ((d.setFlag Pg.fcu F.FCU_FATAL_ACTIVE true).set Pg.fcu F.FCU_FATAL_SRC e.src).set Pg.fcu F.FCU_FATAL_SN_SN e.sn
    let d2 := if d1.flag Pg.fcu F.FCU_CFG_FATAL_VIRAL then d1.boundLds.foldl makeViral d1 else d1
    (List.range 4).foldl (fun d c => d.coreInterrupt c Pg.fcu) d2

/-- R456: what the dispatch of an event of FCU source `e.src` does: capture, page bit, roll-up bit, record, containment. A fatal event is
acted on in full: its page sends its interrupt, and the fatal state begins for the events after it (R35, R467). -/
def fcuDispatch (d : Dev) (e : Ev) : Dev :=
  let d1 := if d.fcuSet e.src then d.fcuFurther e else d.fcuFirst e
  let d2 := match fcuInfo e.src with
    | some (p, _, b) => (if b < 32 then d1.setPageBits p (2 ^ b) else d1).tally p 0x0005 1
    | none => d1
  let d3 := d2.setPageBits Pg.fcu (2 ^ rollUpBit e.sev)
  let d4 := (d3.fcuRecord e.src e.sn e.sev e.master).contain e
  if e.sev = 5 then
    let d5 := d4.enterFatal e
    { d5 with stc := { d5.stc with recordOnly := true } }
  else d4

/-- R469: FCU_INJ is written: the index is stored; GO asserts it at the next boundary, unless the index is reserved (R454). -/
def injectWrite (v : Nat) : Effect := fun d =>
  if d.flag Pg.fcu F.FCU_INJ_GO then d
  else
    let d1 := d.set Pg.fcu F.FCU_INJ_INDEX (v % 2 ^ 10)
    d1.setFlag Pg.fcu F.FCU_INJ_GO (v.testBit 31 && (fcuInfo (v % 2 ^ 10)).isSome)

/-- R469 at a boundary: the injected error reaches its source's latch, to be sampled at this boundary, and GO clears. -/
def injectBoundary (d : Dev) : Dev :=
  if d.flag Pg.fcu F.FCU_INJ_GO then
    (d.raise (d.get Pg.fcu F.FCU_INJ_INDEX) (d.get Pg.fcu F.FCU_INJ_ADDR_ADDR) (d.get Pg.fcu F.FCU_INJ_INFO_MASTER) 14).setFlag
      Pg.fcu F.FCU_INJ_GO false
  else d

end Dev

open Dev in
/-- R463, R464: FCU_STS_CLEAR of word `word` of FCU_STS. -/
def execFcuStsClear (a : Agent) (word : Nat) (v : BitVec 32) (s : State) : Host.Outcome State Fault Refusal :=
  s.run (writeTo v.toNat a Pg.fcu (0x200 + 4 * (word % 32)) (fun d => d.fcuClearWord (word % 32) v.toNat))

open Dev in
/-- R469: FCU_INJECT, a write of FCU_INJ. -/
def execFcuInject (a : Agent) (v : BitVec 32) (s : State) : Host.Outcome State Fault Refusal :=
  s.run (writeTo v.toNat a Pg.fcu 0x138 (injectWrite v.toNat))

end Sys2Proof.Machine
end

