-- ==== Sys2Proof/Machine/Tally.lean ====
section
/-! DEFINITION. Tally counters (chapter 20): event selection and clearing, counter wraps with their overflow sources, and the profiling
counters of the management cores. -/

namespace Sys2Proof.Machine

/-- R560: counters add whatever ENABLE is, while the page's domain is powered and clocked. -/
def Dev.counting (d : Dev) (p : Nat) : Bool :=
  (pageKind p).isSome && d.clk.fabricOn && (pageDomain p == 0 || d.domOn (pageDomain p))

/-- R561: a write of TAL_SELn; with CLEAR the counter is 0 from the next cycle on. -/
def talSel (page n ev : Nat) (clear : Bool) : Effect := fun d =>
  let d1 := d.set page (F.TAL_SEL_EVENT.sh (4 * (n % 4))) ev
  if clear then d1.set page (F.TAL_CNT_COUNT.sh (8 * (n % 4))) 0 else d1

/-- R561: TAL_SEL_WRITE. -/
def execTalSelWrite (a : Agent) (page n : Nat) (event : BitVec 16) (s : State) : Host.Outcome State Fault Refusal :=
  s.run (Dev.writeTo event.toNat a page (0x80 + 4 * (n % 4)) (talSel page n event.toNat false))

/-- R561: TAL_CLEAR. -/
def execTalClear (a : Agent) (page n : Nat) (event : BitVec 16) (s : State) : Host.Outcome State Fault Refusal :=
  s.run (Dev.writeTo (event.toNat + 2 ^ 16) a page (0x80 + 4 * (n % 4)) (talSel page n event.toNat true))

/-- R562: a W1C write of TAL_OVF with the counters that wrap in the same fabric cycle: their bits stay set, and each such wrap counts as
finding its bit clear where the write cleared it, so it sets the latch of the group's source. -/
def talOvf (page v coincident : Nat) : Effect := fun d =>
  let old := d.get page F.TAL_OVF_OVF
  let cleared := clearBits old v
  let d1 := d.set page F.TAL_OVF_OVF (cleared ||| coincident)
  if clearBits coincident cleared = 0 then d1 else d1.latch (Src.tally (Dev.tallyGroup page))

/-- R562: TAL_OVF_CLEAR. -/
def execTalOvfClear (a : Agent) (page : Nat) (v : BitVec 32) (coincident : BitVec 4) (s : State) :
    Host.Outcome State Fault Refusal :=
  s.run (Dev.writeTo v.toNat a page 0x0E0 (talOvf page v.toNat coincident.toNat))

/-- R560, R562: TALLY_COUNTER_WRAP: occurrences of the selected event that the model does not itself produce reach counter `n`. -/
def execTallyCounterWrap (page n occurrences : Nat) (s : State) : Host.Outcome State Fault Refusal :=
  s.run (when (fun d => d.counting page && d.get page (F.TAL_SEL_EVENT.sh (4 * (n % 4))) != 0)
    (fun d => d.tallyAdd page (n % 4) occurrences))

/-- Offset of the block of core `c` in the MGC page (R573). -/
def profOff (c : Nat) : Nat := 0x40 * (c % 4)

/-- R571, R572: `k` occurrences reach profiling counter `k` of a core; passing 2^48 - 1 wraps it, sets its OVF bit, gives EPC the address
of the instruction if no OVF bit was set (else MORE), and raises the core's profiling interrupt if INT_EN is 1. -/
def profWrap (c k n pc : Nat) : Effect := fun d =>
  let o := profOff c
  let p := Pg.mgc
  if !d.flag p (F.MGC_PROF_CTL_EN.sh (o + 4 * k)) then d
  else
    let v := d.get p (F.MGC_PROF_CNT_COUNT.sh (o + 8 * k)) + n
    let d1 := d.set p (F.MGC_PROF_CNT_COUNT.sh (o + 8 * k)) v
    if v < 2 ^ 48 then d1
    else
      let ovf := d.get p (F.MGC_PROF_OVF_OVF.sh o)
      let d2 := d1.set p (F.MGC_PROF_OVF_OVF.sh o) (setBit ovf k)
      let d3 := if ovf = 0 then d2.set p (F.MGC_PROF_EPC_ADDR.sh o) pc else d2.setFlag p (F.MGC_PROF_OVF_MORE.sh o) true
      if !d.flag p (F.MGC_PROF_CTL_INT_EN.sh (o + 4 * k)) then d3
      else if d.tal.profMasked.testBit c then { d3 with tal := { d3.tal with profPend := setBit d3.tal.profPend c } }
      else ({ d3 with pwr := { d3.pwr with coreWait := clrBit d3.pwr.coreWait c } } : Dev).emit (.profIrq c)

/-- R572: PROF_COUNTER_WRAP. -/
def execProfCounterWrap (core k occurrences : Nat) (pc : BitVec 64) (s : State) : Host.Outcome State Fault Refusal :=
  s.run (when (fun d => d.pageReady Pg.mgc) (profWrap (core % 4) (k % 4) occurrences pc.toNat))

/-- R573: a write of MGC_PROF_CTLc_k with CLEAR 1 sets the counter to 0 and its other fields as written. -/
def profClear (core k v : Nat) : Effect := fun d =>
  let o := profOff core
  let d1 := d.store Pg.mgc (0x200 + o + 4 * (k % 4)) 0x3FF v false
  if v.testBit 10 then d1.set Pg.mgc (F.MGC_PROF_CNT_COUNT.sh (o + 8 * (k % 4))) 0 else d1

/-- R573: PROF_CLEAR: a write of MGC_PROF_CTLc_k with CLEAR 1 sets the counter to 0 and its other fields as written. -/
def execProfClear (a : Agent) (core k : Nat) (v : BitVec 32) (s : State) : Host.Outcome State Fault Refusal :=
  s.run (Dev.writeTo v.toNat a Pg.mgc (0x200 + profOff core + 4 * (k % 4)) (profClear core k v.toNat))

end Sys2Proof.Machine
end

