-- ==== Sys2Proof/Machine/Stitch.lean ====
section
/-! DEFINITION. The stitch (chapter 1): what happens at a stitch boundary, the sampling of the sources, the dispatch of one event, stuck
masking and quarantine. -/

namespace Sys2Proof.Machine

namespace Dev

def modStc (d : Dev) (f : Stc → Stc) : Dev := { d with stc := f d.stc }

/-! ### Sampling (R26 to R29, R36 to R39) -/

/-- The errors that an FCU source's latch holds. -/
def latchOf (d : Dev) (i : Nat) : Latch := tget (fun _ => Latch.mk 0 0 0 0) d.stc.errs i

/-- The input of a source is active at the boundary: its level, or its latch. -/
def srcActive (d : Dev) (i : Nat) : Bool := d.stc.levels.contains i || d.stc.latched.contains i || (d.latchOf i).count != 0

/-- A source that makes no events: masked or quarantined, or about to be; a fatal source never is (R465). -/
def srcBlocked (d : Dev) (i : Nat) : Bool :=
  (d.flag (Bk.stc i) F.STC_SRC_STS_MASKED || d.flag (Bk.stc i) F.STC_SRC_STS_QUAR || d.stc.stuck.contains i || d.stc.fast.contains i) &&
    !(decide (i < 0x400) && d.severity i == 5)

/-- R37: the exponent of a source's rate window. -/
def rateWin (d : Dev) (i : Nat) : Nat := min 20 (max 4 (d.get (Bk.stc i) F.STC_SRC_CFG_RATE_WIN))

/-- The sample of one source, and its event if it makes one (R28, R29, R36, R37, R39, R456, R465). -/
def sampleSource (d : Dev) (i : Nat) : Dev :=
  let p := Bk.stc i
  let l := d.latchOf i
  let active := d.srcActive i
  let cat := d.category i
  let run := d.get p F.STC_SRC_STS_RUN
  let d0 := d.setFlag p F.STC_SRC_STS_SAMPLE active
  if i < 0x400 ∧ cat = 0 then
    ((d0.set p F.STC_SRC_STS_RUN 0).set p F.STC_SRC_COUNT_ASSERTS 0).addSat (Bk.fcu i) F.FCU_SRC_COUNT_COUNT l.count
  else
    let asserts := active && !(srcIsLevel i && d.flag p F.STC_SRC_STS_SAMPLE)
    let blocked := d.srcBlocked i
    let guarded := !blocked && !d.exempt i
    let base := if d.sn % 2 ^ d.rateWin i = 0 then 0 else d.get p F.STC_SRC_COUNT_ASSERTS
    let n := if asserts && !blocked then base + 1 else base
    let stuck := active && guarded && d.flag Pg.stc F.STC_CFG_STUCK_EN && decide (max 1 (d.get p F.STC_SRC_CFG_STUCK_LIM) ≤ run)
    let fast := asserts && guarded && d.flag Pg.stc F.STC_CFG_RATE_EN && decide (max 1 (d.get p F.STC_SRC_RATE_RATE_LIM) < n)
    let d1 := (d0.set p F.STC_SRC_STS_RUN (if active then min 0xFFFF (run + 1) else 0)).set p F.STC_SRC_COUNT_ASSERTS (min (2 ^ 17 - 1) n)
    let d2 := d1.modStc fun s => { s with stuck := if stuck then s.stuck ++ [i] else s.stuck, fast := if fast then s.fast ++ [i] else s.fast }
    if blocked || stuck || fast then
      if i < 0x400 then d2.addSat (Bk.fcu i) F.FCU_SRC_SUPP_COUNT l.count else d2
    else if asserts ∧ cat ≠ 0 then
      let sev := if i < 0x400 then d.severity i else 0
      d2.modStc fun s => { s with events := s.events ++ [⟨d.sn, i, cat, sev, l.count, l.addr, l.master, l.acc⟩] }
    else d2

/-- The sources that a boundary can change: those active now, and those with a count or a sample to return to 0; ascending. -/
def sampled (d : Dev) : List Nat :=
  let put := fun (t : Tbl Unit) (i : Nat) => tins t i ()
  let held := d.regs.filterMap fun x =>
    let p := x.1 / 4096
    let off := x.1 % 4096
    if Bk.stc 0 ≤ p ∧ p < Bk.stc 0x800 ∧ (off = 0x13C ∨ off = 0x140) then some (p - Bk.stc 0) else none
  ((d.stc.levels ++ d.stc.latched ++ d.stc.errs.map (·.1) ++ held).foldl put []).map (·.1)

/-- R26: every source is sampled; the sample takes the latches. -/
def sampleAll (d : Dev) : Dev := (d.sampled.foldl sampleSource d).modStc fun s => { s with latched := [], errs := [] }

/-- The inputs that no command of their own brings (R26): warm_rst_n, the errors of the management cores (R455), "NOC trace full" (R449). -/
def applyInput (d : Dev) (x : InputSample) : Dev :=
  if x.src = Src.warmReset then
    ((d.modClk fun c => { c with warmRstN := !x.active })).setLevel Src.warmReset x.active
  else if x.active && (x.src == Src.coreException || x.src == Src.coreMemUe || x.src == Src.coreBusError) then
    if d.clk.coresRun.testBit (x.core % 4) then d.raise x.src x.addr (0x80 + x.core % 4) 12 else d
  else if x.active && x.src == Src.nocTraceFull then
    if d.flag Pg.noc F.NOC_TRC_CTL_EN && d.flag Pg.noc F.NOC_TRC_CTL_STOP_FULL then d.raise Src.nocTraceFull 0 0xFF 0 else d
  else d

/-! ### The end of a stitch -/

/-- R43: a stitch that ends with events still waiting. -/
def overrun (d : Dev) : Dev :=
  if d.stc.events.isEmpty || !d.clk.fabricOn then d
  else ((d.addSat Pg.stc F.STC_OVR_CNT_COUNT 1).set Pg.stc F.STC_OVR_SN_SN d.sn).raise Src.stitchOverrun d.stc.events.length 0xFF 0

/-- R392: an Active link that sent nothing in the stitch sends a NOP; a member that fell silent sends none on the Hallway (R545). -/
def nops (d : Dev) : Dev :=
  (List.range 17).foldl
    (fun d l => if d.linkActive l && (d.lnk l).txSn != d.sn && !(l == 16 && d.twin.silent) then d.sendNop l else d) d

/-- R153, R192, R200, R224: the sources that assert once for each stitch in which something waits. -/
def waiters (d : Dev) : Dev :=
  let d1 := match d.mem.reqs.find? (fun r => decide (r.stage = .ingress) && r.wait == 2 ^ 64) with
    | some r => d.raiseOnce Src.parkExhausted r.dpa r.ld r.kind.acc
    | none => d
  let d2 := match d.mem.reqs.find? (fun r => decide (r.stage = .fillWait)) with
    | some r => d1.raiseOnce Src.fillSlotWait r.dra r.ld 2
    | none => d1
  let d3 := match d.mem.tier.fetches.find? (fun f => !f.buffered) with
    | some f => d2.raiseOnce Src.fetchWait (pageDpa f.skein f.page) (d.entry f.skein).owner 7
    | none => d2
  if d.deviceCompressor.isSome then d3
  else match d.mem.reqs.find? (fun r => decide (r.stage = .encode) && r.inst.isNone) with
    | some r => d3.raiseOnce Src.noDevCompressor r.dpa (d.entry (dpaSkein r.dpa)).owner 2
    | none =>
      match d.mem.tier.migs.find? (fun m => m.copying && (d.copyDst m).st == St.packed) with
      | some m => d3.raiseOnce Src.noDevCompressor (m.skein * 2 ^ 21) (d.entry m.skein).owner 7
      | none => d3

/-! ### Work planned on the boundary -/

/-- R204, R195: "split-map pool low" and "DRAM frames low" assert as the free numbers fall below their limits; frame pressure ends at twice the
limit. -/
def lowMarks (d : Dev) : Dev :=
  if !d.tierOn then d
  else
    let maps := d.mapsFree
    let frames := d.framesFree
    let lim := d.get Pg.tir F.TIR_FRAME_LOW_FRAMES
    let mapLow := decide (maps < d.get Pg.tir F.TIR_MAP_LOW_MAPS)
    let frameLow := decide (frames < lim)
    let d1 := if mapLow && !d.mem.store.mapLow then d.raise Src.mapLow maps 0xFF 7 else d
    let d2 := if frameLow && !d.mem.store.frameLow then
        (d1.raise Src.framesLow frames 0xFF 7).modTier fun t => { t with pressure := true, pressureCut := if t.pressure then t.pressureCut else 0 }
      else if 2 * lim ≤ frames then d1.modTier fun t => { t with pressure := false, pressureCut := 0 }
      else d1
    d2.modStore fun s => { s with mapLow := mapLow, frameLow := frameLow }

/-- R201: "wipe done" asserts as its condition comes to hold. -/
def wipeEdge (d : Dev) : Dev :=
  let now := d.wipeCond
  let d1 := if now && !d.mem.store.wipeHeld then d.raise Src.wipeDone 0 0xFF 7 else d
  d1.modStore fun s => { s with wipeHeld := now }

/-- R566: every page with a counter of its fabric cycles or stitch boundaries counts those of the stitch. -/
def tallyStitch (d : Dev) : Dev :=
  (d.regs.filter (fun x => decide (0x80 ≤ x.1 % 4096 ∧ x.1 % 4096 < 0x90))).foldl
    (fun d x =>
      let p := x.1 / 4096
      let n := (x.1 % 4096 - 0x80) / 4
      if !d.counting p then d
      else match d.get p (F.TAL_SEL_EVENT.sh (4 * n)) with
        | 1 => d.tallyAdd p n 256
        | 2 => d.tallyAdd p n 1
        | _ => d) d

/-- The writes that come into force at the boundary (R41), with the Data Mover's timers, which advance by one and are loaded (R365). -/
def commitWrites (d : Dev) : Dev :=
  let ts := d.timersDue
  let d1 := if d.clk.fabricOn then d.timersTick else d
  d1.commitAligned.timersLoad ts

/-- The fabric's work at the boundary that begins a stitch. -/
def fabricBoundary (d : Dev) (planComplete : Bool) : Dev :=
  let d1 := ((d.gaugeBoundary planComplete).nocSwap).ringRearm.ringViral
  let d2 := if d1.sn % 64 = 0 then d1.replayWindow else d1
  let d3 := d2.frogAccept.frogForce.dcBoundary
  let d4 := if d3.pageReady Pg.tir then
      (d3.squeezeUpdate.lowMarks.refillReserve.retryPromotions.issueWaiting.copyStarts).wipeEdge
    else d3
  d4.moversResume.dbgAgain.twinBoundary.assignEncoders.after

/-- R40: STITCH_BOUNDARY. The stitch that ends is closed; SN advances; writes come into force; every source is sampled; the fabric's work of the
new stitch is planned; in Recovery-Sleep a wake is acted on. -/
def boundary (inputs : List InputSample) (planComplete : Bool) : Effect :=
  when (fun d => d.clk.porN) fun d =>
    if d.clk.thermtrip then { d with sn := d.sn + 1 }
    else
      let d1 := if d.clk.fabricOn then d.gaugePool.powerCommit.nops.waiters.tallyStitch else d
      let d2 : Dev := { d1.overrun with sn := d.sn + 1 }
      let d3 := (inputs.foldl applyInput (d2.modStc fun s => { s with slot := 0, recordOnly := false })).commitWrites
      let d4 := (d3.injectBoundary.setLevel Src.pwrReady d3.readyToStart).sampleAll
      if d4.clk.fabricOn then d4.fabricBoundary planComplete else d4.sleepWake

/-! ### Dispatch (R34, R35, R42, R43) -/

/-- R42: the order of dispatch. -/
def evKey (e : Ev) : List Nat := [if e.cat ≤ 3 then 0 else 1, e.sn, e.cat, e.src]

/-- R403: the dispatch of a link-state event of a Yarn port or the Hallway: its page bits and YP_LAST_CHG_SN; a link that came up starts the
attach of a port that attaches by itself (R409), or pairing (R532). -/
def yarnDispatch (d : Dev) (l sn : Nat) : Dev :=
  let saw := (d.lnk l).saw
  let d1 := ((d.modLnk l fun s => { s with saw := 0 }).lset l F.YP_LAST_CHG_SN_SN sn).setPageBits (Pg.link l) (saw % 16)
  if !saw.testBit 0 then d1
  else if l = 16 then d1.hallUp
  else if !d.recordOnly && (d.get Pg.ctg F.CTG_CFG_AUTO_ATTACH_MASK).testBit l then d1.attachStart l
  else d1

/-- R232: CMP_CHK_HDR, CMP_CHK_ADDR and CMP_CHK_SN are loaded in the dispatch slot of a check failure's event. -/
def chkLoad (d : Dev) (src : Nat) : Dev :=
  match (List.range 80).find? (fun i => src == Src.cmpMismatch i) with
  | none => d
  | some i =>
    if !(d.mem.cmp.chk.any (fun x => x.1 == i)) then d
    else
      let (h, t, a, sn) := tget (fun _ => (0, 0, 0, 0)) d.mem.cmp.chk i
      let p := Pg.cmp i
      let d1 := (((d.set p F.CMP_CHK_HDR_HDR h).set p F.CMP_CHK_HDR_TARGET t).set p F.CMP_CHK_ADDR_ADDR a).set p F.CMP_CHK_SN_SN sn
      { d1 with mem := { d1.mem with cmp := { d1.mem.cmp with chk := tdel d1.mem.cmp.chk i } } }

/-- The dispatch of an event of an FCU source (R456), and the work that blocks start in answer to it: a change of what DRAM delivers is noted
for the window's end (R322); "evacuation done" retires the cartridge (R426); a fatal event is a split of a pair (R545, R550). -/
def faultDispatch (d : Dev) (e : Ev) : Dev :=
  let d1 := (d.chkLoad e.src).fcuDispatch e
  let d2 := if d1.fatal && !d.fatal then d1.detectSplit else d1
  if d.recordOnly then d2
  else if (List.range 16).any (fun c => e.src == Src.deliverChange c) then d2.modGau fun g => { g with capChange := true }
  else if e.src = Src.evacDone then d2.retireStart e.addr
  else d2

/-- R565: the dispatch of a Tally source. -/
def tallyDispatch (d : Dev) (g : Nat) : Dev :=
  if g = 63 then d.setPageBits Pg.mgc (2 ^ 4)
  else (d.set Pg.mgc F.MGC_TAL_GRP_GRP (setBit (d.get Pg.mgc F.MGC_TAL_GRP_GRP) g)).setPageBits Pg.mgc (2 ^ 3)

/-- What the owning block does in the dispatch slot of an event (R34), by the source (R31). -/
def dispatchOne (d : Dev) (e : Ev) : Dev :=
  let i := e.src
  if i < 0x400 then d.faultDispatch e
  else if i = Src.warmReset then d.startDevice 1
  else if i = Src.lifeCycle then d.startDevice 3
  else if i < 0x424 then d.twinDispatch i
  else if i = Src.vsense then d.vsenseDispatch
  else if i ≤ Src.nocWake then d.wakeDispatch e
  else if i = Src.pwrReady then d.transitionStart
  else if i = Src.pwrDone then d.setPageBits Pg.pwr (2 ^ 3)
  else if i < 0x488 then d.hostLinkDispatch ((i - 0x480) / 2) (i % 2)
  else if i ≤ 0x4A0 then d.yarnDispatch (i - 0x490) e.sn
  else if i < 0x580 then d.setPageBits Pg.gau (2 ^ 5)
  else if i < 0x5C0 then d.ringDoneEvent (i - 0x580)
  else if i < 0x600 then d.ringDoorbell (i - 0x5C0)
  else if i < 0x640 then d.moverEvent (i - 0x600)
  else d.tallyDispatch (i - 0x7C0)

/-- The event next in the order of R42. -/
def nextEvent (d : Dev) : Option Ev := (sortBy evKey d.stc.events).head?

/-- R34, R42: the next event is dispatched in the next free slot of the stitch. Slots run on the fabric clock; a category 1 event is acted on
without it, and discards every other event (R35). -/
def dispatchNext : Effect := fun d =>
  match d.nextEvent with
  | none => d
  | some e =>
    if !d.clk.porN || d.clk.thermtrip || decide (64 ≤ d.stc.slot) || (!d.clk.fabricOn && e.cat != 1) then d
    else
      let rest := if e.cat = 1 then [] else d.stc.events.filter (fun x => x ≠ e)
      ((d.modStc fun s => { s with events := rest, slot := s.slot + 1 }).dispatchOne e).after

/-- R36, R38: a source whose consecutive samples reached L + 1 is masked, and "STC stuck input" is raised. -/
def maskStuck (i : Nat) : Effect :=
  when (fun d => d.stc.stuck.contains i) fun d =>
    ((d.modStc fun s => { s with stuck := s.stuck.filter (· != i) }).setFlag (Bk.stc i) F.STC_SRC_STS_MASKED true).raise Src.stuckInput i 0xFF 0

/-- R37, R38: a source with more than M assertions in a rate window is quarantined, and "STC quarantine" is raised. -/
def quarantineFast (i : Nat) : Effect :=
  when (fun d => d.stc.fast.contains i) fun d =>
    ((d.modStc fun s => { s with fast := s.fast.filter (· != i) }).setFlag (Bk.stc i) F.STC_SRC_STS_QUAR true).raise Src.quarantine i 0xFF 0

end Dev

/-- R40, R26, R41, R43, R311, R312, R443, R470, R486, R544: STITCH_BOUNDARY; `inputs` are the asynchronous inputs that no other command
brings, `planComplete` says whether the Gauge completed its plan by the commit point (R44). -/
def execStitchBoundary (inputs : List InputSample) (planComplete : Bool) (s : State) : Host.Outcome State Fault Refusal :=
  s.run (Dev.boundary inputs planComplete)

/-- R34, R35, R42: EVENT_DISPATCH. -/
def execEventDispatch (s : State) : Host.Outcome State Fault Refusal := s.run Dev.dispatchNext

/-- R36: STUCK_INPUT_MASK. -/
def execStuckInputMask (src : Nat) (s : State) : Host.Outcome State Fault Refusal := s.run (Dev.maskStuck src)

/-- R37: SOURCE_QUARANTINE. -/
def execSourceQuarantine (src : Nat) (s : State) : Host.Outcome State Fault Refusal := s.run (Dev.quarantineFast src)

end Sys2Proof.Machine
end

