-- ==== Sys2Proof/Machine/Bars.lean ====
section
/-! DEFINITION. Register access over BAR2 and BAR4 (chapters 2, 11): REGISTER_WRITE, BAR2_READ and BAR2_ACCESS_COMPLETE. -/

namespace Sys2Proof.Machine

namespace Dev

/-! ### Writes of fields that have no command of their own -/

/-- Writes that a block ignores in its present state (the access rules of each chapter). `v` is the word written. -/
def writeIgnored (d : Dev) (p off v : Nat) : Bool :=
  match pageKind p with
  | some .pat => -- R140
    ((off == 0x100 || (0x108 ≤ off && off < 0x11C)) && d.flag p F.PAT_CFG_TBL_VALID && !(off == 0x100 && v % 2 == 0)) ||
      ((off == 0x130 || off == 0x138) && d.flag p F.PAT_ROOM_CMD_BUSY)
  | some .tir => -- R207
    ((0x140 ≤ off && off < 0x14C) || off == 0x158 || off == 0x15C) && d.enabled p
  | some .dc => -- R301
    ((off == 0x104 || (0x110 ≤ off && off < 0x120)) && d.flag p F.DC_CFG_TRAINED) ||
      ((off == 0x170 || (0x280 ≤ off && off < 0x300)) && d.flag p F.DC_SPARE_CTL_START)
  | some .gau => -- R330, R329
    ((off == 0x108 || off == 0x120 || off == 0x128 || off == 0x12C) && d.flag p F.GAU_COMMIT_BUSY) ||
      (off == 0x128 && decide (128 ≤ d.get p F.GAU_BUD_SEL_MASTER)) || (off == 0x12C && decide (132 ≤ d.get p F.GAU_BUD_SEL_MASTER))
  | some .ctg => (off == 0x118 || off == 0x11C) && d.enabled p -- R429
  | some .noc => (off == 0x110 || off == 0x114) && d.flag p F.NOC_RT_CTL_SWAP -- R452
  | some .str => (off == 0x158 || off == 0x15C || off == 0x160) && d.flag p F.STR_RIGHT_CTL_GO -- R530
  | some .twn => -- R559
    ((0x118 ≤ off && off < 0x128) && d.get p F.TWN_STS_STATE != 0) ||
      ((off == 0x108 || off == 0x10C) && (decide (1 ≤ d.get p F.TWN_STS_STATE ∧ d.get p F.TWN_STS_STATE ≤ 4)))
  | some .fcu => off == 0x114 && decide (6 ≤ v % 8) -- R456
  | _ => false

/-- R138: a 64-bit LDM segment register written in two halves comes into force as one value once both are written: the first half waits
with no boundary, and the second half gives both theirs. -/
def storeSegHalf (d : Dev) (p off mask v : Nat) : Dev :=
  let other := rkey p (if off % 8 = 0 then off + 4 else off - 4)
  match d.stc.align.find? (fun a => a.due = 0 ∧ a.key = other) with
  | some a =>
    let rest := d.stc.align.filter (fun b => b ≠ a)
    { d with stc := { d.stc with align := rest ++ [{ a with due := d.sn + 1 }, ⟨d.sn + 1, rkey p off, mask, v⟩] } }
  | none =>
    let rest := d.stc.align.filter (fun b => ¬ (b.due = 0 ∧ b.key = rkey p off))
    { d with stc := { d.stc with align := rest ++ [⟨0, rkey p off, mask, v⟩] } }

/-- R301: a write of DC_ILV that clears EN with no channel trained. -/
def ilvClears (d : Dev) (v : Nat) : Bool := !v.testBit 3 && !(List.range 16).any (fun c => d.flag (Pg.dc c) F.DC_CFG_TRAINED)

/-- What a completed write of a plain field brings about beside the new value. -/
def afterWrite (d : Dev) (p off v : Nat) : Dev :=
  match pageKind p with
  | some .dc =>
    if off = 0x100 then -- R297, DC_STS.TRAINED follows DC_CFG.TRAINED
      let t := d.flag p F.DC_CFG_TRAINED
      let d1 := d.setFlag p F.DC_STS_TRAINED t
      if t then
        let c := tget (fun _ => ({} : Chan)) d1.mem.chans (pageInst p)
        { d1 with mem := { d1.mem with chans := tput (fun _ => ({} : Chan)) d1.mem.chans (pageInst p) { c with everTrained := true } } }
      else d1
    else if off = 0x104 then -- R481: a channel without DIMMs is off once firmware has written DC_POP
      if d.get p F.DC_POP_DPC = 0 then d.setAbsent (pageDomain p) else d
    else if off = 0x200 ∧ p = Pg.dc 0 ∧ d.ilvClears v then
      d.setFlag p F.DC_ILV_EN false
    else d
  | _ => d

/-- The RW fields of a word that a write of `v` changes in the present state: a reserved value of a field leaves that field as it is (R299), and
fields that are held while an operation or a channel runs are left alone (R301, R376). TWN_CFG.EN is cleared by TWIN_EN_CLEAR. -/
def rwMask (d : Dev) (p off rw v : Nat) : Nat :=
  match pageKind p with
  | some .dc =>
    if off = 0x100 ∧ 5 ≤ v % 8 then clearBits rw 7
    else if off = 0x178 ∧ d.flag p F.DC_SPARE_CTL_START then 0
    else if off = 0x188 ∧ (tget (fun _ => ({} : Chan)) d.mem.chans (pageInst p)).everTrained then clearBits rw 2 -- R290
    else if off = 0x200 ∧ (p ≠ Pg.dc 0 ∨ (d.flag p F.DC_ILV_EN ∧ !d.ilvClears v)) then 0
    else rw
  | some .dmv => -- R376
    if 0x128 ≤ off ∧ off < 0x180 ∧ d.chReg (d.get p F.DMV_CH_SEL_CH) F.DMV_CH_CTL_EN = 1 then (if off = 0x128 then rw &&& 0xC else 0) else rw
  | some .twn => if off = 0x100 ∧ v % 2 = 0 ∧ d.pendGet p F.TWN_CFG_EN = 1 then clearBits rw 1 else rw
  | _ => rw

/-- DBG_CTL.PORT_DIS is written by firmware, stitch-aligned; a 1 ends the grant (R523, R530). -/
def portDisWrite (d : Dev) (a : Agent) (v : Nat) : Dev :=
  match a with
  | .core _ =>
    let d1 := d.store Pg.dbg 0x118 2 (v &&& 2) true
    if v.testBit 1 then d1.endGrant else d1
  | _ => d

/-- R15, R55: a 4-byte write to the word at `off` of a page stores its plain RW fields, clears its plain W1C bits, and ignores the rest. -/
def writeWord (d : Dev) (a : Agent) (p off v : Nat) : Dev :=
  match pageKind p with
  | none => d
  | some k =>
    match findRow k off with
    | none => if k = .dbg ∧ 0x400 ≤ off ∧ off < 0x4E4 then
        { d with bar := { d.bar with token := tput (fun _ => 0) d.bar.token ((off - 0x400) / 4) (BitVec.ofNat 32 v) } } else d
    | some r =>
      let rw := d.rwMask p off ((r.rw >>> (8 * r.half off)) % 2 ^ 32) v
      let w1c := (r.w1c >>> (8 * r.half off)) % 2 ^ 32
      let tp := if r.bank then d.bankOf p off else p
      if d.writeIgnored p off v then d
      else if p = Pg.dbg ∧ off = 0x118 then d.portDisWrite a v
      else if p = Pg.noc ∧ off = 0x110 then d.writeRtEnt v
      else
        let d1 := if rw = 0 then d
          else if k = .ldm ∧ 0x110 ≤ off ∧ off < 0x150 ∧ off % 16 < 8 then d.storeSegHalf tp off rw v
          else d.store tp off rw (v &&& rw) r.al
        let d2 := if w1c = 0 then d1
          else d1.setWord tp off (BitVec.ofNat 32 (clearBits (d1.word tp off).toNat (v &&& w1c)))
        d2.afterWrite p off v

/-- The words of an aligned write of 4 or 8 bytes. -/
def writeWords (d : Dev) (a : Agent) (p off width v : Nat) : Dev :=
  let d1 := d.writeWord a p off (v % 2 ^ 32)
  if width == 8 then d1.writeWord a p (off + 4) (v >>> 32 % 2 ^ 32) else d1

/-- R53: a naturally aligned write of 4 or 8 bytes within one page: the judgement of R61 on the page and on each register, then the words. -/
def writePart (d : Dev) (a : Agent) (p off width v : Nat) : Dev :=
  let d := d.tally p 0x0004 1
  let two := width == 8
  let ok := d.mayWritePage a p off && d.mayWriteReg a (whoOf p off) && (!two || d.mayWriteReg a (whoOf p (off + 4)))
  if !ok then d.deny a (4096 * p + off)
  else if d.domHeld (pageDomain p) then d.waitDomain a (4096 * p + off) width (some v)
  else if d.pageReady p then d.writeWords a p off width v
  else d

/-- R53: a write that is narrow or not naturally aligned is dropped and raises "BAR2 malformed write". -/
def writeMalformed (d : Dev) (a : Agent) (p off : Nat) : Dev :=
  (d.tally p 0x0004 1).raise Src.barMalformed (4096 * p + off) (agentMaster a) (agentAcc a)

/-- R52, R53: one part of a write, within page `p`. -/
def writeOne (d : Dev) (a : Agent) (p off width v : Nat) : Dev :=
  if (pageKind p).isNone then d
  else if (width = 4 ∧ off % 4 = 0) ∨ (width = 8 ∧ off % 8 = 0) then d.writePart a p off width v
  else d.writeMalformed a p off

/-- R53: a write at BAR2 offset `o`; one that crosses a page boundary is two writes. -/
def barWrite (a : Agent) (o width v : Nat) : Effect := fun d =>
  let p := o / 4096
  let off := o % 4096
  let n := 4096 - off
  if width ≤ n then d.writeOne a p off width v
  else (d.writeOne a p off n (v % 2 ^ (8 * n))).writeOne a (p + 1) 0 (width - n) (v >>> (8 * n))

/-! ### Reads -/

/-- R54: a 64-bit read-only register at `off` (or whose lower word is 4 below). -/
def wideRo (p off : Nat) : Bool :=
  match pageKind p with
  | none => false
  | some k =>
    match findRow k off with
    | none => false
    | some r => r.wide && r.rw == 0 && r.w1c == 0 && !(k == .gen) && !(k == .twn && off < 0x130)

/-- R54, R45: a 4-byte read of a word: the lower word of a wide read-only register latches the upper word, a read of the upper word
returns the latch. -/
def readWord4 (d : Dev) (p off : Nat) : Nat × Dev :=
  if p = Pg.stc ∧ off = 0x100 then
    (d.sn % 2 ^ 32, { d with bar := { d.bar with latch := tput (fun _ => 0) d.bar.latch p (BitVec.ofNat 32 (d.sn >>> 32)) } })
  else if wideRo p off then
    if off % 8 = 0 then
      (d.readWord p off,
        { d with bar := { d.bar with latch := tput (fun _ => 0) d.bar.latch p (BitVec.ofNat 32 (d.readWord p (off + 4))) } })
    else ((tget (fun _ => (0 : Word)) d.bar.latch p).toNat, d)
  else if (p = Pg.stc ∧ off = 0x108) ∨ (p = Pg.noc ∧ 0x144 ≤ off) then (d.readWord p off, d.draw)
  else (d.readWord p off, d)

/-- R57: what a page answers at a word: its identity and status always, the rest only while READY. -/
def readReady (d : Dev) (a : Agent) (p off : Nat) : Nat × Dev :=
  if d.pageReady p then
    if (pageKind p) = some .dc ∧ 0x400 ≤ off then -- R297
      match a with
      | .core _ => ((Config.phyRegister d.fresh).toNat, d.draw)
      | _ => (0, d)
    else d.readWord4 p off
  else if off = 0 ∨ off = 0xC then (d.readWord p off, d)
  else (0, d)

/-- R53: the words that a read of one page touches, in ascending order, each read once; the bytes addressed are returned. -/
def readWords (d : Dev) (a : Agent) (p off width : Nat) : Nat × Dev :=
  let first := off / 4
  let last := (off + width - 1) / 4
  if width = 8 ∧ off % 8 = 0 ∧ d.pageReady p then
    if p = Pg.stc ∧ off = 0x100 then (d.sn % 2 ^ 64, (d.readWord4 p off).2)
    else (d.readWord p off + d.readWord p (off + 4) * 2 ^ 32, d)
  else
    let (v, d1) := (List.range (last - first + 1)).foldl
      (fun (acc : Nat × Dev) k =>
        let (w, d') := acc.2.readReady a p (4 * (first + k))
        (acc.1 + w * 2 ^ (32 * k), d')) (0, d)
    (bits v (8 * (off % 4)) (8 * width), d1)

/-- R52, R56, R61: one part of a read, within page `p`: its value, or `none` where it waits for the page's domain. -/
def readOne (d : Dev) (a : Agent) (p off width : Nat) : Option Nat × Dev :=
  if (pageKind p).isNone then (some 0, d)
  else
    let d := d.tally p 0x0003 1
    if !d.mayRead a p then (some 0, d.deny a (4096 * p + off))
    else if d.domHeld (pageDomain p) then (none, d.waitDomain a (4096 * p + off) width none)
    else
      let (v, d1) := d.readWords a p off width
      (some v, d1)

/-- R53: a read at BAR2 offset `o`; the data goes back to the agent. A read that crosses a page boundary is two reads; where one of them waits for
its domain, each is answered by itself. -/
def barRead (a : Agent) (o width : Nat) : Effect := fun d =>
  let p := o / 4096
  let off := o % 4096
  let n := 4096 - off
  if width = 0 then d
  else if width ≤ n then
    match d.readOne a p off width with
    | (some v, d1) => d1.emit (.barData a o width v)
    | (none, d1) => d1
  else
    match d.readOne a p off n with
    | (some v, d1) =>
      match d1.readOne a (p + 1) 0 (width - n) with
      | (some w, d2) => d2.emit (.barData a o width (v + w * 2 ^ (8 * n)))
      | (none, d2) => d2.emit (.barData a o n v)
    | (none, d1) =>
      match d1.readOne a (p + 1) 0 (width - n) with
      | (some w, d2) => d2.emit (.barData a (4096 * (p + 1)) (width - n) w)
      | (none, d2) => d2

/-! ### BAR4 (R339); a register access at offset 2^32 + o is an access at offset o of the BAR4 of its LD -/

/-- A word of a live slot as it reads. -/
def slotWord (d : Dev) (q off : Nat) : Nat :=
  if off = 0x24 then
    b2n (d.ringEnabled q) + d.qslot q F.SLOT_HALTED * 2 + d.qslot q F.SLOT_FROGGED * 4 + d.qslot q F.SLOT_PHASE * 8 + d.qslot q F.SLOT_ERR * 16 +
      d.inFlight q % 2 ^ 7 * 2 ^ 8
  else if off < 0x28 then (d.word (Bk.slot q) off).toNat
  else 0

/-- R339, R340: the plain fields of a word of a slot are stored: the bases, and the fields of RING_CFG that are not locked, and IRQ_CFG. SQ_TAIL,
CQ_HEAD and EN are written by their own commands. -/
def slotStore (d : Dev) (q off v : Nat) : Dev :=
  if off = 0x18 then d.storeCfg q v
  else if off = 0x1C then d.store (Bk.slot q) off 0xFFFF07FF v false
  else if 0x08 ≤ off ∧ off < 0x18 then
    if d.pairOn q then d else d.store (Bk.slot q) off (if off % 8 = 0 then 2 ^ 32 - 1 else 2 ^ 20 - 1) v false
  else d

/-- The words of an aligned write of a slot. -/
def slotWords (d : Dev) (q off width v : Nat) : Dev :=
  let d1 := d.slotStore q off (v % 2 ^ 32)
  if width = 8 then d1.slotStore q (off + 4) (v >>> 32 % 2 ^ 32) else d1

/-- The value of an aligned read of a slot. -/
def slotRead (d : Dev) (q off width : Nat) : Nat := d.slotWord q off + (if width = 8 then d.slotWord q (off + 4) * 2 ^ 32 else 0)

/-- R339: an access that the device serves in BAR4: 4 or 8 bytes, naturally aligned, within the slots. -/
def bar4Served (o width : Nat) : Bool := (width == 4 || width == 8) && o % width == 0 && decide (o < 8192 * 64)

/-- R339: a write at offset `o` of an LD's BAR4. -/
def bar4Write (n o width v : Nat) : Effect := fun d =>
  let q := o / 64
  let off := o % 64
  if 8192 * 64 ≤ o then d
  else if !bar4Served o width then d.raise Src.barMalformed o n 10
  else if n ≠ d.qpLd q then d.raise Src.foreignDoorbell o n 10
  else if d.domHeld (pageDomain Pg.qmg) then d.waitDomain (.ld n) (2 ^ 32 + o) width (some v)
  else if d.pageReady Pg.qmg then d.slotWords q off width v
  else d

/-- R339: a read at offset `o` of an LD's BAR4: 0 in a slot that is not live there. -/
def bar4Read (n o width : Nat) : Effect := fun d =>
  let q := o / 64
  let answer := fun (d : Dev) (v : Nat) => d.emit (.barData (.ld n) (2 ^ 32 + o) width v)
  if !bar4Served o width || n != d.qpLd q then answer d 0
  else if d.domHeld (pageDomain Pg.qmg) then d.waitDomain (.ld n) (2 ^ 32 + o) width none
  else if d.pageReady Pg.qmg then answer d (d.slotRead q (o % 64) width)
  else answer d 0

/-! ### Accesses that waited for a domain (R56) -/

/-- The effect of a held write that has one of its own, by its page, offset and value. -/
def heldEffect (p off v : Nat) : Effect :=
  if off = 0x008 then
    if v / 2 ^ 32 = 1 then enableEffect p (v.testBit 0)
    else if v / 2 ^ 32 = 2 then frogEffect p
    else fun d => (d.setFlag p F.PG_CTL_TEST_INT (v.testBit 0)).afterHeaderWrite p
  else if off = 0x010 then intStsClear p v 0
  else if off = 0x014 then fun d => (d.set p F.PG_INT_EN_EN v).afterHeaderWrite p
  else if off = 0x018 then intSet p v
  else if 0x080 ≤ off ∧ off < 0x090 then talSel p ((off - 0x80) / 4) (v % 2 ^ 16) (v.testBit 16)
  else if off = 0x0E0 then talOvf p v 0
  else
    let i := pageInst p
    match pageKind p with
    | some .dc =>
      if off = 0x100 then restart i
      else if off = 0x188 then pprStart i v
      else if off = 0x178 then (if v.testBit 32 then chanSpare i (v % 2 ^ 32) else rankSpare i v)
      else if off = 0x200 then ilvEnable v
      else chspareWrite v
    | some .dbg =>
      if off = 0x148 then (if v % 4 = 2 then dbgStart 2 v okFault else dbgStart 1 v okFault)
      else if v % 8 = 4 then portUnlock (v.testBit 32)
      else if v % 8 = 1 then Dev.endGrant
      else fun d => (d.store Pg.dbg 0x118 2 2 true).endGrant
    | some .gau => commitGo
    | some .hp => if off < 0x160 then vecWrite i ((off - 0x120) / 4) v else hdmWrite i ((off - 0x160) / 4) v
    | some .ctg =>
      if off = 0x120 then fun d => (bitList 16 v).foldl (fun d n => d.attachStart n) d
      else fun d => ((bitList 16 v).foldl (fun d n => d.admitCartridge n) d).pump
    | some .dmv => chCtl v
    | some .noc =>
      if off = 0x108 then fun d => d.setFlag Pg.noc F.NOC_RT_CTL_SWAP true
      else if off = 0x118 then planeWrite v
      else if v = 1 then rtCommand fun x => { x with shadow := x.live }
      else rtCommand fun x => { x with shadow := x.shadow.fillNet (v / 4 % 4) (v.testBit 4) }
    | some .cry => if v.testBit 0 then reknitRequest else fun d => d.setFlag Pg.cry F.CRY_REKNIT_CTL_PAUSE (v.testBit 1)
    | some .pat =>
      if off = 0x134 then (if v = 1 then roomRead else roomWrite)
      else if off = 0x120 then fun d => d.setFlag Pg.pat F.PAT_CACHE_CTL_FLUSH true
      else probe
    | some .qmg => qpAssign v
    | some .str => if off = 0x128 then actReady else rightRequest v
    | some .mgc => profClear ((off - 0x200) / 0x40) (off % 0x40 / 4) v
    | some .tir => evacRequest (v % 2 ^ 16)
    | some .twn =>
      if off = 0x100 then writeCfg v
      else if off = 0x158 then forfeit
      else witness (if v / 2 ^ 64 = 0 then .lo else if v / 2 ^ 64 = 1 then .hi else .both) (v % 2 ^ 64)
    | some .yp => linkControl i v
    | some .hwl => linkControl 16 v
    | _ => id

/-- The effect of a held write of a slot that has one of its own. -/
def heldSlot (q off v : Nat) : Effect := fun d =>
  if off = 0x00 then d.tailWrite q v
  else if off = 0x04 then d.headWrite q v
  else if v.testBit 24 then d.ringOn q v
  else d.ringOff q v

/-- R56: a held access completes once the page it is for is ready. -/
def accessComplete (id : Nat) : Effect := fun d =>
  match d.bar.waits.find? (fun w => w.id = id) with
  | none => d
  | some w =>
    let p := waitPage w.off
    if !d.pageReady p || d.domHeld (pageDomain p) then d
    else
      let d1 : Dev := { d with bar := { d.bar with waits := d.bar.waits.filter (fun x => x.id ≠ id) } }
      if 2 ^ 32 ≤ w.off then
        let q := (w.off - 2 ^ 32) / 64
        let off := w.off % 64
        match w.write with
        | none => d1.emit (.barData w.agent w.off w.width (d1.slotRead q off w.width))
        | some v => if 2 ^ 128 ≤ v then heldSlot q off (v - 2 ^ 128) d1 else d1.slotWords q off w.width v
      else
        let off := w.off % 4096
        match w.write with
        | none =>
          let (v, d2) := d1.readWords w.agent p off w.width
          d2.emit (.barData w.agent w.off w.width v)
        | some v => if 2 ^ 128 ≤ v then heldEffect p off (v - 2 ^ 128) d1 else d1.writeWords w.agent p off w.width v

end Dev

/-! ### The commands -/

open Dev in
/-- R55, R53, R41, R61, R339: REGISTER_WRITE. -/
def execRegisterWrite (a : Agent) (off width : Nat) (v : BitVec 64) (s : State) : Host.Outcome State Fault Refusal :=
  s.run (if off < 2 ^ 32 then fun d => barWrite a off width v.toNat (d.portUsed a)
    else match a with | .ld n => bar4Write (n % 64) (off - 2 ^ 32) width v.toNat | _ => id)

open Dev in
/-- R53, R54, R57, R61, R339: BAR2_READ. -/
def execBar2Read (a : Agent) (off width : Nat) (s : State) : Host.Outcome State Fault Refusal :=
  s.run (if off < 2 ^ 32 then fun d => barRead a off width (d.portUsed a)
    else match a with | .ld n => bar4Read (n % 64) (off - 2 ^ 32) width | _ => id)

open Dev in
/-- R56: BAR2_ACCESS_COMPLETE. -/
def execBar2AccessComplete (id : Nat) (s : State) : Host.Outcome State Fault Refusal := s.run (accessComplete id)

end Sys2Proof.Machine
end

