-- ==== Sys2Proof/Machine/Dispatch.lean ====
section
/-! DEFINITION. One arm per command, each one direct call of its meaning. -/

namespace Sys2Proof.Machine

def exec (i : Instr) (s : State) : Host.Outcome State Fault Refusal :=
  match i with
  | .stitchBoundary inputs planComplete => Sys2Proof.Machine.execStitchBoundary inputs planComplete s
  | .eventDispatch => Sys2Proof.Machine.execEventDispatch s
  | .stuckInputMask src => Sys2Proof.Machine.execStuckInputMask src s
  | .sourceQuarantine src => Sys2Proof.Machine.execSourceQuarantine src s
  | .stcMaskedRelease a word v => Sys2Proof.Machine.execStcMaskedRelease a word v s
  | .stcQuarRelease a word v => Sys2Proof.Machine.execStcQuarRelease a word v s
  | .referenceClockLoss => Sys2Proof.Machine.execReferenceClockLoss s
  | .gaugeWindowEnd mr4 => Sys2Proof.Machine.execGaugeWindowEnd mr4 s
  | .registerWrite a off width v => Sys2Proof.Machine.execRegisterWrite a off width v s
  | .bar2Read a off width => Sys2Proof.Machine.execBar2Read a off width s
  | .bar2AccessComplete id => Sys2Proof.Machine.execBar2AccessComplete id s
  | .bar2DomainTimeout id => Sys2Proof.Machine.execBar2DomainTimeout id s
  | .pgEnableWrite a page on => Sys2Proof.Machine.execPgEnableWrite a page on s
  | .pgFrogWrite a page => Sys2Proof.Machine.execPgFrogWrite a page s
  | .pgTestIntWrite a page on => Sys2Proof.Machine.execPgTestIntWrite a page on s
  | .pgIntStsClear a page v coincident => Sys2Proof.Machine.execPgIntStsClear a page v coincident s
  | .pgIntEnWrite a page v => Sys2Proof.Machine.execPgIntEnWrite a page v s
  | .pgIntSetWrite a page v => Sys2Proof.Machine.execPgIntSetWrite a page v s
  | .genIrqRouteWrite a v => Sys2Proof.Machine.execGenIrqRouteWrite a v s
  | .genAccWrite a v => Sys2Proof.Machine.execGenAccWrite a v s
  | .genMgmtLdWrite a h v => Sys2Proof.Machine.execGenMgmtLdWrite a h v s
  | .talSelWrite a page n event => Sys2Proof.Machine.execTalSelWrite a page n event s
  | .talClear a page n event => Sys2Proof.Machine.execTalClear a page n event s
  | .talOvfClear a page v coincident => Sys2Proof.Machine.execTalOvfClear a page v coincident s
  | .tallyCounterWrap page n occurrences => Sys2Proof.Machine.execTallyCounterWrap page n occurrences s
  | .hostLinkUp port half speed width mldCapable => Sys2Proof.Machine.execHostLinkUp port half speed width mldCapable s
  | .hostLinkDown port half => Sys2Proof.Machine.execHostLinkDown port half s
  | .hostLinkChange port half speed width => Sys2Proof.Machine.execHostLinkChange port half speed width s
  | .l0pRequest port half width => Sys2Proof.Machine.execL0pRequest port half width s
  | .hostL1ExitWake port half => Sys2Proof.Machine.execHostL1ExitWake port half s
  | .conventionalReset port byPerst => Sys2Proof.Machine.execConventionalReset port byPerst s
  | .perstDeassert port => Sys2Proof.Machine.execPerstDeassert port s
  | .functionLevelReset ld => Sys2Proof.Machine.execFunctionLevelReset ld s
  | .cxlReset ld memoryClear => Sys2Proof.Machine.execCxlReset ld memoryClear s
  | .cxlResetComplete ld => Sys2Proof.Machine.execCxlResetComplete ld s
  | .ldBind port ldId => Sys2Proof.Machine.execLdBind port ldId s
  | .hdmDecoderCommit ld index d => Sys2Proof.Machine.execHdmDecoderCommit ld index d s
  | .hpVecAllocWrite a port n v => Sys2Proof.Machine.execHpVecAllocWrite a port n v s
  | .hpHdmAllocWrite a port n v => Sys2Proof.Machine.execHpHdmAllocWrite a port n v s
  | .ideIntegrityFailure port half => Sys2Proof.Machine.execIdeIntegrityFailure port half s
  | .linkReplayThreshold port half replays => Sys2Proof.Machine.execLinkReplayThreshold port half replays s
  | .getLdInfo port => Sys2Proof.Machine.execGetLdInfo port s
  | .getLdAllocations port start count => Sys2Proof.Machine.execGetLdAllocations port start count s
  | .setLdAllocations port start gib => Sys2Proof.Machine.execSetLdAllocations port start gib s
  | .getQosControl port => Sys2Proof.Machine.execGetQosControl port s
  | .setQosControl port c => Sys2Proof.Machine.execSetQosControl port c s
  | .getQosStatus port => Sys2Proof.Machine.execGetQosStatus port s
  | .getQosAllocatedBw port start count => Sys2Proof.Machine.execGetQosAllocatedBw port start count s
  | .setQosAllocatedBw port start fractions => Sys2Proof.Machine.execSetQosAllocatedBw port start fractions s
  | .getQosBwLimit port start count => Sys2Proof.Machine.execGetQosBwLimit port start count s
  | .setQosBwLimit port start fractions => Sys2Proof.Machine.execSetQosBwLimit port start fractions s
  | .tunnelManagement port ldId inner => Sys2Proof.Machine.execTunnelManagement port ldId inner s
  | .dcdManagement port c => Sys2Proof.Machine.execDcdManagement port c s
  | .doeDiscovery ld index => Sys2Proof.Machine.execDoeDiscovery ld index s
  | .cdatRead ld entry => Sys2Proof.Machine.execCdatRead ld entry s
  | .getEventRecords ld log => Sys2Proof.Machine.execGetEventRecords ld log s
  | .clearEventRecords ld log handles all => Sys2Proof.Machine.execClearEventRecords ld log handles all s
  | .getEventInterruptPolicy ld => Sys2Proof.Machine.execGetEventInterruptPolicy ld s
  | .setEventInterruptPolicy ld policy => Sys2Proof.Machine.execSetEventInterruptPolicy ld policy s
  | .getFwInfo ld => Sys2Proof.Machine.execGetFwInfo ld s
  | .transferFw ld slot last image => Sys2Proof.Machine.execTransferFw ld slot last image s
  | .activateFwOnReset ld slot => Sys2Proof.Machine.execActivateFwOnReset ld slot s
  | .activateFwOnline ld slot digestOk => Sys2Proof.Machine.execActivateFwOnline ld slot digestOk s
  | .getTimestamp ld => Sys2Proof.Machine.execGetTimestamp ld s
  | .setTimestamp ld t => Sys2Proof.Machine.execSetTimestamp ld t s
  | .getSupportedLogs ld => Sys2Proof.Machine.execGetSupportedLogs ld s
  | .getLog ld log offset length => Sys2Proof.Machine.execGetLog ld log offset length s
  | .getSupportedFeatures ld => Sys2Proof.Machine.execGetSupportedFeatures ld s
  | .getFeature ld id => Sys2Proof.Machine.execGetFeature ld id s
  | .setFeature ld id data => Sys2Proof.Machine.execSetFeature ld id data s
  | .identifyMemoryDevice ld => Sys2Proof.Machine.execIdentifyMemoryDevice ld s
  | .getHealthInfo ld => Sys2Proof.Machine.execGetHealthInfo ld s
  | .getAlertConfiguration ld => Sys2Proof.Machine.execGetAlertConfiguration ld s
  | .setAlertConfiguration ld config => Sys2Proof.Machine.execSetAlertConfiguration ld config s
  | .sanitize ld => Sys2Proof.Machine.execSanitize ld s
  | .secureErase ld => Sys2Proof.Machine.execSecureErase ld s
  | .backgroundCommandComplete ld => Sys2Proof.Machine.execBackgroundCommandComplete ld s
  | .getPoisonList ld start length => Sys2Proof.Machine.execGetPoisonList ld start length s
  | .injectPoison ld offset => Sys2Proof.Machine.execInjectPoison ld offset s
  | .clearPoison ld offset data => Sys2Proof.Machine.execClearPoison ld offset data s
  | .poisonWriteVisible ld => Sys2Proof.Machine.execPoisonWriteVisible ld s
  | .getScanMediaCapabilities ld start length => Sys2Proof.Machine.execGetScanMediaCapabilities ld start length s
  | .scanMedia ld start length faults => Sys2Proof.Machine.execScanMedia ld start length faults s
  | .getScanMediaResults ld => Sys2Proof.Machine.execGetScanMediaResults ld s
  | .getDcConfiguration ld => Sys2Proof.Machine.execGetDcConfiguration ld s
  | .getDcExtentList ld => Sys2Proof.Machine.execGetDcExtentList ld s
  | .addDcResponse ld extents => Sys2Proof.Machine.execAddDcResponse ld extents s
  | .releaseDc ld extents => Sys2Proof.Machine.execReleaseDc ld extents s
  | .unsupportedCommand ld opcode => Sys2Proof.Machine.execUnsupportedCommand ld opcode s
  | .getDeviceInfo ld len => Sys2Proof.Machine.execGetDeviceInfo ld len s
  | .getStitchNumber ld len => Sys2Proof.Machine.execGetStitchNumber ld len s
  | .getStcSource ld len src => Sys2Proof.Machine.execGetStcSource ld len src s
  | .setStcSource ld len src cfg rate => Sys2Proof.Machine.execSetStcSource ld len src cfg rate s
  | .releaseStcSource ld len src mask quarantine => Sys2Proof.Machine.execReleaseStcSource ld len src mask quarantine s
  | .getInterruptRoute ld len page => Sys2Proof.Machine.execGetInterruptRoute ld len page s
  | .setInterruptRoute ld len page v => Sys2Proof.Machine.execSetInterruptRoute ld len page v s
  | .getPageAccess ld len page => Sys2Proof.Machine.execGetPageAccess ld len page s
  | .setPageAccess ld len page v => Sys2Proof.Machine.execSetPageAccess ld len page v s
  | .frog ld len kind index => Sys2Proof.Machine.execFrog ld len kind index s
  | .getPortAllocation ld len port => Sys2Proof.Machine.execGetPortAllocation ld len port s
  | .setPortAllocation ld len port entries => Sys2Proof.Machine.execSetPortAllocation ld len port entries s
  | .setManagementLds ld len mask => Sys2Proof.Machine.execSetManagementLds ld len mask s
  | .memRd r => Sys2Proof.Machine.execMemRd r s
  | .memRdData r => Sys2Proof.Machine.execMemRdData r s
  | .memInv r => Sys2Proof.Machine.execMemInv r s
  | .memClnEvct r => Sys2Proof.Machine.execMemClnEvct r s
  | .memSpecRd r => Sys2Proof.Machine.execMemSpecRd r s
  | .memWr r data poison => Sys2Proof.Machine.execMemWr r data poison s
  | .memWrPtl r data enables => Sys2Proof.Machine.execMemWrPtl r data enables s
  | .biConflict r => Sys2Proof.Machine.execBiConflict r s
  | .biRsp ld line => Sys2Proof.Machine.execBiRsp ld line s
  | .unsupportedMemOpcode r opcode => Sys2Proof.Machine.execUnsupportedMemOpcode r opcode s
  | .patternMissInstall skein integrityOk => Sys2Proof.Machine.execPatternMissInstall skein integrityOk s
  | .dramLineCapture id f => Sys2Proof.Machine.execDramLineCapture id f s
  | .macLateAlarm id => Sys2Proof.Machine.execMacLateAlarm id s
  | .gateRelease sub => Sys2Proof.Machine.execGateRelease sub s
  | .ingressHoldRelease ld => Sys2Proof.Machine.execIngressHoldRelease ld s
  | .parkRelease id => Sys2Proof.Machine.execParkRelease id s
  | .backingWaitTimeout id => Sys2Proof.Machine.execBackingWaitTimeout id s
  | .larderReadTimeout id => Sys2Proof.Machine.execLarderReadTimeout id s
  | .larderWriteTimeout id => Sys2Proof.Machine.execLarderWriteTimeout id s
  | .biResponseTimeout ld line => Sys2Proof.Machine.execBiResponseTimeout ld line s
  | .roomRead a => Sys2Proof.Machine.execRoomRead a s
  | .roomWrite a => Sys2Proof.Machine.execRoomWrite a s
  | .roomWriteComplete => Sys2Proof.Machine.execRoomWriteComplete s
  | .patCacheFlush a => Sys2Proof.Machine.execPatCacheFlush a s
  | .patCacheFlushDone failed => Sys2Proof.Machine.execPatCacheFlushDone failed s
  | .patProbe a => Sys2Proof.Machine.execPatProbe a s
  | .scannerVisit => Sys2Proof.Machine.execScannerVisit s
  | .packTrialComplete skein mismatches => Sys2Proof.Machine.execPackTrialComplete skein mismatches s
  | .migrationStart => Sys2Proof.Machine.execMigrationStart s
  | .copyPhaseEnd id r => Sys2Proof.Machine.execCopyPhaseEnd id r s
  | .migrationSettle id reason => Sys2Proof.Machine.execMigrationSettle id reason s
  | .promotionRetry => Sys2Proof.Machine.execPromotionRetry s
  | .fetchBufferFreed => Sys2Proof.Machine.execFetchBufferFreed s
  | .framePressurePass => Sys2Proof.Machine.execFramePressurePass s
  | .squeezeWalk ld => Sys2Proof.Machine.execSqueezeWalk ld s
  | .tirEvacRequest a v => Sys2Proof.Machine.execTirEvacRequest a v s
  | .fillEngineWindow => Sys2Proof.Machine.execFillEngineWindow s
  | .fillSlotFreed => Sys2Proof.Machine.execFillSlotFreed s
  | .compressorBlockDone inst checkOk => Sys2Proof.Machine.execCompressorBlockDone inst checkOk s
  | .inlineDecompressorFree inst => Sys2Proof.Machine.execInlineDecompressorFree inst s
  | .reknitStart a => Sys2Proof.Machine.execReknitStart a s
  | .reknitAutoStart => Sys2Proof.Machine.execReknitAutoStart s
  | .reknitActivate => Sys2Proof.Machine.execReknitActivate s
  | .reknitItem fault => Sys2Proof.Machine.execReknitItem fault s
  | .reknitEnd => Sys2Proof.Machine.execReknitEnd s
  | .reknitPauseWrite a on => Sys2Proof.Machine.execReknitPauseWrite a on s
  | .ddrCommandSlot ch sub ready => Sys2Proof.Machine.execDdrCommandSlot ch sub ready s
  | .bankIdleClose ch sub bank => Sys2Proof.Machine.execBankIdleClose ch sub bank s
  | .refreshInterval ch sub rank => Sys2Proof.Machine.execRefreshInterval ch sub rank s
  | .oscillatorRead ch sub rank count => Sys2Proof.Machine.execOscillatorRead ch sub rank count s
  | .zqCalibration ch sub rank => Sys2Proof.Machine.execZqCalibration ch sub rank s
  | .patrolScrub ch faults => Sys2Proof.Machine.execPatrolScrub ch faults s
  | .ddrAlert ch => Sys2Proof.Machine.execDdrAlert ch s
  | .replayComplete ch sub => Sys2Proof.Machine.execReplayComplete ch sub s
  | .dcRestart a ch => Sys2Proof.Machine.execDcRestart a ch s
  | .pprStart a ch v => Sys2Proof.Machine.execPprStart a ch v s
  | .pprComplete ch ok => Sys2Proof.Machine.execPprComplete ch ok s
  | .rankSparingStart a ch v => Sys2Proof.Machine.execRankSparingStart a ch v s
  | .channelSparingStart a ch v => Sys2Proof.Machine.execChannelSparingStart a ch v s
  | .spareCopyLine ch fault => Sys2Proof.Machine.execSpareCopyLine ch fault s
  | .dcIlvEnable a v => Sys2Proof.Machine.execDcIlvEnable a v s
  | .dcChspareWrite a v => Sys2Proof.Machine.execDcChspareWrite a v s
  | .gauCommitGo a => Sys2Proof.Machine.execGauCommitGo a s
  | .admissionCheckDone => Sys2Proof.Machine.execAdmissionCheckDone s
  | .sqTailDoorbell ld slot v => Sys2Proof.Machine.execSqTailDoorbell ld slot v s
  | .cqHeadWrite ld slot v => Sys2Proof.Machine.execCqHeadWrite ld slot v s
  | .ringEnable ld slot v => Sys2Proof.Machine.execRingEnable ld slot v s
  | .ringDisable ld slot v => Sys2Proof.Machine.execRingDisable ld slot v s
  | .qpAssignWrite a v => Sys2Proof.Machine.execQpAssignWrite a v s
  | .descriptorFetched pair f => Sys2Proof.Machine.execDescriptorFetched pair f s
  | .jobStart pair => Sys2Proof.Machine.execJobStart pair s
  | .jobComplete job f => Sys2Proof.Machine.execJobComplete job f s
  | .coalesceTimer pair => Sys2Proof.Machine.execCoalesceTimer pair s
  | .noOp job => Sys2Proof.Machine.execNoOp job s
  | .move job faults => Sys2Proof.Machine.execMove job faults s
  | .fill job faults => Sys2Proof.Machine.execFill job faults s
  | .compare job faults => Sys2Proof.Machine.execCompare job faults s
  | .cableTransform job faults => Sys2Proof.Machine.execCableTransform job faults s
  | .compress job mismatch faults => Sys2Proof.Machine.execCompress job mismatch faults s
  | .decompress job faults => Sys2Proof.Machine.execDecompress job faults s
  | .promote job => Sys2Proof.Machine.execPromote job s
  | .demote job => Sys2Proof.Machine.execDemote job s
  | .pin job => Sys2Proof.Machine.execPin job s
  | .unpin job => Sys2Proof.Machine.execUnpin job s
  | .checksum job faults => Sys2Proof.Machine.execChecksum job faults s
  | .invalidOpcode job => Sys2Proof.Machine.execInvalidOpcode job s
  | .dmvChannelEnable a v => Sys2Proof.Machine.execDmvChannelEnable a v s
  | .dmvChannelDisable a v => Sys2Proof.Machine.execDmvChannelDisable a v s
  | .dmvGo a v => Sys2Proof.Machine.execDmvGo a v s
  | .dmvTimerFire t => Sys2Proof.Machine.execDmvTimerFire t s
  | .dmvBeat engine f => Sys2Proof.Machine.execDmvBeat engine f s
  | .dmvRoundComplete ch f => Sys2Proof.Machine.execDmvRoundComplete ch f s
  | .yarnRxNop link ack => Sys2Proof.Machine.execYarnRxNop link ack s
  | .yarnRxNak link seq ack => Sys2Proof.Machine.execYarnRxNak link seq ack s
  | .yarnRxBadPacket link why => Sys2Proof.Machine.execYarnRxBadPacket link why s
  | .yarnAckDue link => Sys2Proof.Machine.execYarnAckDue link s
  | .yarnReplayTimeout link => Sys2Proof.Machine.execYarnReplayTimeout link s
  | .yarnDetectTimer link => Sys2Proof.Machine.execYarnDetectTimer link s
  | .yarnTs1Received link retrain p => Sys2Proof.Machine.execYarnTs1Received link retrain p s
  | .yarnTs2Agreed link p => Sys2Proof.Machine.execYarnTs2Agreed link p s
  | .yarnTrainTimeout link => Sys2Proof.Machine.execYarnTrainTimeout link s
  | .yarnSilenceTimeout link => Sys2Proof.Machine.execYarnSilenceTimeout link s
  | .yarnLossOfLock link lane => Sys2Proof.Machine.execYarnLossOfLock link lane s
  | .yarnCtlRetrain a link => Sys2Proof.Machine.execYarnCtlRetrain a link s
  | .yarnCtlDown a link => Sys2Proof.Machine.execYarnCtlDown a link s
  | .yarnDozeEntry link powerRequest => Sys2Proof.Machine.execYarnDozeEntry link powerRequest s
  | .yarnWakeReceived link => Sys2Proof.Machine.execYarnWakeReceived link s
  | .yarnDozeResync link ok => Sys2Proof.Machine.execYarnDozeResync link ok s
  | .yarnDomainPower domain on => Sys2Proof.Machine.execYarnDomainPower domain on s
  | .ctgAttachWrite a v => Sys2Proof.Machine.execCtgAttachWrite a v s
  | .identify port h b => Sys2Proof.Machine.execIdentify port h b s
  | .cert port h bytes verdict => Sys2Proof.Machine.execCert port h bytes verdict s
  | .signature port h ok => Sys2Proof.Machine.execSignature port h ok s
  | .cartridgeKeyResponse port h ok => Sys2Proof.Machine.execCartridgeKeyResponse port h ok s
  | .ctgAttachTimeout port => Sys2Proof.Machine.execCtgAttachTimeout port s
  | .ctgAdmitWrite a v => Sys2Proof.Machine.execCtgAdmitWrite a v s
  | .yarnRxRsp port h b => Sys2Proof.Machine.execYarnRxRsp port h b s
  | .yarnRxData port h lines => Sys2Proof.Machine.execYarnRxData port h lines s
  | .wear port h b => Sys2Proof.Machine.execWear port h b s
  | .retireAck port h => Sys2Proof.Machine.execRetireAck port h s
  | .retireTimeout port => Sys2Proof.Machine.execRetireTimeout port s
  | .reclaimWindow => Sys2Proof.Machine.execReclaimWindow s
  | .ctgTxnTimeout port tag => Sys2Proof.Machine.execCtgTxnTimeout port tag s
  | .wearPoll => Sys2Proof.Machine.execWearPoll s
  | .nocRtSwapWrite a => Sys2Proof.Machine.execNocRtSwapWrite a s
  | .nocEpochDrained => Sys2Proof.Machine.execNocEpochDrained s
  | .nocRtCopy a => Sys2Proof.Machine.execNocRtCopy a s
  | .nocRtFill a net plane => Sys2Proof.Machine.execNocRtFill a net plane s
  | .nocPlaneCfgWrite a v => Sys2Proof.Machine.execNocPlaneCfgWrite a v s
  | .nocPlaneFault net plane errors => Sys2Proof.Machine.execNocPlaneFault net plane errors s
  | .nocHeaderError router port kind request => Sys2Proof.Machine.execNocHeaderError router port kind request s
  | .nocWakeTimeout id => Sys2Proof.Machine.execNocWakeTimeout id s
  | .domainReady domain => Sys2Proof.Machine.execDomainReady domain s
  | .trimmedDomainWake domain => Sys2Proof.Machine.execTrimmedDomainWake domain s
  | .fcuStsClear a word v => Sys2Proof.Machine.execFcuStsClear a word v s
  | .fcuInject a v => Sys2Proof.Machine.execFcuInject a v s
  | .frogComplete id => Sys2Proof.Machine.execFrogComplete id s
  | .pwrModeRequest a v afterCommit => Sys2Proof.Machine.execPwrModeRequest a v afterCommit s
  | .coreWait core => Sys2Proof.Machine.execCoreWait core s
  | .hushEntryComplete => Sys2Proof.Machine.execHushEntryComplete s
  | .trimEntryComplete => Sys2Proof.Machine.execTrimEntryComplete s
  | .recoverySleepEntry => Sys2Proof.Machine.execRecoverySleepEntry s
  | .hushWake src => Sys2Proof.Machine.execHushWake src s
  | .hushExitComplete => Sys2Proof.Machine.execHushExitComplete s
  | .powerTransitionOverrun step => Sys2Proof.Machine.execPowerTransitionOverrun step s
  | .vsenseCrossing above => Sys2Proof.Machine.execVsenseCrossing above s
  | .wakeTimer => Sys2Proof.Machine.execWakeTimer s
  | .mctpWake => Sys2Proof.Machine.execMctpWake s
  | .thermalTrip => Sys2Proof.Machine.execThermalTrip s
  | .coldReset => Sys2Proof.Machine.execColdReset s
  | .porRelease straps => Sys2Proof.Machine.execPorRelease straps s
  | .pllLock => Sys2Proof.Machine.execPllLock s
  | .pllLockRetry => Sys2Proof.Machine.execPllLockRetry s
  | .bootStart => Sys2Proof.Machine.execBootStart s
  | .bootRomDone chainOk => Sys2Proof.Machine.execBootRomDone chainOk s
  | .trngDrawDone failing => Sys2Proof.Machine.execTrngDrawDone failing s
  | .imageCheckDone => Sys2Proof.Machine.execImageCheckDone s
  | .coreRelease => Sys2Proof.Machine.execCoreRelease s
  | .spdmGetVersion t => Sys2Proof.Machine.execSpdmGetVersion t s
  | .spdmGetCapabilities t => Sys2Proof.Machine.execSpdmGetCapabilities t s
  | .spdmNegotiateAlgorithms t offersSm => Sys2Proof.Machine.execSpdmNegotiateAlgorithms t offersSm s
  | .spdmGetDigests t => Sys2Proof.Machine.execSpdmGetDigests t s
  | .spdmGetCertificate t slot => Sys2Proof.Machine.execSpdmGetCertificate t slot s
  | .spdmChallenge t slot => Sys2Proof.Machine.execSpdmChallenge t slot s
  | .spdmGetMeasurements t index signed => Sys2Proof.Machine.execSpdmGetMeasurements t index signed s
  | .spdmKeyExchange t slot ok => Sys2Proof.Machine.execSpdmKeyExchange t slot ok s
  | .spdmFinish session ok => Sys2Proof.Machine.execSpdmFinish session ok s
  | .spdmHeartbeat session => Sys2Proof.Machine.execSpdmHeartbeat session s
  | .spdmKeyUpdate session => Sys2Proof.Machine.execSpdmKeyUpdate session s
  | .spdmEndSession session => Sys2Proof.Machine.execSpdmEndSession session s
  | .getNonce session => Sys2Proof.Machine.execGetNonce session s
  | .takeOwnership q fuse => Sys2Proof.Machine.execTakeOwnership q fuse s
  | .transferOwnership q fuse => Sys2Proof.Machine.execTransferOwnership q fuse s
  | .release q fuse => Sys2Proof.Machine.execRelease q fuse s
  | .refurbish q fuse => Sys2Proof.Machine.execRefurbish q fuse s
  | .decommission q fuse => Sys2Proof.Machine.execDecommission q fuse s
  | .debugUnlock q => Sys2Proof.Machine.execDebugUnlock q s
  | .installAnchor q fuse => Sys2Proof.Machine.execInstallAnchor q fuse s
  | .revokeAnchor q fuse => Sys2Proof.Machine.execRevokeAnchor q fuse s
  | .commitSvn q fuse => Sys2Proof.Machine.execCommitSvn q fuse s
  | .provision q fuse => Sys2Proof.Machine.execProvision q fuse s
  | .nonceExpiry session => Sys2Proof.Machine.execNonceExpiry session s
  | .activationPauseBegin => Sys2Proof.Machine.execActivationPauseBegin s
  | .actReadyWrite a => Sys2Proof.Machine.execActReadyWrite a s
  | .activationResume => Sys2Proof.Machine.execActivationResume s
  | .activationRevert => Sys2Proof.Machine.execActivationRevert s
  | .activationFail => Sys2Proof.Machine.execActivationFail s
  | .strRightRequest a v => Sys2Proof.Machine.execStrRightRequest a v s
  | .dbgUnlock a signatureOk => Sys2Proof.Machine.execDbgUnlock a signatureOk s
  | .dbgLock a => Sys2Proof.Machine.execDbgLock a s
  | .dbgPortDisable a => Sys2Proof.Machine.execDbgPortDisable a s
  | .debugGrantExpiry => Sys2Proof.Machine.execDebugGrantExpiry s
  | .dbgMemRead a v f => Sys2Proof.Machine.execDbgMemRead a v f s
  | .dbgMemWrite a v f => Sys2Proof.Machine.execDbgMemWrite a v f s
  | .hello h b => Sys2Proof.Machine.execHello h b s
  | .peerIdentityChallenge h ok => Sys2Proof.Machine.execPeerIdentityChallenge h ok s
  | .hallwayKey h ok => Sys2Proof.Machine.execHallwayKey h ok s
  | .source h b => Sys2Proof.Machine.execSource h b s
  | .pairingTimeout => Sys2Proof.Machine.execPairingTimeout s
  | .room h drn mirrored inService => Sys2Proof.Machine.execRoom h drn mirrored inService s
  | .mwr h b => Sys2Proof.Machine.execMwr h b s
  | .mack h mids => Sys2Proof.Machine.execMack h mids s
  | .syncLine h b => Sys2Proof.Machine.execSyncLine h b s
  | .lreq h dpa => Sys2Proof.Machine.execLreq h dpa s
  | .syncDone h => Sys2Proof.Machine.execSyncDone h s
  | .syncAck h => Sys2Proof.Machine.execSyncAck h s
  | .paired h => Sys2Proof.Machine.execPaired h s
  | .twinResyncWindow => Sys2Proof.Machine.execTwinResyncWindow s
  | .mirrorRepairTimeout dpa => Sys2Proof.Machine.execMirrorRepairTimeout dpa s
  | .heartbeatReceived bytes => Sys2Proof.Machine.execHeartbeatReceived bytes s
  | .heartbeatSilence => Sys2Proof.Machine.execHeartbeatSilence s
  | .hallwayDownLimit => Sys2Proof.Machine.execHallwayDownLimit s
  | .twinEnClear a v => Sys2Proof.Machine.execTwinEnClear a v s
  | .twinWitnessWrite a h v => Sys2Proof.Machine.execTwinWitnessWrite a h v s
  | .twinDecision => Sys2Proof.Machine.execTwinDecision s
  | .twinSolo => Sys2Proof.Machine.execTwinSolo s
  | .twinForfeit a => Sys2Proof.Machine.execTwinForfeit a s
  | .profCounterWrap core k occurrences pc => Sys2Proof.Machine.execProfCounterWrap core k occurrences pc s
  | .profClear a core k v => Sys2Proof.Machine.execProfClear a core k v s
  | .referenceClockReturn => Sys2Proof.Machine.execReferenceClockReturn s
  | .hostLinkL1Entry port half => Sys2Proof.Machine.execHostLinkL1Entry port half s
  | .alertNRelease ch => Sys2Proof.Machine.execAlertNRelease ch s
  | .msixVectorUnmask ld vector => Sys2Proof.Machine.execMsixVectorUnmask ld vector s
  | .ideKeyManagement session port half c => Sys2Proof.Machine.execIdeKeyManagement session port half c s
  | .fullEntryComplete => Sys2Proof.Machine.execFullEntryComplete s

end Sys2Proof.Machine
end

