-- ==== Sys2Proof/Safety.lean ====
section
/-! DEFINITION. What the claims speak of: when a register write takes effect, what a device keeps, and the invariant of the tables. -/

namespace Sys2Proof.Machine

namespace Dev

/-- R52, R56, R57, R61: a 4-byte write by agent `a` to offset `off` of page `p` takes effect: the page is listed in R49, the agent may write the
page and the register, its domain does not hold packets, and the page is ready. -/
def Serves (d : Dev) (a : Agent) (p off : Nat) : Prop :=
  (pageKind p).isSome = true ∧ d.mayWritePage a p off = true ∧ d.mayWriteReg a (whoOf p off) = true ∧
    d.domHeld (pageDomain p) = false ∧ d.pageReady p = true

/-- R585, R506, R520: the mailbox of an LD takes a command and runs it now: its doorbell is heard, no live activation is paused, and the device is
not in ROM recovery. -/
def Hears (d : Dev) (ld : Nat) : Prop :=
  d.mboxHeard ld = true ∧ d.flag Pg.str F.STR_ACT_CTL_PAUSED = false ∧ d.flag Pg.str F.STR_STS_RECOVERY = false

/-- R85, R506, R520: the Fabric Manager API of a port takes a command and runs it now. -/
def FmHears (d : Dev) (port : Nat) : Prop :=
  d.clk.fabricOn = true ∧ d.mldPort port = true ∧ d.host.mboxReady.testBit port = true ∧ d.flag Pg.str F.STR_ACT_CTL_PAUSED = false ∧
    d.flag Pg.str F.STR_STS_RECOVERY = false

/-- The device after page `p` has counted a register write (R565, event 0x0004). -/
def wrote (d : Dev) (p : Nat) : Dev := d.tally p 0x0004 1

/-- A word whose read has a side effect or a value of its own: a 64-bit read-only register (R54), SN and STC_PHASE (R45), the NOC trace (R449), the
PHY registers (R297). -/
def readHasEffect (p off : Nat) : Bool :=
  wideRo p off || (p == Pg.stc && (off == 0x100 || off == 0x108)) || (p == Pg.noc && decide (0x144 ≤ off)) ||
    (pageKind p == some .dc && decide (0x400 ≤ off))

/-- The register word at key `k` (`rkey page offset`). -/
def wordAt (d : Dev) (k : Nat) : Word := tget resetWord d.regs k

/-- The keys of a page's Tally counters and of their overflow bits (R560). -/
def tallyKey (p k : Nat) : Prop := (rkey p 0xA0 ≤ k ∧ k < rkey p 0xC0) ∨ k = rkey p 0xE0

/-- Every register word whose key is not in `touched` reads in `d'` as in `d`. -/
def WordsKept (d d' : Dev) (touched : Nat → Prop) : Prop := ∀ k, ¬ touched k → d'.wordAt k = d.wordAt k

/-- The register table and the memory are in their canonical forms: keys strictly rising, no entry equal to what an unlisted key reads as. -/
def TablesCanonical (d : Dev) : Prop := tok resetWord d.regs = true ∧ Memory.wf d.mem.store.mem

end Dev

/-- The device that a command leaves, where the command answers a next state with the queue it was given; the device itself otherwise. -/
def effectOf (c : Instr) (d : Dev) : Dev :=
  match exec c { pending := [], dev := d } with
  | .next t => t.dev
  | _ => d

/-- The state with another device and the same queue. -/
def State.withDev (s : State) (d : Dev) : State := { s with dev := d }

/-- No step stops: every command answers a next state and leaves the queue it was given. -/
def GoesOn (c : Instr) (s : State) : Prop := ∃ d, exec c s = .next { s with dev := d }

end Sys2Proof.Machine
end

