-- ==== Sys2Proof/Certificates/Slice0/Obligations.lean ====
section
/-! DEFINITION. The statements for the provers. Every statement that says what a command does concludes that `exec` answers a next state and
gives that state: what the right side does not name is unchanged. -/

open Sys2Proof Sys2Proof.Machine

/-- The step of the block runs the command at the front of the queue with the queue's rest; on an empty queue it idles (DESIGN CHOICE, log entry 1). -/
def Obligations.StepRunsTheFrontCommand : Prop :=
  (∀ (c : Instr) (rest : List Instr) (d : Dev), step { pending := c :: rest, dev := d } = exec c { pending := rest, dev := d }) ∧
  (∀ d : Dev, step { pending := [], dev := d } = .next { pending := [], dev := d })

/-- Every command answers a next state and leaves the queue it was given: no command faults, none is refused. -/
def Obligations.EveryCommandGoesOn : Prop := ∀ (c : Instr) (s : State), ∃ d : Dev, exec c s = .next (s.withDev (d))

/-! ### The stitch clock (chapter 1) -/

/-- STITCH_BOUNDARY (R40, R26, R41, R43): SN advances by one; after a thermal trip nothing else happens; while the fabric clock is stopped the
overrun and the fabric's end of stitch do not apply, the inputs and the writes due come in, every source is sampled and Recovery-Sleep looks for
its wake; otherwise the fabric's work of the new stitch follows the samples. -/
def Obligations.StitchBoundaryAdvances : Prop :=
  (∀ (s : State) (inputs : List InputSample) (plan : Bool), s.dev.clk.porN = true → s.dev.clk.thermtrip = true →
    exec (.stitchBoundary inputs plan) s = .next (s.withDev ({ s.dev with sn := s.dev.sn + 1 }))) ∧
  (∀ (s : State) (inputs : List InputSample) (plan : Bool), s.dev.clk.porN = true → s.dev.clk.thermtrip = false →
    s.dev.clk.fabricOn = false → s.dev.powerState ≠ 3 → (∀ x ∈ s.dev.stc.align, x.key ≠ rkey Pg.pwr 0x104) →
    ∃ t : State, exec (.stitchBoundary inputs plan) s = .next t ∧ t.pending = s.pending ∧ t.dev.sn = s.dev.sn + 1 ∧
      t.dev.stc.slot = 0 ∧ t.dev.stc.latched = [] ∧ t.dev.stc.errs = [] ∧
      t.dev.mem = s.dev.mem ∧ t.dev.out = s.dev.out ∧ t.dev.host = s.dev.host ∧ t.dev.str = s.dev.str ∧ t.dev.carts = s.dev.carts ∧
      t.dev.links = s.dev.links ∧ t.dev.rings = s.dev.rings ∧ t.dev.noc = s.dev.noc) ∧
  (∀ (s : State) (inputs : List InputSample) (plan : Bool), s.dev.clk.porN = true → s.dev.clk.thermtrip = false →
    s.dev.clk.fabricOn = true →
    let ended : Dev := { s.dev.gaugePool.powerCommit.nops.waiters.tallyStitch.overrun with sn := s.dev.sn + 1 }
    let written := (inputs.foldl Dev.applyInput (ended.modStc fun x => { x with slot := 0, recordOnly := false })).commitWrites
    let sampled := (written.injectBoundary.setLevel Src.pwrReady written.readyToStart).sampleAll
    sampled.clk.fabricOn = true →
    exec (.stitchBoundary inputs plan) s = .next (s.withDev (sampled.fabricBoundary plan)) ∧ sampled.sn = s.dev.sn + 1)

/-- EVENT_DISPATCH (R34, R35): the next event leaves the waiting list and is acted on in the next of the stitch's 64 slots; a category 1 event
discards every other event, and alone is acted on without the fabric clock. -/
def Obligations.EventDispatchTakesOneSlot : Prop :=
  ∀ (s : State) (e : Ev), s.dev.nextEvent = some e → s.dev.clk.porN = true → s.dev.clk.thermtrip = false → s.dev.stc.slot < 64 →
    (s.dev.clk.fabricOn = true ∨ e.cat = 1) →
    exec .eventDispatch s = .next (s.withDev ((({ s.dev with stc := { s.dev.stc with
          events := if e.cat = 1 then [] else s.dev.stc.events.filter (fun x => x ≠ e), slot := s.dev.stc.slot + 1 } } : Dev).dispatchOne e).after))

/-- R42: the event dispatched next is a waiting one, and no waiting event has a lower key: categories 1 to 3 first, then the older boundary,
then the lower category, then the lower source index. -/
def Obligations.DispatchOrder : Prop :=
  ∀ (d : Dev) (e : Ev), d.nextEvent = some e →
    e ∈ d.stc.events ∧
    ∀ x ∈ d.stc.events,
      (e.cat ≤ 3 ∧ 3 < x.cat) ∨
      ((e.cat ≤ 3 ↔ x.cat ≤ 3) ∧
        (e.sn < x.sn ∨ (e.sn = x.sn ∧ (e.cat < x.cat ∨ (e.cat = x.cat ∧ e.src ≤ x.src)))))

/-- STUCK_INPUT_MASK, SOURCE_QUARANTINE (R36, R37): the source's MASKED or QUAR sets and the STC's own source is raised with its index;
STC_MASKED_RELEASE, STC_QUAR_RELEASE: each source whose bit is written with 1 is released, its count cleared and its sample forgotten, and no
other source changes; REFERENCE_CLOCK_LOSS, REFERENCE_CLOCK_RETURN (R24); GAUGE_WINDOW_END (R310) at a boundary that is a multiple of 64. -/
def Obligations.StitchClockCommandsComplete : Prop :=
  (∀ (s : State) (i : Nat), s.dev.stc.stuck.contains i = true →
    exec (.stuckInputMask i) s = .next (s.withDev ((({ s.dev with stc := { s.dev.stc with stuck := s.dev.stc.stuck.filter (· != i) } } : Dev).setFlag (Bk.stc i) F.STC_SRC_STS_MASKED true).raise
        Src.stuckInput i 0xFF 0))) ∧
  (∀ (s : State) (i : Nat), s.dev.stc.fast.contains i = true →
    exec (.sourceQuarantine i) s = .next (s.withDev ((({ s.dev with stc := { s.dev.stc with fast := s.dev.stc.fast.filter (· != i) } } : Dev).setFlag (Bk.stc i) F.STC_SRC_STS_QUAR true).raise
        Src.quarantine i 0xFF 0))) ∧
  (∀ (s : State) (a : Agent) (w : Nat) (v : BitVec 32), w < 64 → s.dev.Serves a Pg.stc (0x400 + 4 * w) →
    ∃ t : State, exec (.stcMaskedRelease a w v) s = .next t ∧ t.pending = s.pending ∧ t.dev = { s.dev.wrote Pg.stc with regs := t.dev.regs } ∧
      (∀ b < 32, v.getLsbD b = true → t.dev.flag (Bk.stc (32 * w + b)) F.STC_SRC_STS_MASKED = false) ∧
      (∀ b < 32, v.getLsbD b = true → (s.dev.wrote Pg.stc).flag (Bk.stc (32 * w + b)) F.STC_SRC_STS_MASKED = true →
        t.dev.get (Bk.stc (32 * w + b)) F.STC_SRC_STS_RUN = 0) ∧
      Dev.WordsKept (s.dev.wrote Pg.stc) t.dev (fun k => ∃ b < 32, v.getLsbD b = true ∧ k = rkey (Bk.stc (32 * w + b)) 0x13C)) ∧
  (∀ (s : State) (a : Agent) (w : Nat) (v : BitVec 32), w < 64 → s.dev.Serves a Pg.stc (0x500 + 4 * w) →
    ∃ t : State, exec (.stcQuarRelease a w v) s = .next t ∧ t.pending = s.pending ∧ t.dev = { s.dev.wrote Pg.stc with regs := t.dev.regs } ∧
      (∀ b < 32, v.getLsbD b = true → t.dev.flag (Bk.stc (32 * w + b)) F.STC_SRC_STS_QUAR = false) ∧
      (∀ b < 32, v.getLsbD b = true → (s.dev.wrote Pg.stc).flag (Bk.stc (32 * w + b)) F.STC_SRC_STS_QUAR = true →
        t.dev.get (Bk.stc (32 * w + b)) F.STC_SRC_COUNT_ASSERTS = 0) ∧
      Dev.WordsKept (s.dev.wrote Pg.stc) t.dev (fun k => ∃ b < 32, v.getLsbD b = true ∧
        (k = rkey (Bk.stc (32 * w + b)) 0x13C ∨ k = rkey (Bk.stc (32 * w + b)) 0x140))) ∧
  (∀ s : State, s.dev.clk.porN = true → s.dev.clk.fabricOn = false → s.dev.clk.refclk = true →
    exec .referenceClockLoss s = .next (s.withDev ((({ s.dev with clk := { s.dev.clk with refclk := false } } : Dev).setFlag Pg.stc F.STC_STS_SN_APPROX true).raise Src.refLoss 0 0xFF 0))) ∧
  (∀ s : State, s.dev.clk.refclk = false →
    exec .referenceClockReturn s = .next (s.withDev ({ s.dev with clk := { s.dev.clk with refclk := true } }))) ∧
  (∀ (s : State) (mr4 : List Mr4Read), s.dev.clk.fabricOn = true → s.dev.windowDue = true →
    exec (.gaugeWindowEnd mr4) s = .next (s.withDev ((((s.dev.judge.set Pg.gau F.GAU_HEARTH_LAT_WIN_MAX s.dev.mem.gau.latMax).bandwidth.newWindow).set
        Pg.gau F.GAU_WIN_SN_SN s.dev.sn).readMr4 mr4)))

/-! ### Registers (chapters 2, 16, 20) -/

/-- REGISTER_WRITE, an aligned 4-byte write to a page that serves it (R53, R55): a plain register word outside the blocks that hold fields back
takes the written bits of its RW fields and keeps its other bits; but for that word and the page's Tally counters no register changes, and nothing
else of the device does. -/
def Obligations.RegisterWriteStoresItsFields : Prop :=
  ∀ (s : State) (a : Agent) (o : Nat) (v : BitVec 64) (k : PageKind) (r : RegRow),
    o < 2 ^ 32 → o % 4 = 0 → a ≠ .debug → s.dev.Serves a (o / 4096) (o % 4096) → ¬ Dev.tallyKey (o / 4096) o →
    pageKind (o / 4096) = some k → findRow k (o % 4096) = some r → r.bank = false → r.al = false → r.w1c = 0 →
    k ≠ .dc → k ≠ .dmv → k ≠ .twn → k ≠ .ldm → k ≠ .dbg → k ≠ .noc →
    (s.dev.wrote (o / 4096)).writeIgnored (o / 4096) (o % 4096) (v.toNat % 2 ^ 32) = false →
    let rw := (r.rw >>> (8 * r.half (o % 4096))) % 2 ^ 32
    ∃ t : State, exec (.registerWrite a o 4 v) s = .next t ∧ t.pending = s.pending ∧
      (∀ i < 32, (t.dev.wordAt o).getLsbD i = if rw.testBit i then v.getLsbD i else (s.dev.wordAt o).getLsbD i) ∧
      Dev.WordsKept s.dev t.dev (fun x => x = o ∨ Dev.tallyKey (o / 4096) x) ∧
      t.dev = { s.dev with regs := t.dev.regs, stc := t.dev.stc } ∧ t.dev.stc = (s.dev.wrote (o / 4096)).stc

/-- BAR2_READ, an aligned 4-byte read of a ready page by an agent that may read it (R53, R61): the word goes back to the agent; a register without a
read side effect leaves the device as it was but for the page's Tally count of reads. BAR2_ACCESS_COMPLETE (R56): a read that waited for its
domain is answered, and waits no more. BAR2_DOMAIN_TIMEOUT (R56): after 1024 stitches a read returns ones, a write is dropped, and the source "BAR2
domain timeout" is raised with the offset and the agent's master ID. -/
def Obligations.RegisterReadsAnswer : Prop :=
  (∀ (s : State) (a : Agent) (o : Nat), o < 2 ^ 32 → o % 4 = 0 → a ≠ .debug → (pageKind (o / 4096)).isSome = true →
    s.dev.mayRead a (o / 4096) = true → s.dev.domHeld (pageDomain (o / 4096)) = false → s.dev.pageReady (o / 4096) = true →
    Dev.readHasEffect (o / 4096) (o % 4096) = false →
    exec (.bar2Read a o 4) s = .next (s.withDev ((s.dev.tally (o / 4096) 0x0003 1).emit
      (.barData a o 4 ((s.dev.tally (o / 4096) 0x0003 1).readWord (o / 4096) (o % 4096) % 2 ^ 32))))) ∧
  (∀ (s : State) (w : BarWait), s.dev.bar.waits.find? (fun x => x.id = w.id) = some w → w.off < 2 ^ 32 → w.off % 4 = 0 → w.width = 4 →
    w.write = none → s.dev.domHeld (pageDomain (w.off / 4096)) = false → s.dev.pageReady (w.off / 4096) = true →
    Dev.readHasEffect (w.off / 4096) (w.off % 4096) = false →
    let d : Dev := { s.dev with bar := { s.dev.bar with waits := s.dev.bar.waits.filter (fun x => x.id ≠ w.id) } }
    exec (.bar2AccessComplete w.id) s = .next (s.withDev (d.emit
      (.barData w.agent w.off 4 (d.readWord (w.off / 4096) (w.off % 4096) % 2 ^ 32))))) ∧
  (∀ (s : State) (w : BarWait), s.dev.bar.waits.find? (fun x => x.id = w.id) = some w → w.sn + 1024 ≤ s.dev.sn →
    s.dev.pageReady (waitPage w.off) = false →
    let d : Dev := { s.dev with bar := { s.dev.bar with waits := s.dev.bar.waits.filter (fun x => x.id ≠ w.id) } }
    exec (.bar2DomainTimeout w.id) s = .next (s.withDev
      ((match w.write with
        | none => d.emit (.barData w.agent w.off w.width (2 ^ (8 * w.width) - 1))
        | some _ => d).raise Src.barTimeout w.off (agentMaster w.agent) (agentAcc w.agent))))

/-- R53, R57, R61: a write that is narrow or not naturally aligned is dropped: it raises "BAR2 malformed write" with the BAR2 offset and the writer's
master ID, and changes no register but the page's Tally counters. A write that its page's mode denies changes no register beyond these either and raises
"BAR2 access denied" with the offset and the writer's master ID; a write to a page that is powered but not ready is dropped without a fault. -/
def Obligations.RegisterWriteDropped : Prop :=
  (∀ (s : State) (a : Agent) (o width : Nat) (v : BitVec 64), o < 2 ^ 32 → a ≠ .debug → (pageKind (o / 4096)).isSome = true →
    o % 4096 + width ≤ 4096 → ¬ (width = 4 ∧ o % 4 = 0) → ¬ (width = 8 ∧ o % 8 = 0) →
    exec (.registerWrite a o width v) s = .next (s.withDev
      ((s.dev.tally (o / 4096) 0x0004 1).raise Src.barMalformed o (agentMaster a) 10))) ∧
  (∀ (s : State) (a : Agent) (o : Nat) (v : BitVec 64), o < 2 ^ 32 → o % 4 = 0 → a ≠ .debug → (pageKind (o / 4096)).isSome = true →
    s.dev.mayWritePage a (o / 4096) (o % 4096) = false →
    exec (.registerWrite a o 4 v) s = .next (s.withDev
      ((s.dev.tally (o / 4096) 0x0004 1).raise Src.barDenied o (agentMaster a) 10))) ∧
  (∀ (s : State) (a : Agent) (o : Nat) (v : BitVec 64), o < 2 ^ 32 → o % 4 = 0 → a ≠ .debug → (pageKind (o / 4096)).isSome = true →
    s.dev.mayWritePage a (o / 4096) (o % 4096) = true → s.dev.mayWriteReg a (Dev.whoOf (o / 4096) (o % 4096)) = true →
    s.dev.domHeld (pageDomain (o / 4096)) = false → s.dev.pageReady (o / 4096) = false →
    exec (.registerWrite a o 4 v) s = .next (s.withDev (s.dev.tally (o / 4096) 0x0004 1)))

/-- R52: an access to a reserved slot, by any agent, of any width and alignment: a read answers 0, a write is ignored, and nothing else of the device
changes, but that the first access through the debug port is noted (`portUsed`); so no fault is raised. An access that crosses into the next page is
covered where that page is reserved too. -/
def Obligations.ReservedSlotsAreInert : Prop :=
  ∀ (s : State) (a : Agent) (o width : Nat) (v : BitVec 64), o < 2 ^ 32 → (pageKind (o / 4096)).isNone = true →
    (o % 4096 + width ≤ 4096 ∨ (pageKind (o / 4096 + 1)).isNone = true) →
    exec (.registerWrite a o width v) s = .next (s.withDev (s.dev.portUsed a)) ∧
    (0 < width → exec (.bar2Read a o width) s = .next (s.withDev ((s.dev.portUsed a).emit (.barData a o width 0)))) ∧
    (a ≠ .debug → s.dev.portUsed a = s.dev)

/-- The common page header (R64, R65, R67 to R70): PG_ENABLE_WRITE, PG_FROG_WRITE, PG_TEST_INT_WRITE, PG_INT_STS_CLEAR, PG_INT_EN_WRITE and
PG_INT_SET_WRITE. Each sets its field; a write that leaves the page pending sends one interrupt (`afterHeaderWrite`), and a write of PG_INT_SET
sends one where the page becomes pending. -/
def Obligations.HeaderWritesComplete : Prop :=
  (∀ (s : State) (a : Agent) (p : Nat), s.dev.Serves a p 0x008 → s.dev.flag p F.PG_CTL_FROG = false →
    exec (.pgEnableWrite a p true) s = .next (s.withDev
      (((((s.dev.wrote p).setFlag p F.PG_CTL_ENABLE true).setFlag p F.PG_STS_FROGGED false).serviceOn p).afterHeaderWrite p))) ∧
  (∀ (s : State) (a : Agent) (p : Nat), s.dev.Serves a p 0x008 →
    exec (.pgEnableWrite a p false) s = .next (s.withDev (((s.dev.wrote p).setFlag p F.PG_CTL_ENABLE false).afterHeaderWrite p))) ∧
  (∀ (s : State) (a : Agent) (p : Nat), s.dev.Serves a p 0x008 → s.dev.flag p F.PG_CTL_FROG = true →
    exec (.pgEnableWrite a p true) s = .next (s.withDev ((s.dev.wrote p).afterHeaderWrite p))) ∧
  (∀ (s : State) (a : Agent) (p : Nat), s.dev.Serves a p 0x008 → Dev.frogPage p = true → s.dev.flag p F.PG_CTL_FROG = false →
    let d := (s.dev.wrote p).setFlag p F.PG_CTL_FROG true
    exec (.pgFrogWrite a p) s = .next (s.withDev
      (({ d with frogs := d.frogs ++ [⟨d.nextFrog, .page p, none, 0⟩], nextFrog := d.nextFrog + 1 } : Dev).afterHeaderWrite p))) ∧
  (∀ (s : State) (a : Agent) (p : Nat) (on : Bool), s.dev.Serves a p 0x008 →
    exec (.pgTestIntWrite a p on) s = .next (s.withDev (((s.dev.wrote p).setFlag p F.PG_CTL_TEST_INT on).afterHeaderWrite p))) ∧
  (∀ (s : State) (a : Agent) (p : Nat) (v c : BitVec 32), s.dev.Serves a p 0x010 →
    exec (.pgIntStsClear a p v c) s = .next (s.withDev
      (((s.dev.wrote p).set p F.PG_INT_STS_STS (clearBits (s.dev.get p F.PG_INT_STS_STS) v.toNat ||| c.toNat)).afterHeaderWrite p))) ∧
  (∀ (s : State) (a : Agent) (p : Nat) (v : BitVec 32), s.dev.Serves a p 0x014 →
    exec (.pgIntEnWrite a p v) s = .next (s.withDev (((s.dev.wrote p).set p F.PG_INT_EN_EN v.toNat).afterHeaderWrite p))) ∧
  (∀ (s : State) (a : Agent) (p : Nat) (v : BitVec 32) (k : PageKind), s.dev.Serves a p 0x018 → pageKind p = some k →
    let d := (s.dev.wrote p).set p F.PG_INT_STS_STS (s.dev.get p F.PG_INT_STS_STS ||| v.toNat % 2 ^ intStsBits k)
    exec (.pgIntSetWrite a p v) s = .next (s.withDev
      (if s.dev.pagePending p = false ∧ d.pagePending p = true then d.pageInterrupt p else d)))

/-- What a header write that leaves its page pending sends (R68, R71, R72): nothing while MASK reads 1 or DEST reads 0; to a management core its
interrupt; to a host the message of the MSI-X entry that the route names. -/
def Obligations.PageInterruptGoesByItsRoute : Prop :=
  (∀ (d : Dev) (p : Nat), (d.flag (Bk.route p) F.GEN_IRQ_ROUTE_MASK = true ∨ d.get (Bk.route p) F.GEN_IRQ_ROUTE_DEST = 0) →
    d.pageInterrupt p = d) ∧
  (∀ (d : Dev) (p : Nat), d.flag (Bk.route p) F.GEN_IRQ_ROUTE_MASK = false → d.get (Bk.route p) F.GEN_IRQ_ROUTE_DEST = 2 →
    d.flag Pg.str F.STR_ACT_CTL_PAUSED = false →
    (d.pageInterrupt p).out = d.out ++ [.coreIrq (d.get (Bk.route p) F.GEN_IRQ_ROUTE_CORE) p]) ∧
  (∀ (d : Dev) (p : Nat), d.flag (Bk.route p) F.GEN_IRQ_ROUTE_MASK = false → d.get (Bk.route p) F.GEN_IRQ_ROUTE_DEST = 1 →
    let ld := d.get (Bk.route p) F.GEN_IRQ_ROUTE_LD
    let vec := d.get (Bk.route p) F.GEN_IRQ_ROUTE_VECTOR
    vec < d.msixCount ld →
    (d.pageInterrupt p).out = (if (d.msixEntry ld vec).testBit 0 then d.out else d.out ++ [.msix ld vec]) ∧
    (d.pageInterrupt p).msixEntry ld vec = (if (d.msixEntry ld vec).testBit 0 then setBit (d.msixEntry ld vec) 1 else d.msixEntry ld vec))

/-- The GEN tables (R59 to R61, R68, R73) and the STC's neighbours of chapter 20 (R561, R562, R572, R573): GEN_IRQ_ROUTE_WRITE, GEN_ACC_WRITE and
GEN_MGMT_LD_WRITE (both stitch-aligned), TAL_SEL_WRITE, TAL_CLEAR, TAL_OVF_CLEAR, TALLY_COUNTER_WRAP, PROF_COUNTER_WRAP, PROF_CLEAR. -/
def Obligations.TableAndTallyWritesComplete : Prop :=
  (∀ (s : State) (a : Agent) (v : BitVec 32) (k : PageKind), s.dev.Serves a Pg.gen 0x124 →
    let p := s.dev.get Pg.gen F.GEN_IRQ_SEL_PAGE
    pageKind p = some k →
    let d := (s.dev.wrote Pg.gen).setWord (Bk.route p) 0x124
      (BitVec.ofNat 32 (clearBits (s.dev.word (Bk.route p) 0x124).toNat routeMask + (v.toNat &&& routeMask)))
    exec (.genIrqRouteWrite a v) s = .next (s.withDev
      (if s.dev.flag (Bk.route p) F.GEN_IRQ_ROUTE_MASK = true ∧ d.flag (Bk.route p) F.GEN_IRQ_ROUTE_MASK = false ∧ d.pagePending p = true
        then d.pageInterrupt p else d))) ∧
  (∀ (s : State) (a : Agent) (v : BitVec 32), s.dev.Serves a Pg.gen 0x12C →
    fixedAccess (s.dev.get Pg.gen F.GEN_ACC_SEL_PAGE) = false →
    let d := s.dev.wrote Pg.gen
    exec (.genAccWrite a v) s = .next (s.withDev { d with stc := { d.stc with
      align := d.stc.align ++ [⟨d.sn + 1, rkey (Bk.acc (s.dev.get Pg.gen F.GEN_ACC_SEL_PAGE)) 0x12C, 0xFF, v.toNat⟩] } })) ∧
  (∀ (s : State) (a : Agent) (v : BitVec 64), s.dev.Serves a Pg.gen 0x130 → v ≠ 0 →
    let d := s.dev.wrote Pg.gen
    exec (.genMgmtLdWrite a .both v) s = .next (s.withDev { d with stc := { d.stc with
      align := d.stc.align ++ [⟨d.sn + 1, rkey Pg.gen 0x130, 2 ^ 32 - 1, v.toNat % 2 ^ 32⟩,
        ⟨d.sn + 1, rkey Pg.gen 0x134, 2 ^ 32 - 1, v.toNat / 2 ^ 32⟩] } })) ∧
  (∀ (s : State) (a : Agent) (p n : Nat) (e : BitVec 16), n < 4 → s.dev.Serves a p (0x80 + 4 * n) →
    exec (.talSelWrite a p n e) s = .next (s.withDev ((s.dev.wrote p).set p (F.TAL_SEL_EVENT.sh (4 * n)) e.toNat))) ∧
  (∀ (s : State) (a : Agent) (p n : Nat) (e : BitVec 16), n < 4 → s.dev.Serves a p (0x80 + 4 * n) →
    exec (.talClear a p n e) s = .next (s.withDev
      (((s.dev.wrote p).set p (F.TAL_SEL_EVENT.sh (4 * n)) e.toNat).set p (F.TAL_CNT_COUNT.sh (8 * n)) 0))) ∧
  (∀ (s : State) (a : Agent) (p : Nat) (v : BitVec 32), s.dev.Serves a p 0x0E0 →
    exec (.talOvfClear a p v 0) s = .next (s.withDev
      ((s.dev.wrote p).set p F.TAL_OVF_OVF (clearBits ((s.dev.wrote p).get p F.TAL_OVF_OVF) v.toNat)))) ∧
  (∀ (s : State) (p n k : Nat), n < 4 → s.dev.counting p = true → s.dev.get p (F.TAL_SEL_EVENT.sh (4 * n)) ≠ 0 →
    2 ^ 48 ≤ s.dev.get p (F.TAL_CNT_COUNT.sh (8 * n)) + k → (s.dev.get p F.TAL_OVF_OVF).testBit n = false →
    exec (.tallyCounterWrap p n k) s = .next (s.withDev
      (((s.dev.set p (F.TAL_CNT_COUNT.sh (8 * n)) (s.dev.get p (F.TAL_CNT_COUNT.sh (8 * n)) + k)).set p F.TAL_OVF_OVF
        (setBit (s.dev.get p F.TAL_OVF_OVF) n)).latch (Src.tally (Dev.tallyGroup p))))) ∧
  (∀ (s : State) (c k n : Nat) (pc : BitVec 64), c < 4 → k < 4 → s.dev.pageReady Pg.mgc = true →
    s.dev.flag Pg.mgc (F.MGC_PROF_CTL_EN.sh (profOff c + 4 * k)) = true →
    s.dev.get Pg.mgc (F.MGC_PROF_CNT_COUNT.sh (profOff c + 8 * k)) + n < 2 ^ 48 →
    exec (.profCounterWrap c k n pc) s = .next (s.withDev (s.dev.set Pg.mgc (F.MGC_PROF_CNT_COUNT.sh (profOff c + 8 * k))
      (s.dev.get Pg.mgc (F.MGC_PROF_CNT_COUNT.sh (profOff c + 8 * k)) + n)))) ∧
  (∀ (s : State) (c k n : Nat) (pc : BitVec 64), c < 4 → k < 4 → s.dev.pageReady Pg.mgc = true →
    s.dev.flag Pg.mgc (F.MGC_PROF_CTL_EN.sh (profOff c + 4 * k)) = true →
    2 ^ 48 ≤ s.dev.get Pg.mgc (F.MGC_PROF_CNT_COUNT.sh (profOff c + 8 * k)) + n →
    s.dev.get Pg.mgc (F.MGC_PROF_OVF_OVF.sh (profOff c)) = 0 → s.dev.flag Pg.mgc (F.MGC_PROF_CTL_INT_EN.sh (profOff c + 4 * k)) = false →
    exec (.profCounterWrap c k n pc) s = .next (s.withDev (((s.dev.set Pg.mgc (F.MGC_PROF_CNT_COUNT.sh (profOff c + 8 * k))
      (s.dev.get Pg.mgc (F.MGC_PROF_CNT_COUNT.sh (profOff c + 8 * k)) + n)).set Pg.mgc (F.MGC_PROF_OVF_OVF.sh (profOff c)) (setBit 0 k)).set
        Pg.mgc (F.MGC_PROF_EPC_ADDR.sh (profOff c)) pc.toNat))) ∧
  (∀ (s : State) (a : Agent) (c k : Nat) (v : BitVec 32), c < 4 → k < 4 → v.getLsbD 10 = true → s.dev.Serves a Pg.mgc (0x200 + profOff c + 4 * k) →
    exec (.profClear a c k v) s = .next (s.withDev
      (((s.dev.wrote Pg.mgc).store Pg.mgc (0x200 + profOff c + 4 * k) 0x3FF v.toNat false).set
        Pg.mgc (F.MGC_PROF_CNT_COUNT.sh (profOff c + 8 * k)) 0)))

/-! ### Host ports (chapter 3) -/

/-- Host links (R76 to R80, R100, R106): HOST_LINK_UP, HOST_LINK_DOWN, HOST_LINK_CHANGE, L0P_REQUEST, HOST_LINK_L1_ENTRY, HOST_L1_EXIT_WAKE,
IDE_INTEGRITY_FAILURE, LINK_REPLAY_THRESHOLD. A link that comes up, goes down or changes latches the source of its half; requests of a link
that went down are never answered. -/
def Obligations.HostLinkEventsComplete : Prop :=
  (∀ (s : State) (port half speed width : Nat) (mld : Bool), s.dev.halfOk port half = true → s.dev.portTrains port = true →
    (s.dev.link port half).up = false → s.dev.trainedOk port speed width = true →
    exec (.hostLinkUp port half speed width mld) s = .next (s.withDev ((s.dev.modLink port half fun l =>
      { l with up := true, speed := speed, width := width, mldCap := mld, sawUp := true, l1 := false, insecure := false, ide := [] }).latch
        (Src.hostLink port half)))) ∧
  (∀ (s : State) (port half : Nat), (s.dev.link port half).up = true →
    let d := (s.dev.modLink port half fun l => { l with up := false, sawDown := true, l1 := false, ide := [] }).latch (Src.hostLink port half)
    exec (.hostLinkDown port half) s = .next (s.withDev { d with mem := { d.mem with
      reqs := d.mem.reqs.map fun r => if r.port = port ∧ r.half = half then { r with dropped := true } else r } })) ∧
  (∀ (s : State) (port half speed width : Nat), s.dev.halfOk port half = true → (s.dev.link port half).up = true →
    s.dev.trainedOk port speed width = true →
    exec (.hostLinkChange port half speed width) s = .next (s.withDev
      ((s.dev.modLink port half fun l => { l with speed := speed, width := width, sawChg := true }).latch (Src.hostLink port half)))) ∧
  (∀ (s : State) (port half width : Nat), s.dev.halfOk port half = true → (s.dev.link port half).up = true → (s.dev.link port half).speed = 4 →
    s.dev.flag (Pg.hp port) F.HP_CFG_L0P_EN = true → width ∈ [1, 2, 4, 8, 16] → width ≤ (s.dev.link port half).width →
    let f := F.HP_LINK_STS_L0P_WIDTH.sh (4 * half)
    exec (.l0pRequest port half width) s = .next (s.withDev
      (((if s.dev.get (Pg.hp port) f < width then s.dev.latch (Src.l1Exit port half) else s.dev).set (Pg.hp port) f width).emit
        (.l0pAck port half width)))) ∧
  (∀ (s : State) (port half : Nat), s.dev.halfOk port half = true → (s.dev.link port half).up = true → (s.dev.link port half).aspmL1 = true →
    exec (.hostLinkL1Entry port half) s = .next (s.withDev (s.dev.modLink port half fun l => { l with l1 := true }))) ∧
  (∀ (s : State) (port half : Nat), s.dev.halfOk port half = true → (s.dev.link port half).up = true → (s.dev.link port half).l1 = true →
    exec (.hostL1ExitWake port half) s = .next (s.withDev
      ((s.dev.modLink port half fun l => { l with l1 := false }).latch (Src.l1Exit port half)))) ∧
  (∀ (s : State) (port half : Nat), s.dev.halfOk port half = true → (s.dev.link port half).up = true →
    exec (.ideIntegrityFailure port half) s = .next (s.withDev
      (((s.dev.modLink port half fun l => { l with insecure := true, ide := [] }).set (Pg.hp port) (F.HP_LINK_STS_IDE.sh (4 * half)) 0).raise
        (Src.hpIdeFail port) half 0xFF 0))) ∧
  (∀ (s : State) (port half k : Nat), s.dev.halfOk port half = true → (s.dev.link port half).up = true → s.dev.pageReady (Pg.hp port) = true →
    let was := (s.dev.link port half).winReplays
    let thr := s.dev.get (Pg.hp port) F.HP_REPLAY_THR_THR
    let counted := (((s.dev.addSat (Pg.hp port) (F.HP_REPLAY_CNT_COUNT.sh (4 * half)) k).tally (Pg.hp port) 0x0106 k).tally
      (Pg.hp port) (0x0206 + 0x100 * half) k).modLink port half fun l => { l with winReplays := was + k }
    exec (.linkReplayThreshold port half k) s = .next (s.withDev
      (if thr ≠ 0 ∧ was < thr ∧ thr ≤ was + k then counted.raise (Src.hpReplayThr port) half 0xFF 0 else counted)))

/-- Resets, binding, decoders, allocations and MSI-X masks (R71, R82, R84, R88, R93, R94, R100, R203): CONVENTIONAL_RESET, PERST_DEASSERT,
FUNCTION_LEVEL_RESET, CXL_RESET, CXL_RESET_COMPLETE, LD_BIND, HDM_DECODER_COMMIT, HP_VEC_ALLOC_WRITE, HP_HDM_ALLOC_WRITE, MSIX_VECTOR_UNMASK,
IDE_KEY_MANAGEMENT. -/
def Obligations.HostResetsAndAllocationsComplete : Prop :=
  (∀ (s : State) (port : Nat), port < 4 → s.dev.domOn (21 + port) = true →
    let forgot := ((List.range 16).map (16 * port + ·)).foldl
      (fun d n =>
        let x := ((d.resetCxlMem n).resetMsix n).modLd n fun l => { l with eventPolicy := 0, cxlReset := none }
        (x.ldPairs n).foldl (fun d q => d.frogPair q) x) s.dev
    let down := ((forgot.takeDown port 0).takeDown port 1).resetKeep (Pg.hp port)
    exec (.conventionalReset port false) s = .next (s.withDev
      ({ down with host := { down.host with mboxReady := clrBit down.host.mboxReady port } } : Dev).after)) ∧
  (∀ (s : State) (port : Nat), port < 4 →
    exec (.perstDeassert port) s = .next (s.withDev { s.dev with clk := { s.dev.clk with perstN := setBit s.dev.clk.perstN port } })) ∧
  (∀ (s : State) (ld : Nat), ld < 64 → s.dev.bound ld = true →
    exec (.functionLevelReset ld) s = .next (s.withDev ((s.dev.resetMsix ld).modLd ld fun l => { l with eventPolicy := 0 }))) ∧
  (∀ (s : State) (ld : Nat) (clear : Bool), ld < 64 → s.dev.bound ld = true →
    let forgot := (s.dev.modLd ld fun l => { l with decoders := [] }).clearViral ld
    exec (.cxlReset ld clear) s = .next (s.withDev
      (((if clear then forgot.clearLd ld else forgot).modLd ld fun l => { l with cxlReset := some clear }).after))) ∧
  (∀ (s : State) (ld : Nat), (s.dev.ld ld).cxlReset.isSome = true →
    exec (.cxlResetComplete ld) s = .next (s.withDev (s.dev.modLd ld fun l => { l with cxlReset := none }))) ∧
  (∀ (s : State) (port n : Nat), port < 4 → n < 16 →
    let half := if s.dev.split port then n / 8 else 0
    s.dev.linkSts port half F.HP_LINK_STS_UP = 1 → s.dev.linkSts port half F.HP_LINK_STS_MLD = 1 →
    exec (.ldBind port n) s = .next (s.withDev
      (s.dev.set (Pg.hp port) F.HP_LD_BOUND_BOUND (setBit (s.dev.get (Pg.hp port) F.HP_LD_BOUND_BOUND) n)))) ∧
  (∀ (s : State) (ld i : Nat) (x : HdmDecoder), ld < 64 → s.dev.bound ld = true →
    i < s.dev.get (Pg.hp (ld / 16)) (F.HP_HDM_ALLOC_COUNT.sh (4 * (ld % 16))) → Dev.decoderOk x = true →
    (s.dev.ld ld).decoders.any (fun y => y.1 == i && y.2.lock) = false →
    exec (.hdmDecoderCommit ld i x) s = .next (s.withDev (s.dev.modLd ld fun l => { l with decoders := tins l.decoders i x }))) ∧
  (∀ (s : State) (a : Agent) (port n : Nat) (v : BitVec 32), port < 4 → n < 16 → s.dev.Serves a (Pg.hp port) (0x120 + 4 * n) →
    let d := s.dev.wrote (Pg.hp port)
    let c := v.toNat % 4096 / 32 * 32
    d.allocFree port n = true → 32 ≤ c → c ≤ 2048 → d.allocSum port F.HP_VEC_ALLOC_COUNT n c ≤ 2048 →
    exec (.hpVecAllocWrite a port n v) s = .next (s.withDev (d.set (Pg.hp port) (F.HP_VEC_ALLOC_COUNT.sh (4 * n)) c))) ∧
  (∀ (s : State) (a : Agent) (port n : Nat) (v : BitVec 32), port < 4 → n < 16 → s.dev.Serves a (Pg.hp port) (0x160 + 4 * n) →
    let d := s.dev.wrote (Pg.hp port)
    let c := v.toNat % 32
    d.allocFree port n = true → c ∈ [0, 1, 2, 4, 6, 8, 10, 12, 14, 16] → d.allocSum port F.HP_HDM_ALLOC_COUNT n c ≤ 16 →
    exec (.hpHdmAllocWrite a port n v) s = .next (s.withDev (d.set (Pg.hp port) (F.HP_HDM_ALLOC_COUNT.sh (4 * n)) c))) ∧
  (∀ (s : State) (ld vec : Nat), ld < 64 → vec < s.dev.msixCount ld →
    exec (.msixVectorUnmask ld vec) s = .next (s.withDev
      (if (s.dev.msixEntry ld vec).testBit 1 then (s.dev.setMsixEntry ld vec 0).emit (.msix ld vec) else s.dev.setMsixEntry ld vec 0))) ∧
  (∀ (s : State) (session port half i : Nat) (rx : Bool), (s.dev.session? session).isSome = true → s.dev.halfOk port half = true →
    (s.dev.link port half).up = true →
    let old := s.dev.ideStream port half i
    let dir := if rx then 0 else 1
    exec (.ideKeyManagement session port half .query) s = .next (s.withDev (s.dev.emit (.ide port half 0))) ∧
    (i ≤ 4 → exec (.ideKeyManagement session port half (.keyProg i rx)) s = .next (s.withDev
      ((s.dev.setIdeStream port half i (setBit old dir)).emit (.ide port half 0)))) ∧
    (old.testBit dir = true → exec (.ideKeyManagement session port half (.setGo i rx)) s = .next (s.withDev
      ((s.dev.setIdeStream port half i (setBit old (2 + dir))).emit (.ide port half 0)))) ∧
    exec (.ideKeyManagement session port half (.setStop i rx)) s = .next (s.withDev
      ((s.dev.setIdeStream port half i (clrBit old (2 + dir))).emit (.ide port half 0))))

/-! ### Start-up, power, the on-chip network, Frog and the FCU (chapters 15, 16, 17, 21) -/

/-- Starts and the boot chain (R23 to R25, R233, R489, R501, R504, R505, R575 to R581, R590, R609): COLD_RESET, POR_RELEASE, PLL_LOCK, PLL_LOCK_RETRY,
BOOT_START, BOOT_ROM_DONE, TRNG_DRAW_DONE, IMAGE_CHECK_DONE, CORE_RELEASE, RECOVERY_SLEEP_ENTRY, THERMAL_TRIP. -/
def Obligations.StartUpCommandsComplete : Prop :=
  (∀ s : State, exec .coldReset s = .next (s.withDev
    { fresh := s.dev.fresh, out := s.dev.out,
      clk := { warmRstN := s.dev.clk.warmRstN, perstN := s.dev.clk.perstN, refclk := s.dev.clk.refclk },
      str := { fuses := s.dev.str.fuses, slot1 := s.dev.str.slot1, slot2 := s.dev.str.slot2, activeSlot := s.dev.str.activeSlot } })) ∧
  (∀ (s : State) (x : Straps), s.dev.clk.porN = false → x.vsGate = false →
    exec (.porRelease x) s = .next (s.withDev
      (({ s.dev with sn := 0, clk := { s.dev.clk with
            porN := true, straps := x, starting := true, gateHold := false, tsBase := 0, tsSn := 0 } } : Dev).powerAll.loadStraps.freshLinks.set
          Pg.str F.STR_START_CAUSE 0))) ∧
  (∀ s : State, s.dev.relocking = true → s.dev.clk.refclk = true →
    exec .pllLock s = .next (s.withDev { s.dev with clk := { s.dev.clk with fabricOn := true } })) ∧
  (∀ s : State, s.dev.relocking = true → 7813 ≤ s.dev.sn →
    exec .pllLockRetry s = .next (s.withDev (s.dev.setFlag Pg.stc F.STC_STS_PLL_RETRY true))) ∧
  (∀ s : State, s.dev.clk.porN = true → s.dev.clk.fabricOn = true → s.dev.clk.warmRstN = true → s.dev.clk.starting = true →
    s.dev.clk.thermtrip = false →
    exec .bootStart s = .next (s.withDev { s.dev with
      pwr := { s.dev.pwr with ready := ((List.range 29).filter (fun k => k != 1 && k != 3)).foldl setBit s.dev.pwr.ready },
      clk := { s.dev.clk with starting := false } })) ∧
  (∀ s : State, Dev.atStep 0 s.dev = true → s.dev.clk.gateHold = false → 3 ≤ s.dev.str.fuses.lcCopies →
    exec (.bootRomDone true) s = .next (s.withDev
      ((({ s.dev with clk := { s.dev.clk with bootStep := 1 }, str := { s.dev.str with chainBad := false } } : Dev).loadStrPages.newDebugNonce).setReady
        [1, 3] true))) ∧
  (∀ s : State, Dev.atStep 0 s.dev = true → s.dev.clk.gateHold = false → 3 ≤ s.dev.str.fuses.lcCopies →
    exec (.bootRomDone false) s = .next (s.withDev
      (((({ s.dev with clk := { s.dev.clk with bootStep := 1 }, str := { s.dev.str with chainBad := true } } : Dev).raise
        Src.idChainInvalid 0 0x85 0).loadStrPages.newDebugNonce).setReady [1, 3] true))) ∧
  (∀ s : State, Dev.atStep 1 s.dev = true →
    let keyed := (({ s.dev with clk := { s.dev.clk with bootStep := 2 } } : Dev).setFlag Pg.cry F.CRY_STS_KEYS_READY true).setFlag
      Pg.str F.STR_STS_TRNG_OK true
    exec (.trngDrawDone none) s = .next (s.withDev
      ({ keyed with mem := { keyed.mem with cry := { keyed.mem.cry with draw := s.dev.fresh, startSn := s.dev.sn } } } : Dev).draw)) ∧
  (∀ s : State, Dev.atStep 2 s.dev = true → s.dev.lcState ≠ 4 → s.dev.clk.bootTried = 0 → s.dev.slotCheck s.dev.str.activeSlot = none →
    exec .imageCheckDone s = .next (s.withDev
      { s.dev with clk := { s.dev.clk with bootStep := 4, bootSlot := s.dev.str.activeSlot } })) ∧
  (∀ (s : State) (k : Nat), Dev.atStep 2 s.dev = true → s.dev.lcState ≠ 4 → s.dev.clk.bootTried = 0 →
    s.dev.slotCheck s.dev.str.activeSlot = some k →
    let d := s.dev.raise Src.imgRejected (16 * s.dev.str.activeSlot + k) 0x85 0
    exec .imageCheckDone s = .next (s.withDev { d with clk := { d.clk with bootTried := 1 } })) ∧
  (∀ (s : State) (im : FwImage), Dev.atStep 4 s.dev = true → s.dev.clk.testHold = false →
    (s.dev.slot s.dev.clk.bootSlot).image = some im →
    let d := ({ s.dev with str := { s.dev.str with running := some im, loaded := [im.digest] } } : Dev).set
      Pg.str F.STR_FW_SLOT_RUNNING s.dev.clk.bootSlot
    exec .coreRelease s = .next (s.withDev { d with clk := { d.clk with bootStep := 6, coresRun := 0xF } })) ∧
  (∀ s : State, Dev.entering 3 s.dev = true →
    ∃ t : State, exec .recoverySleepEntry s = .next t ∧ t.pending = s.pending ∧ t.dev.sn = s.dev.sn ∧ t.dev.powerState = 3 ∧
      t.dev.get Pg.pwr F.PWR_DOM_STS_ON = 1 ∧ t.dev.mem = {} ∧ t.dev.host = {} ∧ t.dev.carts = [] ∧ t.dev.links = [] ∧ t.dev.rings = {} ∧
      t.dev.dmv = {} ∧ t.dev.noc = {} ∧ t.dev.clk.fabricOn = false ∧ t.dev.clk.coresRun = 0 ∧ t.dev.str.fuses = s.dev.str.fuses ∧
      t.dev.stc = s.dev.stc ∧ t.dev.out = s.dev.out) ∧
  (∀ s : State, s.dev.clk.porN = true → s.dev.clk.thermtrip = false →
    ∃ t : State, exec .thermalTrip s = .next t ∧ t.pending = s.pending ∧ t.dev.sn = s.dev.sn ∧ t.dev.clk.thermtrip = true ∧
      t.dev.clk.fabricOn = false ∧ t.dev.clk.coresRun = 0 ∧ t.dev.mem = {} ∧ t.dev.host = {} ∧ t.dev.links = [] ∧
      (∀ k < 29, t.dev.pwr.ready.testBit k = false) ∧ t.dev.out = s.dev.out ++ [.thermtrip] ∧ t.dev.str.fuses = s.dev.str.fuses ∧
      t.dev.stc = s.dev.stc)

/-- R484: source 0x470 is active exactly while a request is pending, no transition runs, the device is not in Hush, and domain 1 is off or all
four cores are in WAIT (that no transition runs and STATE is not Hush: DEDUCED, log entry 135). -/
def Obligations.PowerRequestReadiness : Prop :=
  ∀ d : Dev, d.readyToStart = true ↔
    (d.flag Pg.pwr F.PWR_STS_PENDING = true ∧ d.flag Pg.pwr F.PWR_STS_IN_PROGRESS = false ∧ d.get Pg.pwr F.PWR_STS_STATE ≠ 2 ∧
      (d.domOn 1 = false ∨ d.pwr.coreWait = 0xF))

/-- Power requests, transitions and wakes (R480 to R497): PWR_MODE_REQUEST, CORE_WAIT, HUSH_ENTRY_COMPLETE, TRIM_ENTRY_COMPLETE,
FULL_ENTRY_COMPLETE, HUSH_WAKE, HUSH_EXIT_COMPLETE, POWER_TRANSITION_OVERRUN, VSENSE_CROSSING, WAKE_TIMER, MCTP_WAKE. -/
def Obligations.PowerCommandsComplete : Prop :=
  (∀ (s : State) (a : Agent) (v : BitVec 32) (after : Bool), s.dev.Serves a Pg.pwr 0x100 → v.toNat.testBit 2 = true →
    s.dev.flag Pg.pwr F.PWR_STS_IN_PROGRESS = false →
    let d := ((s.dev.wrote Pg.pwr).set Pg.pwr F.PWR_MODE_TARGET (v.toNat % 4)).setFlag Pg.pwr F.PWR_STS_PENDING true
    exec (.pwrModeRequest a v after) s = .next (s.withDev
      ({ d with pwr := { d.pwr with reqTarget := v.toNat % 4 } } : Dev).syncGo)) ∧
  (∀ (s : State) (core : Nat), core < 4 → s.dev.pageReady Pg.mgc = true → s.dev.clk.coresRun.testBit core = true →
    exec (.coreWait core) s = .next (s.withDev { s.dev with pwr := { s.dev.pwr with coreWait := setBit s.dev.pwr.coreWait core } })) ∧
  (∀ s : State, Dev.entering 2 s.dev = true → s.dev.workEnded = true → s.dev.pwr.wakeAfter = none →
    let quiet := (List.range 16).foldl (fun d c => if d.domOn (5 + c) then d.selfRefresh c else d) s.dev
    let dozing := (List.range 17).foldl (fun d l =>
      if d.linkActive l then (d.lset l (Dev.fState l) 5).modLnk l fun x => { x with stateSn := s.dev.sn, waking := false } else d) quiet
    let hushed := (((({ dozing with clk := { dozing.clk with fabricOn := false } } : Dev).setReady (List.range 29) false).set
      Pg.pwr F.PWR_STS_STATE 2).set Pg.pwr F.PWR_STS_RETURN s.dev.pwr.source).endTransition.heldWake
    hushed.linkWakes = [] →
    exec .hushEntryComplete s = .next (s.withDev hushed)) ∧
  (∀ s : State, Dev.entering 1 s.dev = true →
    exec .trimEntryComplete s = .next (s.withDev
      (((s.dev.trimDoms.foldl Dev.domainOff s.dev).set Pg.pwr F.PWR_STS_STATE 1).endTransition.latch Src.pwrDone))) ∧
  (∀ s : State, Dev.entering 0 s.dev = true →
    exec .fullEntryComplete s = .next (s.withDev
      ((((((List.range 29).drop 4).foldl Dev.domainOn s.dev).set Pg.pwr F.PWR_STS_STATE 0).endTransition.latch Src.pwrDone).deliverHeld.after))) ∧
  (∀ (s : State) (e : Ev), s.dev.powerState = 2 → s.dev.pwr.exiting = false → s.dev.wakeEnabled e.src = true →
    s.dev.stc.events.find? (fun x => x.src == e.src) = some e →
    (∀ x ∈ s.dev.stc.events, x.sn = e.sn → s.dev.wakeEnabled x.src = true → e.src ≤ x.src) →
    exec (.hushWake e.src) s = .next (s.withDev (s.dev.exitHush e.src e.sn))) ∧
  (∀ s : State, s.dev.powerState = 2 → s.dev.pwr.exiting = true →
    let awake := (List.range 16).foldl (fun d c =>
      if (d.chan c).selfRef then d.modChan c fun x => { x with selfRef := false } else d) s.dev
    let back := (awake.setReady ((List.range 29).filter awake.domOn) true).set Pg.pwr F.PWR_STS_STATE (awake.get Pg.pwr F.PWR_STS_RETURN)
    exec .hushExitComplete s = .next (s.withDev
      (((({ back with pwr := { back.pwr with exiting := false, coreWait := 0 } } : Dev).set Pg.pwr F.PWR_DONE_SN_SN s.dev.sn).latch
        Src.pwrDone).deliverHeld.after))) ∧
  (∀ (s : State) (k : Nat), (s.dev.inTransition = true ∧ s.dev.pwr.target = 2) ∨ s.dev.pwr.exiting = true →
    exec (.powerTransitionOverrun k) s = .next (s.withDev (s.dev.raise Src.pwrOverrun k 0xFF 0))) ∧
  (∀ (s : State) (above : Bool), s.dev.clk.porN = true →
    let d := s.dev.setFlag Pg.pwr F.PWR_VSENSE_STS_ABOVE above
    exec (.vsenseCrossing above) s = .next (s.withDev
      (if s.dev.flag Pg.pwr F.PWR_VSENSE_CFG_DIR = above then (d.setFlag Pg.pwr F.PWR_VSENSE_STS_CROSSED true).latch Src.vsense else d))) ∧
  (∀ s : State, s.dev.get Pg.pwr F.PWR_WAKE_SN_SN ≠ 0 → s.dev.sn = s.dev.get Pg.pwr F.PWR_WAKE_SN_SN →
    exec .wakeTimer s = .next (s.withDev (s.dev.latch Src.wakeTimer))) ∧
  (∀ s : State, s.dev.clk.porN = true → exec .mctpWake s = .next (s.withDev (s.dev.latch Src.mctp)))

/-- The on-chip network (R439 to R447, R495), Frog (R470 to R476) and the FCU's registers (R463, R469): NOC_RT_SWAP_WRITE, NOC_EPOCH_DRAINED,
NOC_RT_COPY, NOC_RT_FILL, NOC_PLANE_CFG_WRITE, NOC_PLANE_FAULT, NOC_HEADER_ERROR, NOC_WAKE_TIMEOUT, DOMAIN_READY, TRIMMED_DOMAIN_WAKE,
FROG_COMPLETE, FCU_STS_CLEAR, FCU_INJECT. -/
def Obligations.NetworkFrogAndFcuCommandsComplete : Prop :=
  (∀ (s : State) (a : Agent), s.dev.Serves a Pg.noc 0x108 →
    exec (.nocRtSwapWrite a) s = .next (s.withDev ((s.dev.wrote Pg.noc).setFlag Pg.noc F.NOC_RT_CTL_SWAP true))) ∧
  (∀ s : State, s.dev.flag Pg.noc F.NOC_STS_DRAINING = true →
    let d := (s.dev.setFlag Pg.noc F.NOC_STS_DRAINING false).set Pg.noc F.NOC_DRAIN_SN_SN s.dev.sn
    exec .nocEpochDrained s = .next (s.withDev
      (({ d with noc := { d.noc with old := none } } : Dev).raise Src.nocDrained (s.dev.get Pg.noc F.NOC_STS_EPOCH) 0xFF 0))) ∧
  (∀ (s : State) (a : Agent), s.dev.Serves a Pg.noc 0x114 → s.dev.flag Pg.noc F.NOC_RT_CTL_SWAP = false →
    exec (.nocRtCopy a) s = .next (s.withDev
      { s.dev.wrote Pg.noc with noc := { s.dev.noc with shadow := s.dev.noc.live } })) ∧
  (∀ (s : State) (a : Agent) (net plane : Nat), s.dev.Serves a Pg.noc 0x114 → s.dev.flag Pg.noc F.NOC_RT_CTL_SWAP = false →
    exec (.nocRtFill a net plane) s = .next (s.withDev
      { s.dev.wrote Pg.noc with noc := { s.dev.noc with shadow := s.dev.noc.shadow.fillNet net (plane % 2 == 1) } })) ∧
  (∀ (s : State) (a : Agent) (v : BitVec 32), s.dev.Serves a Pg.noc 0x118 →
    let cleared := clearBits (s.dev.get Pg.noc F.NOC_PLANE_CFG_EN) v.toNat
    (∀ b < 8, cleared.testBit b = true → s.dev.noc.live.selects (b / 2) (b % 2 == 1) = false ∧
      ∀ t, s.dev.noc.old = some t → t.selects (b / 2) (b % 2 == 1) = false) →
    exec (.nocPlaneCfgWrite a v) s = .next (s.withDev ((s.dev.wrote Pg.noc).store Pg.noc 0x118 0xFF v.toNat true))) ∧
  (∀ (s : State) (net plane k : Nat), net < 4 → plane < 2 → s.dev.get Pg.noc F.NOC_PLANE_THR_COUNT ≠ 0 →
    s.dev.get Pg.noc F.NOC_PLANE_THR_COUNT ≤ k →
    exec (.nocPlaneFault net plane k) s = .next (s.withDev (s.dev.raise Src.nocPlaneFault (2 * net + plane) 0xFF 0))) ∧
  (∀ (s : State) (router port : Nat) (request : Option Nat), router < 24 → port < 10 → s.dev.pageReady Pg.noc = true →
    exec (.nocHeaderError router port .corrected request) s = .next (s.withDev
      ((s.dev.addSat Pg.noc F.NOC_ECC_CNT_COUNT 1).raise Src.nocEccCe (router * 16 + port) 0xFF 0))) ∧
  (∀ (s : State) (router port id : Nat), router < 24 → port < 10 → s.dev.pageReady Pg.noc = true →
    exec (.nocHeaderError router port .uncorrectable (some id)) s = .next (s.withDev
      (((s.dev.raise Src.nocHeaderUe (router * 16 + port) 0xFF 0).losePacket id).after))) ∧
  (∀ (s : State) (r : Req), s.dev.findReq r.id = some r → r.stage = .domain → r.granted = false → s.dev.pageReady Pg.pat = false →
    s.dev.domDown 2 = true → r.subSn + max 1 (s.dev.get Pg.noc F.NOC_WAKE_TO_STITCHES) ≤ s.dev.sn →
    exec (.nocWakeTimeout r.id) s = .next (s.withDev (((s.dev.raise Src.nocWakeTo 0x0A0 r.ld r.kind.acc).refuse r).after))) ∧
  (∀ (s : State) (k : Nat), 0 < k → k < 29 → s.dev.domOn k = true → s.dev.pwr.ready.testBit k = false →
    let d : Dev := if (Dev.domainLinks k).isEmpty then s.dev else s.dev.linkDomainOn k
    exec (.domainReady k) s = .next (s.withDev
      ({ d with pwr := { d.pwr with ready := setBit d.pwr.ready k } } : Dev).deliverHeld.after)) ∧
  (∀ (s : State) (k : Nat), 4 ≤ k → k < 29 → s.dev.powerState = 1 → s.dev.domOn k = false →
    (s.dev.get Pg.pwr F.PWR_TRIM_DOM_OFF).testBit k = true → s.dev.pwr.absent.testBit k = false →
    exec (.trimmedDomainWake k) s = .next (s.withDev
      ((s.dev.setDom k true).set Pg.pwr F.PWR_DOM_WOKEN_WOKEN (setBit (s.dev.get Pg.pwr F.PWR_DOM_WOKEN_WOKEN) k)))) ∧
  (∀ (s : State) (f : FrogRec), s.dev.frogs.find? (fun x => x.id == f.id && x.acceptSn != 0) = some f →
    (∀ g ∈ s.dev.frogs, g.acceptSn ≠ 0 → g.acceptSn ≤ f.acceptSn →
      s.dev.frogCovers g.target f.target = false ∧ ¬ (g.target = f.target ∧ g.id < f.id)) →
    exec (.frogComplete f.id) s = .next (s.withDev (s.dev.frogEnd f))) ∧
  (∀ (s : State) (a : Agent) (w : Nat) (v : BitVec 32), w < 32 → s.dev.Serves a Pg.fcu (0x200 + 4 * w) →
    exec (.fcuStsClear a w v) s = .next (s.withDev
      ((bitList 32 v.toNat).foldl (fun d b => d.fcuClear (32 * w + b)) (s.dev.wrote Pg.fcu)))) ∧
  (∀ (s : State) (a : Agent) (v : BitVec 32), s.dev.Serves a Pg.fcu 0x138 → s.dev.flag Pg.fcu F.FCU_INJ_GO = false →
    exec (.fcuInject a v) s = .next (s.withDev
      (((s.dev.wrote Pg.fcu).set Pg.fcu F.FCU_INJ_INDEX (v.toNat % 2 ^ 10)).setFlag Pg.fcu F.FCU_INJ_GO
        (v.toNat.testBit 31 && (fcuInfo (v.toNat % 2 ^ 10)).isSome))))

/-- R463: after a write of 1 to a source's bit of FCU_STS its status word, its captured address, its captured SN and its count read 0; no register
of another source, and nothing else of the device, changes. -/
def Obligations.FcuClearForgets : Prop :=
  ∀ (d : Dev) (i : Nat),
    (d.fcuClear i).word (Bk.fcu i) 0x118 = 0 ∧ (d.fcuClear i).get (Bk.fcu i) F.FCU_SRC_ADDR_ADDR = 0 ∧
    (d.fcuClear i).get (Bk.fcu i) F.FCU_SRC_SN_SN = 0 ∧ (d.fcuClear i).get (Bk.fcu i) F.FCU_SRC_COUNT_COUNT = 0 ∧
    d.fcuClear i = { d with regs := (d.fcuClear i).regs } ∧
    Dev.WordsKept d (d.fcuClear i) (fun k => rkey (Bk.fcu i) 0x118 ≤ k ∧ k < rkey (Bk.fcu i) 0x134)

/-- R458, R459: the dispatch of a source's first error sets SET, captures the severity, the access type, the master ID, the address and the SN of the
sampling boundary, and loads the count. -/
def Obligations.FcuFirstErrorCaptures : Prop :=
  ∀ (d : Dev) (e : Ev), e.sev < 8 →
    (d.fcuFirst e).flag (Bk.fcu e.src) F.FCU_SRC_STS_SET = true ∧
    (d.fcuFirst e).get (Bk.fcu e.src) F.FCU_SRC_STS_SEV_CAPT = e.sev ∧
    (d.fcuFirst e).get (Bk.fcu e.src) F.FCU_SRC_STS_ACC = e.acc % 16 ∧
    (d.fcuFirst e).get (Bk.fcu e.src) F.FCU_SRC_STS_MASTER = e.master % 256 ∧
    (d.fcuFirst e).flag (Bk.fcu e.src) F.FCU_SRC_STS_MORE = false ∧ (d.fcuFirst e).flag (Bk.fcu e.src) F.FCU_SRC_STS_ESC = false ∧
    (d.fcuFirst e).flag (Bk.fcu e.src) F.FCU_SRC_STS_PERSIST = false ∧
    (d.fcuFirst e).flag (Bk.fcu e.src) F.FCU_SRC_STS_CARRIED = (e.sn != d.sn) ∧
    (d.fcuFirst e).get (Bk.fcu e.src) F.FCU_SRC_ADDR_ADDR = e.addr % 2 ^ 64 ∧
    (d.fcuFirst e).get (Bk.fcu e.src) F.FCU_SRC_SN_SN = e.sn % 2 ^ 64 ∧
    (d.fcuFirst e).get (Bk.fcu e.src) F.FCU_SRC_COUNT_COUNT = min (2 ^ 32 - 1) e.errs

/-! ### Mailboxes and the Fabric Manager (chapter 3) -/

/-- The standard mailbox commands (R95, R97 to R99, R102, R517, R518), where the mailbox hears them: each answers with Success (UNSUPPORTED_COMMAND
with Unsupported) and the payload that the rules give it: GET_EVENT_RECORDS, CLEAR_EVENT_RECORDS, GET_EVENT_INTERRUPT_POLICY,
SET_EVENT_INTERRUPT_POLICY, GET_FW_INFO, TRANSFER_FW, ACTIVATE_FW_ON_RESET, ACTIVATE_FW_ONLINE, GET_TIMESTAMP, SET_TIMESTAMP, GET_SUPPORTED_LOGS,
GET_LOG, GET_SUPPORTED_FEATURES, GET_FEATURE, SET_FEATURE, IDENTIFY_MEMORY_DEVICE, GET_HEALTH_INFO, GET_ALERT_CONFIGURATION,
SET_ALERT_CONFIGURATION, UNSUPPORTED_COMMAND. Payloads are the model's field lists (log entry 153); the logs, the features and the temperature
are free values. -/
def Obligations.MailboxStandardCommandsComplete : Prop :=
  (∀ (s : State) (ld : Nat) (log : EventLog), s.dev.Hears ld →
    let rs := Dev.logOf (s.dev.ld ld) (Dev.logNo log)
    exec (.getEventRecords ld log) s = .next (s.withDev (s.dev.emit (.mbox ld .success
      ([tget (fun _ => 0) (s.dev.ld ld).overflow (Dev.logNo log), (rs.take 31).length, b2n (decide (31 < rs.length))] ++
        ((rs.take 31).map Dev.recFields).flatten))))) ∧
  (∀ (s : State) (ld : Nat) (log : EventLog) (k : Nat), s.dev.Hears ld →
    let rs := Dev.logOf (s.dev.ld ld) (Dev.logNo log)
    exec (.clearEventRecords ld log ((rs.take k).map (·.handle)) false) s = .next (s.withDev ((s.dev.modLd ld fun l =>
      { Dev.setLog l (Dev.logNo log) (rs.drop (rs.take k).length) with
        overflow := tput (fun _ => 0) l.overflow (Dev.logNo log) 0 }).emit (.mbox ld .success [])))) ∧
  (∀ (s : State) (ld : Nat), s.dev.Hears ld →
    exec (.getEventInterruptPolicy ld) s = .next (s.withDev (s.dev.emit (.mbox ld .success [(s.dev.ld ld).eventPolicy.toNat])))) ∧
  (∀ (s : State) (ld : Nat) (v : BitVec 40), s.dev.Hears ld →
    exec (.setEventInterruptPolicy ld v) s = .next (s.withDev
      ((s.dev.modLd ld fun l => { l with eventPolicy := v }).emit (.mbox ld .success [])))) ∧
  (∀ (s : State) (ld : Nat), s.dev.Hears ld → s.dev.isMgmt ld = true →
    let v := fun (n : Nat) => match (s.dev.slot n).image with | some im => im.version | none => 0
    exec (.getFwInfo ld) s = .next (s.withDev (s.dev.emit (.mbox ld .success
      [2, s.dev.get Pg.str F.STR_FW_SLOT_RUNNING, s.dev.str.activeSlot, 1, v 1, v 2])))) ∧
  (∀ (s : State) (ld n : Nat) (im : FwImage), s.dev.Hears ld → s.dev.isMgmt ld = true → s.dev.slotFree n = true →
    s.dev.imageCheck im = none →
    exec (.transferFw ld n true im) s = .next (s.withDev ((s.dev.setSlot n ⟨some im, true⟩).emit (.mbox ld .success [])))) ∧
  (∀ (s : State) (ld n : Nat) (im : FwImage) (k : Nat), s.dev.Hears ld → s.dev.isMgmt ld = true → s.dev.slotFree n = true →
    s.dev.imageCheck im = some k →
    exec (.transferFw ld n true im) s = .next (s.withDev
      (((s.dev.setSlot n ⟨some im, false⟩).raise Src.imgRejected (16 * n + k) 0x85 0).emit (.mbox ld .fwAuthFailed [])))) ∧
  (∀ (s : State) (ld n : Nat), s.dev.Hears ld → s.dev.isMgmt ld = true → (n = 1 ∨ n = 2) → (s.dev.slot n).checked = true →
    exec (.activateFwOnReset ld n) s = .next (s.withDev
      (({ s.dev with str := { s.dev.str with activeSlot := n } } : Dev).emit (.mbox ld .success [])))) ∧
  (∀ (s : State) (ld n : Nat), s.dev.Hears ld → s.dev.isMgmt ld = true → s.dev.fatal = false → s.dev.lcBusy = false →
    s.dev.slotFree n = true → (s.dev.slot n).checked = true →
    exec (.activateFwOnline ld n true) s = .next (s.withDev ((s.dev.stageActivation ld n).emit (.mbox ld .success [])))) ∧
  (∀ (s : State) (ld : Nat), s.dev.Hears ld →
    exec (.getTimestamp ld) s = .next (s.withDev (s.dev.emit (.mbox ld .success
      [(s.dev.clk.tsBase + 128 * (s.dev.sn - s.dev.clk.tsSn)) % 2 ^ 64])))) ∧
  (∀ (s : State) (ld : Nat) (t : BitVec 64), s.dev.Hears ld → s.dev.isMgmt ld = true →
    exec (.setTimestamp ld t) s = .next (s.withDev
      (({ s.dev with clk := { s.dev.clk with tsBase := t.toNat, tsSn := s.dev.sn } } : Dev).emit (.mbox ld .success [])))) ∧
  (∀ (s : State) (ld : Nat), s.dev.Hears ld →
    exec (.getSupportedLogs ld) s = .next (s.withDev (s.dev.emit (.mbox ld .success [0, Config.logSize 0, 1, Config.logSize 1])))) ∧
  (∀ (s : State) (ld off len : Nat), s.dev.Hears ld →
    exec (.getLog ld .cel off len) s = .next (s.withDev
      (if 4096 < len ∨ Config.logSize 0 < off + len then s.dev.emit (.mbox ld .invalidInput [])
        else s.dev.emit (.mbox ld .success ((List.range len).map fun i => (Config.logByte 0 (off + i)).toNat))))) ∧
  (∀ (s : State) (ld : Nat), s.dev.Hears ld →
    exec (.getSupportedFeatures ld) s = .next (s.withDev (s.dev.emit (.mbox ld .success Config.featureIds)))) ∧
  (∀ (s : State) (ld id : Nat), s.dev.Hears ld →
    exec (.getFeature ld id) s = .next (s.withDev
      (if Config.featureIds.contains id then s.dev.emit (.mbox ld .success [tget (fun _ => 0) (s.dev.ld ld).features id])
        else s.dev.emit (.mbox ld .unsupported [])))) ∧
  (∀ (s : State) (ld id : Nat) (v : BitVec 64), s.dev.Hears ld →
    exec (.setFeature ld id v) s = .next (s.withDev
      (if Config.featureIds.contains id then
        (s.dev.modLd ld fun l => { l with features := tput (fun _ => 0) l.features id v.toNat }).emit (.mbox ld .success [])
        else s.dev.emit (.mbox ld .unsupported [])))) ∧
  (∀ (s : State) (ld : Nat), s.dev.Hears ld →
    exec (.identifyMemoryDevice ld) s = .next (s.withDev (s.dev.emit (.mbox ld .success
      [s.dev.runVersion, s.dev.staticBytes ld, s.dev.staticBytes ld, 0, 0])))) ∧
  (∀ (s : State) (ld : Nat), s.dev.Hears ld →
    exec (.getHealthInfo ld) s = .next (s.withDev
      (s.dev.draw.emit (.mbox ld .success [s.dev.mediaStatus ld, Config.freeNat s.dev.fresh])))) ∧
  (∀ (s : State) (ld : Nat), s.dev.Hears ld →
    exec (.getAlertConfiguration ld) s = .next (s.withDev (s.dev.emit (.mbox ld .success [(s.dev.ld ld).alertCfg.toNat])))) ∧
  (∀ (s : State) (ld : Nat) (v : BitVec 96), s.dev.Hears ld →
    exec (.setAlertConfiguration ld v) s = .next (s.withDev
      ((s.dev.modLd ld fun l => { l with alertCfg := v }).emit (.mbox ld .success [])))) ∧
  (∀ (s : State) (ld : Nat) (op : BitVec 16), s.dev.Hears ld →
    exec (.unsupportedCommand ld op) s = .next (s.withDev (s.dev.emit (.mbox ld .unsupported []))))

/-- Sanitize, Poison and Media, and Dynamic Capacity (R91, R92, R96, R131, R203, R615, R616): SANITIZE, SECURE_ERASE, BACKGROUND_COMMAND_COMPLETE,
GET_POISON_LIST, INJECT_POISON, CLEAR_POISON, POISON_WRITE_VISIBLE, GET_SCAN_MEDIA_CAPABILITIES, SCAN_MEDIA, GET_SCAN_MEDIA_RESULTS,
GET_DC_CONFIGURATION, GET_DC_EXTENT_LIST, ADD_DC_RESPONSE, RELEASE_DC. -/
def Obligations.MailboxMediaCommandsComplete : Prop :=
  (∀ (s : State) (ld : Nat), s.dev.Hears ld → (s.dev.ld ld).background = none →
    exec (.sanitize ld) s = .next (s.withDev
      (((s.dev.clearLd ld).modLd ld fun l => { l with background := some .sanitize }).emit (.mbox ld .background [])).after)) ∧
  (∀ (s : State) (ld : Nat), s.dev.Hears ld → (s.dev.ld ld).background = none →
    exec (.secureErase ld) s = .next (s.withDev
      (((s.dev.clearLd ld).modLd ld fun l => { l with background := some .secureErase }).emit (.mbox ld .background [])).after)) ∧
  (∀ (s : State) (ld : Nat), ((s.dev.ld ld).background = some .sanitize ∨ (s.dev.ld ld).background = some .secureErase) →
    exec (.backgroundCommandComplete ld) s = .next (s.withDev
      ((s.dev.modLd ld fun l => { l with background := none }).emit (.mbox ld .success [])))) ∧
  (∀ (s : State) (ld : Nat) (bad : List Nat), (s.dev.ld ld).background = some (.scan bad) →
    exec (.backgroundCommandComplete ld) s = .next (s.withDev ((s.dev.modLd ld fun l =>
      { l with background := none, poisonList := (l.poisonList ++ bad).eraseDups, scanResult := bad }).emit (.mbox ld .success [])))) ∧
  (∀ (s : State) (ld start n : Nat) (d : Dev), s.dev.Hears ld → s.dev.mediaCheck ld 0 (Dev.mediaLines start n) = (true, d) →
    let hits := (d.ld ld).poisonList.filter fun o => decide (start / 64 * 64 ≤ o ∧ o < start / 64 * 64 + 64 * n)
    exec (.getPoisonList ld start n) s = .next (s.withDev (d.emit (.mbox ld .success (hits.length :: hits))))) ∧
  (∀ (s : State) (ld off dpa : Nat) (data : BitVec 512) (inject : Bool) (d : Dev), s.dev.Hears ld →
    s.dev.ringCheck (Dev.mediaWho ld 2) (off / 64 * 64) 2 = (some dpa, d) → d.isViral ld = false →
    let e := d.entry (dpaSkein dpa)
    let r : Req :=
      { id := d.mem.nextReq, kind := if inject then .partWrite else .write, ld := ld, port := ld / 16, half := 0, tag := 0, addr := off / 64 * 64,
        metaVal := .invalid, data := if inject then 0 else data, enables := 0, poison := inject, sn := d.sn, phase := (Config.cycle d.fresh).toNat,
        cls := e.cls, deadline := d.sn + d.classTarget e.cls, dpa := dpa, checked := true, dropped := true, mbox := true }
    let waits := ({ d.draw with mem := { d.mem with reqs := d.mem.reqs ++ [r], nextReq := d.mem.nextReq + 1 } } : Dev).modLd ld fun l =>
      { l with poisonWait := some (inject, off / 64 * 64), poisonFailed := false }
    waits.isViral ld = false →
    exec (if inject then .injectPoison ld off else .clearPoison ld off data) s = .next (s.withDev
      ((waits.addHeat (dpaSkein dpa) (dpaPage dpa)).coherentFlow r).after)) ∧
  (∀ (s : State) (ld off : Nat) (inject : Bool), (s.dev.ld ld).poisonWait = some (inject, off) →
    (s.dev.mem.reqs.any fun r => r.mbox && r.ld == ld) = false → (s.dev.ld ld).poisonFailed = false →
    exec (.poisonWriteVisible ld) s = .next (s.withDev ((s.dev.modLd ld fun l => { l with
      poisonWait := none, poisonFailed := false,
      poisonList := if inject then (l.poisonList ++ [off]).eraseDups else l.poisonList.filter (· != off) }).emit (.mbox ld .success [])))) ∧
  (∀ (s : State) (ld start n : Nat) (d : Dev), s.dev.Hears ld → s.dev.mediaCheck ld 0 (Dev.mediaLines start n) = (true, d) →
    exec (.getScanMediaCapabilities ld start n) s = .next (s.withDev (d.draw.emit (.mbox ld .success [Config.freeNat d.fresh])))) ∧
  (∀ (s : State) (ld start n : Nat) (fs : List LineFaultAt) (d : Dev), s.dev.Hears ld →
    s.dev.mediaCheck ld 8 (Dev.mediaLines start n) = (true, d) → (d.ld ld).background = none →
    let scanned := (Dev.mediaLines start n).foldl
      (fun (acc : List Nat × Dev) o =>
        match acc.2.translate ld o with
        | none => acc
        | some dpa =>
          let x := acc.2.scanLine dpa (faultAt fs (o / 64))
          (if x.1 then acc.1 else acc.1 ++ [o], x.2)) ([], d)
    exec (.scanMedia ld start n fs) s = .next (s.withDev
      ((scanned.2.modLd ld fun l => { l with background := some (.scan scanned.1) }).emit (.mbox ld .background [])))) ∧
  (∀ (s : State) (ld : Nat), s.dev.Hears ld →
    exec (.getScanMediaResults ld) s = .next (s.withDev
      (s.dev.emit (.mbox ld .success ((s.dev.ld ld).scanResult.length :: (s.dev.ld ld).scanResult))))) ∧
  (∀ (s : State) (ld : Nat), s.dev.Hears ld →
    exec (.getDcConfiguration ld) s = .next (s.withDev
      (s.dev.emit (.mbox ld .success (Dev.extFields (s.dev.ld ld).dcRegions ++ [2 ^ 21]))))) ∧
  (∀ (s : State) (ld : Nat), s.dev.Hears ld →
    exec (.getDcExtentList ld) s = .next (s.withDev (s.dev.emit (.mbox ld .success (Dev.extFields (s.dev.ld ld).dcAccepted))))) ∧
  (∀ (s : State) (ld : Nat) (es : List DcExtent), s.dev.Hears ld →
    (∀ e ∈ es, Dev.extOk e = true ∧ Dev.extWithin (s.dev.ld ld).dcOffered e = true) →
    let answering := (s.dev.extSkeins ld es).foldl (fun d k => d.putEntryQuiet k { d.entry k with dcAcc := true }) s.dev
    exec (.addDcResponse ld es) s = .next (s.withDev ((answering.modLd ld fun l =>
      { l with dcOffered := [], dcAccepted := l.dcAccepted ++ es }).emit (.mbox ld .success [])).after)) ∧
  (∀ (s : State) (ld : Nat) (es : List DcExtent), s.dev.Hears ld →
    (∀ e ∈ es, Dev.extOk e = true ∧ Dev.extCovered (s.dev.ld ld).dcAccepted e = true) →
    exec (.releaseDc ld es) s = .next (s.withDev (((s.dev.releaseSkeins (s.dev.extSkeins ld es)).modLd ld fun l =>
      { l with dcAccepted := Dev.extSubtract l.dcAccepted es, dcReleasing := Dev.extSubtract l.dcReleasing es }).emit (.mbox ld .success [])).after))

/-- R102: the checks of a vendor mailbox command come in this order: an LD that the table does not allow is answered Unsupported; then a payload of the
wrong length Invalid Payload Length; then a field outside its range Invalid Input; none of them has any other effect. -/
def Obligations.VendorCommandChecks : Prop :=
  (∀ (s : State) (ld len src : Nat), s.dev.Hears ld → s.dev.isMgmt ld = false →
    exec (.getStcSource ld len src) s = .next (s.withDev (s.dev.emit (.mbox ld .unsupported [])))) ∧
  (∀ (s : State) (ld len src : Nat), s.dev.Hears ld → s.dev.isMgmt ld = true → len ≠ 2 →
    exec (.getStcSource ld len src) s = .next (s.withDev (s.dev.emit (.mbox ld .invalidPayloadLength [])))) ∧
  (∀ (s : State) (ld src : Nat), s.dev.Hears ld → s.dev.isMgmt ld = true → 2048 ≤ src →
    exec (.getStcSource ld 2 src) s = .next (s.withDev (s.dev.emit (.mbox ld .invalidInput [])))) ∧
  (∀ (s : State) (ld len : Nat), s.dev.Hears ld → len ≠ 0 →
    exec (.getDeviceInfo ld len) s = .next (s.withDev (s.dev.emit (.mbox ld .invalidPayloadLength []))))

/-- The vendor mailbox commands (R102 to R105): GET_DEVICE_INFO, GET_STITCH_NUMBER, GET_STC_SOURCE, SET_STC_SOURCE, RELEASE_STC_SOURCE,
GET_INTERRUPT_ROUTE, SET_INTERRUPT_ROUTE, GET_PAGE_ACCESS, SET_PAGE_ACCESS, FROG, GET_PORT_ALLOCATION, SET_PORT_ALLOCATION, SET_MANAGEMENT_LDS. -/
def Obligations.VendorCommandsComplete : Prop :=
  (∀ (s : State) (ld : Nat), s.dev.Hears ld →
    exec (.getDeviceInfo ld 0) s = .next (s.withDev (s.dev.emit (.mbox ld .success (s.dev.deviceInfo ld))))) ∧
  (∀ (s : State) (ld : Nat), s.dev.Hears ld →
    exec (.getStitchNumber ld 0) s = .next (s.withDev (s.dev.emit (.mbox ld .success [s.dev.sn, s.dev.timestamp])))) ∧
  (∀ (s : State) (ld src : Nat), s.dev.Hears ld → s.dev.isMgmt ld = true → src < 2048 →
    exec (.getStcSource ld 2 src) s = .next (s.withDev (s.dev.emit (.mbox ld .success (s.dev.sourceInfo src))))) ∧
  (∀ (s : State) (ld src : Nat) (cfg rate : BitVec 32), s.dev.Hears ld → s.dev.isMgmt ld = true → src < 2048 →
    exec (.setStcSource ld 12 src cfg rate) s = .next (s.withDev
      ((({ s.dev with stc := { s.dev.stc with align := s.dev.stc.align ++
          [⟨s.dev.sn + 1, rkey (Bk.stc src) 0x134, 0x1FFFFF, cfg.toNat⟩, ⟨s.dev.sn + 1, rkey (Bk.stc src) 0x138, 0xFFFF, rate.toNat⟩] } } : Dev)).emit
        (.mbox ld .success [s.dev.sn + 1])))) ∧
  (∀ (s : State) (ld src : Nat), s.dev.Hears ld → s.dev.isMgmt ld = true → src < 2048 →
    exec (.releaseStcSource ld 4 src true true) s = .next (s.withDev
      (((s.dev.releaseMask src).releaseQuar src).emit (.mbox ld .success [])))) ∧
  (∀ (s : State) (ld p : Nat), s.dev.Hears ld → s.dev.isMgmt ld = true → p < 16384 →
    exec (.getInterruptRoute ld 2 p) s = .next (s.withDev (s.dev.emit (.mbox ld .success [s.dev.routeImage p])))) ∧
  (∀ (s : State) (ld p : Nat) (v : BitVec 32), s.dev.Hears ld → s.dev.isMgmt ld = true → p < 16384 → (pageKind p).isSome = true →
    let d := s.dev.store (Bk.route p) 0x124 routeMask v.toNat false
    exec (.setInterruptRoute ld 8 p v) s = .next (s.withDev
      ((if s.dev.flag (Bk.route p) F.GEN_IRQ_ROUTE_MASK = true ∧ d.flag (Bk.route p) F.GEN_IRQ_ROUTE_MASK = false ∧ d.pagePending p = true
        then d.pageInterrupt p else d).emit (.mbox ld .success [])))) ∧
  (∀ (s : State) (ld p : Nat), s.dev.Hears ld → s.dev.isMgmt ld = true → p < 16384 →
    exec (.getPageAccess ld 2 p) s = .next (s.withDev (s.dev.emit (.mbox ld .success [s.dev.accessImage p])))) ∧
  (∀ (s : State) (ld p : Nat) (v : BitVec 32), s.dev.Hears ld → s.dev.isMgmt ld = true → p < 16384 → fixedAccess p = false →
    exec (.setPageAccess ld 8 p v) s = .next (s.withDev
      (({ s.dev with stc := { s.dev.stc with align := s.dev.stc.align ++
        [⟨s.dev.sn + 1, rkey (Bk.acc p) 0x12C, 0xFF, v.toNat⟩] } } : Dev).emit (.mbox ld .success [s.dev.sn + 1])))) ∧
  (∀ (s : State) (ld kind index : Nat) (t : FrogTarget), s.dev.Hears ld → s.dev.isMgmt ld = true → Dev.frogTarget kind index = some t →
    (∀ p, t ≠ .page p) →
    exec (.frog ld 4 kind index) s = .next (s.withDev
      { s.dev with frogs := s.dev.frogs ++ [⟨s.dev.nextFrog, t, some ld, 0⟩], nextFrog := s.dev.nextFrog + 1 })) ∧
  (∀ (s : State) (ld kind index p : Nat), s.dev.Hears ld → s.dev.isMgmt ld = true → Dev.frogTarget kind index = some (.page p) →
    let d := s.dev.setFlag p F.PG_CTL_FROG true
    exec (.frog ld 4 kind index) s = .next (s.withDev
      { d with frogs := d.frogs ++ [⟨d.nextFrog, .page p, some ld, 0⟩], nextFrog := d.nextFrog + 1 })) ∧
  (∀ (s : State) (ld port : Nat), s.dev.Hears ld → s.dev.isMgmt ld = true → port < 4 →
    exec (.getPortAllocation ld 4 port) s = .next (s.withDev (s.dev.emit (.mbox ld .success (s.dev.portAllocation port))))) ∧
  (∀ (s : State) (ld port : Nat) (es : List AllocEntry), s.dev.Hears ld → s.dev.isMgmt ld = true → s.dev.allocOk port es = true →
    exec (.setPortAllocation ld 68 port es) s = .next (s.withDev ((Dev.allocApply port es s.dev).emit (.mbox ld .success [])))) ∧
  (∀ (s : State) (ld : Nat) (m : BitVec 64), s.dev.Hears ld → s.dev.isMgmt ld = true → m ≠ 0 →
    exec (.setManagementLds ld 8 m) s = .next (s.withDev
      (({ s.dev with stc := { s.dev.stc with align := s.dev.stc.align ++
          [⟨s.dev.sn + 1, rkey Pg.gen 0x130, 2 ^ 32 - 1, m.toNat % 2 ^ 32⟩,
            ⟨s.dev.sn + 1, rkey Pg.gen 0x134, 2 ^ 32 - 1, m.toNat / 2 ^ 32⟩] } } : Dev).emit (.mbox ld .success [s.dev.sn + 1]))))

/-- The Fabric Manager API and the DOE mailbox (R85 to R87, R91, R101, R135): GET_LD_INFO, GET_LD_ALLOCATIONS, SET_LD_ALLOCATIONS, GET_QOS_CONTROL,
SET_QOS_CONTROL, GET_QOS_STATUS, GET_QOS_ALLOCATED_BW, SET_QOS_ALLOCATED_BW, GET_QOS_BW_LIMIT, SET_QOS_BW_LIMIT, TUNNEL_MANAGEMENT, DCD_MANAGEMENT,
DOE_DISCOVERY, CDAT_READ. -/
def Obligations.FabricManagerCommandsComplete : Prop :=
  (∀ (s : State) (port : Nat), s.dev.FmHears port →
    exec (.getLdInfo port) s = .next (s.withDev (s.dev.emit (.fm port .success [s.dev.winRooms * 2 ^ 30, 16, 1])))) ∧
  (∀ (s : State) (port start n : Nat), s.dev.FmHears port → 0 < n → start + n ≤ 16 →
    exec (.getLdAllocations port start n) s = .next (s.withDev (s.dev.emit (.fm port .success
      ([16, 2, start, n] ++ (List.range n).map fun k => s.dev.ldGib (16 * port + start + k)))))) ∧
  (∀ (s : State) (port start : Nat) (gib : List Nat), s.dev.FmHears port → 0 < gib.length → start + gib.length ≤ 16 → (∀ g ∈ gib, g < 2 ^ 14) →
    exec (.setLdAllocations port start gib) s = .next (s.withDev
      ((gib.zipIdx.foldl (fun d x => d.store (Pg.ldm (16 * port + start + x.2)) 0x150 0xFFFFFF (1024 * x.1) true) s.dev).emit
        (.fm port .success ([gib.length, start] ++ gib))))) ∧
  (∀ (s : State) (port : Nat), s.dev.FmHears port →
    exec (.getQosControl port) s = .next (s.withDev (s.dev.emit (.fm port .success (Dev.qosFields (s.dev.qos port)))))) ∧
  (∀ (s : State) (port : Nat) (c : QosControl), s.dev.FmHears port → c.modPct ≤ c.sevPct → c.sevPct ≤ 100 → 0 < c.interval → c.interval < 16 →
    exec (.setQosControl port c) s = .next (s.withDev
      (({ s.dev with host := { s.dev.host with qosControl := tput (fun _ => Dev.qosDefault) s.dev.host.qosControl port c } } : Dev).emit
        (.fm port .success (Dev.qosFields c))))) ∧
  (∀ (s : State) (port : Nat), s.dev.FmHears port →
    exec (.getQosStatus port) s = .next (s.withDev (s.dev.draw.emit (.fm port .success [Config.freeNat s.dev.fresh])))) ∧
  (∀ (s : State) (port start n : Nat), s.dev.FmHears port → 0 < n → start + n ≤ 16 →
    exec (.getQosAllocatedBw port start n) s = .next (s.withDev (s.dev.emit (.fm port .success
      ([n, start] ++ (List.range n).map fun k => s.dev.linesFrac (16 * port + start + k) (Dev.guar s.dev.baseSet (16 * port + start + k) 2)))))) ∧
  (∀ (s : State) (port start n : Nat), s.dev.FmHears port → 0 < n → start + n ≤ 16 →
    exec (.getQosBwLimit port start n) s = .next (s.withDev (s.dev.emit (.fm port .success
      ([n, start] ++ (List.range n).map fun k => s.dev.linesFrac (16 * port + start + k) (Dev.ceiling s.dev.baseSet (16 * port + start + k) 2)))))) ∧
  (∀ (s : State) (port start : Nat) (vs : List (BitVec 8)) (ceil : Bool), s.dev.FmHears port → 0 < vs.length → start + vs.length ≤ 16 →
    s.dev.flag Pg.gau F.GAU_COMMIT_BUSY = false →
    let new := vs.zipIdx.map fun x => (16 * port + start + x.2, s.dev.fracLines (16 * port + start + x.2) x.1)
    let b := { s.dev.baseSet with budgets := new.foldl (fun t x => tmod (fun _ => (0, 0)) t (Dev.kitchen x.1) fun y =>
      if ceil then (y.1, x.2) else (x.2, y.2)) s.dev.baseSet.budgets }
    (s.dev.admitSet b).1 = 0 →
    let staged := new.foldl (fun d x => d.set (Bk.bud x.1 2) (if ceil then F.GAU_BUD_CEIL else F.GAU_BUD_GUAR) x.2) s.dev
    exec (if ceil then .setQosBwLimit port start vs else .setQosAllocatedBw port start vs) s = .next (s.withDev
      ((staged.recordCheck b).emit (.fm port .success ([vs.length, start] ++ vs.map (·.toNat)))))) ∧
  (∀ (s : State) (port n : Nat), s.dev.FmHears port → n < 16 →
    exec (.tunnelManagement port n .identify) s = .next (s.withDev (s.dev.emit (.fm port .success (s.dev.identity (16 * port + n)))))) ∧
  (∀ (s : State) (port : Nat), s.dev.FmHears port →
    exec (.dcdManagement port .getInfo) s = .next (s.withDev (s.dev.emit (.fm port .success [16, 8, 2 ^ 21, 4096])))) ∧
  (∀ (s : State) (port n : Nat) (es : List DcExtent), s.dev.FmHears port → n < 16 → Dev.dcFits (s.dev.ld (16 * port + n)) es = true →
    exec (.dcdManagement port (.add n es)) s = .next (s.withDev
      (((s.dev.modLd (16 * port + n) fun l => { l with dcOffered := l.dcOffered ++ es }).dcRecords (16 * port + n) 0 es).emit
        (.fm port .success [])))) ∧
  (∀ (s : State) (ld i : Nat), s.dev.doeHeard ld = true →
    exec (.doeDiscovery ld i) s = .next (s.withDev (s.dev.emit (.doe ld (Dev.discovery i))))) ∧
  (∀ (s : State) (ld n : Nat), s.dev.doeHeard ld = true → s.dev.host.mboxReady.testBit (ld / 16) = true → n < (s.dev.cdat ld).length →
    exec (.cdatRead ld n) s = .next (s.withDev (s.dev.emit
      (.doe ld ((if n + 1 < (s.dev.cdat ld).length then n + 1 else 0xFFFF) :: (s.dev.cdat ld).getD n [])))))

/-! ### Strongroom, live activation and debug (chapters 17 and 19) -/

/-- SPDM (R508, R513), once the Strongroom serves and where each request's step has been reached: SPDM_GET_VERSION, SPDM_GET_CAPABILITIES,
SPDM_NEGOTIATE_ALGORITHMS, SPDM_GET_DIGESTS, SPDM_GET_CERTIFICATE, SPDM_CHALLENGE, SPDM_GET_MEASUREMENTS, SPDM_KEY_EXCHANGE, SPDM_FINISH,
SPDM_HEARTBEAT, SPDM_KEY_UPDATE, SPDM_END_SESSION, and GET_NONCE (R509). The response codes are SPDM's, which the manual does not print (log entry
74); signatures and nonces are free values. -/
def Obligations.SpdmCommandsComplete : Prop :=
  (∀ (s : State) (t : Transport), s.dev.spdmServes = true →
    exec (.spdmGetVersion t) s = .next (s.withDev ((s.dev.setSpdmStep t 1).emit (.spdm t 0x04 [0x12, 0x13])))) ∧
  (∀ (s : State) (t : Transport), s.dev.spdmServes = true → 1 ≤ s.dev.spdmStep t →
    exec (.spdmGetCapabilities t) s = .next (s.withDev ((s.dev.setSpdmStep t 2).emit (.spdm t 0x61 [0x63F6])))) ∧
  (∀ (s : State) (t : Transport), s.dev.spdmServes = true → 2 ≤ s.dev.spdmStep t → s.dev.lcState ≠ 4 →
    exec (.spdmNegotiateAlgorithms t true) s = .next (s.withDev
      ((s.dev.setSpdmStep t 3).emit (.spdm t 0x63 [0x200, 0x40, 0x40, 0x40, 0x8])))) ∧
  (∀ (s : State) (t : Transport), s.dev.spdmServes = true → 3 ≤ s.dev.spdmStep t → s.dev.lcState ≠ 4 →
    exec (.spdmGetDigests t) s = .next (s.withDev (s.dev.emit (.spdm t 0x01 [certSlots s.dev])))) ∧
  (∀ (s : State) (t : Transport) (n : Nat), s.dev.spdmServes = true → 3 ≤ s.dev.spdmStep t → s.dev.lcState ≠ 4 →
    exec (.spdmGetCertificate t n) s = .next (s.withDev
      (if (certSlots s.dev).testBit n then s.dev.emit (.spdm t 0x02 [n]) else s.dev.emit (.spdm t 0x7F [1])))) ∧
  (∀ (s : State) (t : Transport) (n : Nat), s.dev.spdmServes = true → 3 ≤ s.dev.spdmStep t → s.dev.lcState ≠ 4 →
    exec (.spdmChallenge t n) s = .next (s.withDev
      (if (certSlots s.dev).testBit n then s.dev.draw.emit (.spdm t 0x03 [n, (Config.sm2Value s.dev.fresh).toNat])
        else s.dev.emit (.spdm t 0x7F [1])))) ∧
  (∀ (s : State) (t : Transport), s.dev.spdmServes = true → 1 ≤ s.dev.spdmStep t →
    exec (.spdmGetMeasurements t 0xFF false) s = .next (s.withDev (s.dev.emit
      (.spdm t 0x60 [s.dev.measurement 1, s.dev.measurement 2, s.dev.measurement 3, s.dev.measurement 4, s.dev.measurement 5])))) ∧
  (∀ (s : State) (t : Transport) (n : Nat), s.dev.spdmServes = true → 3 ≤ s.dev.spdmStep t → s.dev.lcState ≠ 4 → 1 ≤ n → n ≤ 5 →
    exec (.spdmGetMeasurements t n true) s = .next (s.withDev (s.dev.draw.emit
      (.spdm t 0x60 [s.dev.measurement n, (Config.sm2Value s.dev.fresh).toNat])))) ∧
  (∀ (s : State) (t : Transport) (n : Nat), s.dev.spdmServes = true → 3 ≤ s.dev.spdmStep t → s.dev.lcState ≠ 4 →
    (certSlots s.dev).testBit n = true → s.dev.str.sessions.length < 8 →
    exec (.spdmKeyExchange t n true) s = .next (s.withDev (({ s.dev with str := { s.dev.str with
      sessions := s.dev.str.sessions ++ [⟨s.dev.str.nextSession, t, false⟩], nextSession := s.dev.str.nextSession + 1 } } : Dev).emit
        (.spdm t 0x64 [s.dev.str.nextSession])))) ∧
  (∀ (s : State) (n : Nat), (s.dev.str.sessions.any fun x => x.id == n && !x.finished) = true →
    exec (.spdmFinish n true) s = .next (s.withDev (({ s.dev with str := { s.dev.str with
      sessions := s.dev.str.sessions.map fun x => if x.id = n then { x with finished := true } else x } } : Dev).emit (.spdmSession n 0x65 [])))) ∧
  (∀ (s : State) (n : Nat), (s.dev.session? n).isSome = true →
    exec (.spdmHeartbeat n) s = .next (s.withDev (s.dev.emit (.spdmSession n 0x68 []))) ∧
    exec (.spdmKeyUpdate n) s = .next (s.withDev (s.dev.draw.emit (.spdmSession n 0x69 []))) ∧
    exec (.spdmEndSession n) s = .next (s.withDev (({ s.dev with str := { s.dev.str with
      sessions := s.dev.str.sessions.filter fun x => x.id ≠ n, nonces := s.dev.str.nonces.filter fun y => y.1 ≠ n } } : Dev).emit
        (.spdmSession n 0x6C [])))) ∧
  (∀ (s : State) (n : Nat) (x : Session), s.dev.spdmServes = true → s.dev.session? n = some x → s.dev.secureTransport x.transport = true →
    exec (.getNonce n) s = .next (s.withDev
      ((({ s.dev with str := { s.dev.str with
        nonces := s.dev.str.nonces.filter (fun y => y.1 ≠ n) ++ [(n, s.dev.fresh, s.dev.sn)] } } : Dev).draw).emit
          (.spdmSession n 0x01 [0, (Config.nonce s.dev.fresh).toNat]))))

/-- R512, R514: a life-cycle request that is heard, whose signature and nonce hold, while no other is in progress. In the state of the table and from
its signer it appends the new state to the log, consumes its fuses, answers STATUS 0 and latches source 0x410, for TAKE_OWNERSHIP,
TRANSFER_OWNERSHIP, RELEASE, REFURBISH, DECOMMISSION and PROVISION; in another state, or from another signer, it answers STATUS 3; with its fuses used up, STATUS 4. -/
def Obligations.LifeCycleTransitionsFollowTheTable : Prop :=
  ∀ (s : State) (q : SecureReq), s.dev.secureHeard q = true → q.signatureOk = true → s.dev.nonceValid q.session q.nonce = true →
    s.dev.lcBusy = false →
    let fuses := s.dev.str.fuses
    let signer := s.dev.signerOf q.signed q.signer
    let moved := fun (code dest : Nat) (f : Fuses) =>
      let answered := ((s.dev.modFuses fun _ => { f with lcLog := fuses.lcLog ++ [dest], lcCopies := 3 }).useNonce q.session q.nonce).emit
        (.spdmSession q.session code [0])
      s.withDev ((({ answered with str := { answered.str with committing := true } } : Dev).setFlag Pg.str F.STR_STS_LC_BUSY true).latch Src.lifeCycle)
    let refused := fun (code status : Nat) =>
      s.withDev (((s.dev.useNonce q.session q.nonce).emit (.spdmSession q.session code [status])).raise Src.lcRejected (code * 256 + status) 0x85 0)
    (fuses.lcLog.length < 32 →
      (s.dev.lcState = 0 → signer = 1 → exec (.provision q .ok) s = .next (moved 0x0B 1 { fuses with chainHash := q.digest })) ∧
      (s.dev.lcState = 1 → q.signed = true → fuses.owners.length < 8 →
        exec (.takeOwnership q .ok) s = .next (moved 0x02 2 { fuses with owners := fuses.owners ++ [(q.signer, q.value.testBit 0)] })) ∧
      (s.dev.lcState = 2 → signer = 2 → fuses.owners.length < 8 →
        exec (.transferOwnership q .ok) s = .next (moved 0x03 2 { fuses with owners := fuses.owners ++ [(q.digest, q.value.testBit 0)] })) ∧
      (s.dev.lcState = 2 → signer = 2 → exec (.release q .ok) s = .next (moved 0x04 3 fuses)) ∧
      (s.dev.lcState = 3 → signer = 1 → fuses.refurb < 3 →
        exec (.refurbish q .ok) s = .next (moved 0x05 1 { fuses with refurb := fuses.refurb + 1 })) ∧
      (s.dev.lcState ≠ 4 → signer = (if s.dev.lcState = 2 then 2 else 1) →
        exec (.decommission q .ok) s = .next (moved 0x06 4 { fuses with seedBlown := true }))) ∧
    (∀ r : FuseResult,
      (s.dev.lcState ≠ 0 ∨ signer ≠ 1 → exec (.provision q r) s = .next (refused 0x0B 3)) ∧
      (s.dev.lcState ≠ 1 ∨ q.signed = false → exec (.takeOwnership q r) s = .next (refused 0x02 3)) ∧
      (s.dev.lcState ≠ 2 ∨ signer ≠ 2 → exec (.transferOwnership q r) s = .next (refused 0x03 3) ∧
        exec (.release q r) s = .next (refused 0x04 3)) ∧
      (s.dev.lcState ≠ 3 ∨ signer ≠ 1 → exec (.refurbish q r) s = .next (refused 0x05 3)) ∧
      (s.dev.lcState = 4 → exec (.decommission q r) s = .next (refused 0x06 3))) ∧
    (∀ r : FuseResult,
      (s.dev.lcState = 0 → signer = 1 → 32 ≤ fuses.lcLog.length → exec (.provision q r) s = .next (refused 0x0B 4)) ∧
      (s.dev.lcState = 1 → q.signed = true → 8 ≤ fuses.owners.length ∨ 32 ≤ fuses.lcLog.length →
        exec (.takeOwnership q r) s = .next (refused 0x02 4)) ∧
      (s.dev.lcState = 2 → signer = 2 → 8 ≤ fuses.owners.length ∨ 32 ≤ fuses.lcLog.length →
        exec (.transferOwnership q r) s = .next (refused 0x03 4)) ∧
      (s.dev.lcState = 2 → signer = 2 → 32 ≤ fuses.lcLog.length → exec (.release q r) s = .next (refused 0x04 4)) ∧
      (s.dev.lcState = 3 → signer = 1 → 3 ≤ fuses.refurb ∨ 32 ≤ fuses.lcLog.length →
        exec (.refurbish q r) s = .next (refused 0x05 4)) ∧
      (s.dev.lcState ≠ 4 → signer = (if s.dev.lcState = 2 then 2 else 1) → 32 ≤ fuses.lcLog.length →
        exec (.decommission q r) s = .next (refused 0x06 4)))

/-- The other Halvas requests (R510), heard, with a signature and a nonce that hold and no life-cycle request in progress: INSTALL_ANCHOR,
REVOKE_ANCHOR and COMMIT_SVN program their fuses and answer STATUS 0. A fuse that reads back wrong (R514) gives STATUS 5, raises "life-cycle
transition failed" and commits nothing. -/
def Obligations.FuseRequestsComplete : Prop :=
  ∀ (s : State) (q : SecureReq), s.dev.secureHeard q = true → q.signatureOk = true → s.dev.nonceValid q.session q.nonce = true →
    s.dev.lcBusy = false →
    let fuses := s.dev.str.fuses
    let signer := s.dev.signerOf q.signed q.signer
    let done := fun (code : Nat) (f : Fuses) =>
      s.withDev (((s.dev.modFuses fun _ => f).useNonce q.session q.nonce).emit (.spdmSession q.session code [0]))
    let failed := fun (code item : Nat) =>
      s.withDev (((s.dev.useNonce q.session q.nonce).emit (.spdmSession q.session code [5])).raise Src.lcFailed item 0x85 0)
    (∀ st, st = s.dev.lcState → (st = 0 ∧ signer = 1) ∨ (st = 2 ∧ signer = 2) →
      (fuses.anchors.length < 8 →
        exec (.installAnchor q .ok) s = .next (done 0x08 { fuses with anchors := fuses.anchors ++ [(q.digest, false)] })) ∧
      (q.slot < fuses.anchors.length → q.slot < 8 →
        exec (.revokeAnchor q .ok) s = .next (done 0x09
          { fuses with anchors := fuses.anchors.mapIdx fun i x => if i = q.slot then (x.1, true) else x })) ∧
      (∀ item, fuses.anchors.length < 8 → exec (.installAnchor q (.failed item)) s = .next (failed 0x08 item))) ∧
    (∀ im : FwImage, s.dev.lcState ≠ 4 → signer = (if s.dev.lcState = 2 then 2 else 1) → s.dev.str.running = some im →
      exec (.commitSvn q .ok) s = .next (done 0x0A { fuses with minSvn := max fuses.minSvn im.svn })) ∧
    (∀ item, s.dev.lcState = 2 → signer = 2 → fuses.lcLog.length < 32 → exec (.release q (.failed item)) s = .next (failed 0x04 item))

/-- Live activation (R518 to R520): ACTIVATION_PAUSE_BEGIN at boundary P, ACT_READY_WRITE, ACTIVATION_RESUME in the new image,
ACTIVATION_REVERT and ACTIVATION_FAIL at the end of their times. The mailbox commands held in the pause run at its end. -/
def Obligations.LiveActivationCommandsComplete : Prop :=
  (∀ s : State, s.dev.flag Pg.str F.STR_ACT_CTL_PENDING = true → s.dev.actP ≤ s.dev.sn →
    let d := (s.dev.setFlag Pg.str F.STR_ACT_CTL_PENDING false).setFlag Pg.str F.STR_ACT_CTL_PAUSED true
    exec .activationPauseBegin s = .next (s.withDev { d with pwr := { d.pwr with coreWait := 0 } })) ∧
  (∀ (s : State) (a : Agent) (x : Activation), s.dev.Serves a Pg.str 0x128 → s.dev.str.activation = some x →
    s.dev.flag Pg.str F.STR_ACT_CTL_PAUSED = true →
    let d := s.dev.wrote Pg.str
    exec (.actReadyWrite a) s = .next (s.withDev
      { d with str := { d.str with activation := some { x with ready := true, readySn := s.dev.sn } } })) ∧
  (∀ (s : State) (x : Activation) (im : FwImage), s.dev.str.activation = some x → s.dev.flag Pg.str F.STR_ACT_CTL_PAUSED = true →
    x.ready = true → x.readySn < s.dev.sn → x.reverted = false → (s.dev.slot x.slot).image = some im →
    let d : Dev := { s.dev with str := { s.dev.str with running := some im, activeSlot := x.slot, loaded := s.dev.str.loaded ++ [im.digest] } }
    let e := ((d.set Pg.str F.STR_FW_SLOT_RUNNING x.slot).set Pg.str F.STR_FW_SLOT_STAGED 0).endPause Src.fwActivated
    e.flag Pg.str F.STR_ACT_CTL_PAUSED = false →
    exec .activationResume s = runHeld e.host.held (s.withDev { e with host := { e.host with held := [] } }) ∧
    (e.host.held = [] → exec .activationResume s = .next (s.withDev { e with host := { e.host with held := [] } }))) ∧
  (∀ (s : State) (x : Activation), s.dev.str.activation = some x → s.dev.flag Pg.str F.STR_ACT_CTL_PAUSED = true →
    x.ready = false → x.reverted = false → s.dev.actP + 11719 ≤ s.dev.sn →
    exec .activationRevert s = .next (s.withDev (({ s.dev with
      str := { s.dev.str with activation := some { x with reverted := true } }, pwr := { s.dev.pwr with coreWait := 0 } } : Dev).setFlag
        Pg.str F.STR_ACT_CTL_REVERTED true))) ∧
  (∀ (s : State) (x : Activation), s.dev.str.activation = some x → s.dev.flag Pg.str F.STR_ACT_CTL_PAUSED = true →
    x.ready = false → x.reverted = true → s.dev.actP + 15625 ≤ s.dev.sn →
    let e := (s.dev.endPause Src.fwReverted).raise Src.fwActFailed s.dev.actP 0x85 0
    e.flag Pg.str F.STR_ACT_CTL_PAUSED = false → e.host.held = [] →
    exec .activationFail s = .next (s.withDev { e with host := { e.host with held := [] } }))

/-- R509: a nonce expires 78,125,000 stitches after it was fetched; R521: a write of STR_RIGHT_CTL with GO asks for the entry of STR_RIGHT_REQ,
which the Strongroom writes (from the next boundary) or refuses with RESULT 1: NONCE_EXPIRY, STR_RIGHT_REQUEST. -/
def Obligations.NoncesAndRightsComplete : Prop :=
  (∀ (s : State) (n : Nat),
    exec (.nonceExpiry n) s = .next (s.withDev { s.dev with str := { s.dev.str with
      nonces := s.dev.str.nonces.filter fun x => ¬ (x.1 = n ∧ x.2.2 + 78125000 < s.dev.sn) } })) ∧
  (∀ (s : State) (a : Agent) (v : BitVec 32), s.dev.Serves a Pg.str 0x160 → v.toNat.testBit 8 = true →
    let e := bits v.toNat 0 6
    let d := (s.dev.wrote Pg.str).set Pg.str F.STR_RIGHT_CTL_ENTRY e
    let image := (s.dev.wrote Pg.str).get Pg.str F.STR_RIGHT_REQ_IMAGE
    exec (.strRightRequest a v) s = .next (s.withDev
      (if (s.dev.wrote Pg.str).rightRefused e image = true then d.setFlag Pg.str F.STR_RIGHT_CTL_RESULT true
        else (d.writeRight e image).setFlag Pg.str F.STR_RIGHT_CTL_RESULT false)))

/-- Debug (R523 to R525): DEBUG_UNLOCK through SPDM, DBG_UNLOCK through the port, DBG_LOCK, DBG_PORT_DISABLE, DEBUG_GRANT_EXPIRY, and a DBG_MEM_READ and
a DBG_MEM_WRITE that pass the checks of R112 and end at once. -/
def Obligations.DebugCommandsComplete : Prop :=
  (∀ (s : State) (q : SecureReq) (lv : Nat), s.dev.secureHeard q = true → (q.signed = true → q.signatureOk = true) →
    s.dev.nonceValid q.session q.nonce = true → s.dev.unlockLevel q.signed q.signer q.value = some lv →
    exec (.debugUnlock q) s = .next (s.withDev
      (((s.dev.useNonce q.session q.nonce).grantDebug lv q.slot q.aux q.dur).emit (.spdmSession q.session 0x07 [0])))) ∧
  (∀ (s : State) (a : Agent) (ok : Bool) (lv : Nat), (s.dev.portUsed a).Serves a Pg.dbg 0x118 →
    let d := (s.dev.portUsed a).wrote Pg.dbg
    let signerBytes := (List.range 64).map fun k => d.tokenByte (100 + k)
    let signed := signerBytes.any (· ≠ 0)
    d.pendGet Pg.dbg F.DBG_CTL_PORT_DIS = 0 → d.tokenByte 0 = 7 → (signed = true → ok = true) →
    BitVec.ofNat 256 (d.tokenField 4 32) = Config.nonce d.str.dbgNonce →
    d.unlockLevel signed (BitVec.ofNat 256 (Sm3.digest signerBytes)) (d.tokenByte 36) = some lv →
    exec (.dbgUnlock a ok) s = .next (s.withDev
      (d.grantDebug lv (d.tokenField 40 4) (d.tokenField 44 4) (d.tokenField 48 4)).newDebugNonce)) ∧
  (∀ (s : State) (a : Agent) (lv : Nat), s.dev.Serves a Pg.dbg 0x118 → s.dev.str.grant = some lv →
    let d := s.dev.wrote Pg.dbg
    let e := ((({ d with str := { d.str with grant := none } } : Dev).writeRight 60 0).writeRight 61 0).writeRight 62 0
    exec (.dbgLock a) s = .next (s.withDev
      (((e.set Pg.dbg F.DBG_STS_LEVEL d.noTokenCap).set Pg.dbg F.DBG_EXPIRY_SN_SN 0).raise Src.dbgEnded lv 0x84 13))) ∧
  (∀ (s : State) (n : Nat), s.dev.Serves (.core n) Pg.dbg 0x118 →
    exec (.dbgPortDisable (.core n)) s = .next (s.withDev ((s.dev.wrote Pg.dbg).store Pg.dbg 0x118 2 2 true).endGrant)) ∧
  (∀ (s : State), s.dev.str.grant.isSome = true → s.dev.get Pg.dbg F.DBG_EXPIRY_SN_SN ≠ 0 → s.dev.get Pg.dbg F.DBG_EXPIRY_SN_SN ≤ s.dev.sn →
    exec .debugGrantExpiry s = .next (s.withDev s.dev.endGrant)) ∧
  (∀ (s : State) (a : Agent) (v : BitVec 32) (f : LineFault) (bs : List Nat) (poison : Bool) (e : Dev),
    (s.dev.portUsed a).Serves a Pg.dbg 0x148 → bits v.toNat 2 1 = 1 → bits v.toNat 3 1 = 0 →
    let d := (s.dev.portUsed a).wrote Pg.dbg
    let x : DbgAccess := { op := 1, space := 1, view := 0, addr := d.get Pg.dbg F.DBG_MEM_ADDR_ADDR / 64 * 64 }
    let b := ((d.set Pg.dbg F.DBG_MEM_CTL_SPACE 1).set Pg.dbg F.DBG_MEM_CTL_VIEW 0).setFlag Pg.dbg F.DBG_MEM_CTL_BUSY true
    d.str.dbgAcc = none → b.draCheck 0x84 x.addr 2 true = none → b.readDra (Dev.dbgWho x) x.addr false f = .done (bs, poison) e →
    exec (.dbgMemRead a v f) s = .next (s.withDev ((e.dbgPut bs).dbgEnd (if poison then 2 else 0)).after)) ∧
  (∀ (s : State) (a : Agent) (v : BitVec 32) (f : LineFault) (u : Unit) (e : Dev),
    (s.dev.portUsed a).Serves a Pg.dbg 0x148 → bits v.toNat 2 1 = 1 → bits v.toNat 3 1 = 0 →
    let d := (s.dev.portUsed a).wrote Pg.dbg
    let x : DbgAccess := { op := 2, space := 1, view := 0, addr := d.get Pg.dbg F.DBG_MEM_ADDR_ADDR / 64 * 64 }
    let b := ((d.set Pg.dbg F.DBG_MEM_CTL_SPACE 1).set Pg.dbg F.DBG_MEM_CTL_VIEW 0).setFlag Pg.dbg F.DBG_MEM_CTL_BUSY true
    d.str.dbgAcc = none → b.draCheck 0x84 x.addr 3 true = none →
    b.writeDra (Dev.dbgWho x) x.addr b.dbgData (BitVec.allOnes 64) false f = .done u e →
    exec (.dbgMemWrite a v f) s = .next (s.withDev (e.dbgEnd 0).after))

/-! ### The memory path (chapters 4 to 6) -/

/-- R112, R126, R141: an M2S request of a bound LD that finds its skein's entry in the Pattern cache and passes the seven checks takes its class and
deadline from the entry, counts in the heat of its skein, and enters the flow of the state that it finds: MEM_RD, MEM_RD_DATA, MEM_INV, MEM_CLN_EVCT,
MEM_WR and MEM_WR_PTL. A MEM_SPEC_RD ends with no response. -/
def Obligations.MemoryRequestsPassTheChecks : Prop :=
  ∀ (s : State) (m : MemReq) (data : BitVec 512) (poison : Bool) (enables : BitVec 64) (c : Instr) (q : Req) (off dpa : Nat) (bi : Bool),
    (c, q) ∈ [(Instr.memRd m, Dev.reqOf .read m), (.memRdData m, Dev.reqOf .readData m), (.memInv m, Dev.reqOf .inv m),
      (.memClnEvct m, Dev.reqOf .clnEvct m), (.memSpecRd m, Dev.reqOf .specRead m),
      (.memWr m data poison, { Dev.reqOf .write m with data := data, poison := poison }),
      (.memWrPtl m data enables, { Dev.reqOf .partWrite m with data := data, enables := enables })] →
    s.dev.hears m = true → (s.dev.mem.reqs.any fun x => x.ld == q.ld && decide (x.stage = .ingress)) = false →
    let taken := { q with id := s.dev.mem.nextReq, sn := s.dev.sn, phase := (Config.cycle s.dev.fresh).toNat, stage := .ingress }
    let drawn := s.dev.draw
    let queued : Dev := { drawn with mem := { drawn.mem with reqs := drawn.mem.reqs ++ [taken], nextReq := drawn.mem.nextReq + 1 } }
    let counted := if q.kind.isRead then queued.hpTally taken 0 1
      else if q.kind.isWrite then (queued.hpTally taken 1 1).hpLines q.port q.half true 1 else queued
    s.dev.flag Pg.str F.STR_ACT_CTL_PAUSED = false →
    counted.host.frogged.testBit q.ld = false → counted.domHeld 2 = false → counted.pageReady Pg.pat = true →
    counted.hdmDecode q.ld q.addr = some (off, bi) → counted.translate q.ld off = some dpa →
    let placed := { taken with dpa := dpa }
    let sought := (counted.putReq placed).tally Pg.pat 0x0100 1
    (sought.mem.pat.misses.any fun x => x.1 == dpaSkein dpa) = false → (sought.cached (dpaSkein dpa)).isSome = true →
    let found := (sought.tally Pg.pat 0x0101 1).touchWay (dpaSkein dpa)
    let e := found.entry (dpaSkein dpa)
    (q.kind = .specRead → exec c s = .next (s.withDev (found.dropReq placed.id).after)) ∧
    (q.kind ≠ .specRead → found.leaving placed = false → (e.state ≠ St.unbacked ∨ found.mem.pat.bad.contains (dpaSkein dpa) = true) →
      (e.owner = q.ld ∨ (e.shared = true ∧ (found.get (Pg.ldm q.ld) F.LDM_SHARE_GRPS_GRPS).testBit e.shareGrp = true)) →
      (e.dc = true → e.dcAcc = true) → found.skeinValid (dpaSkein dpa) = true → (e.shared = true → bi = true) →
      let passed := { placed with cls := e.cls, deadline := taken.sn + found.classTarget e.cls, checked := true }
      let noted := (found.putReq passed).tally (Pg.ldm q.ld) (if q.kind.isWrite then 0x0101 else 0x0100) 1
      noted.isViral q.ld = false →
      exec c s = .next (s.withDev ((noted.addHeat (dpaSkein dpa) (dpaPage dpa)).coherentFlow passed).after))

/-- R112: the checks come in order, and the first that fails decides: an unbacked skein is answered as an unmapped access; another's room raises
"room access denied" and counts in LDM_DENIED; Dynamic Capacity not accepted is unmapped; an invalid entry raises its source; a shared room
through HDM-H raises the port's. Each refuses the request. -/
def Obligations.RequestChecksInOrder : Prop :=
  ∀ (d : Dev) (r : Req) (bi : Bool), r.kind ≠ .specRead → d.leaving r = false →
    let s := dpaSkein r.dpa
    let e := d.entry s
    let unbacked := e.state = St.unbacked ∧ d.mem.pat.bad.contains s = false
    let mine := e.owner = r.ld ∨ (e.shared = true ∧ (d.get (Pg.ldm r.ld) F.LDM_SHARE_GRPS_GRPS).testBit e.shareGrp = true)
    let fails := fun (d : Dev) (src : Nat) => (d.raise src r.addr r.ld r.kind.acc).refuse r
    (unbacked → d.afterLookup r bi = fails d Src.unmappedHdm) ∧
    (¬ unbacked → ¬ mine → d.afterLookup r bi = fails (d.addSat (Pg.ldm r.ld) F.LDM_DENIED_COUNT 1) Src.roomDenied) ∧
    (¬ unbacked → mine → e.dc = true → e.dcAcc = false → d.afterLookup r bi = fails d Src.unmappedHdm) ∧
    (¬ unbacked → mine → (e.dc = true → e.dcAcc = true) → d.skeinValid s = false → d.afterLookup r bi = fails d Src.patInvalid) ∧
    (¬ unbacked → mine → (e.dc = true → e.dcAcc = true) → d.skeinValid s = true → e.shared = true → bi = false →
      d.afterLookup r bi = fails d (Src.hpSharedHdmH r.port))

/-- R142, R143, R145, R152: the flow of a read that is not blocked, in a room that neither leaves service nor is mirrored: of an Open line or a Packed
block in DRAM it goes to the gate of its line; of a line without storage it is answered zeros where the pair is below its ceiling; of a page
under copy it is parked; MemInv and MemClnEvct complete. -/
def Obligations.FlowFollowsTheState : Prop :=
  (∀ (d : Dev) (r : Req), r.kind = .inv ∨ r.kind = .clnEvct → d.flow r = d.answerCmp r) ∧
  (∀ (d : Dev) (r : Req), r.kind.isRead = true → d.leaving r = false → d.fencedRoom (r.dpa >>> 30) = false →
    (∀ dra ratio, d.locate r.dpa false = .dram dra ratio → d.blocked r = false → d.flow r = d.toGate r dra ratio) ∧
    (∀ page, d.locate r.dpa false = .noStore page → d.blocked r = false → d.capped r.ld (d.effClass r.ld r.cls) = false →
      d.flow r = (d.chargeUse r.ld r.cls 1).answerRead r 0 false) ∧
    (d.locate r.dpa false = .copying → d.flow r = d.park r .copy) ∧
    (d.locate r.dpa false = .invalid → d.flow r = (d.raise Src.patInvalid r.addr r.ld r.kind.acc).refuse r))

/-- What carries a request on (chapters 3 to 6): BI_CONFLICT (R163), UNSUPPORTED_MEM_OPCODE (R141), BI_RSP (R162), BI_RESPONSE_TIMEOUT (R165),
PATTERN_MISS_INSTALL (R128), DRAM_LINE_CAPTURE (R243), MAC_LATE_ALARM (R245), GATE_RELEASE (R313), INGRESS_HOLD_RELEASE (R150), PARK_RELEASE
(R157), BACKING_WAIT_TIMEOUT (R130), LARDER_READ_TIMEOUT and LARDER_WRITE_TIMEOUT (R154), COMPRESSOR_BLOCK_DONE (R148), INLINE_DECOMPRESSOR_FREE
(R221). -/
def Obligations.RequestEventsComplete : Prop :=
  (∀ (s : State) (r : MemReq), s.dev.hears r = true →
    exec (.biConflict r) s = .next (s.withDev (s.dev.emit (.biAck (16 * r.port + r.ldId) r.tag)))) ∧
  (∀ (s : State) (r : MemReq) (op : Nat), s.dev.hears r = true →
    let ld := 16 * r.port + r.ldId
    exec (.unsupportedMemOpcode r op) s = .next (s.withDev
      ((s.dev.raise (Src.hpBadOpcode r.port) (s.dev.dpaOr ld r.addr) ld 0).emit (.memCmp ld r.tag r.metaVal (s.dev.ld ld).devLoad)))) ∧
  (∀ (s : State) (ld line : Nat) (n : Snoop), s.dev.snoopOf line = some n → n.waiting.testBit ld = true →
    (clrBit n.waiting ld ≠ 0 → exec (.biRsp ld line) s = .next (s.withDev (Dev.after { s.dev with mem := { s.dev.mem with pat :=
      { s.dev.mem.pat with snoops := s.dev.mem.pat.snoops.map fun x => if x = n then { n with waiting := clrBit n.waiting ld } else x } } }))) ∧
    (clrBit n.waiting ld = 0 →
      let ended : Dev := { s.dev with mem := { s.dev.mem with pat :=
        { s.dev.mem.pat with snoops := s.dev.mem.pat.snoops.filter fun x => x != n } } }
      exec (.biRsp ld line) s = .next (s.withDev (Dev.after
        (if n.evict = true then ended.setDir line false 0
          else match ended.findReq n.req with
            | some r => ended.putReq { r with snooped := true }
            | none => if n.inval = true then ended.setDir line false 0 else ended))))) ∧
  (∀ (s : State) (ld line : Nat) (n : Snoop) (w : DirWay), s.dev.snoopOf line = some n → n.waiting.testBit ld = true →
    n.sn + 1024 ≤ s.dev.sn → s.dev.dirWay line = some w →
    exec (.biResponseTimeout ld line) s = .next (s.withDev
      ((((s.dev.setDir line w.excl (clrBit w.holders ld)).raise Src.biTimeout (64 * line) ld 0).snoopAnswer line ld).after))) ∧
  (∀ (s : State) (k : Nat), (s.dev.mem.pat.misses.any fun m => m.1 == k) = true →
    let d : Dev := { s.dev with mem := { s.dev.mem with pat := { s.dev.mem.pat with misses := s.dev.mem.pat.misses.filter fun m => m.1 != k } } }
    d.cached k = none →
    let installed := d.installWay k (d.tableEntry k) false
    exec (.patternMissInstall k true) s = .next (s.withDev
      (((installed.mem.reqs.filter fun r => decide (r.stage = .miss) && dpaSkein r.dpa == k).foldl (fun d r => d.resume r) installed).after))) ∧
  (∀ (s : State) (id : Nat) (f : LineFault) (r : Req), s.dev.findReq id = some r → r.stage = .issued → (s.dev.sub r.sub).replaying = false →
    s.dev.chHalted (r.sub / 2) = false → exec (.dramLineCapture id f) s = .next (s.withDev (s.dev.captured r f).after)) ∧
  (∀ (s : State) (id : Nat) (r : Req), s.dev.findReq id = some r → r.stage = .late →
    exec (.macLateAlarm id) s = .next (s.withDev ((s.dev.lateAlarm r (some r.ld)).dropReq id).after)) ∧
  (∀ (s : State) (sub : Nat) (r y : Req) (d : Dev), (s.dev.gateReqs.filter fun r => r.sub == sub || r.sub == 32) = [r] → r.sub = sub → sub ≠ 32 →
    s.dev.findReq r.id = some r → r.stage = .gate → s.dev.tryPass r = some d → d.findReq r.id = some y →
    exec (.gateRelease sub) s = .next (s.withDev (d.flow y).after)) ∧
  (∀ (s : State) (ld : Nat) (r : Req), (s.dev.mem.reqs.filter fun r => r.ld == ld && decide (r.stage = .ingress)) = [r] →
    exec (.ingressHoldRelease ld) s = .next (s.withDev (s.dev.resume r).after)) ∧
  (∀ (s : State) (id : Nat) (r : Req) (c : ParkCause), s.dev.findReq id = some r → r.stage = .parked c → s.dev.parkEnds r c = true →
    (r.checked = true → s.dev.isViral r.ld = false) →
    exec (.parkRelease id) s = .next (s.withDev (s.dev.resume { r with locking := false, stage := .order }).after)) ∧
  (∀ (s : State) (id : Nat) (r : Req), s.dev.findReq id = some r → r.stage = .parked .backing → r.sn + 3907 ≤ s.dev.sn →
    exec (.backingWaitTimeout id) s = .next (s.withDev (((s.dev.raise Src.backingExhausted r.addr r.ld r.kind.acc).discard r).after))) ∧
  (∀ (s : State) (id : Nat) (r : Req), s.dev.findReq id = some r → r.stage = .parked .larder ∨ r.stage = .parked .copy → r.sn + 3905 ≤ s.dev.sn →
    (r.kind.isRead = true → exec (.larderReadTimeout id) s = .next (s.withDev
      ((s.dev.raise Src.larderReadTo r.dpa r.ld 1).answerRead r allOnes true).after)) ∧
    (r.kind.isRead = false → exec (.larderWriteTimeout id) s = .next (s.withDev
      ((s.dev.raise Src.larderWriteTo r.dpa r.ld r.kind.acc).discard r).after))) ∧
  (∀ (s : State) (i : Nat) (ok : Bool) (r : Req), (s.dev.mem.reqs.find? fun r => decide (r.stage = .encode) && r.inst == some i) = some r →
    exec (.compressorBlockDone i ok) s = .next (s.withDev (((s.dev.setCmpBusy i 0).rewriteDone r i ok).assignEncoders).after)) ∧
  (∀ (s : State) (i : Nat) (r : Req), 32 ≤ i → i < 80 →
    let d := s.dev.setCmpBusy i 0
    (d.mem.reqs.filter fun r => decide (r.stage = .decode) && (d.inlineChoice (r.sub / 2)).contains i) = [r] →
    exec (.inlineDecompressorFree i) s = .next (s.withDev (d.decodeOn r i).after))

/-- R115: the room commands. A write is refused with RESULT 4 while a command runs, otherwise with the lowest of 1, 2 and 3 that holds, and then changes
nothing else; a write that is not refused returns 0 and begins. A read is refused with 4 or 1 and leaves PAT_ROOM_CFG unchanged; any other loads
PAT_ROOM_CFG with the entry and returns 0. -/
def Obligations.RoomCommandsFollowTheTable : Prop :=
  ∀ (s : State) (a : Agent), s.dev.Serves a Pg.pat 0x134 →
    let d := s.dev.wrote Pg.pat
    let drn := d.get Pg.pat F.PAT_ROOM_SEL_DRN
    let busy := d.flag Pg.pat F.PAT_ROOM_CMD_BUSY
    let img := Room.decode (d.word Pg.pat 0x138).toNat
    let old := d.room drn
    let out := d.winRooms ≤ drn
    let moves := old.inService = true ∧ img.inService = true ∧
      (img.owner ≠ old.owner ∨ img.shared ≠ old.shared ∨ img.shareGrp ≠ old.shareGrp ∨ img.dc ≠ old.dc)
    let result := fun (n : Nat) => Host.Outcome.next (s.withDev (d.set Pg.pat F.PAT_ROOM_CMD_RESULT n))
    (busy = true → exec (.roomWrite a) s = result 4 ∧ exec (.roomRead a) s = result 4) ∧
    (busy = false → out → exec (.roomWrite a) s = result 1 ∧ exec (.roomRead a) s = result 1) ∧
    (busy = false → ¬ out → moves → exec (.roomWrite a) s = result 2) ∧
    (busy = false → ¬ out → ¬ moves → img.mirrored = true → d.isPaired = false → exec (.roomWrite a) s = result 3) ∧
    (busy = false → ¬ out → ¬ moves → (img.mirrored = true → d.isPaired = true) → exec (.roomWrite a) s = .next (s.withDev
      ((((d.set Pg.pat F.PAT_ROOM_CMD_RESULT 0).setFlag Pg.pat F.PAT_ROOM_CMD_BUSY true).roomBegin drn img).after))) ∧
    (busy = false → ¬ out → exec (.roomRead a) s = .next (s.withDev
      ((d.setWord Pg.pat 0x138 (BitVec.ofNat 32 old.encode)).set Pg.pat F.PAT_ROOM_CMD_RESULT 0)))

/-- The end of a room write and the cache commands (R116, R117, R129, R139): ROOM_WRITE_COMPLETE, PAT_CACHE_FLUSH, PAT_CACHE_FLUSH_DONE, PAT_PROBE. -/
def Obligations.PatternCommandsComplete : Prop :=
  (∀ (s : State) (drn : Nat) (img : Room), s.dev.mem.pat.roomCmd = some (drn, img) →
    (s.dev.mem.pat.roomLeaving ≠ some drn ∨ (s.dev.mem.pat.snoops.any fun n => n.line / 2 ^ 24 == drn) = false) →
    exec .roomWriteComplete s = .next (s.withDev
      (((s.dev.roomEnd drn img (s.dev.roomWas drn img)).setFlag Pg.pat F.PAT_ROOM_CMD_BUSY false).after))) ∧
  (∀ (s : State) (a : Agent), s.dev.Serves a Pg.pat 0x120 →
    exec (.patCacheFlush a) s = .next (s.withDev ((s.dev.wrote Pg.pat).setFlag Pg.pat F.PAT_CACHE_CTL_FLUSH true))) ∧
  (∀ (s : State), s.dev.flag Pg.pat F.PAT_CACHE_CTL_FLUSH = true →
    let back := (s.dev.mem.pat.cache.filter (·.changed)).foldl (fun d w => d.writeTable w.skein w.entry) s.dev
    exec (.patCacheFlushDone []) s = .next (s.withDev (Dev.setFlag { back with mem := { back.mem with pat := { back.mem.pat with
      cache := back.mem.pat.cache.map fun w => { w with changed := false } } } } Pg.pat F.PAT_CACHE_CTL_FLUSH false))) ∧
  (∀ (s : State) (a : Agent), s.dev.Serves a Pg.pat 0x148 →
    let d := s.dev.wrote Pg.pat
    let k := dpaSkein (d.get Pg.pat F.PAT_PROBE_DPA_DPA)
    let q := (if k / 512 < d.winRooms ∧ d.patServes = true then d.entry k else {}).encode
    let put := fun (d : Dev) (i v : Nat) => d.set Pg.pat (F.PAT_PROBE_ENT_QW.sh (8 * i)) v
    exec (.patProbe a) s = .next (s.withDev
      ((put (put (put (put d 0 q.1) 1 q.2.1) 2 q.2.2.1) 3 q.2.2.2).setFlag Pg.pat F.PAT_PROBE_CMD_HIT (d.cached k).isSome)))

/-- The tier engine (R178 to R201), enabled and not quiesced: SCANNER_VISIT of the next skein, and at the end of a pass, within TIR_SCAN_CFG.LINES;
PACK_TRIAL_COMPLETE; MIGRATION_START of the oldest wanted move; COPY_PHASE_END; MIGRATION_SETTLE; PROMOTION_RETRY; FETCH_BUFFER_FREED;
FRAME_PRESSURE_PASS; SQUEEZE_WALK of an LD over its quota; TIR_EVAC_REQUEST; FILL_ENGINE_WINDOW; FILL_SLOT_FREED. -/
def Obligations.TierCommandsComplete : Prop :=
  (∀ (s : State), s.dev.tierOn = true → s.dev.flag Pg.tir F.TIR_CFG_SCAN_EN = true → s.dev.quiesced = false →
    (∀ k, s.dev.nextVisit = some k →
      let cost := (if k % 2 = 0 ∨ k = s.dev.get Pg.tir F.TIR_SCAN_POS_SKEIN then 1 else 0) + (if (s.dev.entry k).state = St.split then 64 else 0)
      s.dev.mem.tier.scanUsed + cost ≤ s.dev.get Pg.tir F.TIR_SCAN_CFG_LINES →
      let counted := s.dev.tally Pg.tir 0x0103 1
      let d := Dev.set { counted with mem := { counted.mem with tier := { counted.mem.tier with scanUsed := s.dev.mem.tier.scanUsed + cost } } }
        Pg.tir F.TIR_SCAN_POS_SKEIN (k + 1)
      exec .scannerVisit s = .next (s.withDev
        ((if d.skeinValid k ∧ (d.entry k).state ≠ St.unbacked then d.decaySkein k else d).applyRows k))) ∧
    (s.dev.nextVisit = none →
      let n := s.dev.get Pg.tir F.TIR_SCAN_PASS_COUNT + 1
      exec .scannerVisit s = .next (s.withDev
        (((s.dev.set Pg.tir F.TIR_SCAN_PASS_COUNT n).set Pg.tir F.TIR_SCAN_POS_SKEIN 0).raise Src.scanPass (n % 2 ^ 32) 0xFF 7)))) ∧
  (∀ (s : State) (k i : Nat) (bad : List Nat) (t : Trial), (s.dev.mem.tier.trials.find? fun t => t.skein == k) = some t →
    s.dev.deviceCompressor = some i → exec (.packTrialComplete k bad) s = .next (s.withDev (s.dev.trialDone t bad i))) ∧
  (∀ (s : State) (w : Want) (rest : List Want) (d : Dev), s.dev.tierOn = true → s.dev.quiesced = false → s.dev.mem.tier.wants = w :: rest →
    s.dev.stillMoves w = true → w.cause ≠ 5 → w.cause ≠ 7 → w.cause ≠ 8 →
    Dev.startWant { s.dev with mem := { s.dev.mem with tier := { s.dev.mem.tier with wants := rest } } } w = some d →
    exec .migrationStart s = .next (s.withDev d.pump)) ∧
  (∀ (s : State) (id : Nat) (r : CopyResult) (m : Mig), s.dev.findMig id = some m → s.dev.copyReady m = true →
    exec (.copyPhaseEnd id r) s = .next (s.withDev (((s.dev.copyEnd m r).kick).pump))) ∧
  (∀ (s : State) (id n : Nat) (m : Mig), s.dev.findMig id = some m → m.reason = n → n ≠ 0 →
    exec (.migrationSettle id n) s = .next (s.withDev (((s.dev.settleNow m).evacCheck.kick).pump))) ∧
  (∀ (s : State), exec .promotionRetry s = .next (s.withDev ((s.dev.retryPromotions.kick).pump)) ∧
    exec .fetchBufferFreed s = .next (s.withDev s.dev.issueWaiting.pump)) ∧
  (∀ (s : State), s.dev.tierOn = true → s.dev.mem.tier.pressure = true → s.dev.quiesced = false →
    exec .framePressurePass s = .next (s.withDev s.dev.pressurePass)) ∧
  (∀ (s : State) (ld : Nat), ld < 64 →
    let d := s.dev.squeezeUpdate
    d.tierOn = true → (d.get Pg.tir F.TIR_SQUEEZE_LDS).testBit ld = true → d.quiesced = false →
    exec (.squeezeWalk ld) s = .next (s.withDev (d.squeezeWalk ld))) ∧
  (∀ (s : State) (a : Agent) (v : BitVec 32), s.dev.Serves a Pg.tir 0x178 →
    let d := s.dev.wrote Pg.tir
    exec (.tirEvacRequest a v) s = .next (s.withDev
      ((((List.range 16).filter fun n => (v.toNat % 2 ^ 16).testBit n && !(d.get Pg.tir F.TIR_EVAC_ACTIVE).testBit n).foldl
        (fun d n => d.evacuate n) d).pump))) ∧
  (∀ (s : State), s.dev.pageReady Pg.tir = true → s.dev.flag Pg.pwr F.PWR_STS_IN_PROGRESS = false →
    exec .fillEngineWindow s = .next (s.withDev (Dev.fillLines (s.dev.get Pg.tir F.TIR_WIPE_CFG_LINES) s.dev))) ∧
  (∀ (s : State), (s.dev.mem.reqs.any fun r => decide (r.stage = .fillWait)) = true → s.dev.mem.store.filling.length < 2048 →
    exec .fillSlotFreed s = .next (s.withDev
      ((((s.dev.mem.reqs.filter fun r => decide (r.stage = .fillWait)).foldl (fun d r => d.retryWrite r) s.dev).kick).pump)))

/-! ### Re-knit, the DRAM channels and the Gauge (chapters 7 to 9) -/

/-- Re-knit (R252 to R258): REKNIT_START and REKNIT_AUTO_START accepted, and refused; REKNIT_ACTIVATE; REKNIT_ITEM of the structure walk and of the
window walk; REKNIT_END; REKNIT_PAUSE_WRITE. -/
def Obligations.ReknitCommandsComplete : Prop :=
  let begun := fun (d : Dev) =>
    let x := d.set Pg.cry F.CRY_REKNIT_START_SN_SN d.sn
    Dev.draw { x with mem := { x.mem with cry := { x.mem.cry with starting := true, accepted := true, drawNext := d.fresh } } }
  (∀ (s : State) (a : Agent), s.dev.Serves a Pg.cry 0x120 →
    let d := s.dev.wrote Pg.cry
    let refused := d.reknit = true ∨ d.mem.cry.starting = true ∨ d.enabled Pg.cry = false ∨
      d.sn < d.reknitRef + (if d.anyAttached = true then 86400 else 3600) * 7812500
    (¬ refused → exec (.reknitStart a) s = .next (s.withDev (begun d))) ∧
    (refused → exec (.reknitStart a) s = .next (s.withDev (d.setFlag Pg.cry F.CRY_REKNIT_STS_REFUSED true)))) ∧
  (∀ (s : State), s.dev.flag Pg.cry F.CRY_CFG_AUTO_REKNIT = true → s.dev.reknitRefused = false →
    s.dev.reknitRef + max s.dev.reknitLimit (s.dev.get Pg.cry F.CRY_REKNIT_PERIOD_SECONDS) * 7812500 ≤ s.dev.sn →
    exec .reknitAutoStart s = .next (s.withDev (begun s.dev))) ∧
  (∀ (s : State), s.dev.mem.cry.starting = true →
    let d := ((s.dev.setFlag Pg.cry F.CRY_STS_REKNIT_ACTIVE true).set Pg.cry F.CRY_STS_PHASE 0).set Pg.cry F.CRY_KNIT_LINE_DPA 0
    let e := d.set Pg.cry F.CRY_TBL_KNIT_DRA d.firstDevice
    exec .reknitActivate s = .next (s.withDev { e with mem := { e.mem with cry :=
      { e.mem.cry with starting := false, walkDone := false, skipped := [], yStage := 0 } } })) ∧
  (∀ (s : State) (f : LineFault), s.dev.reknit = true → s.dev.mem.cry.walkDone = false → s.dev.flag Pg.cry F.CRY_REKNIT_CTL_PAUSE = false →
    s.dev.quiesced = false → s.dev.mem.cry.lines < s.dev.get Pg.cry F.CRY_REKNIT_RATE_LINES →
    (s.dev.flag Pg.cry F.CRY_STS_PHASE = false → exec (.reknitItem f) s = .next (s.withDev (s.dev.knitStruct f).after)) ∧
    (s.dev.flag Pg.cry F.CRY_STS_PHASE = true → exec (.reknitItem f) s = .next (s.withDev (s.dev.knitWindow f).after))) ∧
  (∀ (s : State), s.dev.reknit = true → s.dev.mem.cry.walkDone = true →
    let d := ((((((s.dev.set Pg.cry F.CRY_GEN_G (s.dev.genCount + 1)).setFlag Pg.cry F.CRY_STS_REKNIT_ACTIVE false).set Pg.cry F.CRY_STS_PHASE 0).set
      Pg.cry F.CRY_KNIT_LINE_DPA 0).set Pg.cry F.CRY_TBL_KNIT_DRA 0).set Pg.cry F.CRY_REKNIT_END_SN_SN s.dev.sn)
    exec .reknitEnd s = .next (s.withDev (Dev.raise { d with mem := { d.mem with cry :=
      { d.mem.cry with draw := d.mem.cry.drawNext, walkDone := false, skipped := [] } } } Src.reknitDone 0 0xFF 9))) ∧
  (∀ (s : State) (a : Agent) (on : Bool), s.dev.Serves a Pg.cry 0x120 →
    exec (.reknitPauseWrite a on) s = .next (s.withDev ((s.dev.wrote Pg.cry).setFlag Pg.cry F.CRY_REKNIT_CTL_PAUSE on)))

/-- A DRAM channel that is powered, trained and out of self-refresh (R276 to R287): DDR_COMMAND_SLOT issues the command that the order of R276 puts
first; BANK_IDLE_CLOSE; REFRESH_INTERVAL; OSCILLATOR_READ; ZQ_CALIBRATION; PATROL_SCRUB; DDR_ALERT; ALERT_N_RELEASE; REPLAY_COMPLETE. -/
def Obligations.DramCommandsComplete : Prop :=
  (∀ (s : State) (c k : Nat) (t : DdrReady) (x : Dev.Cand), s.dev.dcOn c = true →
    let l := 2 * c + k % 2
    (s.dev.sub l).replaying = false → s.dev.chHalted c = false → s.dev.get (Pg.dc (l / 2)) F.DC_RANK_MAP_FAILED = 0 →
    let d := if s.dev.drains l = false ∧ (s.dev.sub l).queue.isEmpty = false then s.dev.modSub l fun y => { y with draining := false } else s.dev
    minBy (d.candKey l) (d.moveCands l t) = some x →
    exec (.ddrCommandSlot c k t) s = .next (s.withDev (d.issueCand l x).after)) ∧
  (∀ (s : State) (c k b row : Nat), s.dev.dcOn c = true → s.dev.chHalted c = false →
    let l := 2 * c + k % 2
    (Dev.bankOfKey (s.dev.sub l) b).row = some row → (s.dev.sub l).replaying = false →
    ((s.dev.queued l).any fun r => (s.dev.bankRow l r.dra).2 == (b, row)) = false →
    exec (.bankIdleClose c k b) s = .next (s.withDev ((s.dev.modSub l fun y =>
      Dev.setBank y b { Dev.bankOfKey y b with row := none, hits := 0, kept := false }).keepCmd l (.precharge b)))) ∧
  (∀ (s : State) (c k r : Nat), s.dev.dcOn c = true → r < 8 → r < s.dev.rankCount c →
    (s.dev.get (Pg.dc c) F.DC_RANK_MAP_FAILED).testBit r = false →
    let l := 2 * c + k % 2
    let d := s.dev.modSub l fun y => { y with owed := tput (fun _ => 0) y.owed r (Dev.owedOf y r + 4) }
    exec (.refreshInterval c k r) s = .next (s.withDev (if s.dev.mandatory l r = true then d else d.noteMandatory l r))) ∧
  (∀ (s : State) (c k r : Nat) (n : BitVec 16), s.dev.dcOn c = true → s.dev.chHalted c = false → r < 8 →
    Dev.periodDue (s.dev.chan c).oscSn (8 * (k % 2) + r) s.dev.sn 1024 = true →
    exec (.oscillatorRead c k r n) s = .next (s.withDev (s.dev.modChan c fun y =>
      { y with oscSn := tput (fun _ => 0) y.oscSn (8 * (k % 2) + r) s.dev.sn, osc := tput (fun _ => 0) y.osc (8 * (k % 2) + r) n.toNat }))) ∧
  (∀ (s : State) (c k r : Nat), s.dev.dcOn c = true → s.dev.chHalted c = false → r < 8 →
    Dev.periodDue (s.dev.chan c).zqSn (8 * (k % 2) + r) s.dev.sn 7813 = true →
    exec (.zqCalibration c k r) s = .next (s.withDev (s.dev.modChan c fun y =>
      { y with zqSn := tput (fun _ => 0) y.zqSn (8 * (k % 2) + r) s.dev.sn }))) ∧
  (∀ (s : State) (c : Nat) (fs : List LineFaultAt), s.dev.dcOn c = true → s.dev.chHalted c = false →
    s.dev.flag (Pg.dc c) F.DC_CFG_SCRUB_EN = true → 0 < s.dev.installed → 2 * c < s.dev.ilvW →
    exec (.patrolScrub c fs) s = .next (s.withDev
      (((List.range (s.dev.get (Pg.dc c) F.DC_SCRUB_CFG_LINES)).foldl (fun d i => d.scrubLine c (faultAt fs i)) s.dev).after))) ∧
  (∀ (s : State) (c : Nat), s.dev.dcOn c = true → s.dev.chHalted c = false → (s.dev.chan c).alertLow = false →
    (s.dev.chan c).subA.replaying = false → (s.dev.chan c).subB.replaying = false →
    let d := s.dev.modChan c fun y => { y with alertLow := true }
    d.chHalted c = false →
    exec (.ddrAlert c) s = .next (s.withDev
      ((((d.modSubs c fun y => { y with replaying := true }).setFlag (Pg.dc c) F.DC_STS_REPLAY true).dcTally (2 * c) 9 1).tally (Pg.dc c) 0x0309 1))) ∧
  (∀ (s : State) (c : Nat), c < 16 → (s.dev.chan c).alertLow = true →
    exec (.alertNRelease c) s = .next (s.withDev (s.dev.modChan c fun y => { y with alertLow := false }))) ∧
  (∀ (s : State) (c k : Nat),
    let l := 2 * c + k % 2
    (s.dev.sub l).replaying = true → (s.dev.chan c).alertLow = false →
    let rows := fun (y : SubCh) => (y.banks.map (·.1)).foldl (fun t b => tput (fun _ => ({} : BankSt)) t b (Dev.reissued y b)) []
    let d := s.dev.modSub l fun y => { y with replaying := false, banks := rows y }
    let e := (d.addSat (Pg.dc c) F.DC_RETRY_CNT_COUNT 1).raise (Src.cmdRetry c) 0 0xFF 0
    exec (.replayComplete c k) s = .next (s.withDev
      (if ((e.chan c).subA.replaying || (e.chan c).subB.replaying) = true then e
        else (e.setFlag (Pg.dc c) F.DC_STS_REPLAY false).replayEnded c)))

/-- Repair and sparing of the channels (R289 to R294, R268): DC_RESTART of a halted channel, PPR_START, PPR_COMPLETE, RANK_SPARING_START,
CHANNEL_SPARING_START (started and refused), SPARE_COPY_LINE, DC_ILV_ENABLE, DC_CHSPARE_WRITE. -/
def Obligations.DramRepairCommandsComplete : Prop :=
  (∀ (s : State) (a : Agent) (c : Nat), c < 16 → s.dev.Serves a (Pg.dc c) 0x100 → (s.dev.wrote (Pg.dc c)).chHalted c = true →
    exec (.dcRestart a c) s = .next (s.withDev (Dev.restart c (s.dev.wrote (Pg.dc c)))) ∧
    (Dev.restart c (s.dev.wrote (Pg.dc c))) =
      (let d := s.dev.wrote (Pg.dc c)
       let back := fun (l : Nat) => (d.mem.reqs.filter fun r => r.sub == l && decide (r.stage = .issued)).map (·.id)
       let queued := (d.mem.reqs.filter fun r => r.sub / 2 == c && decide (r.stage = .issued)).foldl
         (fun d r => d.putReq { r with stage := .queue }) d
       let clean := fun (y : SubCh) (l : Nat) => { y with queue := back l ++ y.queue, banks := [], retry := [], replaying := false }
       let fresh := queued.modChan c fun x => { x with subA := clean x.subA (2 * c), subB := clean x.subB (2 * c + 1), replays := 0 }
       ((fresh.setFlag (Pg.dc c) F.DC_STS_HALTED false).refreshPlan c).after)) ∧
  (∀ (s : State) (a : Agent) (c : Nat) (v : BitVec 32), c < 16 → s.dev.Serves a (Pg.dc c) 0x188 → v.toNat.testBit 0 = true →
    let p := Pg.dc c
    let d := s.dev.wrote p
    d.flag p F.DC_PPR_ROW_BUSY = false →
    let e := d.store p 0x188 (if (d.chan c).everTrained = true then 0x7FFC else 0x7FFE) v.toNat false
    exec (.pprStart a c v) s = .next (s.withDev
      (((e.setFlag p F.DC_PPR_CTL_GO true).setFlag p F.DC_PPR_ROW_BUSY true).modChan c fun x =>
        { x with pprBank := some (e.get p F.DC_PPR_CTL_SUB, e.get p F.DC_PPR_CTL_RANK,
                                  4 * e.get p F.DC_PPR_CTL_BG + e.get p F.DC_PPR_CTL_BANK, e.get p F.DC_PPR_ROW_ROW) }))) ∧
  (∀ (s : State) (c : Nat) (ok : Bool), c < 16 → s.dev.flag (Pg.dc c) F.DC_PPR_ROW_BUSY = true →
    let d := ((s.dev.setFlag (Pg.dc c) F.DC_PPR_CTL_GO false).setFlag (Pg.dc c) F.DC_PPR_ROW_BUSY false).setFlag (Pg.dc c) F.DC_PPR_ROW_FAIL (!ok)
    exec (.pprComplete c ok) s = .next (s.withDev ((d.modChan c fun x => { x with pprBank := none }).raise
      (if ok = true then Src.pprDone c else Src.pprFailed c) 0 0xFF 0))) ∧
  (∀ (s : State) (a : Agent) (c : Nat) (v : BitVec 32), c < 16 → s.dev.Serves a (Pg.dc c) 0x178 → v.toNat.testBit 0 = true →
    let d := s.dev.wrote (Pg.dc c)
    let e := d.spareFields c v.toNat
    d.flag (Pg.dc c) F.DC_SPARE_CTL_START = false → e.flag (Pg.dc c) F.DC_SPARE_CTL_KIND = false →
    e.flag (Pg.dc c) F.DC_RANK_MAP_SPARE_EN = true →
    exec (.rankSparingStart a c v) s = .next (s.withDev (e.spareGo c (e.get (Pg.dc c) F.DC_SPARE_CTL_RANK * e.rankSize c)))) ∧
  (∀ (s : State) (a : Agent) (c : Nat) (v : BitVec 32), c < 16 → s.dev.Serves a (Pg.dc c) 0x178 → v.toNat.testBit 0 = true →
    let d := s.dev.wrote (Pg.dc c)
    let e := d.spareFields c v.toNat
    let other := (List.range 16).any fun k => d.flag (Pg.dc k) F.DC_SPARE_CTL_START && d.flag (Pg.dc k) F.DC_SPARE_CTL_KIND
    d.flag (Pg.dc c) F.DC_SPARE_CTL_START = false → e.flag (Pg.dc c) F.DC_SPARE_CTL_KIND = true →
    (e.remapOk c = true → e.flag (Pg.dc 0) F.DC_CHSPARE_ACTIVE = false → other = false →
      exec (.channelSparingStart a c v) s = .next (s.withDev (e.spareGo c 0))) ∧
    (e.remapOk c = false ∨ e.flag (Pg.dc 0) F.DC_CHSPARE_ACTIVE = true ∨ other = true →
      exec (.channelSparingStart a c v) s = .next (s.withDev (e.setFlag (Pg.dc c) F.DC_SPARE_CTL_REFUSED true)))) ∧
  (∀ (s : State) (c : Nat) (f : LineFault), s.dev.dcOn c = true → s.dev.chHalted c = false → s.dev.flag (Pg.dc c) F.DC_SPARE_CTL_START = true →
    (s.dev.chan c).spareUsed < s.dev.get (Pg.dc c) F.DC_SPARE_CFG_LINES → s.dev.spareHeld c = false →
    let p := Pg.dc c
    let sa := s.dev.get p F.DC_SPARE_PTR_SA
    let b := (s.dev.chan c).spareB
    let l := 2 * c + b2n b
    let dra := s.dev.draOf l sa
    let last := if s.dev.flag p F.DC_SPARE_CTL_KIND = true then s.dev.lsize else (s.dev.get p F.DC_SPARE_CTL_RANK + 1) * s.dev.rankSize c
    dra < s.dev.installed → l < s.dev.ilvW →
    let d := s.dev.checkLine dra 0 f
    let dest := if s.dev.flag p F.DC_SPARE_CTL_KIND = true
      then s.dev.remap (16 * b2n b + sa / (max 1 (s.dev.lsize / 16))) F.DC_REMAP_TARGET else l
    d.wqFull dest dra = false →
    let copied := ((d.pushWqNew dest dra).modChan c fun x => { x with spareOn := some d.mem.nextReq }).modChan c fun x =>
      { x with spareB := !b, spareUsed := x.spareUsed + 1 }
    let passed := if b = true then copied.set p F.DC_SPARE_PTR_SA (sa + 64) else copied
    exec (.spareCopyLine c f) s = .next (s.withDev (if b = true ∧ last ≤ sa + 64 then passed.spareEnd c else passed))) ∧
  (∀ (s : State) (a : Agent) (v : BitVec 32), s.dev.Serves a (Pg.dc 0) 0x200 → v.toNat.testBit 3 = true → v.toNat.testBit 4 = false →
    let d := s.dev.wrote (Pg.dc 0)
    d.flag (Pg.dc 0) F.DC_ILV_EN = false →
    let e := d.store (Pg.dc 0) 0x200 0x1FF0007 v.toNat false
    exec (.dcIlvEnable a v) s = .next (s.withDev
      (if e.ilvOk e.ilvN (e.get (Pg.dc 0) F.DC_ILV_LSIZE) = true then
        (List.range 16).foldl (fun d c => if 2 * c < d.ilvW then d else d.setAbsent (pageDomain (Pg.dc c)))
          ((e.setFlag (Pg.dc 0) F.DC_ILV_EN true).setFlag (Pg.dc 0) F.DC_ILV_REFUSED false)
        else e.setFlag (Pg.dc 0) F.DC_ILV_REFUSED true))) ∧
  (∀ (s : State) (a : Agent) (v : BitVec 32), s.dev.Serves a (Pg.dc 0) 0x210 → v.toNat.testBit 4 = true →
    let d := s.dev.wrote (Pg.dc 0)
    d.flag (Pg.dc 0) F.DC_ILV_EN = false → d.flag (Pg.dc 0) F.DC_CHSPARE_ACTIVE = false → d.remapOk (v.toNat % 16) = true →
    exec (.dcChspareWrite a v) s = .next (s.withDev
      (((d.set (Pg.dc 0) F.DC_CHSPARE_CH (v.toNat % 16)).setFlag (Pg.dc 0) F.DC_CHSPARE_ACTIVE true).refreshPlan (v.toNat % 16))))

/-- The Gauge's admission (R308, R309): GAU_COMMIT_GO takes the staged set to the check, ADMISSION_CHECK_DONE records its RESULT, SUB and PORT_HALF; with
no interleave in force RESULT is 6, and a set whose Hearth reserve is above HEARTH_MAX gives 1. R323: the scales of the five cases. -/
def Obligations.GaugeCommandsComplete : Prop :=
  (∀ (s : State) (a : Agent), s.dev.Serves a Pg.gau 0x138 →
    let d := s.dev.wrote Pg.gau
    d.flag Pg.gau F.GAU_COMMIT_BUSY = false →
    let e := (d.setFlag Pg.gau F.GAU_COMMIT_GO true).setFlag Pg.gau F.GAU_COMMIT_BUSY true
    exec (.gauCommitGo a) s = .next (s.withDev { e with mem := { e.mem with gau := { e.mem.gau with checking := some d.stagedSet } } })) ∧
  (∀ (s : State) (b : BudgetSet), s.dev.mem.gau.checking = some b →
    exec .admissionCheckDone s = .next (s.withDev (s.dev.recordCheck b))) ∧
  (∀ (d : Dev) (b : BudgetSet), d.flag (Pg.dc 0) F.DC_ILV_EN = false → d.admitSet b = (6, 0, 0)) ∧
  (∀ (d : Dev) (b : BudgetSet), d.flag (Pg.dc 0) F.DC_ILV_EN = true → (∀ x ∈ b.budgets, x.2.2 = 0 ∨ x.2.1 ≤ x.2.2) →
    b.adm.hearthMax < Dev.hrOf b d.ilvW → d.admitSet b = (1, 0, 0)) ∧
  (∀ dm mr hr gp gk gc : Nat,
    let n := 64 * (dm - mr - hr)
    (dm < mr + hr → Dev.scalesFor dm mr hr gp gk gc = (0, 0, 0, true)) ∧
    (mr + hr ≤ dm → gp + gk + gc ≤ n → Dev.scalesFor dm mr hr gp gk gc = (256, 256, 256, false)) ∧
    (mr + hr ≤ dm → gp + gk ≤ n → n < gp + gk + gc → Dev.scalesFor dm mr hr gp gk gc = (256, 256, 256 * (n - gp - gk) / gc, false)) ∧
    (mr + hr ≤ dm → gp ≤ n → n < gp + gk → Dev.scalesFor dm mr hr gp gk gc = (256, 256 * (n - gp) / gk, 0, false)) ∧
    (mr + hr ≤ dm → n < gp → Dev.scalesFor dm mr hr gp gk gc = (256 * n / gp, 0, 0, false)))

/-! ### Service rings and the Data Mover (chapters 10 to 12) -/

/-- R332, R339 to R346: the doorbell slot of a pair, written by its LD while the FABRIC domain is up: SQ_TAIL_DOORBELL makes the pair pending (a tail
at or beyond the ring halts an enabled pair with ERR 1); CQ_HEAD_WRITE frees entries (one that does not lie between the old head and CQ_TAIL halts it with
ERR 5); RING_ENABLE is accepted only as R340 says, and then clears what it says; RING_DISABLE stops fetching. A write by another LD is dropped
and raised. QP_ASSIGN_WRITE takes effect on a disabled pair. -/
def Obligations.RingWritesComplete : Prop :=
  (∀ (s : State) (ld n : Nat) (v : BitVec 16), ld < 64 → n < 8192 → s.dev.qpLd n = ld → s.dev.domHeld (pageDomain Pg.qmg) = false →
    s.dev.pageReady Pg.qmg = true →
    let tail := s.dev.putRing n F.SLOT_SQ_TAIL v.toNat
    (s.dev.pairOn n = false ∨ v.toNat < s.dev.sqSize n → exec (.sqTailDoorbell ld n v) s = .next (s.withDev
      ((tail.modPair n fun p => { p with pending := true }).ringLatch (s.dev.qpGroup n)))) ∧
    (s.dev.pairOn n = true → s.dev.sqSize n ≤ v.toNat → exec (.sqTailDoorbell ld n v) s = .next (s.withDev (tail.haltPair n 1 10))) ∧
    (s.dev.pairOn n = false ∨ (v.toNat < s.dev.cqSize n ∧ s.dev.cqAhead n v.toNat ≤ s.dev.cqAhead n (s.dev.qslot n F.SLOT_CQ_TAIL)) →
      exec (.cqHeadWrite ld n v) s = .next (s.withDev (s.dev.putRing n F.SLOT_CQ_HEAD v.toNat))) ∧
    (s.dev.pairOn n = true → s.dev.cqSize n ≤ v.toNat ∨ s.dev.cqAhead n (s.dev.qslot n F.SLOT_CQ_TAIL) < s.dev.cqAhead n v.toNat →
      exec (.cqHeadWrite ld n v) s = .next (s.withDev (s.dev.haltPair n 5 10)))) ∧
  (∀ (s : State) (ld n : Nat) (v : BitVec 32), ld < 64 → n < 8192 → s.dev.qpLd n = ld → s.dev.domHeld (pageDomain Pg.qmg) = false →
    s.dev.pageReady Pg.qmg = true →
    (s.dev.pairOn n = false → (s.dev.storeCfg n v.toNat).enableOk n = false →
      exec (.ringEnable ld n v) s = .next (s.withDev ((s.dev.storeCfg n v.toNat).putRing n F.SLOT_ERR 6))) ∧
    (s.dev.pairOn n = false → (s.dev.storeCfg n v.toNat).enableOk n = true →
      let on := (((((((s.dev.storeCfg n v.toNat).putRing n F.SLOT_EN 1).putRing n F.SLOT_SQ_HEAD 0).putRing n F.SLOT_CQ_TAIL 0).putRing n
        F.SLOT_PHASE 1).putRing n F.SLOT_HALTED 0).putRing n F.SLOT_FROGGED 0).putRing n F.SLOT_ERR 0
      exec (.ringEnable ld n v) s = .next (s.withDev ((on.modPair n fun p => { p with active := false, irqCnt := 0, due := false }).modRings fun r =>
        { r with live := r.live.filter (· < n) ++ n :: r.live.filter (n < ·) }))) ∧
    (s.dev.pairOn n = true → exec (.ringDisable ld n v) s = .next (s.withDev (((s.dev.storeCfg n v.toNat).clearEn n).pairIdle n)))) ∧
  (∀ (s : State) (ld n : Nat) (v : BitVec 16) (w : BitVec 32), ld < 64 → n < 8192 → s.dev.qpLd n ≠ ld →
    let dropped := fun (off : Nat) => Host.Outcome.next (s.withDev (s.dev.raise Src.foreignDoorbell (64 * n + off) ld 10))
    exec (.sqTailDoorbell ld n v) s = dropped 0 ∧ exec (.cqHeadWrite ld n v) s = dropped 4 ∧ exec (.ringEnable ld n w) s = dropped 0x18 ∧
      exec (.ringDisable ld n w) s = dropped 0x18) ∧
  (∀ (s : State) (a : Agent) (v : BitVec 32), s.dev.Serves a Pg.qmg 0x10C →
    let d := s.dev.wrote Pg.qmg
    let n := d.get Pg.qmg F.QMG_QP_SEL_PAIR
    d.pairOn n = false → d.pairJobs n = [] →
    exec (.qpAssignWrite a v) s = .next (s.withDev (d.store (Bk.qp n) 0x10C 0x01033F3F v.toNat false)))

/-- R337, R341, R343, R346, R347, R351: DESCRIPTOR_FETCHED takes the descriptor at SQ_HEAD into the pair's jobs and advances SQ_HEAD (one that breaks
R347 has already ended with Invalid parameter); JOB_START starts the oldest job not started; JOB_COMPLETE writes the 16 bytes of the
completion at CQ_TAIL and counts it; COALESCE_TIMER makes the pair's interrupt due. -/
def Obligations.JobLifeCycleCompletes : Prop :=
  (∀ (s : State) (n : Nat) (f : LineFault) (bs : List Nat) (d : Dev), s.dev.mayFetch n = true →
    let h := s.dev.qslot n F.SLOT_SQ_HEAD
    s.dev.readOff (s.dev.pairWho n) (s.dev.qslot n F.SLOT_SQ_BASE + 64 * h) f = .done (bs, false) d →
    let j : Job := { id := d.mem.nextReq, pair := n, desc := Dev.parseDesc bs, ended := if Dev.descOk bs = true then none else some { status := 0x09 } }
    let next := (h + 1) % s.dev.sqSize n
    let listed := (d.modMem fun m => { m with nextReq := m.nextReq + 1 }).modRings fun r => { r with jobs := r.jobs ++ [j] }
    exec (.descriptorFetched n f) s = .next (s.withDev
      ((((((listed.putRing n F.SLOT_SQ_HEAD next).modPair n fun p =>
        { p with active := next != s.dev.qslot n F.SLOT_SQ_TAIL, snooped := none, since := none }).dropUser (2 ^ 65 + n)).tally Pg.qmg 0x0100 1).after)))) ∧
  (∀ (s : State) (n : Nat) (j : Job), ((s.dev.pairJobs n).find? fun j => !j.started) = some j → s.dev.mayStart n j = true →
    exec (.jobStart n) s = .next (s.withDev ((s.dev.putJob { j with started := true }).tally Pg.qmg 0x0101 1))) ∧
  (∀ (s : State) (id : Nat) (f : LineFault) (j : Job) (e : JobEnd) (u : Unit) (d : Dev), s.dev.findJob id = some j → j.ended = some e →
    j.started = true → (s.dev.twin.out.any fun i => i.req == id) = false → s.dev.isViral (s.dev.qpLd j.pair) = false →
    let a := s.dev.qslot j.pair F.SLOT_CQ_BASE + 16 * s.dev.qslot j.pair F.SLOT_CQ_TAIL
    let entry := leBytes 4 j.desc.tag ++ leBytes 2 (s.dev.qslot j.pair F.SLOT_SQ_HEAD) ++
      [e.status, s.dev.qslot j.pair F.SLOT_PHASE + 2 * b2n e.flushed] ++ leBytes 8 e.result
    s.dev.writeOff (s.dev.pairWho j.pair) a (lineImage (a % 64) entry).1 (lineImage (a % 64) entry).2 false f = .done u d →
    exec (.jobComplete id f) s = .next (s.withDev
      ((((d.pairWait j.pair none false).dropUser (2 ^ 65 + j.pair)).completed j e).after))) ∧
  (∀ (s : State) (n : Nat), s.dev.qslot n F.SLOT_IRQ_EN = 1 → s.dev.qslot n F.SLOT_COAL_STITCH ≠ 0 → (s.dev.pair n).irqCnt ≠ 0 →
    (s.dev.pair n).due = false → (s.dev.pair n).irqSn + s.dev.qslot n F.SLOT_COAL_STITCH ≤ s.dev.sn →
    exec (.coalesceTimer n) s = .next (s.withDev
      ((s.dev.modPair n fun p => { p with due := true }).doneLatch (s.dev.qpGroup n))))

/-- R348 to R353, R226 to R229, R370, R373: a command carries on the job of its opcode that has started and not ended, of an LD that is not viral: NO_OP,
MOVE, FILL, COMPARE, CABLE_TRANSFORM, COMPRESS, DECOMPRESS, PROMOTE, DEMOTE, PIN, UNPIN and CHECKSUM do their work until the job ends or has to wait;
what the job held is freed at its end. A job of LEN 0 (but for COMPRESS and NO_OP's result 0) ends with Success at once; a NO_OP ends with
Success and an INVALID_OPCODE with status 8. -/
def Obligations.JobCommandsComplete : Prop :=
  ∀ (s : State) (id : Nat) (j : Job) (fs : List LineFaultAt) (mismatch : Option Nat), s.dev.findJob id = some j → j.started = true →
    j.ended = none → s.dev.isViral (s.dev.qpLd j.pair) = false →
    let left := fun (r : Dev.JobRun) => Host.Outcome.next (s.withDev (if r.2.1.ended.isSome = true then
        ((((r.1.freeInst r.2.1).dropUser id).forgetJob id).putJob { r.2.1 with inst := none, buf := [], out := none }).after
      else (r.1.putJob r.2.1).after))
    let ends := fun (status : Nat) => left (s.dev, { j with ended := some { status := status, result := 0 } }, false)
    let dest := bits j.desc.arg0 0 2
    (∀ (c : Instr) (code : Nat) (run : Dev.JobRun),
      (c, code, run) ∈ [(Instr.move id fs, 0x01, s.dev.runMove j fs), (.fill id fs, 0x02, s.dev.runFill j fs), (.compare id fs, 0x03, s.dev.runCompare j fs),
        (.cableTransform id fs, 0x04, s.dev.runCable j fs), (.decompress id fs, 0x06, s.dev.runDecompress j fs),
        (.promote id, 0x08, s.dev.runMoves j 0), (.demote id, 0x09, s.dev.runMoves j (if dest = 0 then 3 else dest)),
        (.pin id, 0x0A, s.dev.runPin j true), (.unpin id, 0x0B, s.dev.runPin j false), (.checksum id fs, 0x0C, s.dev.runChecksum j fs)] →
      j.desc.opcode = code → (j.desc.len ≠ 0 → exec c s = left run) ∧ (j.desc.len = 0 → exec c s = ends 0x00)) ∧
    (j.desc.opcode = 0x05 → exec (.compress id mismatch fs) s = left (s.dev.runCompress j mismatch fs)) ∧
    (j.desc.opcode = 0x00 → exec (.noOp id) s = ends 0x00) ∧
    (Dev.opcodeListed j.desc.opcode = false → exec (.invalidOpcode id) s = ends 0x08)

/-- The Data Mover's channels (R357, R364 to R368, R374, R376), selected by DMV_CH_SEL: DMV_CHANNEL_ENABLE of a channel whose fields pass R374 clears its
status and sets EN; DMV_CHANNEL_DISABLE clears EN and PEND; DMV_GO triggers an enabled channel; DMV_TIMER_FIRE reloads COUNT and triggers the
channels of the timer; DMV_BEAT serves the levels from 3 down; DMV_ROUND_COMPLETE, once the read-back returns, completes the round. -/
def Obligations.DataMoverCommandsComplete : Prop :=
  (∀ (s : State) (a : Agent) (v : BitVec 32), s.dev.Serves a Pg.dmv 0x128 →
    let d := s.dev.wrote Pg.dmv
    let n := d.get Pg.dmv F.DMV_CH_SEL_CH
    let put := fun (v : Nat) (d : Dev) (f : Fld) => d.putChan n f (bits v f.lsb f.width)
    let named := Dev.chFields.foldl (put (setBit v.toNat 0)) d
    (d.chReg n F.DMV_CH_CTL_EN = 0 → v.toNat.testBit 1 = false → named.enabled Pg.dmv = true → named.chOk n = true →
      exec (.dmvChannelEnable a v) s = .next (s.withDev
        (([F.DMV_CH_STS_HALTED, F.DMV_CH_STS_FROGGED, F.DMV_CH_STS_ERR, F.DMV_CH_STS_PEND, F.DMV_CH_STS_OVR, F.DMV_CH_STS_POISON,
          F.DMV_CH_DONE_CNT_COUNT].foldl (fun d f => d.putChan n f 0) named).putChan n F.DMV_CH_CTL_EN 1))) ∧
    (d.chReg n F.DMV_CH_CTL_EN = 0 → v.toNat.testBit 1 = false → named.enabled Pg.dmv = true → named.chOk n = false →
      exec (.dmvChannelEnable a v) s = .next (s.withDev ((named.putChan n F.DMV_CH_STS_ERR 1).raise Src.dmvError 0 (0x40 + n) 6))) ∧
    (d.chReg n F.DMV_CH_CTL_EN = 1 → exec (.dmvChannelDisable a v) s = .next (s.withDev
      (((put (clrBit v.toNat 0) d F.DMV_CH_CTL_LEVEL).putChan n F.DMV_CH_CTL_EN 0).putChan n F.DMV_CH_STS_PEND 0))) ∧
    (d.chReg n F.DMV_CH_CTL_EN = 1 → v.toNat.testBit 0 = true →
      exec (.dmvGo a v) s = .next (s.withDev ((put (setBit v.toNat 1) d F.DMV_CH_CTL_LEVEL).chTrigger n)))) ∧
  (∀ (d : Dev) (n : Nat), d.chReg n F.DMV_CH_CTL_EN = 1 → d.enabled Pg.dmv = true →
    ((d.mover n).running = false → d.chBlocked = false → d.chTrigger n = d.startRound n) ∧
    ((d.mover n).running = true → d.chReg n F.DMV_CH_STS_PEND < 15 →
      d.chTrigger n = d.putChan n F.DMV_CH_STS_PEND (d.chReg n F.DMV_CH_STS_PEND + 1)) ∧
    ((d.mover n).running = true → 15 ≤ d.chReg n F.DMV_CH_STS_PEND →
      d.chTrigger n = (d.putChan n F.DMV_CH_STS_OVR 1).raise Src.dmvOverrun n (0x40 + n) 6)) ∧
  (∀ (s : State) (t : Nat), t < 32 → s.dev.timer F.DMV_TMR_EN t = 1 → s.dev.timer F.DMV_TMR_COUNT t = 0 → s.dev.timer F.DMV_TMR_PERIOD t ≠ 0 →
    let d := s.dev.set Pg.dmv (Dev.timerFld F.DMV_TMR_COUNT t) (s.dev.timer F.DMV_TMR_PERIOD t)
    exec (.dmvTimerFire t) s = .next (s.withDev ((d.chained 1 t).foldl Dev.chTrigger d))) ∧
  (∀ (s : State) (e : Nat) (f : LineFault), e < 4 → s.dev.pageReady Pg.dmv = true →
    exec (.dmvBeat e f) s = .next (s.withDev (Dev.serve e f ([3, 2, 1, 0].flatMap (s.dev.chOrder e)) s.dev).after)) ∧
  (∀ (d e : Dev) (eng n : Nat) (rest : List Nat) (f : LineFault), d.chBeat n f = .issued e → Dev.serve eng f (n :: rest) d = e.takeEngine eng n) ∧
  (∀ (s : State) (n a : Nat) (f : LineFault) (bs : List Nat) (d : Dev), n < 64 → (s.dev.mover n).running = true → (s.dev.mover n).readBack = true →
    (s.dev.twin.out.any fun i => i.req == (s.dev.chWho n).id) = false → (s.dev.mover n).last = some a →
    s.dev.chRead n (s.dev.chReg n F.DMV_CH_CTL_DST_SPACE) a 0 false f = (some bs, .issued d) →
    exec (.dmvRoundComplete n f) s = .next (s.withDev (d.roundDone n).after))


/-! ### Yarn links, cartridges and the Twin (chapters 13, 14 and 19) -/

/-- R390 to R401, R405: the commands of a powered Yarn link. A NOP acknowledges; a NAK acknowledges and replays from a stored SEQ; a packet with a bad CRC, length
or type is a receive error, one whose tag fails is a tag failure, one past the next SEQ is answered by a NAK, a duplicate by an acknowledgement;
ACK_DUE sends a NOP; REPLAY_TIMEOUT replays from the oldest stored packet; the timers and training sets move the link between Down, Detect, Train, Active,
Retrain and Doze; a WAKE is latched; RETRAIN and DOWN of its control register act; its power domain comes and goes. -/
def Obligations.YarnLinkCommandsComplete : Prop :=
  (∀ (s : State) (l : Nat), l < 17 → s.dev.linkOff l = false →
    let at' := s.dev.linkState l
    let ends := fun (c : Instr) (d : Dev) => exec c s = .next (s.withDev d)
    let seen := s.dev.modLnk l fun x => { x with rxSn := s.dev.sn }
    (at' = 3 →
      (∀ (ack : Option (BitVec 12)), ends (.yarnRxNop l ack) (seen.takeAck l ack).pump) ∧
      (∀ (seq : BitVec 12) (ack : Option (BitVec 12)),
        let d := (seen.linkCount l F.YP_NAK_RX_CNT_COUNT).takeAck l ack
        ends (.yarnRxNak l seq ack) (if (d.lnk l).stored.any (fun p => p.seq == seq.toNat) = true then
          (((d.ackPacket l ((seq.toNat + 4095) % 4096)).replay l seq.toNat false).syncLink l).pump else d.pump)) ∧
      (∀ why ∈ [BadPacket.crc, .length, .type], ends (.yarnRxBadPacket l why) (s.dev.rxError l)) ∧
      ends (.yarnRxBadPacket l .tag) (s.dev.tagFailure l (s.dev.lget l F.YP_RX_STS_NEXT_RX)) ∧
      ends (.yarnRxBadPacket l .seqGap) (seen.nakDue l) ∧
      ends (.yarnRxBadPacket l .duplicate) (s.dev.modLnk l fun x => { x with rxSn := s.dev.sn, ackDue := true }) ∧
      ((s.dev.lnk l).ackDue = true → ends (.yarnAckDue l) (s.dev.sendNop l)) ∧
      (∀ p rest, (s.dev.lnk l).timerSn + s.dev.ackTo l ≤ s.dev.sn → (s.dev.lnk l).stored = p :: rest →
        ends (.yarnReplayTimeout l) ((s.dev.replay l p.seq true).syncLink l)) ∧
      ((s.dev.lnk l).rxSn + s.dev.silenceTo l ≤ s.dev.sn → ends (.yarnSilenceTimeout l) (s.dev.enterRetrain l)) ∧
      (∀ lane, (s.dev.lget l (Dev.lf l F.YP_LINK_STS_LANES F.HWL_LINK_STS_LANES)).testBit lane = true →
        ends (.yarnLossOfLock l lane) ((s.dev.modLnk l fun x => { x with lost := setBit x.lost lane }).enterRetrain l)) ∧
      (∀ (p : Proposal), ends (.yarnTs1Received l true p)
        ((((s.dev.enterRetrain l).modLnk l fun x => { x with partner := some p }).modLnk l fun x => { x with sentRetrain := false }))) ∧
      (s.dev.flag Pg.pwr F.PWR_STS_IN_PROGRESS = true → s.dev.pwr.target = 2 →
        ends (.yarnDozeEntry l true) ((s.dev.lset l (Dev.fState l) 5).modLnk l fun x => { x with stateSn := s.dev.sn, waking := false }))) ∧
    (at' = 0 → s.dev.lget l F.YP_CTL_AUTO_UP = 1 → (s.dev.lnk l).stateSn + s.dev.detectInt l ≤ s.dev.sn →
      ends (.yarnDetectTimer l) (s.dev.enterDetect l)) ∧
    (at' = 1 → ∀ (r : Bool) (p : Proposal), ends (.yarnTs1Received l r p)
      ((s.dev.lset l (Dev.fState l) 2).modLnk l fun x => { x with partner := some p })) ∧
    (at' = 2 → ∀ (p r : Proposal), agree l (s.dev.proposal l) p = some r →
      ends (.yarnTs2Agreed l p) ((s.dev.enterActive l r).emit (.ts l true false r))) ∧
    (at' = 4 → ∀ (p r : Proposal), agree l (s.dev.proposal l) p = some r →
      ends (.yarnTs2Agreed l p) ((s.dev.emit (.ts l true true r)).endRetrain l r)) ∧
    (at' = 1 ∨ at' = 2 ∨ at' = 4 → (s.dev.lnk l).stateSn + s.dev.trainTo l ≤ s.dev.sn → ends (.yarnTrainTimeout l) (s.dev.enterDown l)) ∧
    (at' = 5 →
      ends (.yarnWakeReceived l) ((s.dev.modLnk l fun x => { x with waking := true }).latch (if l < 16 then Src.yarnWake l else Src.hallwayWake)) ∧
      ((s.dev.lnk l).waking = true → ends (.yarnDozeResync l true) (s.dev.endDoze l) ∧ ends (.yarnDozeResync l false) (s.dev.enterRetrain l)))) ∧
  (∀ (s : State) (a : Agent) (l : Nat), l < 17 → s.dev.Serves a (Pg.link l) 0x100 →
    let d := s.dev.wrote (Pg.link l)
    (d.linkActive l = true → exec (.yarnCtlRetrain a l) s = .next (s.withDev (d.enterRetrain l))) ∧
    (d.linkState l ≠ 0 → exec (.yarnCtlDown a l) s = .next (s.withDev (d.enterDown l)))) ∧
  (∀ (s : State) (k : Nat), Dev.domainLinks k ≠ [] →
    (s.dev.domOn k = false → exec (.yarnDomainPower k true) s = .next (s.withDev
      (let d := (s.dev.setDom k true).linkDomainOn k
       { d with pwr := { d.pwr with ready := setBit d.pwr.ready k } }))) ∧
    (s.dev.domOn k = true → exec (.yarnDomainPower k false) s = .next (s.withDev
      (let d := ((Dev.domainLinks k).foldl (fun d l => d.linkDomainOff l) s.dev).setDom k false
       { d with pwr := { d.pwr with ready := clrBit d.pwr.ready k } }))))

/-- R409, R410, R421: an attach, step by step: CTG_ATTACH starts it on the ports named; an answer that the link delivers for the step in progress moves it on;
its time limit rejects it; CTG_ADMIT takes an authenticated cartridge into service. -/
def Obligations.CartridgeAttachCompletes : Prop :=
  (∀ (s : State) (a : Agent) (v : BitVec 32),
    (s.dev.Serves a Pg.ctg 0x120 → exec (.ctgAttachWrite a v) s = .next (s.withDev
      ((bitList 16 v.toNat).foldl Dev.attachStart (s.dev.wrote Pg.ctg)))) ∧
    (s.dev.Serves a Pg.ctg 0x124 → exec (.ctgAdmitWrite a v) s = .next (s.withDev
      ((bitList 16 v.toNat).foldl Dev.admitCartridge (s.dev.wrote Pg.ctg)).pump))) ∧
  (∀ (s : State) (n : Nat) (h : YarnHeader) (d : Dev), n < 16 → s.dev.linkOff n = false → s.dev.receive n h true = (true, d) →
    let ends := fun (c : Instr) (d : Dev) => exec c s = .next (s.withDev d)
    (d.mgmtFor n h.tag 1 = true → ∀ (b : IdentifyBody),
      (d.identCheck n b ≠ 0 → ends (.identify n h b) (d.reject n (d.identCheck n b))) ∧
      (d.identCheck n b = 0 →
        let d1 := ((d.ctgSet n F.CTG_SERIAL_LO_SERIAL (b.serial.toNat % 2 ^ 64)).ctgSet n F.CTG_SERIAL_HI_SERIAL (b.serial.toNat / 2 ^ 64)).ctgSet n
          F.CTG_CAP_EXTENTS b.extents
        let d2 := ((d1.setWear n b.wear b.budget).ctgSet n F.CTG_STS_RO (b2n b.readOnly)).ctgSet n F.CTG_STS_DEGRADED (b2n b.degraded)
        ends (.identify n h b) ((d2.modCart n fun c => { c with step := 2, ident := some b, chainRead := 0 }).sendMgmt n (.certReq 0)))) ∧
    (d.mgmtFor n h.tag 2 = true → ∀ (b : IdentifyBody) (bytes verdict : Nat), (d.cart n).ident = some b → b.chainLen ≠ 0 → b.chainLen ≤ 4096 →
      bytes ≤ 1020 → bytes ≠ 0 →
      let read := (d.cart n).chainRead + bytes
      (read < b.chainLen → ends (.cert n h bytes verdict) ((d.modCart n fun c => { c with chainRead := read }).sendMgmt n (.certReq read))) ∧
      (b.chainLen ≤ read → verdict = 0 → ends (.cert n h bytes verdict)
        (((d.modCart n fun c => { c with step := 3, chainRead := read, nonceDraw := d.fresh }).draw).sendMgmt n (.challenge (Config.nonce d.fresh)))) ∧
      (b.chainLen ≤ read → verdict ≠ 0 → ends (.cert n h bytes verdict) (d.reject n (if verdict = 2 then 2 else 1)))) ∧
    (d.mgmtFor n h.tag 3 = true →
      ends (.signature n h true) (((d.modCart n fun c => { c with step := 4 }).draw).sendMgmt n (.keyInit (Config.nonce d.fresh))) ∧
      ends (.signature n h false) (d.reject n 3)) ∧
    (d.mgmtFor n h.tag 4 = true →
      ends (.cartridgeKeyResponse n h true)
        (((((((d.sendMgmt n .keyConfirm).endAttach n).lset n (Dev.fSecure n) 1).ctgSet n F.CTG_STS_STATE 2).raise Src.ctgAuth n 0xFF 0).flush n)) ∧
      ends (.cartridgeKeyResponse n h false) (d.reject n 4))) ∧
  (∀ (s : State) (n : Nat), n < 16 → s.dev.cartState n = 1 → (s.dev.cart n).startSn + s.dev.attachTo ≤ s.dev.sn →
    exec (.ctgAttachTimeout n) s = .next (s.withDev (s.dev.reject n 5)))

/-- R414 to R420, R423 to R426: what a cartridge in service does. RSP ends the transaction of its tag: a fetched slot lands, a written slot is answered, a
DEALLOC makes its extent clean; DATA adds its lines; WEAR is reported; RETIRE_ACK and its time limit retire the cartridge; RECLAIM_WINDOW sends DEALLOCs;
a transaction unanswered at its limit is reissued; WEAR_POLL asks. -/
def Obligations.CartridgeServiceCommandsComplete : Prop :=
  (∀ (s : State) (n : Nat) (h : YarnHeader) (d : Dev) (t : Txn), n < 16 → s.dev.linkOff n = false → s.dev.receive n h false = (true, d) →
    d.txnOf n h.tag = some t →
    let d1 := d.endTxn n h.tag
    (∀ (b : RspBody) (f : Fetch), t.op = 1 → d1.fetches.find? (fun f => f.id == t.fetch) = some f → f.knit = false →
      let x := d1.acceptSlot n f t b
      exec (.yarnRxRsp n h b) s = .next (s.withDev ((x.2.2.landFetch f.id x.1 x.2.1).kick).pump)) ∧
    (∀ (b : RspBody), t.op = 2 → exec (.yarnRxRsp n h b) s = .next (s.withDev ((d1.writeAnswered t b.status).kick).pump)) ∧
    (∀ (b : RspBody), t.op = 3 → b.status = 0 → exec (.yarnRxRsp n h b) s = .next (s.withDev
      ((d1.modCart n fun c => { c with clean := tput (fun _ => false) c.clean t.extent true }).kick).pump)) ∧
    (∀ (ls : List CartLine), t.op = 1 → exec (.yarnRxData n h ls) s = .next (s.withDev
      (d.modTxn n (fun x => x == t) (fun x => { x with got := x.got ++ ls }))))) ∧
  (∀ (s : State) (n : Nat) (h : YarnHeader) (d : Dev), n < 16 → s.dev.linkOff n = false → s.dev.receive n h true = (true, d) →
    (∀ (b : WearBody), 2 ≤ d.cartState n → d.cartState n ≤ 4 → h.tag = 0 →
      exec (.wear n h b) s = .next (s.withDev (d.wearReport n b.wear b.budget b.readOnly b.degraded).pump)) ∧
    ((d.cart n).retireSn.isSome = true → (d.cart n).mgmt = some h.tag → exec (.retireAck n h) s = .next (s.withDev (d.retireEnd n)))) ∧
  (∀ (s : State) (n sn : Nat), n < 16 → (s.dev.cart n).retireSn = some sn → sn + s.dev.attachTo ≤ s.dev.sn →
    exec (.retireTimeout n) s = .next (s.withDev (s.dev.retireEnd n))) ∧
  (∀ (s : State), s.dev.enabled Pg.ctg = true → s.dev.flag Pg.ctg F.CTG_CFG_RECLAIM_EN = true →
    let freed := fun (d : Dev) (n : Nat) => ((List.range (d.ctgGet n F.CTG_CAP_EXTENTS)).filter fun e =>
      !d.extAlloc n e && !d.extClean n e && !(d.cart n).txns.any (fun t => t.op == 3 && t.extent == e)).take (d.get Pg.ctg F.CTG_RECLAIM_EXTENTS)
    exec .reclaimWindow s = .next (s.withDev (((List.range 16).foldl (fun d n => if d.cartState n ≠ 3 then d else
      d.modCart n fun c => { c with txns := c.txns ++ (freed d n).map (fun e => { tag := 0, op := 3, extent := e, slot := 0, sn := d.sn }) })
        s.dev).pump))) ∧
  (∀ (s : State) (n tag : Nat) (t : Txn), s.dev.txnOf n tag = some t → t.sn + max 64 (s.dev.get Pg.ctg F.CTG_TXN_TO_STITCHES) ≤ s.dev.sn →
    let d := s.dev.raise Src.ctgTxnTimeout tag 0xFF 0
    let e := d.modTxn n (fun x => x == t) (fun x => { x with detached := true })
    (t.reissued = true → exec (.ctgTxnTimeout n tag) s = .next (s.withDev (d.enterDown n).pump)) ∧
    (∀ x, t.reissued = false → (e.cart n).txns.find? (fun x => x.sent && x.detached && x.tag == tag) = some x → e.portOpen n = true →
      exec (.ctgTxnTimeout n tag) s = .next (s.withDev (e.issueTxn n x)))) ∧
  (∀ (s : State), s.dev.get Pg.ctg F.CTG_WEAR_POLL_STITCHES ≠ 0 →
    exec .wearPoll s = .next (s.withDev ((List.range 16).foldl (fun d n =>
      if (d.cartState n = 3 ∨ d.cartState n = 4) ∧ (d.cart n).pollSn + s.dev.get Pg.ctg F.CTG_WEAR_POLL_STITCHES ≤ d.sn then
        (d.modCart n fun c => { c with pollSn := d.sn }).sendMgmt n .wearReq else d) s.dev)))

/-- R532, R533, R537 to R541, R553, R554: packets from the peer that the Hallway delivers. HELLO, the identity challenge, the key and SOURCE walk the steps of
pairing, each failed check with its REASON; ROOM, MWR, MACK, SYNC_LINE and LREQ act on rooms, lines and repairs; SYNC_DONE, SYNC_ACK and PAIRED end the
copy. -/
def Obligations.TwinPacketsComplete : Prop :=
  ∀ (s : State) (h : YarnHeader) (d : Dev), s.dev.linkOff 16 = false →
    (s.dev.receive 16 h true = (true, d) →
      let ends := fun (c : Instr) (d : Dev) => exec c s = .next (s.withDev d.after)
      (∀ (b : HelloBody), d.twnState = 1 → d.twin.step = 1 → ends (.hello h b) (d.takeHello b)) ∧
      (∀ (b : HelloBody) (r : Nat), d.helloCheck b = r → r ≠ 0 →
        d.takeHello b = (d.modTwin fun t => { t with peer := none }).pairFail r) ∧
      (d.atPairing 2 = true →
        ends (.peerIdentityChallenge h false) (d.pairFail 5) ∧
        (d.twnFlag F.TWN_STS_ROLE = true → ends (.peerIdentityChallenge h true) (d.modTwin fun t => { t with step := 3 })) ∧
        (d.twnFlag F.TWN_STS_ROLE = false →
          ends (.peerIdentityChallenge h true) ((d.modTwin fun t => { t with step := 3 }).toPeerNonce .keyInit))) ∧
      (d.atPairing 3 = true →
        let d1 := if d.twnFlag F.TWN_STS_ROLE = true then d.toPeerNonce .keyInit else d.toPeer .keyConfirm
        ends (.hallwayKey h false) (d.pairFail 6) ∧
        ends (.hallwayKey h true) (((d1.lset 16 (Dev.fSecure 16) 1).modTwin fun t => { t with step := 4 }).toPeer
          (.source ⟨d.twin.was, d.get Pg.twn F.TWN_EPOCH_EPOCH⟩))) ∧
      (d.atPairing 4 = true → ∀ (b : SourceBody),
        (d.twin.was = 5 → b.state = 5 → ends (.source h b)
          ((((d.setTwnState 5).twnSet F.TWN_STS_REASON 7).modTwin fun t => { t with step := 0 }).raise Src.twinDivergence 0 0xFF 0)) ∧
        (¬ (d.twin.was = 5 ∧ b.state = 5) →
          let own := if d.twin.was = 5 then true else if b.state = 5 then false else !d.twnFlag F.TWN_STS_ROLE
          let named := (((d.twnSet F.TWN_STS_OWNER (b2n own)).twnSet F.TWN_STS_SOURCE (b2n own)).twnSet F.TWN_EPOCH_EPOCH
            ((max (d.get Pg.twn F.TWN_EPOCH_EPOCH) b.epoch + 1) % 2 ^ 32))
          ends (.source h b) (((named.twnSet F.TWN_WITNESS_STS_HELD 0).twnSet F.TWN_WITNESS_STS_WINNER 0).modTwin
            fun t => { t with offered := none }).startSync)) ∧
      (∀ (drn : Nat) (m i : Bool), ends (.room h drn m i) ((d.modTwin fun t =>
        { t with peerRooms := tput (fun _ => 0) t.peerRooms drn (b2n m + 2 * b2n i) }).refreshRooms)) ∧
      (d.pairStands = true →
        ends (.syncDone h) (d.modTwin fun t => { t with ackWait := true }).rxPump ∧
        (d.twin.syncDone = true → ends (.syncAck h) (((d.becomePaired d.twin.copied).modTwin fun t => { t with copied := 0 }).toPeer .paired)) ∧
        (d.twnFlag F.TWN_STS_SOURCE = false → ends (.paired h) ((d.becomePaired d.twin.fenced.length).modTwin fun t => { t with fenced := [] })))) ∧
    (s.dev.receive 16 h false = (true, d) →
      let ends := fun (c : Instr) (d : Dev) => exec c s = .next (s.withDev d.after)
      (d.pairStands = true →
        let queued := fun (i : RxItem) => (d.modTwin fun t => { t with rx := t.rx ++ [i] }).rxPump
        (∀ (b : MwrBody), ends (.mwr h b) (queued ⟨b.mid, b.dpa / 64 * 64, b.data, b.enables, b.poison, b.cls % 4, b.echo, false, false⟩)) ∧
        (∀ (b : SyncBody), b.repair = false → ends (.syncLine h b)
          (queued ⟨b.mid, b.dpa / 64 * 64, b.data, BitVec.allOnes 64, b.poison, 3, false, true, b.zero⟩)) ∧
        (∀ (b : SyncBody), b.repair = true → ends (.syncLine h b) (d.takeRepair b)) ∧
        (∀ (dpa : Nat), ends (.lreq h dpa) (d.modTwin fun t => { t with asked := t.asked ++ [dpa / 64 * 64] }).serveAsked)) ∧
      (∀ (mids : List Nat), ends (.mack h mids) (mids.foldl Dev.mackOne d)))

/-- R532, R541, R544 to R548, R550, R553, R554, R559: the Twin's timers and writes. PAIRING_TIMEOUT fails the pairing with REASON 8; TWIN_RESYNC_WINDOW copies a window of
lines; MIRROR_REPAIR_TIMEOUT gives up repairs; HEARTBEAT_RECEIVED shows a good heartbeat; silence, the down limit and a clear of EN latch the split
source; TWN_WITNESS stages and submits a token; TWIN_DECISION, TWIN_SOLO and FORFEIT act. -/
def Obligations.TwinTimersAndWritesComplete : Prop :=
  (∀ (s : State), let ends := fun (c : Instr) (d : Dev) => exec c s = .next (s.withDev d)
    (s.dev.twnState = 1 → s.dev.twin.startSn + 78125 ≤ s.dev.sn → ends .pairingTimeout (s.dev.pairFail 8)) ∧
    (s.dev.pairStands = true → s.dev.twnFlag F.TWN_STS_SOURCE = true → s.dev.fatal = false →
      let d := (Dev.copyLines (s.dev.get Pg.twn F.TWN_SYNC_CFG_LINES) s.dev).after
      let more := d.twin.syncRooms ≠ [] ∨ d.twin.syncDone = true ∨ (∃ i ∈ d.twin.out, i.sync = true ∧ i.repair = false ∧ i.sent = false) ∨
        (d.twnState ≠ 2 ∧ d.twin.copied = 0)
      (more → ends .twinResyncWindow d) ∧
      (¬ more → ends .twinResyncWindow ((d.modTwin fun t => { t with syncDone := true }).toPeer .syncDone))) ∧
    (∀ (dpa : Nat), let old := s.dev.twin.repairs.filter (fun x => x.2.1 == dpa && decide (x.2.2.1 + 64 ≤ s.dev.sn))
      ends (.mirrorRepairTimeout dpa) (old.foldl (fun d x => d.failRepair x.1 x.2.1)
        (s.dev.modTwin fun t => { t with repairs := t.repairs.filter (fun x => !old.contains x) })).after) ∧
    (∀ (x : BitVec 128), s.dev.linkOff 16 = false → s.dev.linkState 16 ≠ 0 →
      let b := fun (i n : Nat) => bits x.toNat (8 * i) (8 * n)
      b 0 1 = 0x4C → b 14 2 = crc32c 0 ((List.range 14).map (fun i => b i 1)) % 2 ^ 16 →
      ends (.heartbeatReceived x) (((((s.dev.twnSet F.TWN_PEER_STS_STATE (b 1 1 / 2 % 8)).twnSet F.TWN_PEER_STS_ROLE (b 1 1 % 2)).twnSet
        F.TWN_PEER_STS_EPOCH (b 2 4)).twnSet F.TWN_PEER_STS_COUNT (b 6 1)).modTwin fun t => { t with hbSn := s.dev.sn })) ∧
    (s.dev.pairStands = true → s.dev.twin.hbSn + s.dev.silence ≤ s.dev.sn → ends .heartbeatSilence (s.dev.latch Src.twinSplit)) ∧
    (s.dev.pairStands = true → s.dev.linkState 16 = 0 ∨ (∃ k, s.dev.twin.downSn = some k ∧ k + s.dev.downLim ≤ s.dev.sn) →
      ends .hallwayDownLimit (s.dev.latch Src.twinSplit)) ∧
    (s.dev.twnState = 4 → s.dev.get Pg.twn F.TWN_DECIDE_SN_SN ≤ s.dev.sn →
      let d := (s.dev.modTwin fun t => { t with silent := false }).latch Src.twinFence
      (s.dev.staysAlone = true → ends .twinDecision ((d.setTwnState 5).twnSet F.TWN_STS_OWNER 1).after) ∧
      (s.dev.staysAlone = false → ends .twinDecision d.becomeFenced.after)) ∧
    (s.dev.twnStands = 5 → s.dev.twinHolds = true → s.dev.get Pg.twn F.TWN_SPLIT_SN_SN + s.dev.twin.fw ≤ s.dev.sn →
      let d := s.dev.twnSet F.TWN_SOLO_SN_SN (s.dev.get Pg.twn F.TWN_SPLIT_SN_SN + s.dev.twin.fw)
      let e := d.twin.out.foldl Dev.soloItem d
      ends .twinSolo (((e.mem.reqs.filter (fun r => decide (r.stage = .parked .twin))).map (·.id)).foldl Dev.unpark e).rxPump.after)) ∧
  (∀ (s : State) (a : Agent), let d := s.dev.wrote Pg.twn
    let ends := fun (c : Instr) (d : Dev) => exec c s = .next (s.withDev d)
    (∀ (v : BitVec 32), s.dev.Serves a Pg.twn 0x100 →
      let e := d.store Pg.twn 0x100 3 (v.toNat % 4) true
      ends (.twinEnClear a v) (if v.toNat % 2 = 0 ∧ e.pairStands = true then e.latch Src.twinSplit else e)) ∧
    (∀ (v : BitVec 64), s.dev.Serves a Pg.twn 0x128 →
      ends (.twinWitnessWrite a .lo v) (d.modTwin fun t => { t with staged := v.toNat % 2 ^ 32 }) ∧
      ends (.twinWitnessWrite a .hi v) (d.submitToken d.twin.staged (v.toNat % 2)) ∧
      ends (.twinWitnessWrite a .both v) (d.submitToken (v.toNat % 2 ^ 32) (v.toNat / 2 ^ 32 % 2))) ∧
    (s.dev.Serves a Pg.twn 0x158 → d.twnState = 5 →
      ends (.twinForfeit a) (if d.becomeFenced.mayPair = true then d.becomeFenced.startPairing else d.becomeFenced).after))

/-! ### Reset, tables, codes and frames -/

/-- What reset leaves (R22, R45, R63, R107, R206, R264, R405, R428, R478, R498, R558, R578): SN 0, no event waiting, no message sent, DRAM listing nothing; ENABLE
reads 1 in the pages GEN, STC, PWR, FCU, STR, MGC and NOC and 0 in every other page; and fields of each group hold their "At reset" value. The life-cycle
at first power (Manufacture) is the model's choice (log entry 14). -/
def Obligations.ResetHoldsTheGivenValues : Prop :=
  let d := State.reset.dev
  State.reset.pending = [] ∧ d.sn = 0 ∧ d.out = [] ∧ d.stc.events = [] ∧ d.mem.store.mem = [] ∧ d.clk.porN = false ∧ d.lcState = 0 ∧
  (∀ p : Nat, (pageKind p).isSome = true → p < 0x100000 →
    d.enabled p = (p == Pg.gen || p == Pg.stc || p == Pg.pwr || p == Pg.fcu || p == Pg.str || p == Pg.mgc || p == Pg.noc)) ∧
  (∀ x ∈ [(Pg.stc, F.STC_CFG_STUCK_EN, 1), (Pg.stc, F.STC_CFG_RATE_EN, 1), (Pg.hp 0, F.HP_REPLAY_THR_THR, 64), (Pg.ldm 5, F.LDM_QUOTA_WARN_PCT, 90),
      (Pg.pat, F.PAT_CFG_TBL_VALID, 0), (Pg.tir, F.TIR_CFG_PACK_EN, 1), (Pg.tir, F.TIR_HEAT_CFG_INC, 16), (Pg.tir, F.TIR_HEAT_CFG_DECAY, 2),
      (Pg.cry, F.CRY_REKNIT_RATE_LINES, 8192), (Pg.cry, F.CRY_REKNIT_PERIOD_SECONDS, 86400), (Pg.dc 3, F.DC_REF_CFG_POSTPONE, 4),
      (Pg.gau, F.GAU_CFG_HMISS, 64), (Pg.gau, F.GAU_ADM_CFG_SKEW, 20), (Pg.qmg, F.QMG_CFG_JOBS, 1024), (Pg.yp 7, F.YP_CTL_AUTO_UP, 1),
      (Pg.yp 7, F.YP_REPLAY_CFG_ACK_TO, 24), (Pg.ctg, F.CTG_WEAR_CFG_WARN, 900), (Pg.ctg, F.CTG_ATTACH_TO_STITCHES, 78125),
      (Pg.noc, F.NOC_PLANE_THR_COUNT, 64), (Pg.fcu, F.FCU_CFG_FATAL_VIRAL, 1), (Pg.pwr, F.PWR_VSENSE_CFG_HYST, 4), (Pg.str, F.STR_ACT_CFG_LEAD, 78125),
      (Pg.twn, F.TWN_FENCE_STITCHES, 15625), (Pg.twn, F.TWN_SPLIT_CFG_SILENCE, 64)], d.get x.1 x.2.1 = x.2.2)

/-- The state after reset meets the invariant of `StepsKeepTheTablesCanonical`. -/
def Obligations.ResetTablesAreCanonical : Prop := State.reset.dev.TablesCanonical

/-- Every step from every state whose register table and memory are in canonical form leaves them in canonical form: keys strictly rising, and no entry
equal to what an unlisted register or byte reads as. -/
def Obligations.StepsKeepTheTablesCanonical : Prop :=
  ∀ (s t : State), s.dev.TablesCanonical → step s = .next t → t.dev.TablesCanonical

/-- DRAM bytes: in a memory in canonical form a write of bytes at an address keeps the form, each byte written reads as written and every other byte
as before; reading gives the bytes one by one; and a range that is cleared reads 0 while every other byte reads as before. -/
def Obligations.MemoryReadsWhatWasWritten : Prop :=
  ∀ (d : Dev) (a : Nat) (bs : List Nat), Memory.wf d.mem.store.mem →
    Memory.wf (d.writeBytes a bs).mem.store.mem ∧
    (∀ i, memByte (d.writeBytes a bs).mem.store.mem i =
      if a ≤ i ∧ i < a + bs.length then BitVec.ofNat 8 (bs.getD (i - a) 0) else memByte d.mem.store.mem i) ∧
    (∀ n, d.readBytes a n = (List.range n).map (fun i => (memByte d.mem.store.mem (a + i)).toNat)) ∧
    (∀ n, Memory.wf (d.clearRange a n).mem.store.mem ∧
      ∀ i, memByte (d.clearRange a n).mem.store.mem i = if a ≤ i ∧ i < a + n then 0 else memByte d.mem.store.mem i)

/-- R114, R119, R121, R139: a skein entry, a page entry and a room entry whose fields lie within their widths are read back from the words that they are stored
as, every field at every value. -/
def Obligations.PatternEntriesReadBack : Prop :=
  (∀ e : Entry, e.inRange → Entry.decode e.encode.1 e.encode.2.1 e.encode.2.2.1 e.encode.2.2.2 = e ∧ e.qw0 < 2 ^ 48 ∧ e.qw2 < 2 ^ 26) ∧
  (∀ e : PageEntry, e.inRange → PageEntry.decode e.encode = e ∧ e.encode < 2 ^ 59) ∧
  (∀ r : Room, r.inRange → Room.decode r.encode = r ∧ r.encode < 2 ^ 20)

/-- R215, R216: the decoder of a slot. A slot is malformed exactly where its scheme code, its parameter, its length or a byte after its payload breaks R216,
and then no block comes out; of any other slot, word i of the block is what the table of R215 gives. -/
def Obligations.SlotDecoderFollowsTheTable : Prop :=
  ∀ s : List Nat,
    let scheme := s.headD 0 / 16
    let k := 4 * (s.headD 0 % 16)
    let at' := fun (off n : Nat) => ofBytes ((s.drop off).take n)
    let map := at' 1 4
    let below := fun (i : Nat) => (List.range i).countP (fun j => map.testBit j)
    let allowed := (scheme = 0 ∧ k = 0) ∨ (scheme = 1 ∧ k = 0) ∨ (scheme = 4 ∧ k = 0) ∨ (scheme = 2 ∧ k ∈ [4, 8, 16, 24]) ∨ (scheme = 3 ∧ k ∈ [8, 16, 24])
    let len := if scheme = 0 then 1 else if scheme = 1 then 9 else if scheme = 4 then 5 + 8 * below 32 else if scheme = 2 then 9 + 4 * k else 13 + 4 * k
    let malformed := ¬ allowed ∨ s.length < len ∨ ∃ b ∈ s.drop len, b ≠ 0
    (malformed → decodeSlot s = none) ∧
    (¬ malformed → decodeSlot s = some ((List.range 32).map fun i =>
      if scheme = 0 then 0
      else if scheme = 1 then at' 1 8
      else if scheme = 4 then (if map.testBit i = true then at' (5 + 8 * below i) 8 else 0)
      else if scheme = 2 then (at' 1 8 + sextWord k (bits (at' 9 (4 * k)) (k * i) k)) % 2 ^ 64
      else ((if (at' 9 4).testBit i = true then at' 1 8 else 0) + sextWord k (bits (at' 13 (4 * k)) (k * i) k)) % 2 ^ 64))

/-- R209 to R216, R218: the code loses nothing. Whatever block of 32 words the encoder fits into a slot of 64 or 128 bytes, the slot has the target's length, is a
list of bytes, and the decoder rebuilds the block from it. -/
def Obligations.SlotsDecodeToTheirBlock : Prop :=
  ∀ (target : Nat) (w slot : List Nat), target = 64 ∨ target = 128 → w.length = 32 → (∀ x ∈ w, x < 2 ^ 64) → encodeSlot target w = some slot →
    slot.length = target ∧ (∀ b ∈ slot, b < 256) ∧ decodeSlot slot = some w

/-- R95, R98, R104, R585: the frame of the commands that only ask: whatever such a mailbox, Fabric Manager or DOE command answers, every register, all
storage and its side-bands, the links, cartridges, Twin, rings, channels, power state and SN stay as they are. -/
def Obligations.QueriesChangeNothingElse : Prop :=
  ∀ (s t : State) (ld n m k : Nat) (log : EventLog) (which : SupportedLog), ∀ c ∈ [Instr.getLdInfo n, .getLdAllocations n m k, .getQosControl n, .getQosStatus n,
      .getQosAllocatedBw n m k, .getQosBwLimit n m k, .doeDiscovery ld n, .cdatRead ld n, .getEventRecords ld log, .getEventInterruptPolicy ld,
      .getFwInfo ld, .getTimestamp ld, .getSupportedLogs ld, .getLog ld which n m, .getSupportedFeatures ld, .getFeature ld n, .identifyMemoryDevice ld,
      .getHealthInfo ld, .getAlertConfiguration ld, .getScanMediaResults ld, .getDcConfiguration ld, .getDcExtentList ld, .getDeviceInfo ld n,
      .getStitchNumber ld n, .getStcSource ld n m, .getInterruptRoute ld n m, .getPageAccess ld n m, .getPortAllocation ld n m],
    exec c s = .next t →
    t.pending = s.pending ∧ t.dev.regs = s.dev.regs ∧ t.dev.mem = s.dev.mem ∧ t.dev.carts = s.dev.carts ∧ t.dev.links = s.dev.links ∧
      t.dev.twin = s.dev.twin ∧ t.dev.rings = s.dev.rings ∧ t.dev.dmv = s.dev.dmv ∧ t.dev.noc = s.dev.noc ∧ t.dev.pwr = s.dev.pwr ∧
      t.dev.clk = s.dev.clk ∧ t.dev.sn = s.dev.sn ∧ t.dev.frogs = s.dev.frogs
end

