-- ==== Sys2Proof/Laws/Tbl.lean ====
section
/-! SUPPORT. What the sparse tables of Machine/Tbl.lean do: read after write, and that every operation keeps the canonical form. -/

namespace Sys2Proof.Laws

open Sys2Proof.Machine

variable {α : Type}

@[simp] theorem tget_nil (d : Nat → α) (k : Nat) : tget d [] k = d k := rfl

theorem tget_tdel (d : Nat → α) (t : Tbl α) (k j : Nat) :
    tget d (tdel t k) j = if j = k then d k else tget d t j := by
  induction t with
  | nil => by_cases h : j = k <;> simp [tdel, tget, h]
  | cons p t ih =>
    obtain ⟨a, v⟩ := p
    by_cases hka : k = a
    · subst hka; simp only [tdel, if_true, ih, tget]; split <;> simp_all
    · simp only [tdel, if_neg hka, tget, ih]
      by_cases hja : j = a
      · subst hja; simp [Ne.symm hka]
      · simp [hja]

theorem tget_tins (d : Nat → α) (t : Tbl α) (k j : Nat) (x : α) :
    tget d (tins t k x) j = if j = k then x else tget d t j := by
  induction t with
  | nil => simp [tins, tget]
  | cons p t ih =>
    obtain ⟨a, v⟩ := p
    by_cases hka : k = a
    · subst hka; simp only [tins, if_true, tget]; split <;> simp_all
    · by_cases hlt : k < a
      · simp [tins, hka, hlt, tget]
      · simp only [tins, hka, hlt, if_false, tget, ih]
        by_cases hja : j = a
        · subst hja; simp [Ne.symm hka]
        · simp [hja]

/-- Reading the table after a write: the written key reads the value, every other key reads as before. -/
theorem tget_tput [DecidableEq α] (d : Nat → α) (t : Tbl α) (k j : Nat) (x : α) :
    tget d (tput d t k x) j = if j = k then x else tget d t j := by
  unfold tput
  by_cases h : x = d k
  · rw [if_pos h, tget_tdel]; split <;> simp_all
  · rw [if_neg h, tget_tins]

@[simp] theorem tget_tput_same [DecidableEq α] (d : Nat → α) (t : Tbl α) (k : Nat) (x : α) :
    tget d (tput d t k x) k = x := by simp [tget_tput]

theorem tget_tput_ne [DecidableEq α] (d : Nat → α) (t : Tbl α) {k j : Nat} (x : α) (h : j ≠ k) :
    tget d (tput d t k x) j = tget d t j := by simp [tget_tput, h]

theorem tokFrom_mono [DecidableEq α] {d : Nat → α} {t : Tbl α} {lo hi : Nat} (h : hi ≤ lo)
    (ht : tokFrom d lo t = true) : tokFrom d hi t = true := by
  cases t with
  | nil => rfl
  | cons p t =>
    obtain ⟨a, v⟩ := p
    simp only [tokFrom, Bool.and_eq_true, decide_eq_true_eq] at ht ⊢
    exact ⟨⟨by omega, ht.1.2⟩, ht.2⟩

theorem tokFrom_tdel [DecidableEq α] {d : Nat → α} {t : Tbl α} {lo k : Nat}
    (ht : tokFrom d lo t = true) : tokFrom d lo (tdel t k) = true := by
  induction t generalizing lo with
  | nil => rfl
  | cons p t ih =>
    obtain ⟨a, v⟩ := p
    simp only [tokFrom, Bool.and_eq_true, decide_eq_true_eq] at ht
    simp only [tdel]
    split
    · exact tokFrom_mono (by omega) (ih ht.2)
    · simp only [tokFrom, Bool.and_eq_true, decide_eq_true_eq]
      exact ⟨ht.1, ih ht.2⟩

theorem tokFrom_tins [DecidableEq α] {d : Nat → α} {t : Tbl α} {lo k : Nat} {x : α} (hx : x ≠ d k)
    (hk : lo ≤ k) (ht : tokFrom d lo t = true) : tokFrom d lo (tins t k x) = true := by
  induction t generalizing lo with
  | nil => simp [tins, tokFrom, hx, hk]
  | cons p t ih =>
    obtain ⟨a, v⟩ := p
    simp only [tokFrom, Bool.and_eq_true, decide_eq_true_eq] at ht
    simp only [tins]
    split
    · next h => subst h; simp only [tokFrom, Bool.and_eq_true, decide_eq_true_eq]; exact ⟨⟨hk, hx⟩, ht.2⟩
    · next h =>
      split
      · next hlt =>
        simp only [tokFrom, Bool.and_eq_true, decide_eq_true_eq]
        exact ⟨⟨hk, hx⟩, ⟨by omega, ht.1.2⟩, ht.2⟩
      · next hlt =>
        simp only [tokFrom, Bool.and_eq_true, decide_eq_true_eq]
        exact ⟨ht.1, ih (by omega) ht.2⟩

/-- A write keeps the canonical form. -/
theorem tok_tput [DecidableEq α] {d : Nat → α} {t : Tbl α} (k : Nat) (x : α) (ht : tok d t = true) :
    tok d (tput d t k x) = true := by
  unfold tput
  split
  · exact tokFrom_tdel ht
  · next h => exact tokFrom_tins h (Nat.zero_le _) ht

theorem tokFrom_tfilter [DecidableEq α] {d : Nat → α} {t : Tbl α} {lo : Nat} (p : Nat → Bool)
    (ht : tokFrom d lo t = true) : tokFrom d lo (tfilter p t) = true := by
  induction t generalizing lo with
  | nil => rfl
  | cons q t ih =>
    obtain ⟨a, v⟩ := q
    simp only [tokFrom, Bool.and_eq_true, decide_eq_true_eq] at ht
    simp only [tfilter]
    split
    · simp only [tokFrom, Bool.and_eq_true, decide_eq_true_eq]; exact ⟨ht.1, ih ht.2⟩
    · exact tokFrom_mono (by omega) (ih ht.2)

/-- Dropping entries keeps the canonical form. -/
theorem tok_tfilter [DecidableEq α] {d : Nat → α} {t : Tbl α} (p : Nat → Bool) (ht : tok d t = true) :
    tok d (tfilter p t) = true := tokFrom_tfilter p ht

/-- Reading after dropping the keys that fail `p`. -/
theorem tget_tfilter (d : Nat → α) (t : Tbl α) (p : Nat → Bool) (j : Nat) :
    tget d (tfilter p t) j = if p j then tget d t j else d j := by
  induction t with
  | nil => simp [tfilter, tget]
  | cons q t ih =>
    obtain ⟨a, v⟩ := q
    by_cases hp : p a
    · simp only [tfilter, hp, if_true, tget, ih]
      by_cases hja : j = a
      · subst hja; simp [hp]
      · simp [hja]
    · by_cases hja : j = a
      · subst hja; simp [tfilter, hp, ih]
      · simp [tfilter, hp, ih, tget, hja]

@[simp] theorem tok_nil [DecidableEq α] (d : Nat → α) : tok d ([] : Tbl α) = true := rfl

theorem tok_tmod [DecidableEq α] {d : Nat → α} {t : Tbl α} (k : Nat) (f : α → α) (ht : tok d t = true) :
    tok d (tmod d t k f) = true := tok_tput k _ ht

theorem tget_tmod [DecidableEq α] (d : Nat → α) (t : Tbl α) (k j : Nat) (f : α → α) :
    tget d (tmod d t k f) j = if j = k then f (tget d t k) else tget d t j := tget_tput _ _ _ _ _

end Sys2Proof.Laws
end

