-- ==== Sys2Proof/Laws/Memory.lean ====
section
/-! SUPPORT. Every operation on memory keeps its canonical form, and leaves everything of the device but storage as it was. -/

namespace Sys2Proof.Laws

open Sys2Proof.Machine

/-- Dropping cells keeps a table in order. -/
theorem tokFrom_filter {α : Type} [DecidableEq α] {d : Nat → α} {t : Tbl α} {lo : Nat} (p : Nat × α → Bool) (h : tokFrom d lo t = true) :
    tokFrom d lo (t.filter p) = true := by
  induction t generalizing lo with
  | nil => rfl
  | cons x t ih =>
    obtain ⟨a, v⟩ := x
    simp only [tokFrom, Bool.and_eq_true, decide_eq_true_eq] at h
    rw [List.filter_cons]
    split
    · simp only [tokFrom, Bool.and_eq_true, decide_eq_true_eq]; exact ⟨h.1, ih h.2⟩
    · exact tokFrom_mono (by omega) (ih h.2)

/-- The cells from address `k` on are in order from `k` on. -/
theorem tokFrom_above {α : Type} [DecidableEq α] {d : Nat → α} {t : Tbl α} {lo : Nat} (k : Nat) (h : tokFrom d lo t = true) :
    tokFrom d k (t.filter fun c => decide (k ≤ c.1)) = true := by
  induction t generalizing lo with
  | nil => rfl
  | cons x t ih =>
    obtain ⟨a, v⟩ := x
    simp only [tokFrom, Bool.and_eq_true, decide_eq_true_eq] at h
    rw [List.filter_cons]
    split
    · next hk =>
      simp only [decide_eq_true_eq] at hk
      simp only [tokFrom, Bool.and_eq_true, decide_eq_true_eq]
      exact ⟨⟨hk, h.1.2⟩, tokFrom_filter _ h.2⟩
    · exact ih h.2

/-- Two tables in order, the first below `m` and the second from `m` on, are in order together. -/
theorem tokFrom_append {α : Type} [DecidableEq α] {d : Nat → α} {s t : Tbl α} {lo m : Nat} (hs : tokFrom d lo s = true) (hm : ∀ x ∈ s, x.1 < m)
    (hl : lo ≤ m) (ht : tokFrom d m t = true) : tokFrom d lo (s ++ t) = true := by
  induction s generalizing lo with
  | nil => exact tokFrom_mono hl ht
  | cons x s ih =>
    obtain ⟨a, v⟩ := x
    simp only [tokFrom, Bool.and_eq_true, decide_eq_true_eq, List.cons_append] at hs ⊢
    exact ⟨hs.1, ih hs.2 (fun y hy => hm y (List.mem_cons_of_mem _ hy)) (hm _ List.mem_cons_self)⟩

/-- The cells of bytes placed at `a` are in order from `a` on. -/
theorem tokFrom_cellsOf (a : Nat) (bs : List Nat) : tokFrom (fun _ => (0 : Byte)) a (cellsOf a bs) = true := by
  induction bs generalizing a with
  | nil => rfl
  | cons b bs ih =>
    rw [cellsOf]
    split
    · exact tokFrom_mono (Nat.le_succ a) (ih (a + 1))
    · next h => simp only [tokFrom, Bool.and_eq_true, decide_eq_true_eq]; exact ⟨⟨Nat.le_refl a, h⟩, ih (a + 1)⟩

/-- The cells of bytes placed at `a` stay within the bytes. -/
theorem cellsOf_below (a : Nat) (bs : List Nat) : ∀ x ∈ cellsOf a bs, x.1 < a + bs.length := by
  induction bs generalizing a with
  | nil => simp [cellsOf]
  | cons b bs ih =>
    intro x hx
    have h1 : x ∈ cellsOf (a + 1) bs → x.1 < a + (b :: bs).length := fun h => by
      have := ih (a + 1) x h
      simp only [List.length_cons]; omega
    rw [cellsOf] at hx
    split at hx
    · exact h1 hx
    · rcases List.mem_cons.mp hx with rfl | hx
      · simp
      · exact h1 hx

/-- A write keeps the canonical form. -/
theorem wf_memWrite (m : List Host.Cell) (a : Nat) (bs : List Nat) (h : Memory.wf m) : Memory.wf (memWrite m a bs) := by
  refine tokFrom_append (m := a) (tokFrom_filter _ h) ?_ (Nat.zero_le a) ?_
  · intro x hx; simpa using (List.mem_filter.mp hx).2
  · exact tokFrom_append (m := a + bs.length) (tokFrom_cellsOf a bs) (cellsOf_below a bs) (Nat.le_add_right _ _) (tokFrom_above _ h)

/-- Clearing a range keeps the canonical form. -/
theorem wf_clear (m : List Host.Cell) (a n : Nat) (h : Memory.wf m) : Memory.wf (m.filter fun c => decide (c.1 < a ∨ a + n ≤ c.1)) :=
  tokFrom_filter _ h

/-- A write of bytes changes nothing but the bytes. -/
theorem writeBytes_only (d : Dev) (a : Nat) (bs : List Nat) :
    d.writeBytes a bs = { d with mem := { d.mem with store := { d.mem.store with mem := (d.writeBytes a bs).mem.store.mem } } } := rfl

end Sys2Proof.Laws
end

