-- ==== Sys2Proof/Laws/Ops.lean ====
section
/-! SUPPORT. What the operations that every meaning goes through can do: run an effect, apply it where a condition holds, write a register, take a step. -/

namespace Sys2Proof.Laws

open Sys2Proof.Machine

/-- Running an effect answers a next state and leaves the queue alone. -/
@[simp] theorem run_next (s : State) (f : Effect) : s.run f = .next { pending := s.pending, dev := f s.dev } := rfl

@[simp] theorem when_true {c : Dev → Bool} {f : Effect} {d : Dev} (h : c d = true) : when c f d = f d := if_pos h

@[simp] theorem when_false {c : Dev → Bool} {f : Effect} {d : Dev} (h : c d = false) : when c f d = d := by simp [when, h]

/-- Everything a register write can do: nothing on a reserved page; a denial; a wait for the domain; the write's effect; a drop while the page is not ready. -/
theorem writeTo_cases (v : Nat) (a : Agent) (p off : Nat) (f : Effect) (d : Dev) :
    ((pageKind p).isNone = true ∧ Dev.writeTo v a p off f d = d) ∨
    Dev.writeTo v a p off f d = (d.tally p 0x0004 1).deny a (4096 * p + off) ∨
    Dev.writeTo v a p off f d = (d.tally p 0x0004 1).waitDomain a (4096 * p + off) 4 (some (2 ^ 128 + v)) ∨
    Dev.writeTo v a p off f d = f (d.tally p 0x0004 1) ∨
    ((d.tally p 0x0004 1).pageReady p = false ∧ Dev.writeTo v a p off f d = d.tally p 0x0004 1) := by
  unfold Dev.writeTo
  split
  · next h => exact .inl ⟨h, rfl⟩
  · dsimp only
    split
    · exact .inr (.inl rfl)
    · split
      · exact .inr (.inr (.inl rfl))
      · split
        · exact .inr (.inr (.inr (.inl rfl)))
        · next h => exact .inr (.inr (.inr (.inr ⟨by simpa using h, rfl⟩)))

end Sys2Proof.Laws
end

