-- ==== Sys2Proof/Laws/State.lean ====
section
/-! SUPPORT. What each update of the device leaves alone: for each shared operation the parts of the device it changes (`…_eq`), and one lemma
for each field and update. A kernel evaluation of a nested register write is long, so these lemmas, and not `rfl`, take updates apart. -/

namespace Sys2Proof.Machine.Dev

/-- A write of a field within one word. -/
theorem set_narrow (d : Dev) (p : Nat) (f : Fld) (v : Nat) (h : f.lsb + f.width ≤ 32) :
    d.set p f v = d.setWord p f.off (BitVec.ofNat 32 (setBits (d.word p f.off).toNat f.lsb f.width v)) := if_pos h

/-- A write of a field of a 64-bit register. -/
theorem set_wide (d : Dev) (p : Nat) (f : Fld) (v : Nat) (h : ¬ f.lsb + f.width ≤ 32) :
    d.set p f v = (d.setWord p f.off (BitVec.ofNat 32 (setBits (d.reg64 p f.off) f.lsb f.width v))).setWord p (f.off + 4)
      (BitVec.ofNat 32 ((setBits (d.reg64 p f.off) f.lsb f.width v) >>> 32)) := if_neg h

theorem setWord_twice_eq (d : Dev) (p o o' : Nat) (w w' : Word) :
    ∃ r, (d.setWord p o w).setWord p o' w' = { d with regs := r } := ⟨_, rfl⟩

theorem set_eq (d : Dev) (p : Nat) (f : Fld) (v : Nat) : ∃ r, d.set p f v = { d with regs := r } := by
  by_cases h : f.lsb + f.width ≤ 32
  · exact ⟨_, set_narrow d p f v h⟩
  · rw [set_wide d p f v h]; exact setWord_twice_eq d _ _ _ _ _

theorem latch_eq (d : Dev) (i : Nat) : ∃ x, d.latch i = { d with stc := x } := by
  unfold Dev.latch; split <;> exact ⟨_, rfl⟩

theorem raise_eq (d : Dev) (i a m c : Nat) : ∃ x, d.raise i a m c = { d with stc := x } := ⟨_, rfl⟩

theorem raiseOnce_eq (d : Dev) (i a m c : Nat) : ∃ x, d.raiseOnce i a m c = { d with stc := x } := by
  unfold Dev.raiseOnce; split
  · exact raise_eq d i a m c
  · exact ⟨_, rfl⟩

theorem tallyAdd_eq (d : Dev) (p n k : Nat) : ∃ r x, d.tallyAdd p n k = { d with regs := r, stc := x } := by
  obtain ⟨r1, h1⟩ := set_eq d p (F.TAL_CNT_COUNT.sh (8 * n)) (d.get p (F.TAL_CNT_COUNT.sh (8 * n)) + k)
  unfold Dev.tallyAdd
  simp only [h1]
  split
  · exact ⟨_, _, rfl⟩
  · obtain ⟨r2, h2⟩ := set_eq { d with regs := r1 } p F.TAL_OVF_OVF (setBit (d.get p F.TAL_OVF_OVF) n)
    rw [h2]
    split
    · exact ⟨_, _, rfl⟩
    · obtain ⟨x, h3⟩ := latch_eq { d with regs := r2 } (Src.tally (tallyGroup p))
      exact ⟨_, _, h3⟩

theorem tally_eq (d : Dev) (p ev k : Nat) : ∃ r x, d.tally p ev k = { d with regs := r, stc := x } := by
  unfold Dev.tally
  generalize List.range 4 = l
  induction l generalizing d with
  | nil => exact ⟨_, _, rfl⟩
  | cons n l ih =>
    simp only [List.foldl_cons]
    split
    · obtain ⟨r, x, h⟩ := tallyAdd_eq d p n k
      obtain ⟨r', x', h'⟩ := ih (d.tallyAdd p n k)
      exact ⟨r', x', by rw [h', h]⟩
    · exact ih d

theorem sendMsix_eq (d : Dev) (ld vec : Nat) : ∃ b o, d.sendMsix ld vec = { d with bar := b, out := o } := by
  unfold Dev.sendMsix; dsimp only; split <;> exact ⟨_, _, rfl⟩

theorem coreInterrupt_eq (d : Dev) (core page : Nat) : ∃ w o, d.coreInterrupt core page = { d with pwr := w, out := o } := by
  unfold Dev.coreInterrupt; split <;> exact ⟨_, _, rfl⟩

theorem hostInterrupt_eq (d : Dev) (p : Nat) : ∃ x b o, d.hostInterrupt p = { d with stc := x, bar := b, out := o } := by
  unfold Dev.hostInterrupt; dsimp only; split
  · obtain ⟨b, o, h⟩ := sendMsix_eq d (d.get (Bk.route p) F.GEN_IRQ_ROUTE_LD) (d.get (Bk.route p) F.GEN_IRQ_ROUTE_VECTOR)
    exact ⟨_, b, o, h⟩
  · obtain ⟨x, h⟩ := raise_eq d Src.irqInvalid (p + d.get (Bk.route p) F.GEN_IRQ_ROUTE_VECTOR * 2 ^ 17)
      (d.get (Bk.route p) F.GEN_IRQ_ROUTE_LD) 0
    exact ⟨x, _, _, h⟩

/-- What an interrupt of a page can change: Tally counters, the latches, MSI-X entries, the cores that wait, and the messages sent. -/
theorem pageInterrupt_eq (d : Dev) (p : Nat) :
    ∃ r x b w o, d.pageInterrupt p = { d with regs := r, stc := x, bar := b, pwr := w, out := o } := by
  unfold Dev.pageInterrupt
  split
  · exact ⟨_, _, _, _, _, rfl⟩
  · dsimp only
    split
    · obtain ⟨x, b, o, h⟩ := hostInterrupt_eq d p
      obtain ⟨r', x', h'⟩ := tally_eq (d.hostInterrupt p) p 0x0006 1
      exact ⟨r', x', b, _, o, by rw [h', h]⟩
    · obtain ⟨w, o, h⟩ := coreInterrupt_eq d (d.get (Bk.route p) F.GEN_IRQ_ROUTE_CORE) p
      obtain ⟨r', x', h'⟩ := tally_eq (d.coreInterrupt (d.get (Bk.route p) F.GEN_IRQ_ROUTE_CORE) p) p 0x0006 1
      exact ⟨r', x', _, w, o, by rw [h', h]⟩
    · obtain ⟨x, b, o, h⟩ := hostInterrupt_eq d p
      obtain ⟨w, o2, h2⟩ := coreInterrupt_eq (d.hostInterrupt p) (d.get (Bk.route p) F.GEN_IRQ_ROUTE_CORE) p
      obtain ⟨r', x', h'⟩ := tally_eq ((d.hostInterrupt p).coreInterrupt (d.get (Bk.route p) F.GEN_IRQ_ROUTE_CORE) p) p 0x0006 1
      exact ⟨r', x', b, w, o2, by rw [h', h2, h]⟩
    · exact ⟨_, _, _, _, _, rfl⟩

/-- What setting page bits can change. -/
theorem setPageBits_eq (d : Dev) (p mask : Nat) :
    ∃ r x b w o, d.setPageBits p mask = { d with regs := r, stc := x, bar := b, pwr := w, out := o } := by
  obtain ⟨r, h⟩ := set_eq d p F.PG_INT_STS_STS (d.get p F.PG_INT_STS_STS ||| mask)
  unfold Dev.setPageBits
  simp only [h]
  split
  · obtain ⟨r', x, b, w, o, h'⟩ := pageInterrupt_eq { d with regs := r } p
    exact ⟨r', x, b, w, o, h'⟩
  · exact ⟨_, _, _, _, _, rfl⟩

@[simp] theorem setWord_sn (d : Dev) (p off : Nat) (w : Word) : (d.setWord p off w).sn = d.sn := rfl
@[simp] theorem setWord_fresh (d : Dev) (p off : Nat) (w : Word) : (d.setWord p off w).fresh = d.fresh := rfl
@[simp] theorem setWord_out (d : Dev) (p off : Nat) (w : Word) : (d.setWord p off w).out = d.out := rfl
@[simp] theorem setWord_stc (d : Dev) (p off : Nat) (w : Word) : (d.setWord p off w).stc = d.stc := rfl
@[simp] theorem setWord_frogs (d : Dev) (p off : Nat) (w : Word) : (d.setWord p off w).frogs = d.frogs := rfl
@[simp] theorem setWord_nextFrog (d : Dev) (p off : Nat) (w : Word) : (d.setWord p off w).nextFrog = d.nextFrog := rfl
@[simp] theorem setWord_bar (d : Dev) (p off : Nat) (w : Word) : (d.setWord p off w).bar = d.bar := rfl
@[simp] theorem setWord_clk (d : Dev) (p off : Nat) (w : Word) : (d.setWord p off w).clk = d.clk := rfl
@[simp] theorem setWord_pwr (d : Dev) (p off : Nat) (w : Word) : (d.setWord p off w).pwr = d.pwr := rfl
@[simp] theorem setWord_host (d : Dev) (p off : Nat) (w : Word) : (d.setWord p off w).host = d.host := rfl
@[simp] theorem setWord_str (d : Dev) (p off : Nat) (w : Word) : (d.setWord p off w).str = d.str := rfl
@[simp] theorem setWord_tal (d : Dev) (p off : Nat) (w : Word) : (d.setWord p off w).tal = d.tal := rfl
@[simp] theorem setWord_mem (d : Dev) (p off : Nat) (w : Word) : (d.setWord p off w).mem = d.mem := rfl
@[simp] theorem setWord_carts (d : Dev) (p off : Nat) (w : Word) : (d.setWord p off w).carts = d.carts := rfl
@[simp] theorem setWord_links (d : Dev) (p off : Nat) (w : Word) : (d.setWord p off w).links = d.links := rfl
@[simp] theorem setWord_twin (d : Dev) (p off : Nat) (w : Word) : (d.setWord p off w).twin = d.twin := rfl
@[simp] theorem setWord_rings (d : Dev) (p off : Nat) (w : Word) : (d.setWord p off w).rings = d.rings := rfl
@[simp] theorem setWord_dmv (d : Dev) (p off : Nat) (w : Word) : (d.setWord p off w).dmv = d.dmv := rfl
@[simp] theorem setWord_noc (d : Dev) (p off : Nat) (w : Word) : (d.setWord p off w).noc = d.noc := rfl

@[simp] theorem set_sn (d : Dev) (p : Nat) (f : Fld) (v : Nat) : (d.set p f v).sn = d.sn := by obtain ⟨_, h⟩ := set_eq d p f v; rw [h]
@[simp] theorem set_fresh (d : Dev) (p : Nat) (f : Fld) (v : Nat) : (d.set p f v).fresh = d.fresh := by obtain ⟨_, h⟩ := set_eq d p f v; rw [h]
@[simp] theorem set_out (d : Dev) (p : Nat) (f : Fld) (v : Nat) : (d.set p f v).out = d.out := by obtain ⟨_, h⟩ := set_eq d p f v; rw [h]
@[simp] theorem set_stc (d : Dev) (p : Nat) (f : Fld) (v : Nat) : (d.set p f v).stc = d.stc := by obtain ⟨_, h⟩ := set_eq d p f v; rw [h]
@[simp] theorem set_frogs (d : Dev) (p : Nat) (f : Fld) (v : Nat) : (d.set p f v).frogs = d.frogs := by obtain ⟨_, h⟩ := set_eq d p f v; rw [h]
@[simp] theorem set_nextFrog (d : Dev) (p : Nat) (f : Fld) (v : Nat) : (d.set p f v).nextFrog = d.nextFrog := by obtain ⟨_, h⟩ := set_eq d p f v; rw [h]
@[simp] theorem set_bar (d : Dev) (p : Nat) (f : Fld) (v : Nat) : (d.set p f v).bar = d.bar := by obtain ⟨_, h⟩ := set_eq d p f v; rw [h]
@[simp] theorem set_clk (d : Dev) (p : Nat) (f : Fld) (v : Nat) : (d.set p f v).clk = d.clk := by obtain ⟨_, h⟩ := set_eq d p f v; rw [h]
@[simp] theorem set_pwr (d : Dev) (p : Nat) (f : Fld) (v : Nat) : (d.set p f v).pwr = d.pwr := by obtain ⟨_, h⟩ := set_eq d p f v; rw [h]
@[simp] theorem set_host (d : Dev) (p : Nat) (f : Fld) (v : Nat) : (d.set p f v).host = d.host := by obtain ⟨_, h⟩ := set_eq d p f v; rw [h]
@[simp] theorem set_str (d : Dev) (p : Nat) (f : Fld) (v : Nat) : (d.set p f v).str = d.str := by obtain ⟨_, h⟩ := set_eq d p f v; rw [h]
@[simp] theorem set_tal (d : Dev) (p : Nat) (f : Fld) (v : Nat) : (d.set p f v).tal = d.tal := by obtain ⟨_, h⟩ := set_eq d p f v; rw [h]
@[simp] theorem set_mem (d : Dev) (p : Nat) (f : Fld) (v : Nat) : (d.set p f v).mem = d.mem := by obtain ⟨_, h⟩ := set_eq d p f v; rw [h]
@[simp] theorem set_carts (d : Dev) (p : Nat) (f : Fld) (v : Nat) : (d.set p f v).carts = d.carts := by obtain ⟨_, h⟩ := set_eq d p f v; rw [h]
@[simp] theorem set_links (d : Dev) (p : Nat) (f : Fld) (v : Nat) : (d.set p f v).links = d.links := by obtain ⟨_, h⟩ := set_eq d p f v; rw [h]
@[simp] theorem set_twin (d : Dev) (p : Nat) (f : Fld) (v : Nat) : (d.set p f v).twin = d.twin := by obtain ⟨_, h⟩ := set_eq d p f v; rw [h]
@[simp] theorem set_rings (d : Dev) (p : Nat) (f : Fld) (v : Nat) : (d.set p f v).rings = d.rings := by obtain ⟨_, h⟩ := set_eq d p f v; rw [h]
@[simp] theorem set_dmv (d : Dev) (p : Nat) (f : Fld) (v : Nat) : (d.set p f v).dmv = d.dmv := by obtain ⟨_, h⟩ := set_eq d p f v; rw [h]
@[simp] theorem set_noc (d : Dev) (p : Nat) (f : Fld) (v : Nat) : (d.set p f v).noc = d.noc := by obtain ⟨_, h⟩ := set_eq d p f v; rw [h]

@[simp] theorem setFlag_sn (d : Dev) (p : Nat) (f : Fld) (b : Bool) : (d.setFlag p f b).sn = d.sn := set_sn d p f _
@[simp] theorem setFlag_fresh (d : Dev) (p : Nat) (f : Fld) (b : Bool) : (d.setFlag p f b).fresh = d.fresh := set_fresh d p f _
@[simp] theorem setFlag_out (d : Dev) (p : Nat) (f : Fld) (b : Bool) : (d.setFlag p f b).out = d.out := set_out d p f _
@[simp] theorem setFlag_stc (d : Dev) (p : Nat) (f : Fld) (b : Bool) : (d.setFlag p f b).stc = d.stc := set_stc d p f _
@[simp] theorem setFlag_frogs (d : Dev) (p : Nat) (f : Fld) (b : Bool) : (d.setFlag p f b).frogs = d.frogs := set_frogs d p f _
@[simp] theorem setFlag_nextFrog (d : Dev) (p : Nat) (f : Fld) (b : Bool) : (d.setFlag p f b).nextFrog = d.nextFrog := set_nextFrog d p f _
@[simp] theorem setFlag_bar (d : Dev) (p : Nat) (f : Fld) (b : Bool) : (d.setFlag p f b).bar = d.bar := set_bar d p f _
@[simp] theorem setFlag_clk (d : Dev) (p : Nat) (f : Fld) (b : Bool) : (d.setFlag p f b).clk = d.clk := set_clk d p f _
@[simp] theorem setFlag_pwr (d : Dev) (p : Nat) (f : Fld) (b : Bool) : (d.setFlag p f b).pwr = d.pwr := set_pwr d p f _
@[simp] theorem setFlag_host (d : Dev) (p : Nat) (f : Fld) (b : Bool) : (d.setFlag p f b).host = d.host := set_host d p f _
@[simp] theorem setFlag_str (d : Dev) (p : Nat) (f : Fld) (b : Bool) : (d.setFlag p f b).str = d.str := set_str d p f _
@[simp] theorem setFlag_tal (d : Dev) (p : Nat) (f : Fld) (b : Bool) : (d.setFlag p f b).tal = d.tal := set_tal d p f _
@[simp] theorem setFlag_mem (d : Dev) (p : Nat) (f : Fld) (b : Bool) : (d.setFlag p f b).mem = d.mem := set_mem d p f _
@[simp] theorem setFlag_carts (d : Dev) (p : Nat) (f : Fld) (b : Bool) : (d.setFlag p f b).carts = d.carts := set_carts d p f _
@[simp] theorem setFlag_links (d : Dev) (p : Nat) (f : Fld) (b : Bool) : (d.setFlag p f b).links = d.links := set_links d p f _
@[simp] theorem setFlag_twin (d : Dev) (p : Nat) (f : Fld) (b : Bool) : (d.setFlag p f b).twin = d.twin := set_twin d p f _
@[simp] theorem setFlag_rings (d : Dev) (p : Nat) (f : Fld) (b : Bool) : (d.setFlag p f b).rings = d.rings := set_rings d p f _
@[simp] theorem setFlag_dmv (d : Dev) (p : Nat) (f : Fld) (b : Bool) : (d.setFlag p f b).dmv = d.dmv := set_dmv d p f _
@[simp] theorem setFlag_noc (d : Dev) (p : Nat) (f : Fld) (b : Bool) : (d.setFlag p f b).noc = d.noc := set_noc d p f _

@[simp] theorem addSat_sn (d : Dev) (p : Nat) (f : Fld) (k : Nat) : (d.addSat p f k).sn = d.sn := set_sn d p f _
@[simp] theorem addSat_fresh (d : Dev) (p : Nat) (f : Fld) (k : Nat) : (d.addSat p f k).fresh = d.fresh := set_fresh d p f _
@[simp] theorem addSat_out (d : Dev) (p : Nat) (f : Fld) (k : Nat) : (d.addSat p f k).out = d.out := set_out d p f _
@[simp] theorem addSat_stc (d : Dev) (p : Nat) (f : Fld) (k : Nat) : (d.addSat p f k).stc = d.stc := set_stc d p f _
@[simp] theorem addSat_frogs (d : Dev) (p : Nat) (f : Fld) (k : Nat) : (d.addSat p f k).frogs = d.frogs := set_frogs d p f _
@[simp] theorem addSat_nextFrog (d : Dev) (p : Nat) (f : Fld) (k : Nat) : (d.addSat p f k).nextFrog = d.nextFrog := set_nextFrog d p f _
@[simp] theorem addSat_bar (d : Dev) (p : Nat) (f : Fld) (k : Nat) : (d.addSat p f k).bar = d.bar := set_bar d p f _
@[simp] theorem addSat_clk (d : Dev) (p : Nat) (f : Fld) (k : Nat) : (d.addSat p f k).clk = d.clk := set_clk d p f _
@[simp] theorem addSat_pwr (d : Dev) (p : Nat) (f : Fld) (k : Nat) : (d.addSat p f k).pwr = d.pwr := set_pwr d p f _
@[simp] theorem addSat_host (d : Dev) (p : Nat) (f : Fld) (k : Nat) : (d.addSat p f k).host = d.host := set_host d p f _
@[simp] theorem addSat_str (d : Dev) (p : Nat) (f : Fld) (k : Nat) : (d.addSat p f k).str = d.str := set_str d p f _
@[simp] theorem addSat_tal (d : Dev) (p : Nat) (f : Fld) (k : Nat) : (d.addSat p f k).tal = d.tal := set_tal d p f _
@[simp] theorem addSat_mem (d : Dev) (p : Nat) (f : Fld) (k : Nat) : (d.addSat p f k).mem = d.mem := set_mem d p f _
@[simp] theorem addSat_carts (d : Dev) (p : Nat) (f : Fld) (k : Nat) : (d.addSat p f k).carts = d.carts := set_carts d p f _
@[simp] theorem addSat_links (d : Dev) (p : Nat) (f : Fld) (k : Nat) : (d.addSat p f k).links = d.links := set_links d p f _
@[simp] theorem addSat_twin (d : Dev) (p : Nat) (f : Fld) (k : Nat) : (d.addSat p f k).twin = d.twin := set_twin d p f _
@[simp] theorem addSat_rings (d : Dev) (p : Nat) (f : Fld) (k : Nat) : (d.addSat p f k).rings = d.rings := set_rings d p f _
@[simp] theorem addSat_dmv (d : Dev) (p : Nat) (f : Fld) (k : Nat) : (d.addSat p f k).dmv = d.dmv := set_dmv d p f _
@[simp] theorem addSat_noc (d : Dev) (p : Nat) (f : Fld) (k : Nat) : (d.addSat p f k).noc = d.noc := set_noc d p f _

@[simp] theorem emit_sn (d : Dev) (m : Msg) : (d.emit m).sn = d.sn := rfl
@[simp] theorem emit_regs (d : Dev) (m : Msg) : (d.emit m).regs = d.regs := rfl
@[simp] theorem emit_fresh (d : Dev) (m : Msg) : (d.emit m).fresh = d.fresh := rfl
@[simp] theorem emit_stc (d : Dev) (m : Msg) : (d.emit m).stc = d.stc := rfl
@[simp] theorem emit_frogs (d : Dev) (m : Msg) : (d.emit m).frogs = d.frogs := rfl
@[simp] theorem emit_nextFrog (d : Dev) (m : Msg) : (d.emit m).nextFrog = d.nextFrog := rfl
@[simp] theorem emit_bar (d : Dev) (m : Msg) : (d.emit m).bar = d.bar := rfl
@[simp] theorem emit_clk (d : Dev) (m : Msg) : (d.emit m).clk = d.clk := rfl
@[simp] theorem emit_pwr (d : Dev) (m : Msg) : (d.emit m).pwr = d.pwr := rfl
@[simp] theorem emit_host (d : Dev) (m : Msg) : (d.emit m).host = d.host := rfl
@[simp] theorem emit_str (d : Dev) (m : Msg) : (d.emit m).str = d.str := rfl
@[simp] theorem emit_tal (d : Dev) (m : Msg) : (d.emit m).tal = d.tal := rfl
@[simp] theorem emit_mem (d : Dev) (m : Msg) : (d.emit m).mem = d.mem := rfl
@[simp] theorem emit_carts (d : Dev) (m : Msg) : (d.emit m).carts = d.carts := rfl
@[simp] theorem emit_links (d : Dev) (m : Msg) : (d.emit m).links = d.links := rfl
@[simp] theorem emit_twin (d : Dev) (m : Msg) : (d.emit m).twin = d.twin := rfl
@[simp] theorem emit_rings (d : Dev) (m : Msg) : (d.emit m).rings = d.rings := rfl
@[simp] theorem emit_dmv (d : Dev) (m : Msg) : (d.emit m).dmv = d.dmv := rfl
@[simp] theorem emit_noc (d : Dev) (m : Msg) : (d.emit m).noc = d.noc := rfl

@[simp] theorem draw_sn (d : Dev) : d.draw.sn = d.sn := rfl
@[simp] theorem draw_regs (d : Dev) : d.draw.regs = d.regs := rfl
@[simp] theorem draw_out (d : Dev) : d.draw.out = d.out := rfl
@[simp] theorem draw_stc (d : Dev) : d.draw.stc = d.stc := rfl
@[simp] theorem draw_frogs (d : Dev) : d.draw.frogs = d.frogs := rfl
@[simp] theorem draw_nextFrog (d : Dev) : d.draw.nextFrog = d.nextFrog := rfl
@[simp] theorem draw_bar (d : Dev) : d.draw.bar = d.bar := rfl
@[simp] theorem draw_clk (d : Dev) : d.draw.clk = d.clk := rfl
@[simp] theorem draw_pwr (d : Dev) : d.draw.pwr = d.pwr := rfl
@[simp] theorem draw_host (d : Dev) : d.draw.host = d.host := rfl
@[simp] theorem draw_str (d : Dev) : d.draw.str = d.str := rfl
@[simp] theorem draw_tal (d : Dev) : d.draw.tal = d.tal := rfl
@[simp] theorem draw_mem (d : Dev) : d.draw.mem = d.mem := rfl
@[simp] theorem draw_carts (d : Dev) : d.draw.carts = d.carts := rfl
@[simp] theorem draw_links (d : Dev) : d.draw.links = d.links := rfl
@[simp] theorem draw_twin (d : Dev) : d.draw.twin = d.twin := rfl
@[simp] theorem draw_rings (d : Dev) : d.draw.rings = d.rings := rfl
@[simp] theorem draw_dmv (d : Dev) : d.draw.dmv = d.dmv := rfl
@[simp] theorem draw_noc (d : Dev) : d.draw.noc = d.noc := rfl

@[simp] theorem raise_sn (d : Dev) (src addr master acc : Nat) : (d.raise src addr master acc).sn = d.sn := rfl
@[simp] theorem raise_regs (d : Dev) (src addr master acc : Nat) : (d.raise src addr master acc).regs = d.regs := rfl
@[simp] theorem raise_fresh (d : Dev) (src addr master acc : Nat) : (d.raise src addr master acc).fresh = d.fresh := rfl
@[simp] theorem raise_out (d : Dev) (src addr master acc : Nat) : (d.raise src addr master acc).out = d.out := rfl
@[simp] theorem raise_frogs (d : Dev) (src addr master acc : Nat) : (d.raise src addr master acc).frogs = d.frogs := rfl
@[simp] theorem raise_nextFrog (d : Dev) (src addr master acc : Nat) : (d.raise src addr master acc).nextFrog = d.nextFrog := rfl
@[simp] theorem raise_bar (d : Dev) (src addr master acc : Nat) : (d.raise src addr master acc).bar = d.bar := rfl
@[simp] theorem raise_clk (d : Dev) (src addr master acc : Nat) : (d.raise src addr master acc).clk = d.clk := rfl
@[simp] theorem raise_pwr (d : Dev) (src addr master acc : Nat) : (d.raise src addr master acc).pwr = d.pwr := rfl
@[simp] theorem raise_host (d : Dev) (src addr master acc : Nat) : (d.raise src addr master acc).host = d.host := rfl
@[simp] theorem raise_str (d : Dev) (src addr master acc : Nat) : (d.raise src addr master acc).str = d.str := rfl
@[simp] theorem raise_tal (d : Dev) (src addr master acc : Nat) : (d.raise src addr master acc).tal = d.tal := rfl
@[simp] theorem raise_mem (d : Dev) (src addr master acc : Nat) : (d.raise src addr master acc).mem = d.mem := rfl
@[simp] theorem raise_carts (d : Dev) (src addr master acc : Nat) : (d.raise src addr master acc).carts = d.carts := rfl
@[simp] theorem raise_links (d : Dev) (src addr master acc : Nat) : (d.raise src addr master acc).links = d.links := rfl
@[simp] theorem raise_twin (d : Dev) (src addr master acc : Nat) : (d.raise src addr master acc).twin = d.twin := rfl
@[simp] theorem raise_rings (d : Dev) (src addr master acc : Nat) : (d.raise src addr master acc).rings = d.rings := rfl
@[simp] theorem raise_dmv (d : Dev) (src addr master acc : Nat) : (d.raise src addr master acc).dmv = d.dmv := rfl
@[simp] theorem raise_noc (d : Dev) (src addr master acc : Nat) : (d.raise src addr master acc).noc = d.noc := rfl

@[simp] theorem raiseOnce_sn (d : Dev) (src addr master acc : Nat) : (d.raiseOnce src addr master acc).sn = d.sn := by obtain ⟨_, h⟩ := raiseOnce_eq d src addr master acc; rw [h]
@[simp] theorem raiseOnce_regs (d : Dev) (src addr master acc : Nat) : (d.raiseOnce src addr master acc).regs = d.regs := by obtain ⟨_, h⟩ := raiseOnce_eq d src addr master acc; rw [h]
@[simp] theorem raiseOnce_fresh (d : Dev) (src addr master acc : Nat) : (d.raiseOnce src addr master acc).fresh = d.fresh := by obtain ⟨_, h⟩ := raiseOnce_eq d src addr master acc; rw [h]
@[simp] theorem raiseOnce_out (d : Dev) (src addr master acc : Nat) : (d.raiseOnce src addr master acc).out = d.out := by obtain ⟨_, h⟩ := raiseOnce_eq d src addr master acc; rw [h]
@[simp] theorem raiseOnce_frogs (d : Dev) (src addr master acc : Nat) : (d.raiseOnce src addr master acc).frogs = d.frogs := by obtain ⟨_, h⟩ := raiseOnce_eq d src addr master acc; rw [h]
@[simp] theorem raiseOnce_nextFrog (d : Dev) (src addr master acc : Nat) : (d.raiseOnce src addr master acc).nextFrog = d.nextFrog := by obtain ⟨_, h⟩ := raiseOnce_eq d src addr master acc; rw [h]
@[simp] theorem raiseOnce_bar (d : Dev) (src addr master acc : Nat) : (d.raiseOnce src addr master acc).bar = d.bar := by obtain ⟨_, h⟩ := raiseOnce_eq d src addr master acc; rw [h]
@[simp] theorem raiseOnce_clk (d : Dev) (src addr master acc : Nat) : (d.raiseOnce src addr master acc).clk = d.clk := by obtain ⟨_, h⟩ := raiseOnce_eq d src addr master acc; rw [h]
@[simp] theorem raiseOnce_pwr (d : Dev) (src addr master acc : Nat) : (d.raiseOnce src addr master acc).pwr = d.pwr := by obtain ⟨_, h⟩ := raiseOnce_eq d src addr master acc; rw [h]
@[simp] theorem raiseOnce_host (d : Dev) (src addr master acc : Nat) : (d.raiseOnce src addr master acc).host = d.host := by obtain ⟨_, h⟩ := raiseOnce_eq d src addr master acc; rw [h]
@[simp] theorem raiseOnce_str (d : Dev) (src addr master acc : Nat) : (d.raiseOnce src addr master acc).str = d.str := by obtain ⟨_, h⟩ := raiseOnce_eq d src addr master acc; rw [h]
@[simp] theorem raiseOnce_tal (d : Dev) (src addr master acc : Nat) : (d.raiseOnce src addr master acc).tal = d.tal := by obtain ⟨_, h⟩ := raiseOnce_eq d src addr master acc; rw [h]
@[simp] theorem raiseOnce_mem (d : Dev) (src addr master acc : Nat) : (d.raiseOnce src addr master acc).mem = d.mem := by obtain ⟨_, h⟩ := raiseOnce_eq d src addr master acc; rw [h]
@[simp] theorem raiseOnce_carts (d : Dev) (src addr master acc : Nat) : (d.raiseOnce src addr master acc).carts = d.carts := by obtain ⟨_, h⟩ := raiseOnce_eq d src addr master acc; rw [h]
@[simp] theorem raiseOnce_links (d : Dev) (src addr master acc : Nat) : (d.raiseOnce src addr master acc).links = d.links := by obtain ⟨_, h⟩ := raiseOnce_eq d src addr master acc; rw [h]
@[simp] theorem raiseOnce_twin (d : Dev) (src addr master acc : Nat) : (d.raiseOnce src addr master acc).twin = d.twin := by obtain ⟨_, h⟩ := raiseOnce_eq d src addr master acc; rw [h]
@[simp] theorem raiseOnce_rings (d : Dev) (src addr master acc : Nat) : (d.raiseOnce src addr master acc).rings = d.rings := by obtain ⟨_, h⟩ := raiseOnce_eq d src addr master acc; rw [h]
@[simp] theorem raiseOnce_dmv (d : Dev) (src addr master acc : Nat) : (d.raiseOnce src addr master acc).dmv = d.dmv := by obtain ⟨_, h⟩ := raiseOnce_eq d src addr master acc; rw [h]
@[simp] theorem raiseOnce_noc (d : Dev) (src addr master acc : Nat) : (d.raiseOnce src addr master acc).noc = d.noc := by obtain ⟨_, h⟩ := raiseOnce_eq d src addr master acc; rw [h]

@[simp] theorem latch_sn (d : Dev) (src : Nat) : (d.latch src).sn = d.sn := by obtain ⟨_, h⟩ := latch_eq d src; rw [h]
@[simp] theorem latch_regs (d : Dev) (src : Nat) : (d.latch src).regs = d.regs := by obtain ⟨_, h⟩ := latch_eq d src; rw [h]
@[simp] theorem latch_fresh (d : Dev) (src : Nat) : (d.latch src).fresh = d.fresh := by obtain ⟨_, h⟩ := latch_eq d src; rw [h]
@[simp] theorem latch_out (d : Dev) (src : Nat) : (d.latch src).out = d.out := by obtain ⟨_, h⟩ := latch_eq d src; rw [h]
@[simp] theorem latch_frogs (d : Dev) (src : Nat) : (d.latch src).frogs = d.frogs := by obtain ⟨_, h⟩ := latch_eq d src; rw [h]
@[simp] theorem latch_nextFrog (d : Dev) (src : Nat) : (d.latch src).nextFrog = d.nextFrog := by obtain ⟨_, h⟩ := latch_eq d src; rw [h]
@[simp] theorem latch_bar (d : Dev) (src : Nat) : (d.latch src).bar = d.bar := by obtain ⟨_, h⟩ := latch_eq d src; rw [h]
@[simp] theorem latch_clk (d : Dev) (src : Nat) : (d.latch src).clk = d.clk := by obtain ⟨_, h⟩ := latch_eq d src; rw [h]
@[simp] theorem latch_pwr (d : Dev) (src : Nat) : (d.latch src).pwr = d.pwr := by obtain ⟨_, h⟩ := latch_eq d src; rw [h]
@[simp] theorem latch_host (d : Dev) (src : Nat) : (d.latch src).host = d.host := by obtain ⟨_, h⟩ := latch_eq d src; rw [h]
@[simp] theorem latch_str (d : Dev) (src : Nat) : (d.latch src).str = d.str := by obtain ⟨_, h⟩ := latch_eq d src; rw [h]
@[simp] theorem latch_tal (d : Dev) (src : Nat) : (d.latch src).tal = d.tal := by obtain ⟨_, h⟩ := latch_eq d src; rw [h]
@[simp] theorem latch_mem (d : Dev) (src : Nat) : (d.latch src).mem = d.mem := by obtain ⟨_, h⟩ := latch_eq d src; rw [h]
@[simp] theorem latch_carts (d : Dev) (src : Nat) : (d.latch src).carts = d.carts := by obtain ⟨_, h⟩ := latch_eq d src; rw [h]
@[simp] theorem latch_links (d : Dev) (src : Nat) : (d.latch src).links = d.links := by obtain ⟨_, h⟩ := latch_eq d src; rw [h]
@[simp] theorem latch_twin (d : Dev) (src : Nat) : (d.latch src).twin = d.twin := by obtain ⟨_, h⟩ := latch_eq d src; rw [h]
@[simp] theorem latch_rings (d : Dev) (src : Nat) : (d.latch src).rings = d.rings := by obtain ⟨_, h⟩ := latch_eq d src; rw [h]
@[simp] theorem latch_dmv (d : Dev) (src : Nat) : (d.latch src).dmv = d.dmv := by obtain ⟨_, h⟩ := latch_eq d src; rw [h]
@[simp] theorem latch_noc (d : Dev) (src : Nat) : (d.latch src).noc = d.noc := by obtain ⟨_, h⟩ := latch_eq d src; rw [h]

@[simp] theorem setLevel_sn (d : Dev) (src : Nat) (b : Bool) : (d.setLevel src b).sn = d.sn := rfl
@[simp] theorem setLevel_regs (d : Dev) (src : Nat) (b : Bool) : (d.setLevel src b).regs = d.regs := rfl
@[simp] theorem setLevel_fresh (d : Dev) (src : Nat) (b : Bool) : (d.setLevel src b).fresh = d.fresh := rfl
@[simp] theorem setLevel_out (d : Dev) (src : Nat) (b : Bool) : (d.setLevel src b).out = d.out := rfl
@[simp] theorem setLevel_frogs (d : Dev) (src : Nat) (b : Bool) : (d.setLevel src b).frogs = d.frogs := rfl
@[simp] theorem setLevel_nextFrog (d : Dev) (src : Nat) (b : Bool) : (d.setLevel src b).nextFrog = d.nextFrog := rfl
@[simp] theorem setLevel_bar (d : Dev) (src : Nat) (b : Bool) : (d.setLevel src b).bar = d.bar := rfl
@[simp] theorem setLevel_clk (d : Dev) (src : Nat) (b : Bool) : (d.setLevel src b).clk = d.clk := rfl
@[simp] theorem setLevel_pwr (d : Dev) (src : Nat) (b : Bool) : (d.setLevel src b).pwr = d.pwr := rfl
@[simp] theorem setLevel_host (d : Dev) (src : Nat) (b : Bool) : (d.setLevel src b).host = d.host := rfl
@[simp] theorem setLevel_str (d : Dev) (src : Nat) (b : Bool) : (d.setLevel src b).str = d.str := rfl
@[simp] theorem setLevel_tal (d : Dev) (src : Nat) (b : Bool) : (d.setLevel src b).tal = d.tal := rfl
@[simp] theorem setLevel_mem (d : Dev) (src : Nat) (b : Bool) : (d.setLevel src b).mem = d.mem := rfl
@[simp] theorem setLevel_carts (d : Dev) (src : Nat) (b : Bool) : (d.setLevel src b).carts = d.carts := rfl
@[simp] theorem setLevel_links (d : Dev) (src : Nat) (b : Bool) : (d.setLevel src b).links = d.links := rfl
@[simp] theorem setLevel_twin (d : Dev) (src : Nat) (b : Bool) : (d.setLevel src b).twin = d.twin := rfl
@[simp] theorem setLevel_rings (d : Dev) (src : Nat) (b : Bool) : (d.setLevel src b).rings = d.rings := rfl
@[simp] theorem setLevel_dmv (d : Dev) (src : Nat) (b : Bool) : (d.setLevel src b).dmv = d.dmv := rfl
@[simp] theorem setLevel_noc (d : Dev) (src : Nat) (b : Bool) : (d.setLevel src b).noc = d.noc := rfl

@[simp] theorem modStc_sn (d : Dev) (f : Stc → Stc) : (d.modStc f).sn = d.sn := rfl
@[simp] theorem modStc_regs (d : Dev) (f : Stc → Stc) : (d.modStc f).regs = d.regs := rfl
@[simp] theorem modStc_fresh (d : Dev) (f : Stc → Stc) : (d.modStc f).fresh = d.fresh := rfl
@[simp] theorem modStc_out (d : Dev) (f : Stc → Stc) : (d.modStc f).out = d.out := rfl
@[simp] theorem modStc_frogs (d : Dev) (f : Stc → Stc) : (d.modStc f).frogs = d.frogs := rfl
@[simp] theorem modStc_nextFrog (d : Dev) (f : Stc → Stc) : (d.modStc f).nextFrog = d.nextFrog := rfl
@[simp] theorem modStc_bar (d : Dev) (f : Stc → Stc) : (d.modStc f).bar = d.bar := rfl
@[simp] theorem modStc_clk (d : Dev) (f : Stc → Stc) : (d.modStc f).clk = d.clk := rfl
@[simp] theorem modStc_pwr (d : Dev) (f : Stc → Stc) : (d.modStc f).pwr = d.pwr := rfl
@[simp] theorem modStc_host (d : Dev) (f : Stc → Stc) : (d.modStc f).host = d.host := rfl
@[simp] theorem modStc_str (d : Dev) (f : Stc → Stc) : (d.modStc f).str = d.str := rfl
@[simp] theorem modStc_tal (d : Dev) (f : Stc → Stc) : (d.modStc f).tal = d.tal := rfl
@[simp] theorem modStc_mem (d : Dev) (f : Stc → Stc) : (d.modStc f).mem = d.mem := rfl
@[simp] theorem modStc_carts (d : Dev) (f : Stc → Stc) : (d.modStc f).carts = d.carts := rfl
@[simp] theorem modStc_links (d : Dev) (f : Stc → Stc) : (d.modStc f).links = d.links := rfl
@[simp] theorem modStc_twin (d : Dev) (f : Stc → Stc) : (d.modStc f).twin = d.twin := rfl
@[simp] theorem modStc_rings (d : Dev) (f : Stc → Stc) : (d.modStc f).rings = d.rings := rfl
@[simp] theorem modStc_dmv (d : Dev) (f : Stc → Stc) : (d.modStc f).dmv = d.dmv := rfl
@[simp] theorem modStc_noc (d : Dev) (f : Stc → Stc) : (d.modStc f).noc = d.noc := rfl

@[simp] theorem modClk_sn (d : Dev) (f : Clk → Clk) : (d.modClk f).sn = d.sn := rfl
@[simp] theorem modClk_regs (d : Dev) (f : Clk → Clk) : (d.modClk f).regs = d.regs := rfl
@[simp] theorem modClk_fresh (d : Dev) (f : Clk → Clk) : (d.modClk f).fresh = d.fresh := rfl
@[simp] theorem modClk_out (d : Dev) (f : Clk → Clk) : (d.modClk f).out = d.out := rfl
@[simp] theorem modClk_stc (d : Dev) (f : Clk → Clk) : (d.modClk f).stc = d.stc := rfl
@[simp] theorem modClk_frogs (d : Dev) (f : Clk → Clk) : (d.modClk f).frogs = d.frogs := rfl
@[simp] theorem modClk_nextFrog (d : Dev) (f : Clk → Clk) : (d.modClk f).nextFrog = d.nextFrog := rfl
@[simp] theorem modClk_bar (d : Dev) (f : Clk → Clk) : (d.modClk f).bar = d.bar := rfl
@[simp] theorem modClk_pwr (d : Dev) (f : Clk → Clk) : (d.modClk f).pwr = d.pwr := rfl
@[simp] theorem modClk_host (d : Dev) (f : Clk → Clk) : (d.modClk f).host = d.host := rfl
@[simp] theorem modClk_str (d : Dev) (f : Clk → Clk) : (d.modClk f).str = d.str := rfl
@[simp] theorem modClk_tal (d : Dev) (f : Clk → Clk) : (d.modClk f).tal = d.tal := rfl
@[simp] theorem modClk_mem (d : Dev) (f : Clk → Clk) : (d.modClk f).mem = d.mem := rfl
@[simp] theorem modClk_carts (d : Dev) (f : Clk → Clk) : (d.modClk f).carts = d.carts := rfl
@[simp] theorem modClk_links (d : Dev) (f : Clk → Clk) : (d.modClk f).links = d.links := rfl
@[simp] theorem modClk_twin (d : Dev) (f : Clk → Clk) : (d.modClk f).twin = d.twin := rfl
@[simp] theorem modClk_rings (d : Dev) (f : Clk → Clk) : (d.modClk f).rings = d.rings := rfl
@[simp] theorem modClk_dmv (d : Dev) (f : Clk → Clk) : (d.modClk f).dmv = d.dmv := rfl
@[simp] theorem modClk_noc (d : Dev) (f : Clk → Clk) : (d.modClk f).noc = d.noc := rfl

@[simp] theorem modPwr_sn (d : Dev) (f : Power → Power) : (d.modPwr f).sn = d.sn := rfl
@[simp] theorem modPwr_regs (d : Dev) (f : Power → Power) : (d.modPwr f).regs = d.regs := rfl
@[simp] theorem modPwr_fresh (d : Dev) (f : Power → Power) : (d.modPwr f).fresh = d.fresh := rfl
@[simp] theorem modPwr_out (d : Dev) (f : Power → Power) : (d.modPwr f).out = d.out := rfl
@[simp] theorem modPwr_stc (d : Dev) (f : Power → Power) : (d.modPwr f).stc = d.stc := rfl
@[simp] theorem modPwr_frogs (d : Dev) (f : Power → Power) : (d.modPwr f).frogs = d.frogs := rfl
@[simp] theorem modPwr_nextFrog (d : Dev) (f : Power → Power) : (d.modPwr f).nextFrog = d.nextFrog := rfl
@[simp] theorem modPwr_bar (d : Dev) (f : Power → Power) : (d.modPwr f).bar = d.bar := rfl
@[simp] theorem modPwr_clk (d : Dev) (f : Power → Power) : (d.modPwr f).clk = d.clk := rfl
@[simp] theorem modPwr_host (d : Dev) (f : Power → Power) : (d.modPwr f).host = d.host := rfl
@[simp] theorem modPwr_str (d : Dev) (f : Power → Power) : (d.modPwr f).str = d.str := rfl
@[simp] theorem modPwr_tal (d : Dev) (f : Power → Power) : (d.modPwr f).tal = d.tal := rfl
@[simp] theorem modPwr_mem (d : Dev) (f : Power → Power) : (d.modPwr f).mem = d.mem := rfl
@[simp] theorem modPwr_carts (d : Dev) (f : Power → Power) : (d.modPwr f).carts = d.carts := rfl
@[simp] theorem modPwr_links (d : Dev) (f : Power → Power) : (d.modPwr f).links = d.links := rfl
@[simp] theorem modPwr_twin (d : Dev) (f : Power → Power) : (d.modPwr f).twin = d.twin := rfl
@[simp] theorem modPwr_rings (d : Dev) (f : Power → Power) : (d.modPwr f).rings = d.rings := rfl
@[simp] theorem modPwr_dmv (d : Dev) (f : Power → Power) : (d.modPwr f).dmv = d.dmv := rfl
@[simp] theorem modPwr_noc (d : Dev) (f : Power → Power) : (d.modPwr f).noc = d.noc := rfl

@[simp] theorem modStr_sn (d : Dev) (f : Strongroom → Strongroom) : (d.modStr f).sn = d.sn := rfl
@[simp] theorem modStr_regs (d : Dev) (f : Strongroom → Strongroom) : (d.modStr f).regs = d.regs := rfl
@[simp] theorem modStr_fresh (d : Dev) (f : Strongroom → Strongroom) : (d.modStr f).fresh = d.fresh := rfl
@[simp] theorem modStr_out (d : Dev) (f : Strongroom → Strongroom) : (d.modStr f).out = d.out := rfl
@[simp] theorem modStr_stc (d : Dev) (f : Strongroom → Strongroom) : (d.modStr f).stc = d.stc := rfl
@[simp] theorem modStr_frogs (d : Dev) (f : Strongroom → Strongroom) : (d.modStr f).frogs = d.frogs := rfl
@[simp] theorem modStr_nextFrog (d : Dev) (f : Strongroom → Strongroom) : (d.modStr f).nextFrog = d.nextFrog := rfl
@[simp] theorem modStr_bar (d : Dev) (f : Strongroom → Strongroom) : (d.modStr f).bar = d.bar := rfl
@[simp] theorem modStr_clk (d : Dev) (f : Strongroom → Strongroom) : (d.modStr f).clk = d.clk := rfl
@[simp] theorem modStr_pwr (d : Dev) (f : Strongroom → Strongroom) : (d.modStr f).pwr = d.pwr := rfl
@[simp] theorem modStr_host (d : Dev) (f : Strongroom → Strongroom) : (d.modStr f).host = d.host := rfl
@[simp] theorem modStr_tal (d : Dev) (f : Strongroom → Strongroom) : (d.modStr f).tal = d.tal := rfl
@[simp] theorem modStr_mem (d : Dev) (f : Strongroom → Strongroom) : (d.modStr f).mem = d.mem := rfl
@[simp] theorem modStr_carts (d : Dev) (f : Strongroom → Strongroom) : (d.modStr f).carts = d.carts := rfl
@[simp] theorem modStr_links (d : Dev) (f : Strongroom → Strongroom) : (d.modStr f).links = d.links := rfl
@[simp] theorem modStr_twin (d : Dev) (f : Strongroom → Strongroom) : (d.modStr f).twin = d.twin := rfl
@[simp] theorem modStr_rings (d : Dev) (f : Strongroom → Strongroom) : (d.modStr f).rings = d.rings := rfl
@[simp] theorem modStr_dmv (d : Dev) (f : Strongroom → Strongroom) : (d.modStr f).dmv = d.dmv := rfl
@[simp] theorem modStr_noc (d : Dev) (f : Strongroom → Strongroom) : (d.modStr f).noc = d.noc := rfl

@[simp] theorem modLd_sn (d : Dev) (n : Nat) (f : Ld → Ld) : (d.modLd n f).sn = d.sn := rfl
@[simp] theorem modLd_regs (d : Dev) (n : Nat) (f : Ld → Ld) : (d.modLd n f).regs = d.regs := rfl
@[simp] theorem modLd_fresh (d : Dev) (n : Nat) (f : Ld → Ld) : (d.modLd n f).fresh = d.fresh := rfl
@[simp] theorem modLd_out (d : Dev) (n : Nat) (f : Ld → Ld) : (d.modLd n f).out = d.out := rfl
@[simp] theorem modLd_stc (d : Dev) (n : Nat) (f : Ld → Ld) : (d.modLd n f).stc = d.stc := rfl
@[simp] theorem modLd_frogs (d : Dev) (n : Nat) (f : Ld → Ld) : (d.modLd n f).frogs = d.frogs := rfl
@[simp] theorem modLd_nextFrog (d : Dev) (n : Nat) (f : Ld → Ld) : (d.modLd n f).nextFrog = d.nextFrog := rfl
@[simp] theorem modLd_bar (d : Dev) (n : Nat) (f : Ld → Ld) : (d.modLd n f).bar = d.bar := rfl
@[simp] theorem modLd_clk (d : Dev) (n : Nat) (f : Ld → Ld) : (d.modLd n f).clk = d.clk := rfl
@[simp] theorem modLd_pwr (d : Dev) (n : Nat) (f : Ld → Ld) : (d.modLd n f).pwr = d.pwr := rfl
@[simp] theorem modLd_str (d : Dev) (n : Nat) (f : Ld → Ld) : (d.modLd n f).str = d.str := rfl
@[simp] theorem modLd_tal (d : Dev) (n : Nat) (f : Ld → Ld) : (d.modLd n f).tal = d.tal := rfl
@[simp] theorem modLd_mem (d : Dev) (n : Nat) (f : Ld → Ld) : (d.modLd n f).mem = d.mem := rfl
@[simp] theorem modLd_carts (d : Dev) (n : Nat) (f : Ld → Ld) : (d.modLd n f).carts = d.carts := rfl
@[simp] theorem modLd_links (d : Dev) (n : Nat) (f : Ld → Ld) : (d.modLd n f).links = d.links := rfl
@[simp] theorem modLd_twin (d : Dev) (n : Nat) (f : Ld → Ld) : (d.modLd n f).twin = d.twin := rfl
@[simp] theorem modLd_rings (d : Dev) (n : Nat) (f : Ld → Ld) : (d.modLd n f).rings = d.rings := rfl
@[simp] theorem modLd_dmv (d : Dev) (n : Nat) (f : Ld → Ld) : (d.modLd n f).dmv = d.dmv := rfl
@[simp] theorem modLd_noc (d : Dev) (n : Nat) (f : Ld → Ld) : (d.modLd n f).noc = d.noc := rfl

@[simp] theorem modLink_sn (d : Dev) (port half : Nat) (f : HostLink → HostLink) : (d.modLink port half f).sn = d.sn := rfl
@[simp] theorem modLink_regs (d : Dev) (port half : Nat) (f : HostLink → HostLink) : (d.modLink port half f).regs = d.regs := rfl
@[simp] theorem modLink_fresh (d : Dev) (port half : Nat) (f : HostLink → HostLink) : (d.modLink port half f).fresh = d.fresh := rfl
@[simp] theorem modLink_out (d : Dev) (port half : Nat) (f : HostLink → HostLink) : (d.modLink port half f).out = d.out := rfl
@[simp] theorem modLink_stc (d : Dev) (port half : Nat) (f : HostLink → HostLink) : (d.modLink port half f).stc = d.stc := rfl
@[simp] theorem modLink_frogs (d : Dev) (port half : Nat) (f : HostLink → HostLink) : (d.modLink port half f).frogs = d.frogs := rfl
@[simp] theorem modLink_nextFrog (d : Dev) (port half : Nat) (f : HostLink → HostLink) : (d.modLink port half f).nextFrog = d.nextFrog := rfl
@[simp] theorem modLink_bar (d : Dev) (port half : Nat) (f : HostLink → HostLink) : (d.modLink port half f).bar = d.bar := rfl
@[simp] theorem modLink_clk (d : Dev) (port half : Nat) (f : HostLink → HostLink) : (d.modLink port half f).clk = d.clk := rfl
@[simp] theorem modLink_pwr (d : Dev) (port half : Nat) (f : HostLink → HostLink) : (d.modLink port half f).pwr = d.pwr := rfl
@[simp] theorem modLink_str (d : Dev) (port half : Nat) (f : HostLink → HostLink) : (d.modLink port half f).str = d.str := rfl
@[simp] theorem modLink_tal (d : Dev) (port half : Nat) (f : HostLink → HostLink) : (d.modLink port half f).tal = d.tal := rfl
@[simp] theorem modLink_mem (d : Dev) (port half : Nat) (f : HostLink → HostLink) : (d.modLink port half f).mem = d.mem := rfl
@[simp] theorem modLink_carts (d : Dev) (port half : Nat) (f : HostLink → HostLink) : (d.modLink port half f).carts = d.carts := rfl
@[simp] theorem modLink_links (d : Dev) (port half : Nat) (f : HostLink → HostLink) : (d.modLink port half f).links = d.links := rfl
@[simp] theorem modLink_twin (d : Dev) (port half : Nat) (f : HostLink → HostLink) : (d.modLink port half f).twin = d.twin := rfl
@[simp] theorem modLink_rings (d : Dev) (port half : Nat) (f : HostLink → HostLink) : (d.modLink port half f).rings = d.rings := rfl
@[simp] theorem modLink_dmv (d : Dev) (port half : Nat) (f : HostLink → HostLink) : (d.modLink port half f).dmv = d.dmv := rfl
@[simp] theorem modLink_noc (d : Dev) (port half : Nat) (f : HostLink → HostLink) : (d.modLink port half f).noc = d.noc := rfl

@[simp] theorem setMsixEntry_sn (d : Dev) (ld vec v : Nat) : (d.setMsixEntry ld vec v).sn = d.sn := rfl
@[simp] theorem setMsixEntry_regs (d : Dev) (ld vec v : Nat) : (d.setMsixEntry ld vec v).regs = d.regs := rfl
@[simp] theorem setMsixEntry_fresh (d : Dev) (ld vec v : Nat) : (d.setMsixEntry ld vec v).fresh = d.fresh := rfl
@[simp] theorem setMsixEntry_out (d : Dev) (ld vec v : Nat) : (d.setMsixEntry ld vec v).out = d.out := rfl
@[simp] theorem setMsixEntry_stc (d : Dev) (ld vec v : Nat) : (d.setMsixEntry ld vec v).stc = d.stc := rfl
@[simp] theorem setMsixEntry_frogs (d : Dev) (ld vec v : Nat) : (d.setMsixEntry ld vec v).frogs = d.frogs := rfl
@[simp] theorem setMsixEntry_nextFrog (d : Dev) (ld vec v : Nat) : (d.setMsixEntry ld vec v).nextFrog = d.nextFrog := rfl
@[simp] theorem setMsixEntry_clk (d : Dev) (ld vec v : Nat) : (d.setMsixEntry ld vec v).clk = d.clk := rfl
@[simp] theorem setMsixEntry_pwr (d : Dev) (ld vec v : Nat) : (d.setMsixEntry ld vec v).pwr = d.pwr := rfl
@[simp] theorem setMsixEntry_host (d : Dev) (ld vec v : Nat) : (d.setMsixEntry ld vec v).host = d.host := rfl
@[simp] theorem setMsixEntry_str (d : Dev) (ld vec v : Nat) : (d.setMsixEntry ld vec v).str = d.str := rfl
@[simp] theorem setMsixEntry_tal (d : Dev) (ld vec v : Nat) : (d.setMsixEntry ld vec v).tal = d.tal := rfl
@[simp] theorem setMsixEntry_mem (d : Dev) (ld vec v : Nat) : (d.setMsixEntry ld vec v).mem = d.mem := rfl
@[simp] theorem setMsixEntry_carts (d : Dev) (ld vec v : Nat) : (d.setMsixEntry ld vec v).carts = d.carts := rfl
@[simp] theorem setMsixEntry_links (d : Dev) (ld vec v : Nat) : (d.setMsixEntry ld vec v).links = d.links := rfl
@[simp] theorem setMsixEntry_twin (d : Dev) (ld vec v : Nat) : (d.setMsixEntry ld vec v).twin = d.twin := rfl
@[simp] theorem setMsixEntry_rings (d : Dev) (ld vec v : Nat) : (d.setMsixEntry ld vec v).rings = d.rings := rfl
@[simp] theorem setMsixEntry_dmv (d : Dev) (ld vec v : Nat) : (d.setMsixEntry ld vec v).dmv = d.dmv := rfl
@[simp] theorem setMsixEntry_noc (d : Dev) (ld vec v : Nat) : (d.setMsixEntry ld vec v).noc = d.noc := rfl

@[simp] theorem modMem_sn (d : Dev) (f : Mem → Mem) : (d.modMem f).sn = d.sn := rfl
@[simp] theorem modMem_regs (d : Dev) (f : Mem → Mem) : (d.modMem f).regs = d.regs := rfl
@[simp] theorem modMem_fresh (d : Dev) (f : Mem → Mem) : (d.modMem f).fresh = d.fresh := rfl
@[simp] theorem modMem_out (d : Dev) (f : Mem → Mem) : (d.modMem f).out = d.out := rfl
@[simp] theorem modMem_stc (d : Dev) (f : Mem → Mem) : (d.modMem f).stc = d.stc := rfl
@[simp] theorem modMem_frogs (d : Dev) (f : Mem → Mem) : (d.modMem f).frogs = d.frogs := rfl
@[simp] theorem modMem_nextFrog (d : Dev) (f : Mem → Mem) : (d.modMem f).nextFrog = d.nextFrog := rfl
@[simp] theorem modMem_bar (d : Dev) (f : Mem → Mem) : (d.modMem f).bar = d.bar := rfl
@[simp] theorem modMem_clk (d : Dev) (f : Mem → Mem) : (d.modMem f).clk = d.clk := rfl
@[simp] theorem modMem_pwr (d : Dev) (f : Mem → Mem) : (d.modMem f).pwr = d.pwr := rfl
@[simp] theorem modMem_host (d : Dev) (f : Mem → Mem) : (d.modMem f).host = d.host := rfl
@[simp] theorem modMem_str (d : Dev) (f : Mem → Mem) : (d.modMem f).str = d.str := rfl
@[simp] theorem modMem_tal (d : Dev) (f : Mem → Mem) : (d.modMem f).tal = d.tal := rfl
@[simp] theorem modMem_carts (d : Dev) (f : Mem → Mem) : (d.modMem f).carts = d.carts := rfl
@[simp] theorem modMem_links (d : Dev) (f : Mem → Mem) : (d.modMem f).links = d.links := rfl
@[simp] theorem modMem_twin (d : Dev) (f : Mem → Mem) : (d.modMem f).twin = d.twin := rfl
@[simp] theorem modMem_rings (d : Dev) (f : Mem → Mem) : (d.modMem f).rings = d.rings := rfl
@[simp] theorem modMem_dmv (d : Dev) (f : Mem → Mem) : (d.modMem f).dmv = d.dmv := rfl
@[simp] theorem modMem_noc (d : Dev) (f : Mem → Mem) : (d.modMem f).noc = d.noc := rfl

@[simp] theorem modStore_sn (d : Dev) (f : Store → Store) : (d.modStore f).sn = d.sn := rfl
@[simp] theorem modStore_regs (d : Dev) (f : Store → Store) : (d.modStore f).regs = d.regs := rfl
@[simp] theorem modStore_fresh (d : Dev) (f : Store → Store) : (d.modStore f).fresh = d.fresh := rfl
@[simp] theorem modStore_out (d : Dev) (f : Store → Store) : (d.modStore f).out = d.out := rfl
@[simp] theorem modStore_stc (d : Dev) (f : Store → Store) : (d.modStore f).stc = d.stc := rfl
@[simp] theorem modStore_frogs (d : Dev) (f : Store → Store) : (d.modStore f).frogs = d.frogs := rfl
@[simp] theorem modStore_nextFrog (d : Dev) (f : Store → Store) : (d.modStore f).nextFrog = d.nextFrog := rfl
@[simp] theorem modStore_bar (d : Dev) (f : Store → Store) : (d.modStore f).bar = d.bar := rfl
@[simp] theorem modStore_clk (d : Dev) (f : Store → Store) : (d.modStore f).clk = d.clk := rfl
@[simp] theorem modStore_pwr (d : Dev) (f : Store → Store) : (d.modStore f).pwr = d.pwr := rfl
@[simp] theorem modStore_host (d : Dev) (f : Store → Store) : (d.modStore f).host = d.host := rfl
@[simp] theorem modStore_str (d : Dev) (f : Store → Store) : (d.modStore f).str = d.str := rfl
@[simp] theorem modStore_tal (d : Dev) (f : Store → Store) : (d.modStore f).tal = d.tal := rfl
@[simp] theorem modStore_carts (d : Dev) (f : Store → Store) : (d.modStore f).carts = d.carts := rfl
@[simp] theorem modStore_links (d : Dev) (f : Store → Store) : (d.modStore f).links = d.links := rfl
@[simp] theorem modStore_twin (d : Dev) (f : Store → Store) : (d.modStore f).twin = d.twin := rfl
@[simp] theorem modStore_rings (d : Dev) (f : Store → Store) : (d.modStore f).rings = d.rings := rfl
@[simp] theorem modStore_dmv (d : Dev) (f : Store → Store) : (d.modStore f).dmv = d.dmv := rfl
@[simp] theorem modStore_noc (d : Dev) (f : Store → Store) : (d.modStore f).noc = d.noc := rfl

@[simp] theorem modChan_sn (d : Dev) (c : Nat) (f : Chan → Chan) : (d.modChan c f).sn = d.sn := rfl
@[simp] theorem modChan_regs (d : Dev) (c : Nat) (f : Chan → Chan) : (d.modChan c f).regs = d.regs := rfl
@[simp] theorem modChan_fresh (d : Dev) (c : Nat) (f : Chan → Chan) : (d.modChan c f).fresh = d.fresh := rfl
@[simp] theorem modChan_out (d : Dev) (c : Nat) (f : Chan → Chan) : (d.modChan c f).out = d.out := rfl
@[simp] theorem modChan_stc (d : Dev) (c : Nat) (f : Chan → Chan) : (d.modChan c f).stc = d.stc := rfl
@[simp] theorem modChan_frogs (d : Dev) (c : Nat) (f : Chan → Chan) : (d.modChan c f).frogs = d.frogs := rfl
@[simp] theorem modChan_nextFrog (d : Dev) (c : Nat) (f : Chan → Chan) : (d.modChan c f).nextFrog = d.nextFrog := rfl
@[simp] theorem modChan_bar (d : Dev) (c : Nat) (f : Chan → Chan) : (d.modChan c f).bar = d.bar := rfl
@[simp] theorem modChan_clk (d : Dev) (c : Nat) (f : Chan → Chan) : (d.modChan c f).clk = d.clk := rfl
@[simp] theorem modChan_pwr (d : Dev) (c : Nat) (f : Chan → Chan) : (d.modChan c f).pwr = d.pwr := rfl
@[simp] theorem modChan_host (d : Dev) (c : Nat) (f : Chan → Chan) : (d.modChan c f).host = d.host := rfl
@[simp] theorem modChan_str (d : Dev) (c : Nat) (f : Chan → Chan) : (d.modChan c f).str = d.str := rfl
@[simp] theorem modChan_tal (d : Dev) (c : Nat) (f : Chan → Chan) : (d.modChan c f).tal = d.tal := rfl
@[simp] theorem modChan_carts (d : Dev) (c : Nat) (f : Chan → Chan) : (d.modChan c f).carts = d.carts := rfl
@[simp] theorem modChan_links (d : Dev) (c : Nat) (f : Chan → Chan) : (d.modChan c f).links = d.links := rfl
@[simp] theorem modChan_twin (d : Dev) (c : Nat) (f : Chan → Chan) : (d.modChan c f).twin = d.twin := rfl
@[simp] theorem modChan_rings (d : Dev) (c : Nat) (f : Chan → Chan) : (d.modChan c f).rings = d.rings := rfl
@[simp] theorem modChan_dmv (d : Dev) (c : Nat) (f : Chan → Chan) : (d.modChan c f).dmv = d.dmv := rfl
@[simp] theorem modChan_noc (d : Dev) (c : Nat) (f : Chan → Chan) : (d.modChan c f).noc = d.noc := rfl

@[simp] theorem modCart_sn (d : Dev) (n : Nat) (f : Cart → Cart) : (d.modCart n f).sn = d.sn := rfl
@[simp] theorem modCart_regs (d : Dev) (n : Nat) (f : Cart → Cart) : (d.modCart n f).regs = d.regs := rfl
@[simp] theorem modCart_fresh (d : Dev) (n : Nat) (f : Cart → Cart) : (d.modCart n f).fresh = d.fresh := rfl
@[simp] theorem modCart_out (d : Dev) (n : Nat) (f : Cart → Cart) : (d.modCart n f).out = d.out := rfl
@[simp] theorem modCart_stc (d : Dev) (n : Nat) (f : Cart → Cart) : (d.modCart n f).stc = d.stc := rfl
@[simp] theorem modCart_frogs (d : Dev) (n : Nat) (f : Cart → Cart) : (d.modCart n f).frogs = d.frogs := rfl
@[simp] theorem modCart_nextFrog (d : Dev) (n : Nat) (f : Cart → Cart) : (d.modCart n f).nextFrog = d.nextFrog := rfl
@[simp] theorem modCart_bar (d : Dev) (n : Nat) (f : Cart → Cart) : (d.modCart n f).bar = d.bar := rfl
@[simp] theorem modCart_clk (d : Dev) (n : Nat) (f : Cart → Cart) : (d.modCart n f).clk = d.clk := rfl
@[simp] theorem modCart_pwr (d : Dev) (n : Nat) (f : Cart → Cart) : (d.modCart n f).pwr = d.pwr := rfl
@[simp] theorem modCart_host (d : Dev) (n : Nat) (f : Cart → Cart) : (d.modCart n f).host = d.host := rfl
@[simp] theorem modCart_str (d : Dev) (n : Nat) (f : Cart → Cart) : (d.modCart n f).str = d.str := rfl
@[simp] theorem modCart_tal (d : Dev) (n : Nat) (f : Cart → Cart) : (d.modCart n f).tal = d.tal := rfl
@[simp] theorem modCart_mem (d : Dev) (n : Nat) (f : Cart → Cart) : (d.modCart n f).mem = d.mem := rfl
@[simp] theorem modCart_links (d : Dev) (n : Nat) (f : Cart → Cart) : (d.modCart n f).links = d.links := rfl
@[simp] theorem modCart_twin (d : Dev) (n : Nat) (f : Cart → Cart) : (d.modCart n f).twin = d.twin := rfl
@[simp] theorem modCart_rings (d : Dev) (n : Nat) (f : Cart → Cart) : (d.modCart n f).rings = d.rings := rfl
@[simp] theorem modCart_dmv (d : Dev) (n : Nat) (f : Cart → Cart) : (d.modCart n f).dmv = d.dmv := rfl
@[simp] theorem modCart_noc (d : Dev) (n : Nat) (f : Cart → Cart) : (d.modCart n f).noc = d.noc := rfl

@[simp] theorem modLnk_sn (d : Dev) (l : Nat) (f : LinkSt → LinkSt) : (d.modLnk l f).sn = d.sn := rfl
@[simp] theorem modLnk_regs (d : Dev) (l : Nat) (f : LinkSt → LinkSt) : (d.modLnk l f).regs = d.regs := rfl
@[simp] theorem modLnk_fresh (d : Dev) (l : Nat) (f : LinkSt → LinkSt) : (d.modLnk l f).fresh = d.fresh := rfl
@[simp] theorem modLnk_out (d : Dev) (l : Nat) (f : LinkSt → LinkSt) : (d.modLnk l f).out = d.out := rfl
@[simp] theorem modLnk_stc (d : Dev) (l : Nat) (f : LinkSt → LinkSt) : (d.modLnk l f).stc = d.stc := rfl
@[simp] theorem modLnk_frogs (d : Dev) (l : Nat) (f : LinkSt → LinkSt) : (d.modLnk l f).frogs = d.frogs := rfl
@[simp] theorem modLnk_nextFrog (d : Dev) (l : Nat) (f : LinkSt → LinkSt) : (d.modLnk l f).nextFrog = d.nextFrog := rfl
@[simp] theorem modLnk_bar (d : Dev) (l : Nat) (f : LinkSt → LinkSt) : (d.modLnk l f).bar = d.bar := rfl
@[simp] theorem modLnk_clk (d : Dev) (l : Nat) (f : LinkSt → LinkSt) : (d.modLnk l f).clk = d.clk := rfl
@[simp] theorem modLnk_pwr (d : Dev) (l : Nat) (f : LinkSt → LinkSt) : (d.modLnk l f).pwr = d.pwr := rfl
@[simp] theorem modLnk_host (d : Dev) (l : Nat) (f : LinkSt → LinkSt) : (d.modLnk l f).host = d.host := rfl
@[simp] theorem modLnk_str (d : Dev) (l : Nat) (f : LinkSt → LinkSt) : (d.modLnk l f).str = d.str := rfl
@[simp] theorem modLnk_tal (d : Dev) (l : Nat) (f : LinkSt → LinkSt) : (d.modLnk l f).tal = d.tal := rfl
@[simp] theorem modLnk_mem (d : Dev) (l : Nat) (f : LinkSt → LinkSt) : (d.modLnk l f).mem = d.mem := rfl
@[simp] theorem modLnk_carts (d : Dev) (l : Nat) (f : LinkSt → LinkSt) : (d.modLnk l f).carts = d.carts := rfl
@[simp] theorem modLnk_twin (d : Dev) (l : Nat) (f : LinkSt → LinkSt) : (d.modLnk l f).twin = d.twin := rfl
@[simp] theorem modLnk_rings (d : Dev) (l : Nat) (f : LinkSt → LinkSt) : (d.modLnk l f).rings = d.rings := rfl
@[simp] theorem modLnk_dmv (d : Dev) (l : Nat) (f : LinkSt → LinkSt) : (d.modLnk l f).dmv = d.dmv := rfl
@[simp] theorem modLnk_noc (d : Dev) (l : Nat) (f : LinkSt → LinkSt) : (d.modLnk l f).noc = d.noc := rfl

@[simp] theorem modTwin_sn (d : Dev) (f : TwinSt → TwinSt) : (d.modTwin f).sn = d.sn := rfl
@[simp] theorem modTwin_regs (d : Dev) (f : TwinSt → TwinSt) : (d.modTwin f).regs = d.regs := rfl
@[simp] theorem modTwin_fresh (d : Dev) (f : TwinSt → TwinSt) : (d.modTwin f).fresh = d.fresh := rfl
@[simp] theorem modTwin_out (d : Dev) (f : TwinSt → TwinSt) : (d.modTwin f).out = d.out := rfl
@[simp] theorem modTwin_stc (d : Dev) (f : TwinSt → TwinSt) : (d.modTwin f).stc = d.stc := rfl
@[simp] theorem modTwin_frogs (d : Dev) (f : TwinSt → TwinSt) : (d.modTwin f).frogs = d.frogs := rfl
@[simp] theorem modTwin_nextFrog (d : Dev) (f : TwinSt → TwinSt) : (d.modTwin f).nextFrog = d.nextFrog := rfl
@[simp] theorem modTwin_bar (d : Dev) (f : TwinSt → TwinSt) : (d.modTwin f).bar = d.bar := rfl
@[simp] theorem modTwin_clk (d : Dev) (f : TwinSt → TwinSt) : (d.modTwin f).clk = d.clk := rfl
@[simp] theorem modTwin_pwr (d : Dev) (f : TwinSt → TwinSt) : (d.modTwin f).pwr = d.pwr := rfl
@[simp] theorem modTwin_host (d : Dev) (f : TwinSt → TwinSt) : (d.modTwin f).host = d.host := rfl
@[simp] theorem modTwin_str (d : Dev) (f : TwinSt → TwinSt) : (d.modTwin f).str = d.str := rfl
@[simp] theorem modTwin_tal (d : Dev) (f : TwinSt → TwinSt) : (d.modTwin f).tal = d.tal := rfl
@[simp] theorem modTwin_mem (d : Dev) (f : TwinSt → TwinSt) : (d.modTwin f).mem = d.mem := rfl
@[simp] theorem modTwin_carts (d : Dev) (f : TwinSt → TwinSt) : (d.modTwin f).carts = d.carts := rfl
@[simp] theorem modTwin_links (d : Dev) (f : TwinSt → TwinSt) : (d.modTwin f).links = d.links := rfl
@[simp] theorem modTwin_rings (d : Dev) (f : TwinSt → TwinSt) : (d.modTwin f).rings = d.rings := rfl
@[simp] theorem modTwin_dmv (d : Dev) (f : TwinSt → TwinSt) : (d.modTwin f).dmv = d.dmv := rfl
@[simp] theorem modTwin_noc (d : Dev) (f : TwinSt → TwinSt) : (d.modTwin f).noc = d.noc := rfl

@[simp] theorem modRings_sn (d : Dev) (f : Rings → Rings) : (d.modRings f).sn = d.sn := rfl
@[simp] theorem modRings_regs (d : Dev) (f : Rings → Rings) : (d.modRings f).regs = d.regs := rfl
@[simp] theorem modRings_fresh (d : Dev) (f : Rings → Rings) : (d.modRings f).fresh = d.fresh := rfl
@[simp] theorem modRings_out (d : Dev) (f : Rings → Rings) : (d.modRings f).out = d.out := rfl
@[simp] theorem modRings_stc (d : Dev) (f : Rings → Rings) : (d.modRings f).stc = d.stc := rfl
@[simp] theorem modRings_frogs (d : Dev) (f : Rings → Rings) : (d.modRings f).frogs = d.frogs := rfl
@[simp] theorem modRings_nextFrog (d : Dev) (f : Rings → Rings) : (d.modRings f).nextFrog = d.nextFrog := rfl
@[simp] theorem modRings_bar (d : Dev) (f : Rings → Rings) : (d.modRings f).bar = d.bar := rfl
@[simp] theorem modRings_clk (d : Dev) (f : Rings → Rings) : (d.modRings f).clk = d.clk := rfl
@[simp] theorem modRings_pwr (d : Dev) (f : Rings → Rings) : (d.modRings f).pwr = d.pwr := rfl
@[simp] theorem modRings_host (d : Dev) (f : Rings → Rings) : (d.modRings f).host = d.host := rfl
@[simp] theorem modRings_str (d : Dev) (f : Rings → Rings) : (d.modRings f).str = d.str := rfl
@[simp] theorem modRings_tal (d : Dev) (f : Rings → Rings) : (d.modRings f).tal = d.tal := rfl
@[simp] theorem modRings_mem (d : Dev) (f : Rings → Rings) : (d.modRings f).mem = d.mem := rfl
@[simp] theorem modRings_carts (d : Dev) (f : Rings → Rings) : (d.modRings f).carts = d.carts := rfl
@[simp] theorem modRings_links (d : Dev) (f : Rings → Rings) : (d.modRings f).links = d.links := rfl
@[simp] theorem modRings_twin (d : Dev) (f : Rings → Rings) : (d.modRings f).twin = d.twin := rfl
@[simp] theorem modRings_dmv (d : Dev) (f : Rings → Rings) : (d.modRings f).dmv = d.dmv := rfl
@[simp] theorem modRings_noc (d : Dev) (f : Rings → Rings) : (d.modRings f).noc = d.noc := rfl

@[simp] theorem modMover_sn (d : Dev) (ch : Nat) (f : Mover → Mover) : (d.modMover ch f).sn = d.sn := rfl
@[simp] theorem modMover_regs (d : Dev) (ch : Nat) (f : Mover → Mover) : (d.modMover ch f).regs = d.regs := rfl
@[simp] theorem modMover_fresh (d : Dev) (ch : Nat) (f : Mover → Mover) : (d.modMover ch f).fresh = d.fresh := rfl
@[simp] theorem modMover_out (d : Dev) (ch : Nat) (f : Mover → Mover) : (d.modMover ch f).out = d.out := rfl
@[simp] theorem modMover_stc (d : Dev) (ch : Nat) (f : Mover → Mover) : (d.modMover ch f).stc = d.stc := rfl
@[simp] theorem modMover_frogs (d : Dev) (ch : Nat) (f : Mover → Mover) : (d.modMover ch f).frogs = d.frogs := rfl
@[simp] theorem modMover_nextFrog (d : Dev) (ch : Nat) (f : Mover → Mover) : (d.modMover ch f).nextFrog = d.nextFrog := rfl
@[simp] theorem modMover_bar (d : Dev) (ch : Nat) (f : Mover → Mover) : (d.modMover ch f).bar = d.bar := rfl
@[simp] theorem modMover_clk (d : Dev) (ch : Nat) (f : Mover → Mover) : (d.modMover ch f).clk = d.clk := rfl
@[simp] theorem modMover_pwr (d : Dev) (ch : Nat) (f : Mover → Mover) : (d.modMover ch f).pwr = d.pwr := rfl
@[simp] theorem modMover_host (d : Dev) (ch : Nat) (f : Mover → Mover) : (d.modMover ch f).host = d.host := rfl
@[simp] theorem modMover_str (d : Dev) (ch : Nat) (f : Mover → Mover) : (d.modMover ch f).str = d.str := rfl
@[simp] theorem modMover_tal (d : Dev) (ch : Nat) (f : Mover → Mover) : (d.modMover ch f).tal = d.tal := rfl
@[simp] theorem modMover_mem (d : Dev) (ch : Nat) (f : Mover → Mover) : (d.modMover ch f).mem = d.mem := rfl
@[simp] theorem modMover_carts (d : Dev) (ch : Nat) (f : Mover → Mover) : (d.modMover ch f).carts = d.carts := rfl
@[simp] theorem modMover_links (d : Dev) (ch : Nat) (f : Mover → Mover) : (d.modMover ch f).links = d.links := rfl
@[simp] theorem modMover_twin (d : Dev) (ch : Nat) (f : Mover → Mover) : (d.modMover ch f).twin = d.twin := rfl
@[simp] theorem modMover_rings (d : Dev) (ch : Nat) (f : Mover → Mover) : (d.modMover ch f).rings = d.rings := rfl
@[simp] theorem modMover_noc (d : Dev) (ch : Nat) (f : Mover → Mover) : (d.modMover ch f).noc = d.noc := rfl

@[simp] theorem modNoc_sn (d : Dev) (f : NocSt → NocSt) : (d.modNoc f).sn = d.sn := rfl
@[simp] theorem modNoc_regs (d : Dev) (f : NocSt → NocSt) : (d.modNoc f).regs = d.regs := rfl
@[simp] theorem modNoc_fresh (d : Dev) (f : NocSt → NocSt) : (d.modNoc f).fresh = d.fresh := rfl
@[simp] theorem modNoc_out (d : Dev) (f : NocSt → NocSt) : (d.modNoc f).out = d.out := rfl
@[simp] theorem modNoc_stc (d : Dev) (f : NocSt → NocSt) : (d.modNoc f).stc = d.stc := rfl
@[simp] theorem modNoc_frogs (d : Dev) (f : NocSt → NocSt) : (d.modNoc f).frogs = d.frogs := rfl
@[simp] theorem modNoc_nextFrog (d : Dev) (f : NocSt → NocSt) : (d.modNoc f).nextFrog = d.nextFrog := rfl
@[simp] theorem modNoc_bar (d : Dev) (f : NocSt → NocSt) : (d.modNoc f).bar = d.bar := rfl
@[simp] theorem modNoc_clk (d : Dev) (f : NocSt → NocSt) : (d.modNoc f).clk = d.clk := rfl
@[simp] theorem modNoc_pwr (d : Dev) (f : NocSt → NocSt) : (d.modNoc f).pwr = d.pwr := rfl
@[simp] theorem modNoc_host (d : Dev) (f : NocSt → NocSt) : (d.modNoc f).host = d.host := rfl
@[simp] theorem modNoc_str (d : Dev) (f : NocSt → NocSt) : (d.modNoc f).str = d.str := rfl
@[simp] theorem modNoc_tal (d : Dev) (f : NocSt → NocSt) : (d.modNoc f).tal = d.tal := rfl
@[simp] theorem modNoc_mem (d : Dev) (f : NocSt → NocSt) : (d.modNoc f).mem = d.mem := rfl
@[simp] theorem modNoc_carts (d : Dev) (f : NocSt → NocSt) : (d.modNoc f).carts = d.carts := rfl
@[simp] theorem modNoc_links (d : Dev) (f : NocSt → NocSt) : (d.modNoc f).links = d.links := rfl
@[simp] theorem modNoc_twin (d : Dev) (f : NocSt → NocSt) : (d.modNoc f).twin = d.twin := rfl
@[simp] theorem modNoc_rings (d : Dev) (f : NocSt → NocSt) : (d.modNoc f).rings = d.rings := rfl
@[simp] theorem modNoc_dmv (d : Dev) (f : NocSt → NocSt) : (d.modNoc f).dmv = d.dmv := rfl

@[simp] theorem tallyAdd_sn (d : Dev) (p n k : Nat) : (d.tallyAdd p n k).sn = d.sn := by obtain ⟨_,_, h⟩ := tallyAdd_eq d p n k; rw [h]
@[simp] theorem tallyAdd_fresh (d : Dev) (p n k : Nat) : (d.tallyAdd p n k).fresh = d.fresh := by obtain ⟨_,_, h⟩ := tallyAdd_eq d p n k; rw [h]
@[simp] theorem tallyAdd_out (d : Dev) (p n k : Nat) : (d.tallyAdd p n k).out = d.out := by obtain ⟨_,_, h⟩ := tallyAdd_eq d p n k; rw [h]
@[simp] theorem tallyAdd_frogs (d : Dev) (p n k : Nat) : (d.tallyAdd p n k).frogs = d.frogs := by obtain ⟨_,_, h⟩ := tallyAdd_eq d p n k; rw [h]
@[simp] theorem tallyAdd_nextFrog (d : Dev) (p n k : Nat) : (d.tallyAdd p n k).nextFrog = d.nextFrog := by obtain ⟨_,_, h⟩ := tallyAdd_eq d p n k; rw [h]
@[simp] theorem tallyAdd_bar (d : Dev) (p n k : Nat) : (d.tallyAdd p n k).bar = d.bar := by obtain ⟨_,_, h⟩ := tallyAdd_eq d p n k; rw [h]
@[simp] theorem tallyAdd_clk (d : Dev) (p n k : Nat) : (d.tallyAdd p n k).clk = d.clk := by obtain ⟨_,_, h⟩ := tallyAdd_eq d p n k; rw [h]
@[simp] theorem tallyAdd_pwr (d : Dev) (p n k : Nat) : (d.tallyAdd p n k).pwr = d.pwr := by obtain ⟨_,_, h⟩ := tallyAdd_eq d p n k; rw [h]
@[simp] theorem tallyAdd_host (d : Dev) (p n k : Nat) : (d.tallyAdd p n k).host = d.host := by obtain ⟨_,_, h⟩ := tallyAdd_eq d p n k; rw [h]
@[simp] theorem tallyAdd_str (d : Dev) (p n k : Nat) : (d.tallyAdd p n k).str = d.str := by obtain ⟨_,_, h⟩ := tallyAdd_eq d p n k; rw [h]
@[simp] theorem tallyAdd_tal (d : Dev) (p n k : Nat) : (d.tallyAdd p n k).tal = d.tal := by obtain ⟨_,_, h⟩ := tallyAdd_eq d p n k; rw [h]
@[simp] theorem tallyAdd_mem (d : Dev) (p n k : Nat) : (d.tallyAdd p n k).mem = d.mem := by obtain ⟨_,_, h⟩ := tallyAdd_eq d p n k; rw [h]
@[simp] theorem tallyAdd_carts (d : Dev) (p n k : Nat) : (d.tallyAdd p n k).carts = d.carts := by obtain ⟨_,_, h⟩ := tallyAdd_eq d p n k; rw [h]
@[simp] theorem tallyAdd_links (d : Dev) (p n k : Nat) : (d.tallyAdd p n k).links = d.links := by obtain ⟨_,_, h⟩ := tallyAdd_eq d p n k; rw [h]
@[simp] theorem tallyAdd_twin (d : Dev) (p n k : Nat) : (d.tallyAdd p n k).twin = d.twin := by obtain ⟨_,_, h⟩ := tallyAdd_eq d p n k; rw [h]
@[simp] theorem tallyAdd_rings (d : Dev) (p n k : Nat) : (d.tallyAdd p n k).rings = d.rings := by obtain ⟨_,_, h⟩ := tallyAdd_eq d p n k; rw [h]
@[simp] theorem tallyAdd_dmv (d : Dev) (p n k : Nat) : (d.tallyAdd p n k).dmv = d.dmv := by obtain ⟨_,_, h⟩ := tallyAdd_eq d p n k; rw [h]
@[simp] theorem tallyAdd_noc (d : Dev) (p n k : Nat) : (d.tallyAdd p n k).noc = d.noc := by obtain ⟨_,_, h⟩ := tallyAdd_eq d p n k; rw [h]

@[simp] theorem tally_sn (d : Dev) (p ev k : Nat) : (d.tally p ev k).sn = d.sn := by obtain ⟨_,_, h⟩ := tally_eq d p ev k; rw [h]
@[simp] theorem tally_fresh (d : Dev) (p ev k : Nat) : (d.tally p ev k).fresh = d.fresh := by obtain ⟨_,_, h⟩ := tally_eq d p ev k; rw [h]
@[simp] theorem tally_out (d : Dev) (p ev k : Nat) : (d.tally p ev k).out = d.out := by obtain ⟨_,_, h⟩ := tally_eq d p ev k; rw [h]
@[simp] theorem tally_frogs (d : Dev) (p ev k : Nat) : (d.tally p ev k).frogs = d.frogs := by obtain ⟨_,_, h⟩ := tally_eq d p ev k; rw [h]
@[simp] theorem tally_nextFrog (d : Dev) (p ev k : Nat) : (d.tally p ev k).nextFrog = d.nextFrog := by obtain ⟨_,_, h⟩ := tally_eq d p ev k; rw [h]
@[simp] theorem tally_bar (d : Dev) (p ev k : Nat) : (d.tally p ev k).bar = d.bar := by obtain ⟨_,_, h⟩ := tally_eq d p ev k; rw [h]
@[simp] theorem tally_clk (d : Dev) (p ev k : Nat) : (d.tally p ev k).clk = d.clk := by obtain ⟨_,_, h⟩ := tally_eq d p ev k; rw [h]
@[simp] theorem tally_pwr (d : Dev) (p ev k : Nat) : (d.tally p ev k).pwr = d.pwr := by obtain ⟨_,_, h⟩ := tally_eq d p ev k; rw [h]
@[simp] theorem tally_host (d : Dev) (p ev k : Nat) : (d.tally p ev k).host = d.host := by obtain ⟨_,_, h⟩ := tally_eq d p ev k; rw [h]
@[simp] theorem tally_str (d : Dev) (p ev k : Nat) : (d.tally p ev k).str = d.str := by obtain ⟨_,_, h⟩ := tally_eq d p ev k; rw [h]
@[simp] theorem tally_tal (d : Dev) (p ev k : Nat) : (d.tally p ev k).tal = d.tal := by obtain ⟨_,_, h⟩ := tally_eq d p ev k; rw [h]
@[simp] theorem tally_mem (d : Dev) (p ev k : Nat) : (d.tally p ev k).mem = d.mem := by obtain ⟨_,_, h⟩ := tally_eq d p ev k; rw [h]
@[simp] theorem tally_carts (d : Dev) (p ev k : Nat) : (d.tally p ev k).carts = d.carts := by obtain ⟨_,_, h⟩ := tally_eq d p ev k; rw [h]
@[simp] theorem tally_links (d : Dev) (p ev k : Nat) : (d.tally p ev k).links = d.links := by obtain ⟨_,_, h⟩ := tally_eq d p ev k; rw [h]
@[simp] theorem tally_twin (d : Dev) (p ev k : Nat) : (d.tally p ev k).twin = d.twin := by obtain ⟨_,_, h⟩ := tally_eq d p ev k; rw [h]
@[simp] theorem tally_rings (d : Dev) (p ev k : Nat) : (d.tally p ev k).rings = d.rings := by obtain ⟨_,_, h⟩ := tally_eq d p ev k; rw [h]
@[simp] theorem tally_dmv (d : Dev) (p ev k : Nat) : (d.tally p ev k).dmv = d.dmv := by obtain ⟨_,_, h⟩ := tally_eq d p ev k; rw [h]
@[simp] theorem tally_noc (d : Dev) (p ev k : Nat) : (d.tally p ev k).noc = d.noc := by obtain ⟨_,_, h⟩ := tally_eq d p ev k; rw [h]

@[simp] theorem sendMsix_sn (d : Dev) (ld vec : Nat) : (d.sendMsix ld vec).sn = d.sn := by obtain ⟨_,_, h⟩ := sendMsix_eq d ld vec; rw [h]
@[simp] theorem sendMsix_regs (d : Dev) (ld vec : Nat) : (d.sendMsix ld vec).regs = d.regs := by obtain ⟨_,_, h⟩ := sendMsix_eq d ld vec; rw [h]
@[simp] theorem sendMsix_fresh (d : Dev) (ld vec : Nat) : (d.sendMsix ld vec).fresh = d.fresh := by obtain ⟨_,_, h⟩ := sendMsix_eq d ld vec; rw [h]
@[simp] theorem sendMsix_stc (d : Dev) (ld vec : Nat) : (d.sendMsix ld vec).stc = d.stc := by obtain ⟨_,_, h⟩ := sendMsix_eq d ld vec; rw [h]
@[simp] theorem sendMsix_frogs (d : Dev) (ld vec : Nat) : (d.sendMsix ld vec).frogs = d.frogs := by obtain ⟨_,_, h⟩ := sendMsix_eq d ld vec; rw [h]
@[simp] theorem sendMsix_nextFrog (d : Dev) (ld vec : Nat) : (d.sendMsix ld vec).nextFrog = d.nextFrog := by obtain ⟨_,_, h⟩ := sendMsix_eq d ld vec; rw [h]
@[simp] theorem sendMsix_clk (d : Dev) (ld vec : Nat) : (d.sendMsix ld vec).clk = d.clk := by obtain ⟨_,_, h⟩ := sendMsix_eq d ld vec; rw [h]
@[simp] theorem sendMsix_pwr (d : Dev) (ld vec : Nat) : (d.sendMsix ld vec).pwr = d.pwr := by obtain ⟨_,_, h⟩ := sendMsix_eq d ld vec; rw [h]
@[simp] theorem sendMsix_host (d : Dev) (ld vec : Nat) : (d.sendMsix ld vec).host = d.host := by obtain ⟨_,_, h⟩ := sendMsix_eq d ld vec; rw [h]
@[simp] theorem sendMsix_str (d : Dev) (ld vec : Nat) : (d.sendMsix ld vec).str = d.str := by obtain ⟨_,_, h⟩ := sendMsix_eq d ld vec; rw [h]
@[simp] theorem sendMsix_tal (d : Dev) (ld vec : Nat) : (d.sendMsix ld vec).tal = d.tal := by obtain ⟨_,_, h⟩ := sendMsix_eq d ld vec; rw [h]
@[simp] theorem sendMsix_mem (d : Dev) (ld vec : Nat) : (d.sendMsix ld vec).mem = d.mem := by obtain ⟨_,_, h⟩ := sendMsix_eq d ld vec; rw [h]
@[simp] theorem sendMsix_carts (d : Dev) (ld vec : Nat) : (d.sendMsix ld vec).carts = d.carts := by obtain ⟨_,_, h⟩ := sendMsix_eq d ld vec; rw [h]
@[simp] theorem sendMsix_links (d : Dev) (ld vec : Nat) : (d.sendMsix ld vec).links = d.links := by obtain ⟨_,_, h⟩ := sendMsix_eq d ld vec; rw [h]
@[simp] theorem sendMsix_twin (d : Dev) (ld vec : Nat) : (d.sendMsix ld vec).twin = d.twin := by obtain ⟨_,_, h⟩ := sendMsix_eq d ld vec; rw [h]
@[simp] theorem sendMsix_rings (d : Dev) (ld vec : Nat) : (d.sendMsix ld vec).rings = d.rings := by obtain ⟨_,_, h⟩ := sendMsix_eq d ld vec; rw [h]
@[simp] theorem sendMsix_dmv (d : Dev) (ld vec : Nat) : (d.sendMsix ld vec).dmv = d.dmv := by obtain ⟨_,_, h⟩ := sendMsix_eq d ld vec; rw [h]
@[simp] theorem sendMsix_noc (d : Dev) (ld vec : Nat) : (d.sendMsix ld vec).noc = d.noc := by obtain ⟨_,_, h⟩ := sendMsix_eq d ld vec; rw [h]

@[simp] theorem coreInterrupt_sn (d : Dev) (core page : Nat) : (d.coreInterrupt core page).sn = d.sn := by obtain ⟨_,_, h⟩ := coreInterrupt_eq d core page; rw [h]
@[simp] theorem coreInterrupt_regs (d : Dev) (core page : Nat) : (d.coreInterrupt core page).regs = d.regs := by obtain ⟨_,_, h⟩ := coreInterrupt_eq d core page; rw [h]
@[simp] theorem coreInterrupt_fresh (d : Dev) (core page : Nat) : (d.coreInterrupt core page).fresh = d.fresh := by obtain ⟨_,_, h⟩ := coreInterrupt_eq d core page; rw [h]
@[simp] theorem coreInterrupt_stc (d : Dev) (core page : Nat) : (d.coreInterrupt core page).stc = d.stc := by obtain ⟨_,_, h⟩ := coreInterrupt_eq d core page; rw [h]
@[simp] theorem coreInterrupt_frogs (d : Dev) (core page : Nat) : (d.coreInterrupt core page).frogs = d.frogs := by obtain ⟨_,_, h⟩ := coreInterrupt_eq d core page; rw [h]
@[simp] theorem coreInterrupt_nextFrog (d : Dev) (core page : Nat) : (d.coreInterrupt core page).nextFrog = d.nextFrog := by obtain ⟨_,_, h⟩ := coreInterrupt_eq d core page; rw [h]
@[simp] theorem coreInterrupt_bar (d : Dev) (core page : Nat) : (d.coreInterrupt core page).bar = d.bar := by obtain ⟨_,_, h⟩ := coreInterrupt_eq d core page; rw [h]
@[simp] theorem coreInterrupt_clk (d : Dev) (core page : Nat) : (d.coreInterrupt core page).clk = d.clk := by obtain ⟨_,_, h⟩ := coreInterrupt_eq d core page; rw [h]
@[simp] theorem coreInterrupt_host (d : Dev) (core page : Nat) : (d.coreInterrupt core page).host = d.host := by obtain ⟨_,_, h⟩ := coreInterrupt_eq d core page; rw [h]
@[simp] theorem coreInterrupt_str (d : Dev) (core page : Nat) : (d.coreInterrupt core page).str = d.str := by obtain ⟨_,_, h⟩ := coreInterrupt_eq d core page; rw [h]
@[simp] theorem coreInterrupt_tal (d : Dev) (core page : Nat) : (d.coreInterrupt core page).tal = d.tal := by obtain ⟨_,_, h⟩ := coreInterrupt_eq d core page; rw [h]
@[simp] theorem coreInterrupt_mem (d : Dev) (core page : Nat) : (d.coreInterrupt core page).mem = d.mem := by obtain ⟨_,_, h⟩ := coreInterrupt_eq d core page; rw [h]
@[simp] theorem coreInterrupt_carts (d : Dev) (core page : Nat) : (d.coreInterrupt core page).carts = d.carts := by obtain ⟨_,_, h⟩ := coreInterrupt_eq d core page; rw [h]
@[simp] theorem coreInterrupt_links (d : Dev) (core page : Nat) : (d.coreInterrupt core page).links = d.links := by obtain ⟨_,_, h⟩ := coreInterrupt_eq d core page; rw [h]
@[simp] theorem coreInterrupt_twin (d : Dev) (core page : Nat) : (d.coreInterrupt core page).twin = d.twin := by obtain ⟨_,_, h⟩ := coreInterrupt_eq d core page; rw [h]
@[simp] theorem coreInterrupt_rings (d : Dev) (core page : Nat) : (d.coreInterrupt core page).rings = d.rings := by obtain ⟨_,_, h⟩ := coreInterrupt_eq d core page; rw [h]
@[simp] theorem coreInterrupt_dmv (d : Dev) (core page : Nat) : (d.coreInterrupt core page).dmv = d.dmv := by obtain ⟨_,_, h⟩ := coreInterrupt_eq d core page; rw [h]
@[simp] theorem coreInterrupt_noc (d : Dev) (core page : Nat) : (d.coreInterrupt core page).noc = d.noc := by obtain ⟨_,_, h⟩ := coreInterrupt_eq d core page; rw [h]

@[simp] theorem pageInterrupt_sn (d : Dev) (p : Nat) : (d.pageInterrupt p).sn = d.sn := by obtain ⟨_,_,_,_,_, h⟩ := pageInterrupt_eq d p; rw [h]
@[simp] theorem pageInterrupt_fresh (d : Dev) (p : Nat) : (d.pageInterrupt p).fresh = d.fresh := by obtain ⟨_,_,_,_,_, h⟩ := pageInterrupt_eq d p; rw [h]
@[simp] theorem pageInterrupt_frogs (d : Dev) (p : Nat) : (d.pageInterrupt p).frogs = d.frogs := by obtain ⟨_,_,_,_,_, h⟩ := pageInterrupt_eq d p; rw [h]
@[simp] theorem pageInterrupt_nextFrog (d : Dev) (p : Nat) : (d.pageInterrupt p).nextFrog = d.nextFrog := by obtain ⟨_,_,_,_,_, h⟩ := pageInterrupt_eq d p; rw [h]
@[simp] theorem pageInterrupt_clk (d : Dev) (p : Nat) : (d.pageInterrupt p).clk = d.clk := by obtain ⟨_,_,_,_,_, h⟩ := pageInterrupt_eq d p; rw [h]
@[simp] theorem pageInterrupt_host (d : Dev) (p : Nat) : (d.pageInterrupt p).host = d.host := by obtain ⟨_,_,_,_,_, h⟩ := pageInterrupt_eq d p; rw [h]
@[simp] theorem pageInterrupt_str (d : Dev) (p : Nat) : (d.pageInterrupt p).str = d.str := by obtain ⟨_,_,_,_,_, h⟩ := pageInterrupt_eq d p; rw [h]
@[simp] theorem pageInterrupt_tal (d : Dev) (p : Nat) : (d.pageInterrupt p).tal = d.tal := by obtain ⟨_,_,_,_,_, h⟩ := pageInterrupt_eq d p; rw [h]
@[simp] theorem pageInterrupt_mem (d : Dev) (p : Nat) : (d.pageInterrupt p).mem = d.mem := by obtain ⟨_,_,_,_,_, h⟩ := pageInterrupt_eq d p; rw [h]
@[simp] theorem pageInterrupt_carts (d : Dev) (p : Nat) : (d.pageInterrupt p).carts = d.carts := by obtain ⟨_,_,_,_,_, h⟩ := pageInterrupt_eq d p; rw [h]
@[simp] theorem pageInterrupt_links (d : Dev) (p : Nat) : (d.pageInterrupt p).links = d.links := by obtain ⟨_,_,_,_,_, h⟩ := pageInterrupt_eq d p; rw [h]
@[simp] theorem pageInterrupt_twin (d : Dev) (p : Nat) : (d.pageInterrupt p).twin = d.twin := by obtain ⟨_,_,_,_,_, h⟩ := pageInterrupt_eq d p; rw [h]
@[simp] theorem pageInterrupt_rings (d : Dev) (p : Nat) : (d.pageInterrupt p).rings = d.rings := by obtain ⟨_,_,_,_,_, h⟩ := pageInterrupt_eq d p; rw [h]
@[simp] theorem pageInterrupt_dmv (d : Dev) (p : Nat) : (d.pageInterrupt p).dmv = d.dmv := by obtain ⟨_,_,_,_,_, h⟩ := pageInterrupt_eq d p; rw [h]
@[simp] theorem pageInterrupt_noc (d : Dev) (p : Nat) : (d.pageInterrupt p).noc = d.noc := by obtain ⟨_,_,_,_,_, h⟩ := pageInterrupt_eq d p; rw [h]

@[simp] theorem setPageBits_sn (d : Dev) (p mask : Nat) : (d.setPageBits p mask).sn = d.sn := by obtain ⟨_,_,_,_,_, h⟩ := setPageBits_eq d p mask; rw [h]
@[simp] theorem setPageBits_fresh (d : Dev) (p mask : Nat) : (d.setPageBits p mask).fresh = d.fresh := by obtain ⟨_,_,_,_,_, h⟩ := setPageBits_eq d p mask; rw [h]
@[simp] theorem setPageBits_frogs (d : Dev) (p mask : Nat) : (d.setPageBits p mask).frogs = d.frogs := by obtain ⟨_,_,_,_,_, h⟩ := setPageBits_eq d p mask; rw [h]
@[simp] theorem setPageBits_nextFrog (d : Dev) (p mask : Nat) : (d.setPageBits p mask).nextFrog = d.nextFrog := by obtain ⟨_,_,_,_,_, h⟩ := setPageBits_eq d p mask; rw [h]
@[simp] theorem setPageBits_clk (d : Dev) (p mask : Nat) : (d.setPageBits p mask).clk = d.clk := by obtain ⟨_,_,_,_,_, h⟩ := setPageBits_eq d p mask; rw [h]
@[simp] theorem setPageBits_host (d : Dev) (p mask : Nat) : (d.setPageBits p mask).host = d.host := by obtain ⟨_,_,_,_,_, h⟩ := setPageBits_eq d p mask; rw [h]
@[simp] theorem setPageBits_str (d : Dev) (p mask : Nat) : (d.setPageBits p mask).str = d.str := by obtain ⟨_,_,_,_,_, h⟩ := setPageBits_eq d p mask; rw [h]
@[simp] theorem setPageBits_tal (d : Dev) (p mask : Nat) : (d.setPageBits p mask).tal = d.tal := by obtain ⟨_,_,_,_,_, h⟩ := setPageBits_eq d p mask; rw [h]
@[simp] theorem setPageBits_mem (d : Dev) (p mask : Nat) : (d.setPageBits p mask).mem = d.mem := by obtain ⟨_,_,_,_,_, h⟩ := setPageBits_eq d p mask; rw [h]
@[simp] theorem setPageBits_carts (d : Dev) (p mask : Nat) : (d.setPageBits p mask).carts = d.carts := by obtain ⟨_,_,_,_,_, h⟩ := setPageBits_eq d p mask; rw [h]
@[simp] theorem setPageBits_links (d : Dev) (p mask : Nat) : (d.setPageBits p mask).links = d.links := by obtain ⟨_,_,_,_,_, h⟩ := setPageBits_eq d p mask; rw [h]
@[simp] theorem setPageBits_twin (d : Dev) (p mask : Nat) : (d.setPageBits p mask).twin = d.twin := by obtain ⟨_,_,_,_,_, h⟩ := setPageBits_eq d p mask; rw [h]
@[simp] theorem setPageBits_rings (d : Dev) (p mask : Nat) : (d.setPageBits p mask).rings = d.rings := by obtain ⟨_,_,_,_,_, h⟩ := setPageBits_eq d p mask; rw [h]
@[simp] theorem setPageBits_dmv (d : Dev) (p mask : Nat) : (d.setPageBits p mask).dmv = d.dmv := by obtain ⟨_,_,_,_,_, h⟩ := setPageBits_eq d p mask; rw [h]
@[simp] theorem setPageBits_noc (d : Dev) (p mask : Nat) : (d.setPageBits p mask).noc = d.noc := by obtain ⟨_,_,_,_,_, h⟩ := setPageBits_eq d p mask; rw [h]

end Sys2Proof.Machine.Dev
end

