-- ==== Sys2Proof/Laws/Regs.lean ====
section
/-! SUPPORT. What register writes and reads do: a field read after it was written, the words a write leaves alone, the words a Tally count can
change, and the register write that a page serves. -/

namespace Sys2Proof.Machine

/-! ### Fields of a number -/

theorem bits_lt (n l w : Nat) : bits n l w < 2 ^ w := Nat.mod_lt _ (Nat.two_pow_pos w)

/-- Reading the field that was replaced. -/
theorem bits_setBits (n l w v : Nat) : bits (setBits n l w v) l w = v % 2 ^ w := by
  have hl := Nat.two_pow_pos l
  have hw := Nat.two_pow_pos w
  unfold bits setBits
  rw [Nat.shiftRight_eq_div_pow, Nat.shiftRight_eq_div_pow, Nat.pow_add]
  have e : n % 2 ^ l + v % 2 ^ w * 2 ^ l + n / (2 ^ l * 2 ^ w) * (2 ^ l * 2 ^ w) =
      n % 2 ^ l + 2 ^ l * (v % 2 ^ w + 2 ^ w * (n / (2 ^ l * 2 ^ w))) := by ring
  rw [e, Nat.add_mul_div_left _ _ hl, Nat.div_eq_of_lt (Nat.mod_lt _ hl), Nat.zero_add, Nat.add_mul_mod_self_left]
  exact Nat.mod_eq_of_lt (Nat.mod_lt _ hw)

/-- A field within a word survives the cut to the word. -/
theorem bits_mod (n l w k : Nat) (h : l + w ≤ k) : bits (n % 2 ^ k) l w = bits n l w := by
  apply Nat.eq_of_testBit_eq
  intro i
  unfold bits
  simp only [Nat.testBit_mod_two_pow, Nat.testBit_shiftRight]
  by_cases hi : i < w
  · simp [hi, show l + i < k by omega]
  · simp [hi]

/-- A field apart from the one that was replaced. -/
theorem bits_setBits_ne (n l w v l' w' : Nat) (h : l' + w' ≤ l ∨ l + w ≤ l') : bits (setBits n l w v) l' w' = bits n l' w' := by
  unfold bits
  apply Nat.eq_of_testBit_eq
  intro i
  simp only [Nat.testBit_mod_two_pow, Nat.testBit_shiftRight]
  by_cases hi : i < w'
  · simp only [hi, decide_true, Bool.true_and]
    unfold setBits
    have e : n % 2 ^ l + v % 2 ^ w * 2 ^ l + n >>> (l + w) * 2 ^ (l + w) =
        2 ^ l * (2 ^ w * (n >>> (l + w)) + v % 2 ^ w) + n % 2 ^ l := by
      rw [Nat.pow_add]; ring
    rw [e, Nat.testBit_two_pow_mul_add _ (Nat.mod_lt _ (Nat.two_pow_pos l)), Nat.testBit_two_pow_mul_add _ (Nat.mod_lt _ (Nat.two_pow_pos w))]
    split
    · next h1 => simp [Nat.testBit_mod_two_pow, h1]
    · next h1 =>
      split
      · omega
      · rw [Nat.testBit_shiftRight]; congr 1; omega
  · simp [hi]

namespace Dev

/-! ### Words -/

@[simp] theorem word_eq (d : Dev) (p off : Nat) : d.word p off = d.wordAt (rkey p off) := rfl

theorem wordAt_setWord (d : Dev) (p off : Nat) (w : Word) (k : Nat) :
    (d.setWord p off w).wordAt k = if k = rkey p off then w else d.wordAt k := Laws.tget_tput _ _ _ _ _

/-- The word of a narrow field after the field was written. -/
theorem wordAt_set (d : Dev) (p : Nat) (f : Fld) (v k : Nat) (h : f.lsb + f.width ≤ 32) :
    (d.set p f v).wordAt k =
      if k = rkey p f.off then BitVec.ofNat 32 (setBits (d.wordAt k).toNat f.lsb f.width v) else d.wordAt k := by
  rw [set_narrow d p f v h, wordAt_setWord]
  split
  · next e => subst e; rfl
  · rfl

/-- A write of a field leaves every word but its own alone. -/
theorem wordAt_set_ne (d : Dev) (p : Nat) (f : Fld) (v k : Nat) (h1 : k ≠ rkey p f.off)
    (h2 : 32 < f.lsb + f.width → k ≠ rkey p (f.off + 4)) : (d.set p f v).wordAt k = d.wordAt k := by
  by_cases h : f.lsb + f.width ≤ 32
  · rw [wordAt_set d p f v k h, if_neg h1]
  · rw [set_wide d p f v h, wordAt_setWord, if_neg (h2 (by omega)), wordAt_setWord, if_neg h1]

/-- A field depends on its own words alone. -/
theorem get_congr {d d' : Dev} {p : Nat} {f : Fld} (h1 : d'.wordAt (rkey p f.off) = d.wordAt (rkey p f.off))
    (h2 : 32 < f.lsb + f.width → d'.wordAt (rkey p (f.off + 4)) = d.wordAt (rkey p (f.off + 4))) : d'.get p f = d.get p f := by
  unfold Dev.get
  by_cases h : f.lsb + f.width ≤ 32
  · rw [if_pos h, if_pos h, word_eq, word_eq, h1]
  · rw [if_neg h, if_neg h]
    unfold Dev.reg64
    rw [word_eq, word_eq, word_eq, word_eq, h1, h2 (by omega)]

/-- A narrow field reads as it was written. -/
theorem get_set (d : Dev) (p : Nat) (f : Fld) (v : Nat) (h : f.lsb + f.width ≤ 32) : (d.set p f v).get p f = v % 2 ^ f.width := by
  unfold Dev.get
  rw [if_pos h, word_eq, wordAt_set d p f v _ h, if_pos rfl, BitVec.toNat_ofNat, bits_mod _ _ _ _ h, bits_setBits]

/-- A write of a field leaves the fields of other words alone. -/
theorem get_set_ne (d : Dev) (p q : Nat) (f g : Fld) (v : Nat) (h1 : rkey q g.off ≠ rkey p f.off)
    (h2 : 32 < f.lsb + f.width → rkey q g.off ≠ rkey p (f.off + 4))
    (h3 : 32 < g.lsb + g.width → rkey q (g.off + 4) ≠ rkey p f.off ∧ (32 < f.lsb + f.width → rkey q (g.off + 4) ≠ rkey p (f.off + 4))) :
    (d.set p f v).get q g = d.get q g :=
  get_congr (wordAt_set_ne d p f v _ h1 h2) fun h => wordAt_set_ne d p f v _ (h3 h).1 (h3 h).2

/-- A write of a field leaves the other fields of its word alone. -/
theorem get_set_disjoint (d : Dev) (p : Nat) (f g : Fld) (v : Nat) (ho : g.off = f.off) (hf : f.lsb + f.width ≤ 32) (hg : g.lsb + g.width ≤ 32)
    (h : g.lsb + g.width ≤ f.lsb ∨ f.lsb + f.width ≤ g.lsb) : (d.set p f v).get p g = d.get p g := by
  unfold Dev.get
  rw [if_pos hg, if_pos hg, word_eq, word_eq, wordAt_set d p f v _ hf, if_pos (by rw [ho]), BitVec.toNat_ofNat, bits_mod _ _ _ _ hg, ho,
    bits_setBits_ne _ _ _ _ _ _ h]

@[simp] theorem flag_setFlag (d : Dev) (p : Nat) (f : Fld) (b : Bool) (h : f.lsb + f.width ≤ 32) (hw : f.width = 1) :
    (d.setFlag p f b).flag p f = b := by
  unfold Dev.flag Dev.setFlag
  rw [get_set d p f _ h, hw]
  cases b <;> rfl

/-! ### Words that a whole update keeps -/

theorem WordsKept.refl (d : Dev) (t : Nat → Prop) : WordsKept d d t := fun _ _ => rfl

theorem WordsKept.trans {a b c : Dev} {t : Nat → Prop} (h : WordsKept a b t) (h' : WordsKept b c t) : WordsKept a c t :=
  fun k hk => (h' k hk).trans (h k hk)

theorem WordsKept.of_regs {d d' : Dev} (t : Nat → Prop) (h : d'.regs = d.regs) : WordsKept d d' t := fun k _ => by unfold wordAt; rw [h]

theorem WordsKept.set {d : Dev} {t : Nat → Prop} (p : Nat) (f : Fld) (v : Nat) (h1 : t (rkey p f.off))
    (h2 : 32 < f.lsb + f.width → t (rkey p (f.off + 4))) : WordsKept d (d.set p f v) t := by
  intro k hk
  have hne : k ≠ rkey p f.off := fun e => hk (e ▸ h1)
  by_cases h : f.lsb + f.width ≤ 32
  · rw [wordAt_set d p f v k h, if_neg hne]
  · exact wordAt_set_ne d p f v k hne fun _ e => hk (e ▸ h2 (by omega))

theorem WordsKept.foldl {α : Type} {t : Nat → Prop} (f : Dev → α → Dev) (h : ∀ d x, WordsKept d (f d x) t) (l : List α) (d : Dev) :
    WordsKept d (l.foldl f d) t := by
  induction l generalizing d with
  | nil => exact WordsKept.refl d t
  | cons x l ih => exact (h d x).trans (ih (f d x))

/-! ### Tally counts -/

theorem latch_regs' (d : Dev) (i : Nat) : (d.latch i).regs = d.regs := latch_regs d i

theorem tallyAdd_kept (d : Dev) (p n k : Nat) (hn : n < 4) : WordsKept d (d.tallyAdd p n k) (tallyKey p) := by
  have hc : ∀ (x : Dev) v, WordsKept x (x.set p (F.TAL_CNT_COUNT.sh (8 * n)) v) (tallyKey p) := fun x v =>
    WordsKept.set p _ v (Or.inl (by simp only [rkey, F.TAL_CNT_COUNT, Fld.sh]; omega))
      fun _ => Or.inl (by simp only [rkey, F.TAL_CNT_COUNT, Fld.sh]; omega)
  have ho : ∀ (x : Dev) v, WordsKept x (x.set p F.TAL_OVF_OVF v) (tallyKey p) := fun x v =>
    WordsKept.set p _ v (Or.inr rfl) fun h => absurd h (by decide)
  unfold Dev.tallyAdd
  dsimp only
  split
  · exact hc d _
  · split
    · exact (hc d _).trans (ho _ _)
    · exact ((hc d _).trans (ho _ _)).trans (WordsKept.of_regs _ (latch_regs _ _))

/-- A Tally count of page `p` changes no register word but the page's counters and their overflow bits. -/
theorem tally_kept (d : Dev) (p ev k : Nat) : WordsKept d (d.tally p ev k) (tallyKey p) := by
  unfold Dev.tally
  have : ∀ l : List Nat, (∀ n ∈ l, n < 4) → ∀ d : Dev, WordsKept d (l.foldl (fun d n =>
      if d.get p (F.TAL_SEL_EVENT.sh (4 * n)) = ev then d.tallyAdd p n k else d) d) (tallyKey p) := by
    intro l
    induction l with
    | nil => exact fun _ d => WordsKept.refl d _
    | cons n l ih =>
      intro hl d
      rw [List.foldl_cons]
      refine WordsKept.trans ?_ (ih (fun m hm => hl m (List.mem_cons_of_mem _ hm)) _)
      split
      · exact tallyAdd_kept d p n k (hl n List.mem_cons_self)
      · exact WordsKept.refl d _
  exact this _ (fun n hn => List.mem_range.mp hn) d

/-- No register of a page's own block (offset 0x100 and above) is a Tally counter. -/
theorem not_tallyKey (p q off : Nat) (h1 : 0x100 ≤ off) (h2 : off < 4096) : ¬ tallyKey p (rkey q off) := by
  unfold tallyKey rkey; omega

/-- A Tally count leaves the fields of a page's own block alone. -/
theorem get_tally (d : Dev) (p ev k q : Nat) (f : Fld) (h1 : 0x100 ≤ f.off) (h2 : f.off + 4 < 4096) : (d.tally p ev k).get q f = d.get q f :=
  get_congr (tally_kept d p ev k _ (not_tallyKey p q _ h1 (by omega)))
    fun _ => tally_kept d p ev k _ (not_tallyKey p q _ (by omega) h2)

theorem flag_tally (d : Dev) (p ev k q : Nat) (f : Fld) (h1 : 0x100 ≤ f.off) (h2 : f.off + 4 < 4096) :
    (d.tally p ev k).flag q f = d.flag q f := by
  unfold Dev.flag; rw [get_tally d p ev k q f h1 h2]

/-! ### The register write that a page serves -/

theorem mayWritePage_tally (d : Dev) (p ev k : Nat) (a : Agent) (q off : Nat) :
    (d.tally p ev k).mayWritePage a q off = d.mayWritePage a q off := by
  unfold mayWritePage isMgmt pageMode pageOwner debugLevel
  rw [get_tally d p ev k _ F.GEN_MGMT_LD_MGMT (by decide) (by decide), get_tally d p ev k _ F.GEN_ACC_MODE (by decide) (by decide),
    get_tally d p ev k _ F.GEN_ACC_OWNER (by decide) (by decide), get_tally d p ev k _ F.DBG_STS_LEVEL (by decide) (by decide)]

theorem mayWriteReg_tally (d : Dev) (p ev k : Nat) (a : Agent) (who : Nat) :
    (d.tally p ev k).mayWriteReg a who = d.mayWriteReg a who := by
  unfold mayWriteReg isMgmt
  rw [get_tally d p ev k _ F.GEN_MGMT_LD_MGMT (by decide) (by decide)]

theorem domHeld_tally (d : Dev) (p ev k j : Nat) : (d.tally p ev k).domHeld j = d.domHeld j := by
  unfold domHeld domDown domGoing domOn
  rw [get_tally d p ev k _ F.PWR_DOM_STS_ON (by decide) (by decide), get_tally d p ev k _ F.PWR_STS_STATE (by decide) (by decide),
    flag_tally d p ev k _ F.PWR_STS_IN_PROGRESS (by decide) (by decide), flag_tally d p ev k _ F.PWR_STS_COMMITTED (by decide) (by decide),
    get_tally d p ev k _ F.PWR_TRIM_DOM_OFF (by decide) (by decide), tally_pwr]

theorem pageReady_tally (d : Dev) (p ev k q : Nat) : (d.tally p ev k).pageReady q = d.pageReady q := by
  unfold pageReady domOn
  rw [get_tally d p ev k _ F.PWR_DOM_STS_ON (by decide) (by decide), flag_tally d p ev k _ F.CRY_STS_KEYS_READY (by decide) (by decide),
    tally_pwr]

/-- Where a page serves a register write, the write counts it and has its effect. -/
theorem writeTo_serves (v : Nat) (a : Agent) (p off : Nat) (f : Effect) (d : Dev) (h : d.Serves a p off) :
    writeTo v a p off f d = f (d.wrote p) := by
  obtain ⟨h1, h2, h3, h4, h5⟩ := h
  unfold writeTo wrote
  simp only [mayWritePage_tally, mayWriteReg_tally, domHeld_tally, pageReady_tally, h2, h3, h4, h5, Option.isNone_eq_false_iff.mpr h1,
    Bool.and_self, Bool.not_true, Bool.false_eq_true, if_false, if_true]

end Dev

end Sys2Proof.Machine
end

