-- ==== Sys2Proof/WellFormed.lean ====
section
/-! DEFINITION. Which commands are well formed: every operand names something the device has. An operand of a mailbox command that the device
itself checks (R102) is not checked here: an ill-ranged one is an ordinary command with an answer of its own. -/

namespace Sys2Proof

namespace WellFormed

/-- The 64 logical devices (R83). -/
def inLd (n : Nat) : Bool := decide (n < 64)
/-- The 4 host ports (R76). -/
def inPort (n : Nat) : Bool := decide (n < 4)
/-- The two halves of a port, subchannels of a channel, or planes of a network. -/
def inHalf (n : Nat) : Bool := decide (n < 2)
/-- The 16 LD-IDs of a port (R83). -/
def inLdId (n : Nat) : Bool := decide (n < 16)
/-- The 16 Yarn ports. -/
def inYarn (n : Nat) : Bool := decide (n < 16)
/-- The 17 links of the Yarn type: the ports and the Hallway. -/
def inLink (n : Nat) : Bool := decide (n < 17)
/-- The pages of BAR2 (R49). -/
def inPage (n : Nat) : Bool := decide (n < 16384)
/-- The source indices of the STC. -/
def inSource (n : Nat) : Bool := decide (n < 2048)
/-- The words of STC_MASKED and STC_QUAR. -/
def inWord (n : Nat) : Bool := decide (n < 64)
/-- The 16 DDR5 channels. -/
def inDdr (n : Nat) : Bool := decide (n < 16)
/-- The 32 logical subchannels. -/
def inSub32 (n : Nat) : Bool := decide (n < 32)
/-- The ranks of a subchannel. -/
def inRank (n : Nat) : Bool := decide (n < 8)
/-- 32 banks in each rank. -/
def inBank (n : Nat) : Bool := decide (n < 256)
/-- The queue pairs and their slots. -/
def inPair (n : Nat) : Bool := decide (n < 8192)
/-- The channels of the Data Mover. -/
def inChannel64 (n : Nat) : Bool := decide (n < 64)
/-- The engines of the Data Mover. -/
def inEngine (n : Nat) : Bool := decide (n < 4)
/-- The timers of the Data Mover. -/
def inTimer (n : Nat) : Bool := decide (n < 32)
/-- The CMP instances: 64 compressors and 16 inline decompressors. -/
def inCmp (n : Nat) : Bool := decide (n < 80)
/-- The management cores. -/
def inCore (n : Nat) : Bool := decide (n < 4)
/-- The profiling counters of a core. -/
def inProf (n : Nat) : Bool := decide (n < 4)
/-- The power domains. -/
def inDomain (n : Nat) : Bool := decide (n < 29)
/-- The networks of the on-chip fabric. -/
def inNet (n : Nat) : Bool := decide (n < 4)
/-- The edge routers. -/
def inRouter (n : Nat) : Bool := decide (n < 24)
/-- The Tally counters of a page. -/
def inCounter (n : Nat) : Bool := decide (n < 4)
/-- The skeins of the window. -/
def inSkein (n : Nat) : Bool := decide (n < 2 ^ 31)
/-- The rooms of the window. -/
def inRoom (n : Nat) : Bool := decide (n < 2 ^ 22)
/-- A device address of a line. -/
def inDpa (n : Nat) : Bool := decide (n < 2 ^ 52) && n % 64 == 0

/-- R53: the widths of a register access. -/
def widthOk (w : Nat) : Bool := w == 1 || w == 2 || w == 4 || w == 8
/-- An offset in BAR2 or, from 2^32 on, in the BAR4 of an LD: its 8192 slots of 64 bytes (R339). -/
def offsetOk (o : Nat) : Bool := decide (o < 2 ^ 26) || decide (2 ^ 32 ≤ o ∧ o < 2 ^ 32 + 2 ^ 19)
/-- Who makes an access. -/
def agentOk : Agent → Bool
  | .ld n => inLd n
  | .core n => inCore n
  | .debug => true
  | .strongroom => true
/-- A CXL.mem request: a port, half and LD-ID that exist, the address of a line. -/
def reqOk (r : MemReq) : Bool := inPort r.port && inHalf r.half && inLdId r.ldId && r.addr % 64 == 0
/-- An input of STITCH_BOUNDARY: a source of R26. -/
def inputOk (x : InputSample) : Bool := inSource x.src && inCore x.core
/-- A line fault names a device of the ten of a subchannel's side-band and data, and at most nine candidates (R246). -/
def faultOk (f : LineFault) : Bool := decide (f.candidates ≤ 9) && decide (f.device < 10)
/-- A transport of SPDM messages. -/
def transportOk : Transport → Bool
  | .doe p => inLd p
  | .mctp => true
/-- A training proposal: speed, width and lane codes in range (R400). -/
def proposalOk (p : Proposal) : Bool := decide (p.speed < 4) && decide (p.width < 4)
/-- A HDM decoder: interleave ways of R88 and a position among them. -/
def decoderOk (h : HdmDecoder) : Bool := [1, 2, 3, 4, 6, 8, 12, 16].contains h.ways && decide (h.pos < h.ways)
/-- An extent of Dynamic Capacity is not empty. -/
def extentOk (e : DcExtent) : Bool := decide (0 < e.length)
/-- A Dynamic Capacity command of the FM API names an LD-ID. -/
def dcdOk : DcdCommand → Bool
  | .getInfo => true
  | .getConfig n => inLdId n
  | .setConfig n _ _ => inLdId n
  | .getExtents n => inLdId n
  | .add n es => inLdId n && es.all extentOk
  | .release n es => inLdId n && es.all extentOk

end WellFormed

open WellFormed in
/-- A command is well formed. -/
def Instr.wf (i : Instr) : Bool :=
  match i with
  | .stitchBoundary inputs _ => inputs.all inputOk
  | .eventDispatch => true
  | .stuckInputMask src => inSource src
  | .sourceQuarantine src => inSource src
  | .stcMaskedRelease a word _ => agentOk a && inWord word
  | .stcQuarRelease a word _ => agentOk a && inWord word
  | .referenceClockLoss => true
  | .gaugeWindowEnd mr4 => mr4.all (fun x => decide (x.ch < 16))
  | .registerWrite a off width _ => agentOk a && offsetOk off && widthOk width
  | .bar2Read a off width => agentOk a && offsetOk off && widthOk width
  | .bar2AccessComplete _ => true
  | .bar2DomainTimeout _ => true
  | .pgEnableWrite a page _ => agentOk a && inPage page
  | .pgFrogWrite a page => agentOk a && inPage page
  | .pgTestIntWrite a page _ => agentOk a && inPage page
  | .pgIntStsClear a page _ _ => agentOk a && inPage page
  | .pgIntEnWrite a page _ => agentOk a && inPage page
  | .pgIntSetWrite a page _ => agentOk a && inPage page
  | .genIrqRouteWrite a _ => agentOk a
  | .genAccWrite a _ => agentOk a
  | .genMgmtLdWrite a _ _ => agentOk a
  | .talSelWrite a page n _ => agentOk a && inPage page && inCounter n
  | .talClear a page n _ => agentOk a && inPage page && inCounter n
  | .talOvfClear a page _ _ => agentOk a && inPage page
  | .tallyCounterWrap page n _ => inPage page && inCounter n
  | .hostLinkUp port half _ _ _ => inPort port && inHalf half
  | .hostLinkDown port half => inPort port && inHalf half
  | .hostLinkChange port half _ _ => inPort port && inHalf half
  | .l0pRequest port half _ => inPort port && inHalf half
  | .hostL1ExitWake port half => inPort port && inHalf half
  | .conventionalReset port _ => inPort port
  | .perstDeassert port => inPort port
  | .functionLevelReset ld => inLd ld
  | .cxlReset ld _ => inLd ld
  | .cxlResetComplete ld => inLd ld
  | .ldBind port ldId => inPort port && inLdId ldId
  | .hdmDecoderCommit ld _ d => inLd ld && decoderOk d
  | .hpVecAllocWrite a port n _ => agentOk a && inPort port && inLdId n
  | .hpHdmAllocWrite a port n _ => agentOk a && inPort port && inLdId n
  | .ideIntegrityFailure port half => inPort port && inHalf half
  | .linkReplayThreshold port half _ => inPort port && inHalf half
  | .getLdInfo port => inPort port
  | .getLdAllocations port _ _ => inPort port
  | .setLdAllocations port _ _ => inPort port
  | .getQosControl port => inPort port
  | .setQosControl port _ => inPort port
  | .getQosStatus port => inPort port
  | .getQosAllocatedBw port _ _ => inPort port
  | .setQosAllocatedBw port _ _ => inPort port
  | .getQosBwLimit port _ _ => inPort port
  | .setQosBwLimit port _ _ => inPort port
  | .tunnelManagement port ldId _ => inPort port && inLdId ldId
  | .dcdManagement port c => inPort port && dcdOk c
  | .doeDiscovery ld _ => inLd ld
  | .cdatRead ld _ => inLd ld
  | .getEventRecords ld _ => inLd ld
  | .clearEventRecords ld _ _ _ => inLd ld
  | .getEventInterruptPolicy ld => inLd ld
  | .setEventInterruptPolicy ld _ => inLd ld
  | .getFwInfo ld => inLd ld
  | .transferFw ld _ _ _ => inLd ld
  | .activateFwOnReset ld _ => inLd ld
  | .activateFwOnline ld _ _ => inLd ld
  | .getTimestamp ld => inLd ld
  | .setTimestamp ld _ => inLd ld
  | .getSupportedLogs ld => inLd ld
  | .getLog ld _ _ _ => inLd ld
  | .getSupportedFeatures ld => inLd ld
  | .getFeature ld _ => inLd ld
  | .setFeature ld _ _ => inLd ld
  | .identifyMemoryDevice ld => inLd ld
  | .getHealthInfo ld => inLd ld
  | .getAlertConfiguration ld => inLd ld
  | .setAlertConfiguration ld _ => inLd ld
  | .sanitize ld => inLd ld
  | .secureErase ld => inLd ld
  | .backgroundCommandComplete ld => inLd ld
  | .getPoisonList ld _ _ => inLd ld
  | .injectPoison ld _ => inLd ld
  | .clearPoison ld _ _ => inLd ld
  | .poisonWriteVisible ld => inLd ld
  | .getScanMediaCapabilities ld _ _ => inLd ld
  | .scanMedia ld _ _ faults => inLd ld && faults.all (fun x => faultOk x.fault)
  | .getScanMediaResults ld => inLd ld
  | .getDcConfiguration ld => inLd ld
  | .getDcExtentList ld => inLd ld
  | .addDcResponse ld extents => inLd ld && extents.all extentOk
  | .releaseDc ld extents => inLd ld && extents.all extentOk
  | .unsupportedCommand ld _ => inLd ld
  | .getDeviceInfo ld _ => inLd ld
  | .getStitchNumber ld _ => inLd ld
  | .getStcSource ld _ _ => inLd ld
  | .setStcSource ld _ _ _ _ => inLd ld
  | .releaseStcSource ld _ _ _ _ => inLd ld
  | .getInterruptRoute ld _ _ => inLd ld
  | .setInterruptRoute ld _ _ _ => inLd ld
  | .getPageAccess ld _ _ => inLd ld
  | .setPageAccess ld _ _ _ => inLd ld
  | .frog ld _ _ _ => inLd ld
  | .getPortAllocation ld _ _ => inLd ld
  | .setPortAllocation ld _ _ entries => inLd ld && decide (entries.length ≤ 16)
  | .setManagementLds ld _ _ => inLd ld
  | .memRd r => reqOk r
  | .memRdData r => reqOk r
  | .memInv r => reqOk r
  | .memClnEvct r => reqOk r
  | .memSpecRd r => reqOk r
  | .memWr r _ _ => reqOk r
  | .memWrPtl r _ _ => reqOk r
  | .biConflict r => reqOk r
  | .biRsp ld _ => inLd ld
  | .unsupportedMemOpcode r _ => reqOk r
  | .patternMissInstall skein _ => inSkein skein
  | .dramLineCapture _ f => faultOk f
  | .macLateAlarm _ => true
  | .gateRelease sub => inSub32 sub
  | .ingressHoldRelease ld => inLd ld
  | .parkRelease _ => true
  | .backingWaitTimeout _ => true
  | .larderReadTimeout _ => true
  | .larderWriteTimeout _ => true
  | .biResponseTimeout ld _ => inLd ld
  | .roomRead a => agentOk a
  | .roomWrite a => agentOk a
  | .roomWriteComplete => true
  | .patCacheFlush a => agentOk a
  | .patCacheFlushDone _ => true
  | .patProbe a => agentOk a
  | .scannerVisit => true
  | .packTrialComplete skein _ => inSkein skein
  | .migrationStart => true
  | .copyPhaseEnd _ _ => true
  | .migrationSettle _ _ => true
  | .promotionRetry => true
  | .fetchBufferFreed => true
  | .framePressurePass => true
  | .squeezeWalk ld => inLd ld
  | .tirEvacRequest a _ => agentOk a
  | .fillEngineWindow => true
  | .fillSlotFreed => true
  | .compressorBlockDone inst _ => inCmp inst
  | .inlineDecompressorFree inst => inCmp inst
  | .reknitStart a => agentOk a
  | .reknitAutoStart => true
  | .reknitActivate => true
  | .reknitItem fault => faultOk fault
  | .reknitEnd => true
  | .reknitPauseWrite a _ => agentOk a
  | .ddrCommandSlot ch sub _ => inDdr ch && inHalf sub
  | .bankIdleClose ch sub bank => inDdr ch && inHalf sub && inBank bank
  | .refreshInterval ch sub rank => inDdr ch && inHalf sub && inRank rank
  | .oscillatorRead ch sub rank _ => inDdr ch && inHalf sub && inRank rank
  | .zqCalibration ch sub rank => inDdr ch && inHalf sub && inRank rank
  | .patrolScrub ch faults => inDdr ch && faults.all (fun x => faultOk x.fault)
  | .ddrAlert ch => inDdr ch
  | .replayComplete ch sub => inDdr ch && inHalf sub
  | .dcRestart a ch => agentOk a && inDdr ch
  | .pprStart a ch _ => agentOk a && inDdr ch
  | .pprComplete ch _ => inDdr ch
  | .rankSparingStart a ch _ => agentOk a && inDdr ch
  | .channelSparingStart a ch _ => agentOk a && inDdr ch
  | .spareCopyLine ch fault => inDdr ch && faultOk fault
  | .dcIlvEnable a _ => agentOk a
  | .dcChspareWrite a _ => agentOk a
  | .gauCommitGo a => agentOk a
  | .admissionCheckDone => true
  | .sqTailDoorbell ld slot _ => inLd ld && inPair slot
  | .cqHeadWrite ld slot _ => inLd ld && inPair slot
  | .ringEnable ld slot _ => inLd ld && inPair slot
  | .ringDisable ld slot _ => inLd ld && inPair slot
  | .qpAssignWrite a _ => agentOk a
  | .descriptorFetched pair f => inPair pair && faultOk f
  | .jobStart pair => inPair pair
  | .jobComplete _ f => faultOk f
  | .coalesceTimer pair => inPair pair
  | .noOp _ => true
  | .move _ faults => faults.all (fun x => faultOk x.fault)
  | .fill _ faults => faults.all (fun x => faultOk x.fault)
  | .compare _ faults => faults.all (fun x => faultOk x.fault)
  | .cableTransform _ faults => faults.all (fun x => faultOk x.fault)
  | .compress _ _ faults => faults.all (fun x => faultOk x.fault)
  | .decompress _ faults => faults.all (fun x => faultOk x.fault)
  | .promote _ => true
  | .demote _ => true
  | .pin _ => true
  | .unpin _ => true
  | .checksum _ faults => faults.all (fun x => faultOk x.fault)
  | .invalidOpcode _ => true
  | .dmvChannelEnable a _ => agentOk a
  | .dmvChannelDisable a _ => agentOk a
  | .dmvGo a _ => agentOk a
  | .dmvTimerFire t => inTimer t
  | .dmvBeat engine f => inEngine engine && faultOk f
  | .dmvRoundComplete ch f => inChannel64 ch && faultOk f
  | .yarnRxNop link _ => inLink link
  | .yarnRxNak link _ _ => inLink link
  | .yarnRxBadPacket link _ => inLink link
  | .yarnAckDue link => inLink link
  | .yarnReplayTimeout link => inLink link
  | .yarnDetectTimer link => inLink link
  | .yarnTs1Received link _ p => inLink link && proposalOk p
  | .yarnTs2Agreed link p => inLink link && proposalOk p
  | .yarnTrainTimeout link => inLink link
  | .yarnSilenceTimeout link => inLink link
  | .yarnLossOfLock link _ => inLink link
  | .yarnCtlRetrain a link => agentOk a && inLink link
  | .yarnCtlDown a link => agentOk a && inLink link
  | .yarnDozeEntry link _ => inLink link
  | .yarnWakeReceived link => inLink link
  | .yarnDozeResync link _ => inLink link
  | .yarnDomainPower domain _ => inDomain domain
  | .ctgAttachWrite a _ => agentOk a
  | .identify port _ _ => inYarn port
  | .cert port _ _ _ => inYarn port
  | .signature port _ _ => inYarn port
  | .cartridgeKeyResponse port _ _ => inYarn port
  | .ctgAttachTimeout port => inYarn port
  | .ctgAdmitWrite a _ => agentOk a
  | .yarnRxRsp port _ _ => inYarn port
  | .yarnRxData port _ lines => inYarn port && decide (lines.length ≤ 64)
  | .wear port _ _ => inYarn port
  | .retireAck port _ => inYarn port
  | .retireTimeout port => inYarn port
  | .reclaimWindow => true
  | .ctgTxnTimeout port _ => inYarn port
  | .wearPoll => true
  | .nocRtSwapWrite a => agentOk a
  | .nocEpochDrained => true
  | .nocRtCopy a => agentOk a
  | .nocRtFill a net plane => agentOk a && inNet net && inHalf plane
  | .nocPlaneCfgWrite a _ => agentOk a
  | .nocPlaneFault net plane _ => inNet net && inHalf plane
  | .nocHeaderError router _ _ _ => inRouter router
  | .nocWakeTimeout _ => true
  | .domainReady domain => inDomain domain
  | .trimmedDomainWake domain => inDomain domain
  | .fcuStsClear a word _ => agentOk a && inWord word
  | .fcuInject a _ => agentOk a
  | .frogComplete _ => true
  | .pwrModeRequest a _ _ => agentOk a
  | .coreWait core => inCore core
  | .hushEntryComplete => true
  | .trimEntryComplete => true
  | .recoverySleepEntry => true
  | .hushWake src => inSource src
  | .hushExitComplete => true
  | .powerTransitionOverrun _ => true
  | .vsenseCrossing _ => true
  | .wakeTimer => true
  | .mctpWake => true
  | .thermalTrip => true
  | .coldReset => true
  | .porRelease _ => true
  | .pllLock => true
  | .pllLockRetry => true
  | .bootStart => true
  | .bootRomDone _ => true
  | .trngDrawDone _ => true
  | .imageCheckDone => true
  | .coreRelease => true
  | .spdmGetVersion t => transportOk t
  | .spdmGetCapabilities t => transportOk t
  | .spdmNegotiateAlgorithms t _ => transportOk t
  | .spdmGetDigests t => transportOk t
  | .spdmGetCertificate t _ => transportOk t
  | .spdmChallenge t _ => transportOk t
  | .spdmGetMeasurements t _ _ => transportOk t
  | .spdmKeyExchange t _ _ => transportOk t
  | .spdmFinish _ _ => true
  | .spdmHeartbeat _ => true
  | .spdmKeyUpdate _ => true
  | .spdmEndSession _ => true
  | .getNonce _ => true
  | .takeOwnership _ _ => true
  | .transferOwnership _ _ => true
  | .release _ _ => true
  | .refurbish _ _ => true
  | .decommission _ _ => true
  | .debugUnlock _ => true
  | .installAnchor _ _ => true
  | .revokeAnchor _ _ => true
  | .commitSvn _ _ => true
  | .provision _ _ => true
  | .nonceExpiry _ => true
  | .activationPauseBegin => true
  | .actReadyWrite a => agentOk a
  | .activationResume => true
  | .activationRevert => true
  | .activationFail => true
  | .strRightRequest a _ => agentOk a
  | .dbgUnlock a _ => agentOk a
  | .dbgLock a => agentOk a
  | .dbgPortDisable a => agentOk a
  | .debugGrantExpiry => true
  | .dbgMemRead a _ f => agentOk a && faultOk f
  | .dbgMemWrite a _ f => agentOk a && faultOk f
  | .hello _ _ => true
  | .peerIdentityChallenge _ _ => true
  | .hallwayKey _ _ => true
  | .source _ _ => true
  | .pairingTimeout => true
  | .room _ drn _ _ => inRoom drn
  | .mwr _ _ => true
  | .mack _ _ => true
  | .syncLine _ _ => true
  | .lreq _ dpa => inDpa dpa
  | .syncDone _ => true
  | .syncAck _ => true
  | .paired _ => true
  | .twinResyncWindow => true
  | .mirrorRepairTimeout dpa => inDpa dpa
  | .heartbeatReceived _ => true
  | .heartbeatSilence => true
  | .hallwayDownLimit => true
  | .twinEnClear a _ => agentOk a
  | .twinWitnessWrite a _ _ => agentOk a
  | .twinDecision => true
  | .twinSolo => true
  | .twinForfeit a => agentOk a
  | .profCounterWrap core k _ _ => inCore core && inProf k
  | .profClear a core k _ => agentOk a && inCore core && inProf k
  | .referenceClockReturn => true
  | .hostLinkL1Entry port half => inPort port && inHalf half
  | .alertNRelease ch => inDdr ch
  | .msixVectorUnmask ld _ => inLd ld
  | .ideKeyManagement _ port half _ => inPort port && inHalf half
  | .fullEntryComplete => true

end Sys2Proof
end

