-- ==== Sys2Proof/Tests/Slice0.lean ====
section
/-! SUPPORT. The author's own tests: ill-formed terms that WellFormed refuses; for every statement with hypotheses a state and operands that meet
them, clause by clause (`witness_…`); and small checks of the tables, codes and single commands against the manual's tables. -/

set_option linter.all false
set_option Elab.async false

namespace Sys2Proof.Tests

open Sys2Proof Sys2Proof.Machine

/-! ### States to test on -/

/-- A device with its supply up, the fabric clock running and every domain powered and ready. -/
def up : Dev :=
  let d : Dev := {}
  { (d.set Pg.pwr F.PWR_DOM_STS_ON (2 ^ 29 - 1)) with
    clk := { porN := true, fabricOn := true, bootStep := 6 }, pwr := { ready := 2 ^ 29 - 1 } }

/-- A device with register fields set. -/
def sets (d : Dev) (l : List (Nat × Fld × Nat)) : Dev := l.foldl (fun d x => d.set x.1 x.2.1 x.2.2) d

/-- `up` with register fields set. -/
def upWith (l : List (Nat × Fld × Nat)) : Dev := sets up l

/-- A state with an empty queue. -/
def st (d : Dev) : State := { pending := [], dev := d }

/-- Management core 0. -/
def fw : Agent := .core 0

/-! ### Witnesses: the stitch clock -/

/-- Two waiting events, of categories 5 and 1. -/
def twoEvents : Dev :=
  { up with stc := { events := [⟨3, 0x480, 5, 0, 0, 0, 0xFF, 0⟩, ⟨4, 0x400, 1, 0, 0, 0, 0xFF, 0⟩] } }

theorem witness_StitchBoundaryAdvances :
    ((st { ({} : Dev) with clk := { porN := true, thermtrip := true } }).dev.clk.porN = true) ∧
    (let s := st { ({} : Dev) with clk := { porN := true } }
     s.dev.clk.thermtrip = false ∧ s.dev.clk.fabricOn = false ∧ s.dev.powerState ≠ 3 ∧ s.dev.stc.align = []) ∧
    (let d : Dev := { up with sn := 63 }
     let ended : Dev := { d.gaugePool.powerCommit.nops.waiters.tallyStitch.overrun with sn := d.sn + 1 }
     let written := (([] : List InputSample).foldl Dev.applyInput (ended.modStc fun x => { x with slot := 0, recordOnly := false })).commitWrites
     (written.injectBoundary.setLevel Src.pwrReady written.readyToStart).sampleAll.clk.fabricOn = true) := by
  decide +kernel

theorem witness_EventDispatchTakesOneSlot :
    (twoEvents.nextEvent.map (·.cat)) = some 1 ∧ twoEvents.clk.porN = true ∧ twoEvents.clk.thermtrip = false ∧ twoEvents.stc.slot < 64 := by
  decide +kernel

theorem witness_DispatchOrder : twoEvents.nextEvent.isSome = true ∧ twoEvents.stc.events.length = 2 := by decide +kernel

theorem witness_StitchClockCommandsComplete :
    (({ up with stc := { stuck := [2047] } } : Dev).stc.stuck.contains 2047 = true) ∧
    (({ up with stc := { fast := [0] } } : Dev).stc.fast.contains 0 = true) ∧
    up.Serves fw Pg.stc (0x400 + 4 * 63) ∧ up.Serves fw Pg.stc (0x500 + 4 * 63) ∧
    (({ ({} : Dev) with clk := { porN := true } } : Dev).clk.fabricOn = false) ∧
    (({ up with clk := { up.clk with refclk := false } } : Dev).clk.refclk = false) ∧
    (up.clk.fabricOn = true ∧ ({ up with sn := 64 } : Dev).windowDue = true) := by
  unfold Dev.Serves; decide +kernel

/-! ### Witnesses: registers -/

theorem witness_RegisterWriteStoresItsFields :
    let o := 4096 * Pg.pat + 0x130
    up.Serves fw (o / 4096) (o % 4096) ∧ ¬ (Dev.tallyKey (o / 4096) o) ∧ (pageKind (o / 4096)).isSome = true ∧
      (∃ r, findRow .pat (o % 4096) = some r ∧ r.bank = false ∧ r.al = false ∧ r.w1c = 0) ∧
      (up.wrote (o / 4096)).writeIgnored (o / 4096) (o % 4096) 5 = false := by
  refine ⟨by unfold Dev.Serves; decide +kernel, by unfold Dev.tallyKey; decide +kernel, by decide +kernel, ⟨_, rfl, by decide, by decide, by decide⟩,
    by decide +kernel⟩

/-- A device in which a read and a write of page DC0 wait for its domain. -/
def waiting : Dev :=
  { up with sn := 2000, bar := { waits := [⟨1, fw, 4096 * Pg.pat + 0x130, 4, none, 900⟩, ⟨2, fw, 4096 * Pg.hp 0 + 0x100, 4, some 5, 900⟩] } }

theorem witness_RegisterReadsAnswer :
    (let o := 4096 * Pg.pat + 0x130
     (pageKind (o / 4096)).isSome = true ∧ up.mayRead fw (o / 4096) = true ∧ up.domHeld (pageDomain (o / 4096)) = false ∧
       up.pageReady (o / 4096) = true ∧ Dev.readHasEffect (o / 4096) (o % 4096) = false) ∧
    (∃ w, waiting.bar.waits.find? (fun x => x.id = 1) = some w ∧ w.off < 2 ^ 32 ∧ w.off % 4 = 0 ∧ w.width = 4 ∧ w.write = none ∧
      waiting.domHeld (pageDomain (w.off / 4096)) = false ∧ waiting.pageReady (w.off / 4096) = true ∧
      Dev.readHasEffect (w.off / 4096) (w.off % 4096) = false) ∧
    (let d : Dev := { waiting with pwr := {} }
     ∃ w, d.bar.waits.find? (fun x => x.id = 2) = some w ∧ w.sn + 1024 ≤ d.sn ∧ d.pageReady (waitPage w.off) = false) := by
  refine ⟨by decide +kernel, ⟨_, rfl, by decide +kernel⟩, ⟨_, rfl, by decide +kernel⟩⟩

theorem witness_RegisterWriteDropped :
    ((pageKind Pg.pat).isSome = true ∧ ¬ ((2 : Nat) = 4)) ∧
    (let o := 4096 * Pg.stc + 0x10C
     up.mayWritePage (.ld 5) (o / 4096) (o % 4096) = false) ∧
    (let d : Dev := { up with pwr := {} }
     let o := 4096 * Pg.pat + 0x130
     d.mayWritePage fw (o / 4096) (o % 4096) = true ∧ d.mayWriteReg fw (Dev.whoOf (o / 4096) (o % 4096)) = true ∧
       d.domHeld (pageDomain (o / 4096)) = false ∧ d.pageReady (o / 4096) = false) := by
  decide +kernel

theorem witness_ReservedSlotsAreInert : (pageKind 0x3FFF).isNone = true ∧ (pageKind 0x4000).isNone = true ∧ (pageKind 0xFFFFF).isNone = true := by
  decide +kernel

theorem witness_HeaderWritesComplete :
    up.Serves fw Pg.pat 0x008 ∧ up.flag Pg.pat F.PG_CTL_FROG = false ∧ (upWith [(Pg.pat, F.PG_CTL_FROG, 1)]).Serves fw Pg.pat 0x008 ∧
      (upWith [(Pg.pat, F.PG_CTL_FROG, 1)]).flag Pg.pat F.PG_CTL_FROG = true ∧ Dev.frogPage (Pg.ldm 3) = true ∧ up.Serves fw (Pg.ldm 3) 0x008 ∧
      up.Serves fw Pg.pat 0x010 ∧ up.Serves fw Pg.pat 0x014 ∧ up.Serves fw Pg.pat 0x018 ∧ (pageKind Pg.pat).isSome = true := by
  unfold Dev.Serves; decide +kernel

theorem witness_PageInterruptGoesByItsRoute :
    (upWith [(Bk.route 7, F.GEN_IRQ_ROUTE_MASK, 1)]).flag (Bk.route 7) F.GEN_IRQ_ROUTE_MASK = true ∧
    (upWith [(Bk.route 7, F.GEN_IRQ_ROUTE_DEST, 0)]).get (Bk.route 7) F.GEN_IRQ_ROUTE_DEST = 0 ∧
    (up.flag (Bk.route 7) F.GEN_IRQ_ROUTE_MASK = false ∧ up.get (Bk.route 7) F.GEN_IRQ_ROUTE_DEST = 2 ∧ up.flag Pg.str F.STR_ACT_CTL_PAUSED = false) ∧
    (let d := upWith [(Bk.route 7, F.GEN_IRQ_ROUTE_DEST, 1), (Bk.route 7, F.GEN_IRQ_ROUTE_LD, 5), (Bk.route 7, F.GEN_IRQ_ROUTE_VECTOR, 127)]
     d.flag (Bk.route 7) F.GEN_IRQ_ROUTE_MASK = false ∧ d.get (Bk.route 7) F.GEN_IRQ_ROUTE_DEST = 1 ∧ 127 < d.msixCount 5) := by
  decide +kernel

theorem witness_TableAndTallyWritesComplete :
    (up.Serves fw Pg.gen 0x124 ∧ (pageKind (up.get Pg.gen F.GEN_IRQ_SEL_PAGE)).isSome = true) ∧
    (let d := upWith [(Pg.gen, F.GEN_ACC_SEL_PAGE, Pg.pat)]
     d.Serves fw Pg.gen 0x12C ∧ fixedAccess (d.get Pg.gen F.GEN_ACC_SEL_PAGE) = false) ∧
    up.Serves fw Pg.gen 0x130 ∧ up.Serves fw Pg.pat (0x80 + 4 * 3) ∧ up.Serves fw Pg.pat 0x0E0 ∧
    (let d := upWith [(Pg.pat, F.TAL_SEL_EVENT.sh 12, 4), (Pg.pat, F.TAL_CNT_COUNT.sh 24, 2 ^ 48 - 1)]
     d.counting Pg.pat = true ∧ d.get Pg.pat (F.TAL_SEL_EVENT.sh (4 * 3)) ≠ 0 ∧ 2 ^ 48 ≤ d.get Pg.pat (F.TAL_CNT_COUNT.sh (8 * 3)) + 1 ∧
       (d.get Pg.pat F.TAL_OVF_OVF).testBit 3 = false) ∧
    (let d := upWith [(Pg.mgc, F.MGC_PROF_CTL_EN.sh (profOff 3 + 4 * 3), 1)]
     d.pageReady Pg.mgc = true ∧ d.flag Pg.mgc (F.MGC_PROF_CTL_EN.sh (profOff 3 + 4 * 3)) = true ∧
       d.get Pg.mgc (F.MGC_PROF_CNT_COUNT.sh (profOff 3 + 8 * 3)) + 1 < 2 ^ 48 ∧
       2 ^ 48 ≤ d.get Pg.mgc (F.MGC_PROF_CNT_COUNT.sh (profOff 3 + 8 * 3)) + 2 ^ 48 ∧
       d.get Pg.mgc (F.MGC_PROF_OVF_OVF.sh (profOff 3)) = 0 ∧ d.flag Pg.mgc (F.MGC_PROF_CTL_INT_EN.sh (profOff 3 + 4 * 3)) = false) ∧
    (up.Serves fw Pg.mgc (0x200 + profOff 3 + 4 * 3) ∧ (0x400 : BitVec 32).getLsbD 10 = true) := by
  unfold Dev.Serves; decide +kernel

/-! ### Witnesses: host ports -/

/-- `up` with every host port out of reset. -/
def trainable : Dev := { up with clk := { up.clk with perstN := 15 } }

/-- A device with port 0 out of reset and its link up in MLD mode, LD 5 bound. -/
def linked : Dev :=
  let d := upWith [(Pg.hp 0, F.HP_LINK_STS_UP, 1), (Pg.hp 0, F.HP_LINK_STS_MLD, 1), (Pg.hp 0, F.HP_LD_BOUND_BOUND, 2 ^ 5)]
  let d : Dev := { d with clk := { d.clk with perstN := 15 }, host := { d.host with mboxReady := 15 } }
  d.modLink 0 0 fun l => { l with up := true, speed := 4, width := 16, mldCap := true, l1 := true, ide := [(0, 1)] }

theorem witness_HostLinkEventsComplete :
    (trainable.halfOk 3 0 = true ∧ trainable.portTrains 3 = true ∧ (trainable.link 3 0).up = false ∧ trainable.trainedOk 3 4 16 = true) ∧
    (linked.link 0 0).up = true ∧
    (linked.halfOk 0 0 = true ∧ linked.trainedOk 0 1 1 = true) ∧
    ((linked.link 0 0).speed = 4 ∧ linked.flag (Pg.hp 0) F.HP_CFG_L0P_EN = true ∧ 16 ∈ [1, 2, 4, 8, 16] ∧ 16 ≤ (linked.link 0 0).width) ∧
    (linked.link 0 0).aspmL1 = true ∧ (linked.link 0 0).l1 = true ∧ linked.pageReady (Pg.hp 0) = true := by
  decide +kernel

theorem witness_HostResetsAndAllocationsComplete :
    linked.domOn (21 + 3) = true ∧ linked.bound 5 = true ∧
    ((linked.modLd 5 fun l => { l with cxlReset := some true }).ld 5).cxlReset.isSome = true ∧
    (linked.split 0 = false ∧ linked.linkSts 0 0 F.HP_LINK_STS_UP = 1 ∧ linked.linkSts 0 0 F.HP_LINK_STS_MLD = 1) ∧
    (0 < linked.get (Pg.hp 0) (F.HP_HDM_ALLOC_COUNT.sh (4 * 5)) ∧ Dev.decoderOk ⟨0, 1, 16, 16384, 15, 0, false, false⟩ = true ∧
      (linked.ld 5).decoders.any (fun y => y.1 == 0 && y.2.lock) = false) ∧
    (linked.Serves fw (Pg.hp 0) (0x120 + 4 * 15) ∧ (linked.wrote (Pg.hp 0)).allocFree 0 15 = true ∧
      (linked.wrote (Pg.hp 0)).allocSum 0 F.HP_VEC_ALLOC_COUNT 15 128 ≤ 2048) ∧
    (linked.Serves fw (Pg.hp 0) (0x160 + 4 * 15) ∧ (linked.wrote (Pg.hp 0)).allocSum 0 F.HP_HDM_ALLOC_COUNT 15 1 ≤ 16) ∧
    127 < linked.msixCount 5 ∧
    (let d : Dev := { linked with str := { linked.str with sessions := [⟨1, .doe 5, true⟩] } }
     (d.session? 1).isSome = true ∧ d.halfOk 0 0 = true ∧ (d.link 0 0).up = true ∧ (d.ideStream 0 0 0).testBit 0 = true) := by
  unfold Dev.Serves; decide +kernel


/-! ### Witnesses: start-up, power, the network, Frog and the FCU -/

/-- A device that has completed step `k` of the boot chain. -/
def booted (k : Nat) : Dev := { up with clk := { up.clk with bootStep := k } }

/-- An image that an image slot holds. -/
def image : FwImage := ⟨1, 5, 0, 7, 0, 0xFF, true, true, true, true, true⟩

/-- A device past the commit point of a transition to state `t`, in Trim. -/
def moving (t : Nat) : Dev :=
  let d := upWith [(Pg.pwr, F.PWR_STS_IN_PROGRESS, 1), (Pg.pwr, F.PWR_STS_COMMITTED, 1), (Pg.pwr, F.PWR_STS_STATE, 1)]
  { d with pwr := { d.pwr with target := t } }

theorem witness_StartUpCommandsComplete :
    (({} : Dev).clk.porN = false ∧ (⟨0, false, false⟩ : Straps).vsGate = false) ∧
    (({ ({} : Dev) with clk := { porN := true } } : Dev).relocking = true) ∧
    (({ ({} : Dev) with sn := 7813, clk := { porN := true } } : Dev).relocking = true) ∧
    (let d : Dev := { up with clk := { up.clk with starting := true } }
     d.clk.porN = true ∧ d.clk.fabricOn = true ∧ d.clk.warmRstN = true ∧ d.clk.thermtrip = false) ∧
    (Dev.atStep 0 (booted 0) = true ∧ (booted 0).clk.gateHold = false ∧ 3 ≤ (booted 0).str.fuses.lcCopies) ∧
    Dev.atStep 1 (booted 1) = true ∧
    (Dev.atStep 2 (booted 2) = true ∧ (booted 2).lcState ≠ 4 ∧ (booted 2).clk.bootTried = 0 ∧ (booted 2).slotCheck 1 = some 1 ∧
      ({ booted 2 with str := { slot1 := ⟨some image, true⟩ } } : Dev).slotCheck 1 = none) ∧
    (let d : Dev := { booted 4 with clk := { (booted 4).clk with bootSlot := 1 }, str := { slot1 := ⟨some image, true⟩ } }
     Dev.atStep 4 d = true ∧ d.clk.testHold = false ∧ (d.slot 1).image = some image) ∧
    Dev.entering 3 (moving 3) = true := by
  decide +kernel

/-- A device in Hush with a waiting wake event, from source 0x441. -/
def hushed : Dev :=
  let d := upWith [(Pg.pwr, F.PWR_STS_STATE, 2), (Pg.pwr, F.PWR_WAKE_EN_EN, 2)]
  { d with stc := { events := [⟨1, 0x441, 4, 0, 0, 0, 0xFF, 0⟩] }, clk := { d.clk with fabricOn := false } }

theorem witness_PowerCommandsComplete :
    (up.Serves fw Pg.pwr 0x100 ∧ Nat.testBit 4 2 = true ∧ up.flag Pg.pwr F.PWR_STS_IN_PROGRESS = false) ∧
    (up.pageReady Pg.mgc = true ∧ ({ up with clk := { up.clk with coresRun := 8 } } : Dev).clk.coresRun.testBit 3 = true) ∧
    (let s := moving 2
     Dev.entering 2 s = true ∧ s.workEnded = true ∧ s.pwr.wakeAfter = none ∧
     let quiet := (List.range 16).foldl (fun d c => if d.domOn (5 + c) then d.selfRefresh c else d) s
     let dozing := (List.range 17).foldl (fun d l =>
       if d.linkActive l then (d.lset l (Dev.fState l) 5).modLnk l fun x => { x with stateSn := s.sn, waking := false } else d) quiet
     ((((({ dozing with clk := { dozing.clk with fabricOn := false } } : Dev).setReady (List.range 29) false).set
       Pg.pwr F.PWR_STS_STATE 2).set Pg.pwr F.PWR_STS_RETURN s.pwr.source).endTransition.heldWake).linkWakes = []) ∧
    Dev.entering 1 (moving 1) = true ∧ Dev.entering 0 (moving 0) = true ∧
    (hushed.powerState = 2 ∧ hushed.pwr.exiting = false ∧ hushed.wakeEnabled 0x441 = true ∧
      (hushed.stc.events.find? (fun x => x.src == 0x441)).isSome = true) ∧
    (let d : Dev := { hushed with pwr := { hushed.pwr with exiting := true } }
     d.powerState = 2 ∧ d.pwr.exiting = true) ∧
    ((moving 2).inTransition = true ∧ (moving 2).pwr.target = 2) ∧ up.clk.porN = true ∧
    (let d : Dev := { (upWith [(Pg.pwr, F.PWR_WAKE_SN_SN, 9)]) with sn := 9 }
     d.get Pg.pwr F.PWR_WAKE_SN_SN ≠ 0 ∧ d.sn = d.get Pg.pwr F.PWR_WAKE_SN_SN) := by
  unfold Dev.Serves; decide +kernel

/-- A read of LD 5 from port 0 at a stage. -/
def rq (stage : Stage) : Req := { id := 1, kind := .read, ld := 5, port := 0, half := 0, tag := 3, addr := 0, metaVal := .any, stage := stage }

/-- A read of LD 5 that waits for the FABRIC domain, which is off. -/
def sleeping : Dev :=
  let d := (upWith [(Pg.pwr, F.PWR_DOM_STS_ON, 2 ^ 29 - 1 - 4), (Pg.pwr, F.PWR_STS_STATE, 1), (Pg.pwr, F.PWR_TRIM_DOM_OFF, 2 ^ 28)])
  { d with sn := 9000, pwr := { ready := 2 ^ 28 - 1 - 4 },
           mem := { d.mem with reqs := [rq .domain] } }

theorem witness_NetworkFrogAndFcuCommandsComplete :
    up.Serves fw Pg.noc 0x108 ∧ (upWith [(Pg.noc, F.NOC_STS_DRAINING, 1)]).flag Pg.noc F.NOC_STS_DRAINING = true ∧
    (up.Serves fw Pg.noc 0x114 ∧ up.flag Pg.noc F.NOC_RT_CTL_SWAP = false) ∧
    (up.Serves fw Pg.noc 0x118 ∧ up.noc.old = none ∧ up.noc.live.selects 3 true = false ∧
      (clearBits (up.get Pg.noc F.NOC_PLANE_CFG_EN) 0x7F).testBit 7 = true) ∧
    up.get Pg.noc F.NOC_PLANE_THR_COUNT ≠ 0 ∧ up.pageReady Pg.noc = true ∧
    (sleeping.findReq 1 = some (rq .domain) ∧ sleeping.pageReady Pg.pat = false ∧ sleeping.domDown 2 = true ∧
      max 1 (sleeping.get Pg.noc F.NOC_WAKE_TO_STITCHES) ≤ sleeping.sn) ∧
    (let d : Dev := { up with pwr := { up.pwr with ready := 2 ^ 28 - 1 } }
     d.domOn 28 = true ∧ d.pwr.ready.testBit 28 = false) ∧
    (let d := (upWith [(Pg.pwr, F.PWR_DOM_STS_ON, 2 ^ 28 - 1), (Pg.pwr, F.PWR_STS_STATE, 1), (Pg.pwr, F.PWR_TRIM_DOM_OFF, 2 ^ 28)])
     d.powerState = 1 ∧ d.domOn 28 = false ∧ (d.get Pg.pwr F.PWR_TRIM_DOM_OFF).testBit 28 = true ∧ d.pwr.absent.testBit 28 = false) ∧
    (let d : Dev := { up with frogs := [⟨4, .page Pg.pat, none, 7⟩] }
     d.frogs.find? (fun x => x.id == 4 && x.acceptSn != 0) = some ⟨4, .page Pg.pat, none, 7⟩ ∧
       ∀ g ∈ d.frogs, g.acceptSn ≠ 0 → g.acceptSn ≤ 7 → d.frogCovers g.target (.page Pg.pat) = false ∧ ¬ (g.target = .page Pg.pat ∧ g.id < 4)) ∧
    up.Serves fw Pg.fcu (0x200 + 4 * 31) ∧ (up.Serves fw Pg.fcu 0x138 ∧ up.flag Pg.fcu F.FCU_INJ_GO = false) := by
  unfold Dev.Serves; decide +kernel

theorem witness_FcuFirstErrorCaptures : (⟨3, 0x005, 6, 7, 2, 9, 0x80, 1⟩ : Ev).sev < 8 := by decide

/-! ### Witnesses: mailboxes and the Fabric Manager -/

/-- `linked` with LD 5 a management LD that owns the four rooms of the window, and its first skein zero-backed in the Pattern cache. -/
def served : Dev :=
  let d := sets linked [(Pg.pat, F.PAT_CFG_TBL_VALID, 1), (Pg.cry, F.CRY_STS_KEYS_READY, 1), (Pg.pat, F.PAT_WIN_ROOMS_ROOMS, 4), (Pg.gen, F.GEN_MGMT_LD_MGMT, 2 ^ 5),
    (Pg.ldm 5, F.LDM_SEG_A_EN, 1), (Pg.ldm 5, F.LDM_SEG_A_ROOMS, 4)]
  { d with mem := { d.mem with pat := { d.mem.pat with cache := [⟨0, { state := St.zero, owner := 5 }, false, 0⟩] } },
           str := { d.str with slot1 := ⟨some image, true⟩ } }

/-- `served` with the record of LD 5 changed. -/
def ldIs (f : Ld → Ld) : Dev := served.modLd 5 f

theorem witness_MailboxStandardCommandsComplete :
    served.Hears 5 ∧ served.isMgmt 5 = true ∧ served.slotFree 1 = true ∧ served.slotFree 2 = true ∧ served.imageCheck image = none ∧
    served.imageCheck { image with svn := 65 } = some 1 ∧ (served.slot 1).checked = true ∧ served.fatal = false ∧ served.lcBusy = false := by
  unfold Dev.Hears; decide +kernel

theorem witness_MailboxMediaCommandsComplete :
    (served.Hears 5 ∧ (served.ld 5).background = none) ∧
    ((ldIs fun l => { l with background := some .sanitize }).ld 5).background = some .sanitize ∧
    ((ldIs fun l => { l with background := some (.scan [64]) }).ld 5).background = some (.scan [64]) ∧
    (served.mediaCheck 5 0 (Dev.mediaLines 0 1)).1 = true ∧
    ((served.ringCheck (Dev.mediaWho 5 2) 0 2).1 = some 0 ∧ (served.ringCheck (Dev.mediaWho 5 2) 0 2).2.isViral 5 = false) ∧
    (let d := ldIs fun l => { l with poisonWait := some (true, 64) }
     (d.ld 5).poisonWait = some (true, 64) ∧ (d.mem.reqs.any fun r => r.mbox && r.ld == 5) = false ∧ (d.ld 5).poisonFailed = false) ∧
    ((served.mediaCheck 5 8 (Dev.mediaLines 0 1)).1 = true ∧ (((served.mediaCheck 5 8 (Dev.mediaLines 0 1)).2).ld 5).background = none) ∧
    (let d := ldIs fun l => { l with dcOffered := [⟨0, 2 ^ 22⟩] }
     d.Hears 5 ∧ Dev.extOk ⟨2 ^ 21, 2 ^ 21⟩ = true ∧ Dev.extWithin (d.ld 5).dcOffered ⟨2 ^ 21, 2 ^ 21⟩ = true) ∧
    (let d := ldIs fun l => { l with dcAccepted := [⟨0, 2 ^ 21⟩, ⟨2 ^ 21, 2 ^ 21⟩] }
     d.Hears 5 ∧ Dev.extOk ⟨0, 2 ^ 22⟩ = true ∧ Dev.extCovered (d.ld 5).dcAccepted ⟨0, 2 ^ 22⟩ = true) := by
  unfold Dev.Hears; decide +kernel

theorem witness_VendorCommandChecks :
    (served.Hears 5 ∧ served.isMgmt 5 = true) ∧
    (let d := served.set Pg.gen F.GEN_MGMT_LD_MGMT (2 ^ 4)
     d.Hears 5 ∧ d.isMgmt 5 = false) := by
  unfold Dev.Hears; decide +kernel

theorem witness_VendorCommandsComplete :
    served.Hears 5 ∧ served.isMgmt 5 = true ∧ (pageKind 0x3FFF).isSome = false ∧ (pageKind Pg.pat).isSome = true ∧ fixedAccess Pg.pat = false ∧
    Dev.frogTarget 0 8191 = some (.ring 8191) ∧ Dev.frogTarget 2 4095 = some (.migration 4095) ∧ Dev.frogTarget 3 63 = some (.page (Pg.ldm 63)) ∧
    served.allocOk 3 (List.replicate 16 ⟨0, 0, false⟩) = true ∧ (1 : BitVec 64) ≠ 0 := by
  unfold Dev.Hears; decide +kernel

theorem witness_FabricManagerCommandsComplete :
    served.FmHears 0 ∧ (0 < 1 ∧ 15 + 1 ≤ 16) ∧ (2 ^ 14 - 1 < 2 ^ 14) ∧ ((30 : Nat) ≤ 100 ∧ 0 < 15 ∧ 15 < 16) ∧
    (let d := (List.range 16).foldl (fun d c => d.set (Pg.dc c) F.DC_PLAN_DELIVER 40) (served.setFlag (Pg.dc 0) F.DC_ILV_EN true)
     d.FmHears 0 ∧ d.flag Pg.gau F.GAU_COMMIT_BUSY = false ∧
     let t := tmod (fun _ => (0, 0)) d.baseSet.budgets (Dev.kitchen 5) fun y => (d.fracLines 5 0, y.2)
     let b : BudgetSet := ⟨d.baseSet.adm, t⟩
     (d.admitSet b).1 = 0) ∧
    (let l := (ldIs fun l => { l with dcRegions := [⟨0, 2 ^ 22⟩] }).ld 5
     Dev.dcFits l [⟨2 ^ 21, 2 ^ 21⟩] = true) ∧
    (served.doeHeard 5 = true ∧ served.host.mboxReady.testBit 0 = true ∧ 0 < (served.cdat 5).length) := by
  unfold Dev.FmHears; decide +kernel

/-! ### DRAM -/

/-- `served` with 16 trained channels behind a 32-way interleave of 1 GiB each, whose first frame is the Device's, and a stitch's allowances. -/
def dram : Dev :=
  let d := (List.range 16).foldl (fun d c => (d.set (Pg.dc c) F.DC_CFG_TRAINED 1).set (Pg.dc c) F.PG_CTL_ENABLE 1) served
  let d := sets d [(Pg.dc 0, F.DC_ILV_EN, 1), (Pg.dc 0, F.DC_ILV_WLOG, 5), (Pg.dc 0, F.DC_ILV_LSIZE, 1), (Bk.right 4, F.CRY_RIGHT_VALID, 1),
    (Bk.right 4, F.CRY_RIGHT_MASTER, 0x84), (Bk.right 4, F.CRY_RIGHT_SPACE, 1), (Bk.right 4, F.CRY_RIGHT_RIGHT, 3)]
  d.modGau fun g => { g with allow := (List.range 256).map fun k => (k, 4) }

/-- A line that is read without a fault. -/
def noFault : LineFault := ⟨true, true, 0, 0⟩

/-- An access that ends at once. -/
def ends {α : Type} : Got α → Bool
  | .done _ _ => true
  | _ => false

/-! ### Witnesses: the Strongroom, live activation and debug -/

/-- A device whose Strongroom serves, with an SPDM session finished on a management core's transport and a nonce outstanding. -/
def secure (f : Fuses) : Dev :=
  { booted 6 with str := { fuses := f, sessions := [⟨1, .mctp, true⟩, ⟨2, .mctp, false⟩], nonces := [(1, 0, 0)], spdmState := [(.mctp, 3)],
                           running := some image } }

/-- A request of session 1 with its nonce, signed by a key whose hash is `signer` (1 the release key, 2 the manufacturing key). -/
def asks (signer : BitVec 256) : SecureReq := ⟨1, Config.nonce 0, true, signer, true, 0, 3, 0, 0, 9⟩

/-- Fuses of a device in Deployed, whose owner's hash is 7. -/
def deployed : Fuses := { lcLog := [1, 2], owners := [(7, true)] }

theorem witness_SpdmCommandsComplete :
    let d := secure deployed
    d.spdmServes = true ∧ 3 ≤ d.spdmStep .mctp ∧ d.lcState ≠ 4 ∧ (certSlots d).testBit 1 = true ∧ d.str.sessions.length < 8 ∧
    (d.str.sessions.any fun x => x.id == 2 && !x.finished) = true ∧ d.session? 1 = some ⟨1, .mctp, true⟩ ∧ d.secureTransport .mctp = true := by
  decide +kernel

/-- The nonce of `asks` holds in `secure`. -/
theorem asks_nonce (f : Fuses) (q : BitVec 256) : (secure f).nonceValid (asks q).session (asks q).nonce = true := by
  simp [Dev.nonceValid, secure, asks, booted, up]

/-- What every life-cycle and fuse request of `asks` meets in `secure`. -/
theorem asks_heard (q : BitVec 256) : (secure deployed).secureHeard (asks q) = true ∧ (asks q).signatureOk = true ∧ (secure deployed).lcBusy = false := by
  refine ⟨rfl, rfl, by decide +kernel⟩

theorem witness_LifeCycleTransitionsFollowTheTable :
    ((secure deployed).secureHeard (asks 7) = true ∧ (secure deployed).nonceValid (asks 7).session (asks 7).nonce = true ∧
      (secure deployed).lcBusy = false) ∧
    (let d := secure { lcLog := [] }
     d.lcState = 0 ∧ d.signerOf true 2 = 1) ∧
    (let d := secure { lcLog := [1] }
     d.lcState = 1 ∧ d.str.fuses.owners.length < 8) ∧
    (let d := secure deployed
     d.lcState = 2 ∧ d.signerOf true 7 = 2 ∧ d.str.fuses.owners.length < 8) ∧
    (let d := secure { lcLog := [1, 2, 3], refurb := 2 }
     d.lcState = 3 ∧ d.signerOf true 1 = 1 ∧ d.str.fuses.refurb < 3) ∧
    (let d := secure { lcLog := [1, 2, 3], refurb := 3 }
     d.lcState = 3 ∧ d.signerOf true 1 = 1 ∧ 3 ≤ d.str.fuses.refurb) ∧
    (let d := secure { lcLog := [1, 2], owners := List.replicate 8 (7, true) }
     d.lcState = 2 ∧ d.signerOf true 7 = 2 ∧ 8 ≤ d.str.fuses.owners.length) ∧
    (let d := secure { lcLog := [1], owners := List.replicate 8 (7, true) }
     d.lcState = 1 ∧ 8 ≤ d.str.fuses.owners.length) ∧
    (let d := secure { lcLog := List.replicate 32 2, owners := [(7, true)] }
     d.lcState = 2 ∧ d.signerOf true 7 = 2 ∧ 32 ≤ d.str.fuses.lcLog.length) ∧
    (let d := secure { lcLog := [1, 4] }
     d.lcState = 4) :=
  ⟨⟨(asks_heard 7).1, asks_nonce _ _, (asks_heard 7).2.2⟩, by decide +kernel⟩

theorem witness_FuseRequestsComplete :
    ((secure deployed).secureHeard (asks 7) = true ∧ (secure deployed).nonceValid (asks 7).session (asks 7).nonce = true ∧
      (secure deployed).lcBusy = false) ∧
    (let d := secure { deployed with anchors := List.replicate 7 (5, false) }
     d.lcState = 2 ∧ d.signerOf true 7 = 2 ∧ d.str.fuses.anchors.length < 8 ∧ 6 < d.str.fuses.anchors.length ∧ d.str.fuses.lcLog.length < 32 ∧
       d.str.running = some image) ∧
    (let d := secure { lcLog := [] }
     d.lcState = 0 ∧ d.signerOf true 2 = 1) :=
  ⟨⟨(asks_heard 7).1, asks_nonce _ _, (asks_heard 7).2.2⟩, by decide +kernel⟩

/-- A device at SN 20000 in the pause of a live activation from slot 2 that began at P = 1. -/
def paused (ready reverted : Bool) : Dev :=
  let d := upWith [(Pg.str, F.STR_ACT_CTL_PAUSED, 1), (Pg.str, F.STR_ACT_SN_SN, 1)]
  { d with sn := 20000, str := { slot2 := ⟨some image, true⟩, activation := some ⟨2, 5, ready, 19999, reverted⟩ } }

theorem witness_LiveActivationCommandsComplete :
    (let d := upWith [(Pg.str, F.STR_ACT_CTL_PENDING, 1)]
     d.flag Pg.str F.STR_ACT_CTL_PENDING = true ∧ d.actP ≤ d.sn) ∧
    ((paused false false).Serves fw Pg.str 0x128 ∧ (paused false false).flag Pg.str F.STR_ACT_CTL_PAUSED = true) ∧
    (let s := paused true false
     let d : Dev := { s with str := { s.str with running := some image, activeSlot := 2, loaded := s.str.loaded ++ [image.digest] } }
     let e := ((d.set Pg.str F.STR_FW_SLOT_RUNNING 2).set Pg.str F.STR_FW_SLOT_STAGED 0).endPause Src.fwActivated
     (s.slot 2).image = some image ∧ 19999 < s.sn ∧ e.flag Pg.str F.STR_ACT_CTL_PAUSED = false ∧ e.host.held = []) ∧
    ((paused false false).actP + 11719 ≤ (paused false false).sn) ∧
    (let s := paused false true
     let e := (s.endPause Src.fwReverted).raise Src.fwActFailed s.actP 0x85 0
     s.actP + 15625 ≤ s.sn ∧ e.flag Pg.str F.STR_ACT_CTL_PAUSED = false ∧ e.host.held = []) := by
  unfold Dev.Serves; decide +kernel

theorem witness_NoncesAndRightsComplete : up.Serves fw Pg.str 0x160 ∧ Nat.testBit 0x13B 8 = true := by unfold Dev.Serves; decide +kernel

/-- Little-endian bytes of a number are read back. -/
theorem bytes_read (m n : Nat) : Sm3.ofBytesLE ((List.range m).map fun k => n / 256 ^ k % 256) = n % 256 ^ m := by
  induction m generalizing n with
  | zero => simp [Sm3.ofBytesLE, Nat.mod_one]
  | succ m ih =>
    have h := ih (n / 256)
    simp only [Sm3.ofBytesLE] at h ⊢
    rw [List.range_succ_eq_map]
    simp only [List.map_cons, List.map_map, List.foldr_cons, pow_zero, Nat.div_one]
    have e : ((fun k => n / 256 ^ k % 256) ∘ Nat.succ) = fun k => n / 256 / 256 ^ k % 256 := by
      funext k; simp [Nat.pow_succ', Nat.div_div_eq_div_mul]
    rw [e, h, Nat.pow_succ', Nat.mod_mul]

/-- A DBG_TOKEN that holds operation 7 and nonce `n`. -/
def tokenOf (n : Nat) : Tbl Word :=
  [(0, 7), (1, .ofNat 32 n), (2, .ofNat 32 (n / 256 ^ 4)), (3, .ofNat 32 (n / 256 ^ 8)), (4, .ofNat 32 (n / 256 ^ 12)),
    (5, .ofNat 32 (n / 256 ^ 16)), (6, .ofNat 32 (n / 256 ^ 20)), (7, .ofNat 32 (n / 256 ^ 24)), (8, .ofNat 32 (n / 256 ^ 28))]

theorem token_nonce (d : Dev) (n : BitVec 256) (h : d.bar.token = tokenOf n.toNat) : BitVec.ofNat 256 (d.tokenField 4 32) = n := by
  have b : (List.range 32).map (fun k => d.tokenByte (4 + k)) = (List.range 32).map fun k => n.toNat / 256 ^ k % 256 := by
    apply List.map_congr_left
    intro k hk
    have hk : k < 32 := List.mem_range.mp hk
    have hn := n.isLt
    simp only [Dev.tokenByte, h]
    generalize n.toNat = m at hn ⊢
    interval_cases k <;> simp [tokenOf, tget, BitVec.toNat_ofNat, Nat.shiftRight_eq_div_pow] <;> omega
  rw [Dev.tokenField, b, bytes_read, Nat.mod_eq_of_lt (by simpa using n.isLt)]
  simp

/-- A device with the debug port attached, a token that answers its nonce, and no signature on it. -/
def debugging : Dev := { up with bar := { token := tokenOf (Config.nonce 0).toNat } }

theorem witness_DebugCommandsComplete_nonce :
    let d := (debugging.portUsed .debug).wrote Pg.dbg
    BitVec.ofNat 256 (d.tokenField 4 32) = Config.nonce d.str.dbgNonce := token_nonce _ _ rfl

theorem witness_DebugCommandsComplete :
    ((secure deployed).secureHeard (asks 7) = true ∧ (secure deployed).nonceValid (asks 7).session (asks 7).nonce = true) ∧
    (secure deployed).unlockLevel true 7 3 = some 3 ∧
    ((up.portUsed .debug).Serves .debug Pg.dbg 0x118) ∧
    (let d := (debugging.portUsed .debug).wrote Pg.dbg
     let signerBytes := (List.range 64).map fun k => d.tokenByte (100 + k)
     d.pendGet Pg.dbg F.DBG_CTL_PORT_DIS = 0 ∧ d.tokenByte 0 = 7 ∧ signerBytes.any (· ≠ 0) = false ∧ d.unlockLevel false 0 (d.tokenByte 36) = some 0) ∧
    (let d := ({ up with str := { grant := some 3 } } : Dev)
     d.Serves fw Pg.dbg 0x118 ∧ d.str.grant = some 3) ∧
    (let d : Dev := { (upWith [(Pg.dbg, F.DBG_EXPIRY_SN_SN, 5)]) with sn := 5, str := { grant := some 3 } }
     d.str.grant.isSome = true ∧ d.get Pg.dbg F.DBG_EXPIRY_SN_SN ≠ 0 ∧ d.get Pg.dbg F.DBG_EXPIRY_SN_SN ≤ d.sn) ∧
    (let d := (dram.portUsed .debug).wrote Pg.dbg
     let x : DbgAccess := { op := 1, space := 1, view := 0, addr := d.get Pg.dbg F.DBG_MEM_ADDR_ADDR / 64 * 64 }
     let b := ((d.set Pg.dbg F.DBG_MEM_CTL_SPACE 1).set Pg.dbg F.DBG_MEM_CTL_VIEW 0).setFlag Pg.dbg F.DBG_MEM_CTL_BUSY true
     (dram.portUsed .debug).Serves .debug Pg.dbg 0x148 ∧ d.str.dbgAcc = none ∧ b.draCheck 0x84 x.addr 2 true = none ∧
       ends (b.readDra (Dev.dbgWho x) x.addr false noFault) = true) ∧
    (let d := (dram.portUsed .debug).wrote Pg.dbg
     let x : DbgAccess := { op := 2, space := 1, view := 0, addr := d.get Pg.dbg F.DBG_MEM_ADDR_ADDR / 64 * 64 }
     let b := ((d.set Pg.dbg F.DBG_MEM_CTL_SPACE 1).set Pg.dbg F.DBG_MEM_CTL_VIEW 0).setFlag Pg.dbg F.DBG_MEM_CTL_BUSY true
     b.draCheck 0x84 x.addr 3 true = none ∧ ends (b.writeDra (Dev.dbgWho x) x.addr b.dbgData (BitVec.allOnes 64) false noFault) = true) := by
  refine ⟨⟨(asks_heard 7).1, asks_nonce _ _⟩, ?_⟩
  unfold Dev.Serves; decide +kernel

/-! ### Witnesses: the memory path -/

/-- `dram` with LD 5's first decoder over its four rooms, room 0 in service, and entry `e` of skein 0 in the Pattern cache. -/
def holding (e : Entry) : Dev :=
  let d := (((dram.set Pg.pat F.PAT_ROOM_TBL_BASE_DRA 0x20000).set Pg.tir F.TIR_MAP_BASE_DRA 0x80000).modLd 5 fun l =>
    { l with decoders := [(0, ⟨0, 2 ^ 32, 1, 256, 0, 0, false, false⟩)] }).setRoom 0 { owner := 5, inService := true }
  { d with mem := { d.mem with pat := { d.mem.pat with cache := [⟨0, e, false, 0⟩] } } }

/-- An Open skein of LD 5 in the frame behind the Device's. -/
def opened : Entry := { state := St.isOpen, owner := 5, loc := 4, locValid := true }

/-- A request of LD 5 for its first line. -/
def req : MemReq := ⟨0, 0, 5, 0, .any, 3⟩

/-- `holding opened` with requests in the device. -/
def reqs (rs : List Req) : Dev := let d := holding opened; { d with sn := 20000, mem := { d.mem with reqs := rs } }

/-- What `MemoryRequestsPassTheChecks` asks of a request, up to its lookup. -/
def taken (s : Dev) (q : Req) (off dpa : Nat) (bi : Bool) : Dev :=
  let taken := { q with id := s.mem.nextReq, sn := s.sn, phase := (Config.cycle s.fresh).toNat, stage := .ingress }
  let drawn := s.draw
  let queued : Dev := { drawn with mem := { drawn.mem with reqs := drawn.mem.reqs ++ [taken], nextReq := drawn.mem.nextReq + 1 } }
  let counted := if q.kind.isRead then queued.hpTally taken 0 1
    else if q.kind.isWrite then (queued.hpTally taken 1 1).hpLines q.port q.half true 1 else queued
  if counted.hdmDecode q.ld q.addr = some (off, bi) ∧ counted.translate q.ld off = some dpa then
    ((counted.putReq { taken with dpa := dpa }).tally Pg.pat 0x0100 1).tally Pg.pat 0x0101 1 |>.touchWay (dpaSkein dpa) else {}

theorem witness_MemoryRequestsPassTheChecks :
    let s := holding opened
    let q := Dev.reqOf .read req
    s.hears req = true ∧ (s.mem.reqs.any fun x => x.ld == q.ld && decide (x.stage = .ingress)) = false ∧
    s.flag Pg.str F.STR_ACT_CTL_PAUSED = false ∧ s.host.frogged.testBit 5 = false ∧ s.domHeld 2 = false ∧ s.pageReady Pg.pat = true ∧
    s.hdmDecode 5 0 = some (0, false) ∧ s.translate 5 0 = some 0 ∧ (s.mem.pat.misses.any fun x => x.1 == 0) = false ∧ (s.cached 0).isSome = true ∧
    (let f := taken s q 0 0 false
     f.leaving { q with dpa := 0 } = false ∧ (f.entry 0).state ≠ St.unbacked ∧ (f.entry 0).owner = q.ld ∧ (f.entry 0).dc = false ∧
       f.skeinValid 0 = true ∧ (f.entry 0).shared = false ∧ f.isViral 5 = false) := by
  decide +kernel

theorem witness_RequestChecksInOrder :
    let r := rq .ingress
    (let d := holding {}
     r.kind ≠ .specRead ∧ d.leaving r = false ∧ (d.entry 0).state = St.unbacked ∧ d.mem.pat.bad.contains 0 = false) ∧
    (((holding { opened with owner := 6 }).entry 0).owner ≠ r.ld) ∧
    (let e := (holding { opened with dc := true }).entry 0
     e.dc = true ∧ e.dcAcc = false) ∧
    ((holding { opened with loc := 0, locValid := false }).skeinValid 0 = false) ∧
    (let d := holding { opened with shared := true, shareGrp := 31 }
     d.skeinValid 0 = true ∧ (d.entry 0).shared = true) := by
  decide +kernel

theorem witness_FlowFollowsTheState :
    let r := rq .ingress
    (∃ dra ratio, (holding opened).locate r.dpa false = .dram dra ratio) ∧ (holding opened).blocked r = false ∧ (holding opened).leaving r = false ∧
      (holding opened).fencedRoom 0 = false ∧
    (let d := holding { state := St.zero, owner := 5 }
     d.locate r.dpa false = .noStore false ∧ d.blocked r = false ∧ d.capped r.ld (d.effClass r.ld r.cls) = false) ∧
    (holding { opened with state := St.split, loc := 0 }).locate r.dpa false = .invalid ∧
    (let e : Entry := { opened with state := St.motion, srcState := St.isOpen, dstState := St.isOpen, progress := 0 }
     let d := (holding e).modTier fun t => { t with migs := [⟨1, 0, none, 2, 0, 2, 0, 8, 1, 0, none, true, 0, 0, false⟩] }
     d.locate 0 true = .copying) :=
  ⟨⟨_, _, by rfl⟩, by decide +kernel⟩

theorem witness_RequestEventsComplete :
    (holding opened).hears req = true ∧
    (let n : Snoop := ⟨9, 2 ^ 5 + 2 ^ 6, 3, true, false, 1⟩
     let d : Dev := { holding opened with sn := 1027 }
     let d : Dev := { d with mem := { d.mem with pat := { d.mem.pat with snoops := [n], dir := [⟨9, true, 2 ^ 5⟩] } } }
     d.snoopOf 9 = some n ∧ n.waiting.testBit 5 = true ∧ clrBit n.waiting 5 ≠ 0 ∧ clrBit (2 ^ 5) 5 = 0 ∧ n.sn + 1024 ≤ d.sn ∧
       d.dirWay 9 = some ⟨9, true, 2 ^ 5⟩) ∧
    (let d := holding opened
     let d : Dev := { d with mem := { d.mem with pat := { d.mem.pat with misses := [(5, 2)] } } }
     (d.mem.pat.misses.any fun m => m.1 == 5) = true ∧ d.cached 5 = none) ∧
    ((reqs [rq .issued]).findReq 1 = some (rq .issued) ∧ ((reqs [rq .issued]).sub 0).replaying = false ∧ (reqs [rq .issued]).chHalted 0 = false) ∧
    (reqs [rq .late]).findReq 1 = some (rq .late) ∧
    (let d := reqs [rq .gate]
     (d.gateReqs.filter fun r => r.sub == 0 || r.sub == 32) = [rq .gate] ∧ d.findReq 1 = some (rq .gate) ∧ (d.tryPass (rq .gate)).isSome = true ∧
       ((d.tryPass (rq .gate)).bind fun x => x.findReq 1).isSome = true) ∧
    (((reqs [rq .ingress]).mem.reqs.filter fun r => r.ld == 5 && decide (r.stage = .ingress)) = [rq .ingress]) ∧
    (let r := rq (.parked .activation)
     (reqs [r]).findReq 1 = some r ∧ (reqs [r]).parkEnds r .activation = true ∧ (reqs [r]).isViral 5 = false) ∧
    (let r := rq (.parked .backing)
     (reqs [r]).findReq 1 = some r ∧ r.sn + 3907 ≤ (reqs [r]).sn) ∧
    (let r := rq (.parked .larder)
     (reqs [r]).findReq 1 = some r ∧ r.sn + 3905 ≤ (reqs [r]).sn ∧ r.kind.isRead = true ∧ MemKind.write.isRead = false) ∧
    (let r := { rq .encode with inst := some 31 }
     ((reqs [r]).mem.reqs.find? fun r => decide (r.stage = .encode) && r.inst == some 31) = some r) ∧
    (let d := ((reqs [rq .decode]).set (Pg.cmp 32) F.PG_CTL_ENABLE 1).setCmpBusy 32 0
     (d.mem.reqs.filter fun r => decide (r.stage = .decode) && (d.inlineChoice (r.sub / 2)).contains 32) = [rq .decode]) := by
  decide +kernel

/-- `holding opened` with the image `img` in PAT_ROOM_CFG and room `drn` selected. -/
def rooms (drn : Nat) (img : Room) : Dev := ((holding opened).set Pg.pat F.PAT_ROOM_SEL_DRN drn).setWord Pg.pat 0x138 (BitVec.ofNat 32 img.encode)

theorem witness_RoomCommandsFollowTheTable :
    (rooms 0 {}).Serves fw Pg.pat 0x134 ∧
    (((rooms 0 {}).setFlag Pg.pat F.PAT_ROOM_CMD_BUSY true).wrote Pg.pat).flag Pg.pat F.PAT_ROOM_CMD_BUSY = true ∧
    (let d := (rooms 4 {}).wrote Pg.pat
     d.flag Pg.pat F.PAT_ROOM_CMD_BUSY = false ∧ d.winRooms ≤ d.get Pg.pat F.PAT_ROOM_SEL_DRN) ∧
    (let d := (rooms 0 { owner := 6, inService := true }).wrote Pg.pat
     let img := Room.decode (d.word Pg.pat 0x138).toNat
     (d.room 0).inService = true ∧ img.inService = true ∧ img.owner ≠ (d.room 0).owner) ∧
    (let d := (rooms 3 { owner := 6, mirrored := true }).wrote Pg.pat
     let img := Room.decode (d.word Pg.pat 0x138).toNat
     d.get Pg.pat F.PAT_ROOM_SEL_DRN < d.winRooms ∧ (d.room 3).inService = false ∧ img.mirrored = true ∧ d.isPaired = false) ∧
    (let d := (rooms 3 { owner := 6 }).wrote Pg.pat
     (Room.decode (d.word Pg.pat 0x138).toNat).mirrored = false) := by
  unfold Dev.Serves; decide +kernel

theorem witness_PatternCommandsComplete :
    (let d := holding opened
     let d : Dev := { d with mem := { d.mem with pat := { d.mem.pat with roomCmd := some (3, { owner := 6 }) } } }
     d.mem.pat.roomCmd = some (3, { owner := 6 }) ∧ d.mem.pat.roomLeaving ≠ some 3) ∧
    (holding opened).Serves fw Pg.pat 0x120 ∧ (upWith [(Pg.pat, F.PAT_CACHE_CTL_FLUSH, 1)]).flag Pg.pat F.PAT_CACHE_CTL_FLUSH = true ∧
    (holding opened).Serves fw Pg.pat 0x148 := by
  unfold Dev.Serves; decide +kernel

/-! ### Witnesses: the tier engine and Re-knit -/

/-- `holding opened` with the tier engine and the scanner on and 512 maps. -/
def tiering : Dev :=
  sets (holding opened) [(Pg.tir, F.PG_CTL_ENABLE, 1), (Pg.tir, F.TIR_CFG_SCAN_EN, 1), (Pg.tir, F.TIR_MAP_CFG_MAPS, 512),
    (Pg.cmp 0, F.PG_CTL_ENABLE, 1), (Pg.cmp 0, F.CMP_CFG_POOL, 1)]

/-- A wanted move of skein 0 to Packed at 2:1. -/
def want : Want := { skein := 0, page := none, state := St.packed, ratio := 1, cause := 1 }

/-- `tiering` with the state of the tier engine changed. -/
def tierIs (f : Tier → Tier) : Dev := tiering.modTier f

theorem witness_TierCommandsComplete :
    (tiering.tierOn = true ∧ tiering.flag Pg.tir F.TIR_CFG_SCAN_EN = true ∧ tiering.quiesced = false ∧ tiering.nextVisit = some 0 ∧
      1 ≤ tiering.get Pg.tir F.TIR_SCAN_CFG_LINES) ∧
    (tiering.set Pg.tir F.TIR_SCAN_POS_SKEIN 512).nextVisit = none ∧
    (((tierIs fun t => { t with trials := [⟨0, 1, 0⟩] }).mem.tier.trials.find? fun t => t.skein == 0) = some ⟨0, 1, 0⟩ ∧
      tiering.deviceCompressor = some 0) ∧
    (tiering.stillMoves want = true ∧ want.cause ≠ 5 ∧ want.cause ≠ 7 ∧ want.cause ≠ 8 ∧ (Dev.startWant tiering want).isSome = true) ∧
    (let m : Mig := ⟨1, 0, none, 2, 0, 2, 0, 8, 1, 0, none, true, 0, 0, false⟩
     let d := (holding { opened with state := St.motion, srcState := St.isOpen, dstState := St.isOpen }).modTier fun t => { t with migs := [m] }
     d.findMig 1 = some m ∧ d.copyReady m = true) ∧
    (let m : Mig := ⟨1, 0, none, 2, 0, 2, 0, 8, 1, 0, none, false, 3, 0, false⟩
     let d := (holding { opened with state := St.motion, srcState := St.isOpen, dstState := St.isOpen }).modTier fun t => { t with migs := [m] }
     d.findMig 1 = some m ∧ m.reason = 3) ∧
    (tierIs fun t => { t with pressure := true }).mem.tier.pressure = true ∧
    (let d := ((tiering.set (Pg.ldm 63) F.LDM_QUOTA_LARDER_EXTENTS 0).set (Pg.ldm 63) F.LDM_USE_LARDER_EXTENTS 1).squeezeUpdate
     d.tierOn = true ∧ (d.get Pg.tir F.TIR_SQUEEZE_LDS).testBit 63 = true ∧ d.quiesced = false) ∧
    tiering.Serves fw Pg.tir 0x178 ∧ (tiering.pageReady Pg.tir = true ∧ tiering.flag Pg.pwr F.PWR_STS_IN_PROGRESS = false) ∧
    (((reqs [rq .fillWait]).mem.reqs.any fun r => decide (r.stage = .fillWait)) = true ∧ (reqs [rq .fillWait]).mem.store.filling.length < 2048) := by
  unfold Dev.Serves; decide +kernel

/-- `dram` at the end of the first hour after its start, with Re-knit enabled. -/
def knitting (l : List (Nat × Fld × Nat)) : Dev :=
  let d : Dev := sets dram ([(Pg.cry, F.PG_CTL_ENABLE, 1), (Pg.cry, F.CRY_CFG_AUTO_REKNIT, 1)] ++ l)
  { d with sn := 2 ^ 50 }

theorem witness_ReknitCommandsComplete :
    ((knitting []).Serves fw Pg.cry 0x120 ∧
      (let d := (knitting []).wrote Pg.cry
       d.reknit = false ∧ d.mem.cry.starting = false ∧ d.enabled Pg.cry = true ∧
         d.reknitRef + (if d.anyAttached = true then 86400 else 3600) * 7812500 ≤ d.sn)) ∧
    (let d := ({ knitting [] with sn := 3600 * 7812500 - 1 } : Dev).wrote Pg.cry
     d.sn < d.reknitRef + (if d.anyAttached = true then 86400 else 3600) * 7812500) ∧
    ((knitting []).flag Pg.cry F.CRY_CFG_AUTO_REKNIT = true ∧ (knitting []).reknitRefused = false ∧
      (knitting []).reknitRef + max (knitting []).reknitLimit ((knitting []).get Pg.cry F.CRY_REKNIT_PERIOD_SECONDS) * 7812500 ≤ (knitting []).sn) ∧
    (let d := knitting []
     ({ d with mem := { d.mem with cry := { d.mem.cry with starting := true } } } : Dev).mem.cry.starting = true) ∧
    (let d := knitting [(Pg.cry, F.CRY_STS_REKNIT_ACTIVE, 1)]
     d.reknit = true ∧ d.mem.cry.walkDone = false ∧ d.flag Pg.cry F.CRY_REKNIT_CTL_PAUSE = false ∧ d.quiesced = false ∧
       d.mem.cry.lines < d.get Pg.cry F.CRY_REKNIT_RATE_LINES ∧ d.flag Pg.cry F.CRY_STS_PHASE = false) ∧
    (knitting [(Pg.cry, F.CRY_STS_REKNIT_ACTIVE, 1), (Pg.cry, F.CRY_STS_PHASE, 1)]).flag Pg.cry F.CRY_STS_PHASE = true ∧
    (let d := knitting [(Pg.cry, F.CRY_STS_REKNIT_ACTIVE, 1)]
     let d : Dev := { d with mem := { d.mem with cry := { d.mem.cry with walkDone := true } } }
     d.reknit = true ∧ d.mem.cry.walkDone = true) := by
  unfold Dev.Serves; decide +kernel

/-! ### Witnesses: DRAM channels and the Gauge -/

/-- `reqs [rq .queue]` on channel 0 with its read queued and bank 3's row 7 open, with channel 0's record changed. -/
def channel (f : Chan → Chan) : Dev :=
  ((reqs [{ rq .queue with dra := 2 ^ 20, granted := true }]).set (Pg.dc 0) F.DC_POP_DPC 2).modChan 0 fun x =>
    f { x with subA := { x.subA with queue := [1], banks := [(3, { row := some 7 })] } }

theorem witness_DramCommandsComplete :
    (let d := channel id
     d.dcOn 0 = true ∧ (d.sub 0).replaying = false ∧ d.chHalted 0 = false ∧ d.get (Pg.dc 0) F.DC_RANK_MAP_FAILED = 0 ∧
       (minBy (d.candKey 0) (d.moveCands 0 ⟨[1], true, true⟩)).isSome = true ∧
       (Dev.bankOfKey (d.sub 0) 3).row = some 7 ∧ ((d.queued 0).any fun r => (d.bankRow 0 r.dra).2 == (3, 7)) = false ∧
       0 < d.rankCount 0 ∧ 1 < d.rankCount 0 ∧ (d.get (Pg.dc 0) F.DC_RANK_MAP_FAILED).testBit 1 = false ∧
       Dev.periodDue (d.chan 0).oscSn (8 * 1 + 7) d.sn 1024 = true ∧ Dev.periodDue (d.chan 0).zqSn (8 * 1 + 7) d.sn 7813 = true ∧
       (d.set (Pg.dc 0) F.DC_CFG_SCRUB_EN 1).flag (Pg.dc 0) F.DC_CFG_SCRUB_EN = true ∧ 0 < d.installed ∧ 2 * 15 < d.ilvW ∧
       (d.chan 0).alertLow = false ∧ (d.chan 0).subA.replaying = false ∧ (d.chan 0).subB.replaying = false ∧
       (d.modChan 0 fun y => { y with alertLow := true }).chHalted 0 = false) ∧
    ((channel fun x => { x with alertLow := true }).chan 0).alertLow = true ∧
    (let d := channel fun x => { x with subA := { x.subA with replaying := true } }
     (d.sub 0).replaying = true ∧ (d.chan 0).alertLow = false) := by
  decide +kernel

/-- `dram` with 16 ranks of 16 GiB in each channel, a 16 GiB share per subchannel and 32 remap entries to channel 1. -/
def sparing (l : List (Nat × Fld × Nat)) : Dev :=
  let d := (List.range 16).foldl (fun d c =>
    ((((d.set (Pg.dc c) F.DC_POP_DPC 2).set (Pg.dc c) F.DC_POP_PKG_RANKS 1).set (Pg.dc c) F.DC_POP_STACK 2).set (Pg.dc c) F.DC_STS_TRAINED 1)) dram
  let d := (List.range 32).foldl (fun d i =>
    ((d.set (Pg.dc 0) (F.DC_REMAP_VALID.sh (4 * i)) 1).set (Pg.dc 0) (F.DC_REMAP_TARGET.sh (4 * i)) 2).set (Pg.dc 0) (F.DC_REMAP_BASE.sh (4 * i)) (16 + i)) d
  sets d ([(Pg.dc 0, F.DC_ILV_LSIZE, 16)] ++ l)

theorem witness_DramRepairCommandsComplete :
    (let d := sparing [(Pg.dc 15, F.DC_STS_HALTED, 1)]
     d.Serves fw (Pg.dc 15) 0x100 ∧ (d.wrote (Pg.dc 15)).chHalted 15 = true) ∧
    (let d := sparing []
     d.Serves fw (Pg.dc 15) 0x188 ∧ (d.wrote (Pg.dc 15)).flag (Pg.dc 15) F.DC_PPR_ROW_BUSY = false) ∧
    (sparing [(Pg.dc 15, F.DC_PPR_ROW_BUSY, 1)]).flag (Pg.dc 15) F.DC_PPR_ROW_BUSY = true ∧
    (let d := (sparing [(Pg.dc 15, F.DC_RANK_MAP_SPARE_EN, 1)]).wrote (Pg.dc 15)
     let e := d.spareFields 15 1
     d.flag (Pg.dc 15) F.DC_SPARE_CTL_START = false ∧ e.flag (Pg.dc 15) F.DC_SPARE_CTL_KIND = false ∧ e.flag (Pg.dc 15) F.DC_RANK_MAP_SPARE_EN = true) ∧
    (let d := (sparing []).wrote (Pg.dc 15)
     let e := d.spareFields 15 3
     (sparing []).Serves fw (Pg.dc 15) 0x178 ∧ e.flag (Pg.dc 15) F.DC_SPARE_CTL_KIND = true ∧ e.remapOk 15 = true ∧
       e.flag (Pg.dc 0) F.DC_CHSPARE_ACTIVE = false ∧
       ((List.range 16).any fun k => d.flag (Pg.dc k) F.DC_SPARE_CTL_START && d.flag (Pg.dc k) F.DC_SPARE_CTL_KIND) = false) ∧
    (((sparing [(Pg.dc 0, F.DC_ILV_LSIZE, 15)]).wrote (Pg.dc 15)).spareFields 15 3).remapOk 15 = false ∧
    (let d := sparing [(Pg.dc 15, F.DC_SPARE_CTL_START, 1), (Pg.dc 15, F.DC_SPARE_CTL_KIND, 1)]
     let dra := d.draOf 30 0
     d.dcOn 15 = true ∧ d.chHalted 15 = false ∧ (d.chan 15).spareUsed < d.get (Pg.dc 15) F.DC_SPARE_CFG_LINES ∧ d.spareHeld 15 = false ∧
       dra < d.installed ∧ 30 < d.ilvW ∧ (d.checkLine dra 0 noFault).wqFull (d.remap 0 F.DC_REMAP_TARGET) dra = false) ∧
    (let d := sparing [(Pg.dc 0, F.DC_ILV_EN, 0)]
     let e := (d.wrote (Pg.dc 0)).store (Pg.dc 0) 0x200 0x1FF0007 (2 ^ 20 + 13) false
     d.Serves fw (Pg.dc 0) 0x200 ∧ (d.wrote (Pg.dc 0)).flag (Pg.dc 0) F.DC_ILV_EN = false ∧ e.ilvOk e.ilvN (e.get (Pg.dc 0) F.DC_ILV_LSIZE) = true ∧
       d.Serves fw (Pg.dc 0) 0x210 ∧ (d.wrote (Pg.dc 0)).flag (Pg.dc 0) F.DC_CHSPARE_ACTIVE = false ∧ (d.wrote (Pg.dc 0)).remapOk 15 = true) := by
  unfold Dev.Serves; decide +kernel

theorem witness_GaugeCommandsComplete :
    (dram.Serves fw Pg.gau 0x138 ∧ (dram.wrote Pg.gau).flag Pg.gau F.GAU_COMMIT_BUSY = false) ∧
    (dram.modGau fun g => { g with checking := some {} }).mem.gau.checking = some {} ∧ up.flag (Pg.dc 0) F.DC_ILV_EN = false ∧
    (let b : BudgetSet := { budgets := [(0, (2 ^ 20, 2 ^ 20))] }
     dram.flag (Pg.dc 0) F.DC_ILV_EN = true ∧ (∀ x ∈ b.budgets, x.2.2 = 0 ∨ x.2.1 ≤ x.2.2) ∧ b.adm.hearthMax < Dev.hrOf b dram.ilvW) ∧
    (11 < 8 + 4 ∧ 8 + 4 ≤ 12 ∧ 0 + 0 + 0 ≤ 64 * (12 - 8 - 4) ∧ 40 + 24 ≤ 64 * (13 - 8 - 4) ∧ 64 * (13 - 8 - 4) < 40 + 24 + 1 ∧
      64 ≤ 64 * (13 - 8 - 4) ∧ 64 * (13 - 8 - 4) < 64 + 1 ∧ 64 * (13 - 8 - 4) < 65) := by
  unfold Dev.Serves; decide +kernel

/-! ### Witnesses: service rings and the Data Mover -/

/-- `holding opened` with pair 8191 assigned to LD 5: a submission ring of 4 at 0x1000 and a completion ring of 4 at 0x2000. -/
def ringed (l : List (Nat × Fld × Nat)) : Dev :=
  let q := Bk.slot 8191
  sets (holding opened) ([(Bk.qp 8191, F.QMG_QP_ASSIGN_LD, 5), (Pg.qmg, F.PG_CTL_ENABLE, 1), (Pg.qmg, F.QMG_QP_SEL_PAIR, 8191), (q, F.SLOT_SQ_LOG, 4),
    (q, F.SLOT_CQ_LOG, 4), (q, F.SLOT_SQ_BASE, 0x1000), (q, F.SLOT_CQ_BASE, 0x2000), (q, F.SLOT_DEPTH, 1)] ++ l)

/-- `ringed` with the pair enabled, one descriptor submitted, and jobs. -/
def ringing (l : List (Nat × Fld × Nat)) (jobs : List Job) : Dev :=
  let q := Bk.slot 8191
  let d := (ringed ([(q, F.SLOT_EN, 1), (q, F.SLOT_SQ_TAIL, 1)] ++ l)).modPair 8191 fun p => { p with active := true }
  d.modRings fun r => { r with jobs := jobs }

/-- A job of pair 8191. -/
def job (op len : Nat) : Job := { id := 9, pair := 8191, desc := { opcode := op, len := len }, started := true }

theorem witness_RingWritesComplete :
    (let d := ringed []
     d.qpLd 8191 = 5 ∧ d.domHeld (pageDomain Pg.qmg) = false ∧ d.pageReady Pg.qmg = true ∧ d.pairOn 8191 = false ∧
       (d.storeCfg 8191 0x1FF0404).enableOk 8191 = false ∧ (d.storeCfg 8191 0x10404).enableOk 8191 = true ∧ d.qpLd 8191 ≠ 6 ∧
       d.Serves fw Pg.qmg 0x10C ∧ (d.wrote Pg.qmg).get Pg.qmg F.QMG_QP_SEL_PAIR = 8191 ∧ (d.wrote Pg.qmg).pairOn 8191 = false ∧
       (d.wrote Pg.qmg).pairJobs 8191 = []) ∧
    (let d := ringing [(Bk.slot 8191, F.SLOT_CQ_TAIL, 2)] []
     d.pairOn 8191 = true ∧ 15 < d.sqSize 8191 ∧ d.sqSize 8191 ≤ 16 ∧ 2 < d.cqSize 8191 ∧ d.cqAhead 8191 2 ≤ d.cqAhead 8191 (d.qslot 8191 F.SLOT_CQ_TAIL) ∧
       d.cqAhead 8191 (d.qslot 8191 F.SLOT_CQ_TAIL) < d.cqAhead 8191 3) := by
  unfold Dev.Serves; decide +kernel

theorem witness_JobLifeCycleCompletes :
    (let d := ringing [] []
     d.mayFetch 8191 = true ∧ ends (d.readOff (d.pairWho 8191) (d.qslot 8191 F.SLOT_SQ_BASE + 64 * d.qslot 8191 F.SLOT_SQ_HEAD) noFault) = true) ∧
    (let j : Job := { job 0 0 with started := false }
     let d := ringing [] [j]
     ((d.pairJobs 8191).find? fun j => !j.started) = some j ∧ d.mayStart 8191 j = true) ∧
    (let j : Job := { job 0 0 with ended := some { status := 0 } }
     let d := ringing [] [j]
     let a := d.qslot 8191 F.SLOT_CQ_BASE + 16 * d.qslot 8191 F.SLOT_CQ_TAIL
     d.findJob 9 = some j ∧ (d.twin.out.any fun i => i.req == 9) = false ∧ d.isViral (d.qpLd 8191) = false ∧
       ends (d.writeOff (d.pairWho 8191) a (lineImage (a % 64) (List.replicate 16 0)).1 (lineImage (a % 64) (List.replicate 16 0)).2 false noFault) = true) ∧
    (let d := (ringing [(Bk.slot 8191, F.SLOT_IRQ_EN, 1), (Bk.slot 8191, F.SLOT_COAL_STITCH, 4)] []).modPair 8191 fun p => { p with irqCnt := 1 }
     d.qslot 8191 F.SLOT_IRQ_EN = 1 ∧ d.qslot 8191 F.SLOT_COAL_STITCH ≠ 0 ∧ (d.pair 8191).irqCnt ≠ 0 ∧ (d.pair 8191).due = false ∧
       (d.pair 8191).irqSn + d.qslot 8191 F.SLOT_COAL_STITCH ≤ ({ d with sn := 4 } : Dev).sn) := by
  decide +kernel

theorem witness_JobCommandsComplete :
    (let d := ringing [] [job 0x0C 64]
     d.findJob 9 = some (job 0x0C 64) ∧ d.isViral (d.qpLd 8191) = false) ∧
    (job 0x01 0).desc.len = 0 ∧ Dev.opcodeListed 0x07 = false ∧ Dev.opcodeListed 0x0D = false ∧ Dev.opcodeListed 0x0C = true := by
  decide +kernel

/-- `dram` with channel 63 of the Data Mover selected and able to round 64 bytes in the Device's frame. -/
def moving63 (l : List (Nat × Fld × Nat)) (f : Mover → Mover) : Dev :=
  let c := Bk.dmv 63
  (sets dram ([(Pg.dmv, F.PG_CTL_ENABLE, 1), (Pg.dmv, F.DMV_CH_SEL_CH, 63), (c, F.DMV_CH_ROUND_BYTES, 64), (c, F.DMV_CH_CTL_SRC_SPACE, 1),
    (c, F.DMV_CH_CTL_DST_SPACE, 1), (Bk.right 5, F.CRY_RIGHT_VALID, 1), (Bk.right 5, F.CRY_RIGHT_MASTER, 0x40 + 63), (Bk.right 5, F.CRY_RIGHT_SPACE, 1),
    (Bk.right 5, F.CRY_RIGHT_RIGHT, 3)] ++ l)).modMover 63 f

theorem witness_DataMoverCommandsComplete :
    (let s := moving63 [] id
     let d := s.wrote Pg.dmv
     let put := fun (v : Nat) (d : Dev) (f : Fld) => d.putChan 63 f (bits v f.lsb f.width)
     s.Serves fw Pg.dmv 0x128 ∧ d.get Pg.dmv F.DMV_CH_SEL_CH = 63 ∧ d.chReg 63 F.DMV_CH_CTL_EN = 0 ∧ (Dev.chFields.foldl (put 1) d).enabled Pg.dmv = true ∧
       (Dev.chFields.foldl (put 1) d).chOk 63 = true ∧
       (Dev.chFields.foldl (put 1) (d.putChan 63 F.DMV_CH_ROUND_BYTES 63)).chOk 63 = false) ∧
    (let d := moving63 [(Bk.dmv 63, F.DMV_CH_CTL_EN, 1)] id
     d.chReg 63 F.DMV_CH_CTL_EN = 1 ∧ d.enabled Pg.dmv = true ∧ (d.mover 63).running = false ∧ d.chBlocked = false) ∧
    (let d := moving63 [(Bk.dmv 63, F.DMV_CH_CTL_EN, 1), (Bk.dmv 63, F.DMV_CH_STS_PEND, 14)] fun m => { m with running := true }
     (d.mover 63).running = true ∧ d.chReg 63 F.DMV_CH_STS_PEND < 15) ∧
    (let d := moving63 [(Bk.dmv 63, F.DMV_CH_CTL_EN, 1), (Bk.dmv 63, F.DMV_CH_STS_PEND, 15)] fun m => { m with running := true }
     (d.mover 63).running = true ∧ 15 ≤ d.chReg 63 F.DMV_CH_STS_PEND) ∧
    (let d := moving63 [(Pg.dmv, Dev.timerFld F.DMV_TMR_EN 31, 1), (Pg.dmv, Dev.timerFld F.DMV_TMR_PERIOD 31, 5)] id
     d.timer F.DMV_TMR_EN 31 = 1 ∧ d.timer F.DMV_TMR_COUNT 31 = 0 ∧ d.timer F.DMV_TMR_PERIOD 31 ≠ 0) ∧
    (moving63 [] id).pageReady Pg.dmv = true ∧
    (let d := moving63 [(Bk.dmv 63, F.DMV_CH_CTL_EN, 1)] fun m => { m with running := true }
     (match d.chBeat 63 noFault with | .issued _ => true | _ => false) = true) ∧
    (let d := moving63 [(Bk.dmv 63, F.DMV_CH_CTL_EN, 1)] fun m => { m with running := true, readBack := true, last := some 0 }
     (d.mover 63).running = true ∧ (d.mover 63).readBack = true ∧ (d.twin.out.any fun i => i.req == (d.chWho 63).id) = false ∧ (d.mover 63).last = some 0 ∧
       (match d.chRead 63 (d.chReg 63 F.DMV_CH_CTL_DST_SPACE) 0 0 false noFault with | (some _, .issued _) => true | _ => false) = true) := by
  unfold Dev.Serves; decide +kernel

/-! ### Witnesses: Yarn links, cartridges and the Twin -/

/-- `up` with link `l` in state `st`, its session secure, and more fields. -/
def wired (l st : Nat) (fs : List (Nat × Fld × Nat)) : Dev :=
  { (upWith ([(Pg.link l, Dev.fState l, st), (Pg.link l, Dev.fSecure l, 1)] ++ fs)) with sn := 1000000 }

/-- The next sequenced packet of a session, whose tag holds. -/
def header (tag : Nat) : YarnHeader := ⟨0, tag, none, true⟩

theorem witness_YarnLinkCommandsComplete :
    (let d := (wired 15 3 []).modLnk 15 fun x => { x with stored := [⟨4095, 8, 0, .wearReq⟩], ackDue := true }
     d.linkOff 15 = false ∧ d.linkState 15 = 3 ∧ (d.lnk 15).ackDue = true ∧ (d.lnk 15).timerSn + d.ackTo 15 ≤ d.sn ∧
       (d.lnk 15).stored = [⟨4095, 8, 0, .wearReq⟩] ∧ (d.lnk 15).rxSn + d.silenceTo 15 ≤ d.sn ∧
       ((d.lset 15 (Dev.lf 15 F.YP_LINK_STS_LANES F.HWL_LINK_STS_LANES) 15).lget 15 (Dev.lf 15 F.YP_LINK_STS_LANES F.HWL_LINK_STS_LANES)).testBit 3 = true ∧
       ({ d.setFlag Pg.pwr F.PWR_STS_IN_PROGRESS true with pwr := { d.pwr with target := 2 } } : Dev).pwr.target = 2) ∧
    (let d := wired 16 0 []
     d.linkOff 16 = false ∧ d.linkState 16 = 0 ∧ d.lget 16 F.YP_CTL_AUTO_UP = 1 ∧ (d.lnk 16).stateSn + d.detectInt 16 ≤ d.sn) ∧
    (wired 0 1 []).linkState 0 = 1 ∧ ((wired 0 1 []).lnk 0).stateSn + (wired 0 1 []).trainTo 0 ≤ (wired 0 1 []).sn ∧
    (let d := wired 0 2 []
     d.linkState 0 = 2 ∧ (agree 0 (d.proposal 0) ⟨0, 0, 15⟩).isSome = true) ∧
    (let d := wired 16 4 []
     d.linkState 16 = 4 ∧ (agree 16 (d.proposal 16) ⟨0, 0, 255⟩).isSome = true) ∧
    (let d := (wired 16 5 []).modLnk 16 fun x => { x with waking := true }
     d.linkState 16 = 5 ∧ (d.lnk 16).waking = true) ∧
    ((wired 16 3 []).Serves fw (Pg.link 16) 0x100 ∧ ((wired 16 3 []).wrote (Pg.link 16)).linkActive 16 = true) ∧
    (Dev.domainLinks 4 ≠ [] ∧ Dev.domainLinks 28 ≠ [] ∧ up.domOn 28 = true ∧ (upWith [(Pg.pwr, F.PWR_DOM_STS_ON, 2 ^ 28 - 1)]).domOn 28 = false) := by
  unfold Dev.Serves; decide +kernel

/-- `wired` port 15 with the cartridge's record changed and more fields. -/
def carted (fs : List (Nat × Fld × Nat)) (f : Cart → Cart) : Dev := (wired 15 3 fs).modCart 15 f

/-- An IDENTIFY body that passes, with a chain of 1024 bytes. -/
def ident : IdentifyBody := ⟨9, 2 ^ 27, 16, 5200, 1000, 0, false, false, 1024⟩

theorem witness_CartridgeAttachCompletes :
    (up.Serves fw Pg.ctg 0x120 ∧ up.Serves fw Pg.ctg 0x124) ∧
    (∀ k ∈ [1, 2, 3, 4],
      let s := carted [] fun c => { c with step := k, mgmt := some 7, ident := some ident, chainRead := 4 }
      let r := s.receive 15 (header 7) true
      s.linkOff 15 = false ∧ r.1 = true ∧ r.2.mgmtFor 15 7 k = true) ∧
    (let r := (carted [] fun c => { c with step := 1, mgmt := some 7 }).receive 15 (header 7) true
     r.2.identCheck 15 ident = 0 ∧ r.2.identCheck 15 { ident with extents := 2 ^ 27 + 1 } ≠ 0 ∧ r.2.identCheck 15 { ident with window := 5199 } ≠ 0) ∧
    (let r := (carted [] fun c => { c with step := 2, mgmt := some 7, ident := some ident, chainRead := 4 }).receive 15 (header 7) true
     (r.2.cart 15).ident = some ident ∧ ident.chainLen ≠ 0 ∧ ident.chainLen ≤ 4096 ∧ (r.2.cart 15).chainRead + 1019 < ident.chainLen ∧
       ident.chainLen ≤ (r.2.cart 15).chainRead + 1020) ∧
    (let d := (carted [] id).ctgSet 15 F.CTG_STS_STATE 1
     d.cartState 15 = 1 ∧ (d.cart 15).startSn + d.attachTo ≤ d.sn) := by
  unfold Dev.Serves; decide +kernel

/-- A transaction of a cartridge in service that was sent. -/
def txn (op : Nat) : Txn := { tag := 3, op := op, extent := 1, slot := 2, fetch := 6, sn := 0, sent := true }

/-- Port 15's cartridge in service with one transaction, and its fetch. -/
def serving (op : Nat) (f : Txn → Txn) : Dev :=
  let d := ((carted [] fun c => { c with txns := [f (txn op)] }).ctgSet 15 F.CTG_STS_STATE 3)
  d.modTier fun t => { t with fetches := [{ id := 6, cart := 15, extent := 1, slot := 2, skein := 0, page := 2, sn := 0, cls := 2 }] }

theorem witness_CartridgeServiceCommandsComplete :
    (∀ op ∈ [1, 2, 3],
      let s := serving op id
      let r := s.receive 15 (header 3) false
      s.linkOff 15 = false ∧ r.1 = true ∧ r.2.txnOf 15 3 = some (txn op)) ∧
    (let d := (((serving 1 id).receive 15 (header 3) false).2).endTxn 15 3
     (d.fetches.find? (fun f => f.id == 6)).isSome = true ∧ ((d.fetches.find? (fun f => f.id == 6)).map (·.knit)) = some false) ∧
    (let s := (serving 1 id).modCart 15 fun c => { c with retireSn := some 0, mgmt := some 0 }
     let r := s.receive 15 (header 0) true
     r.1 = true ∧ 2 ≤ r.2.cartState 15 ∧ r.2.cartState 15 ≤ 4 ∧ (r.2.cart 15).retireSn.isSome = true ∧ (r.2.cart 15).mgmt = some 0 ∧
       (s.cart 15).retireSn = some 0 ∧ 0 + s.attachTo ≤ s.sn) ∧
    (let d := upWith [(Pg.ctg, F.PG_CTL_ENABLE, 1), (Pg.ctg, F.CTG_CFG_RECLAIM_EN, 1)]
     d.enabled Pg.ctg = true ∧ d.flag Pg.ctg F.CTG_CFG_RECLAIM_EN = true) ∧
    (let d := serving 2 fun t => { t with reissued := true }
     d.txnOf 15 3 = some { txn 2 with reissued := true } ∧ 0 + max 64 (d.get Pg.ctg F.CTG_TXN_TO_STITCHES) ≤ d.sn) ∧
    (let e := ((serving 2 id).raise Src.ctgTxnTimeout 3 0xFF 0).modTxn 15 (fun x => x == txn 2) (fun x => { x with detached := true })
     (e.cart 15).txns.find? (fun x => x.sent && x.detached && x.tag == 3) = some { txn 2 with detached := true } ∧ e.portOpen 15 = true) ∧
    (upWith [(Pg.ctg, F.CTG_WEAR_POLL_STITCHES, 5)]).get Pg.ctg F.CTG_WEAR_POLL_STITCHES ≠ 0 := by
  decide +kernel

/-- The Hallway Active with the Twin in state `st`, its record changed, and more fields. -/
def twinned (st : Nat) (fs : List (Nat × Fld × Nat)) (f : TwinSt → TwinSt) : Dev := (wired 16 3 ([(Pg.twn, F.TWN_STS_STATE, st)] ++ fs)).modTwin f

theorem witness_TwinPacketsComplete :
    (let s := twinned 1 [] fun t => { t with step := 1 }
     let r := s.receive 16 (header 0) true
     s.linkOff 16 = false ∧ r.1 = true ∧ r.2.twnState = 1 ∧ r.2.twin.step = 1 ∧
       (let own := r.2.ownHello
        r.2.helloCheck own = 1 ∧ r.2.helloCheck { own with role := !own.role, silence := own.silence + 1 } ≠ 0)) ∧
    (∀ k ∈ [2, 3, 4], ((twinned 1 [] fun t => { t with step := k }).receive 16 (header 0) true).2.atPairing k = true) ∧
    (((twinned 1 [(Pg.twn, F.TWN_STS_ROLE, 1)] id).receive 16 (header 0) true).2.twnFlag F.TWN_STS_ROLE = true ∧
      ((twinned 1 [] id).receive 16 (header 0) true).2.twnFlag F.TWN_STS_ROLE = false) ∧
    (((twinned 1 [] fun t => { t with step := 4, was := 5 }).receive 16 (header 0) true).2.twin.was = 5) ∧
    (let r := (twinned 2 [(Pg.twn, F.TWN_STS_SOURCE, 1)] fun t => { t with syncDone := true }).receive 16 (header 0) true
     r.2.pairStands = true ∧ r.2.twin.syncDone = true) ∧
    (((twinned 2 [] id).receive 16 (header 0) true).2.twnFlag F.TWN_STS_SOURCE = false) ∧
    (let r := (twinned 3 [] id).receive 16 (header 0) false
     r.1 = true ∧ r.2.pairStands = true) := by
  decide +kernel

theorem witness_TwinTimersAndWritesComplete :
    ((twinned 1 [] id).twnState = 1 ∧ (twinned 1 [] id).twin.startSn + 78125 ≤ (twinned 1 [] id).sn) ∧
    (let d := twinned 2 [(Pg.twn, F.TWN_STS_SOURCE, 1)] id
     d.pairStands = true ∧ d.twnFlag F.TWN_STS_SOURCE = true ∧ d.fatal = false ∧
       (let e := (Dev.copyLines (d.get Pg.twn F.TWN_SYNC_CFG_LINES) d).after
        e.twin.syncRooms = [] ∧ e.twin.syncDone = false ∧ e.twin.out = [] ∧ e.twnState = 2)) ∧
    ((Dev.copyLines 1 (twinned 2 [(Pg.twn, F.TWN_STS_SOURCE, 1)] fun t => { t with syncDone := true })).after.twin.syncDone = true) ∧
    (let x : BitVec 128 := .ofNat 128 (0x4C + 2 ^ 112 * (crc32c 0 (0x4C :: List.replicate 13 0) % 2 ^ 16))
     let b := fun (i n : Nat) => bits x.toNat (8 * i) (8 * n)
     (twinned 2 [] id).linkState 16 ≠ 0 ∧ b 0 1 = 0x4C ∧ b 14 2 = crc32c 0 ((List.range 14).map (fun i => b i 1)) % 2 ^ 16) ∧
    ((twinned 2 [] id).twin.hbSn + (twinned 2 [] id).silence ≤ (twinned 2 [] id).sn) ∧
    (let d := twinned 2 [] fun t => { t with downSn := some 5 }
     5 + d.downLim ≤ d.sn) ∧
    (let d := twinned 4 [] id
     d.twnState = 4 ∧ d.get Pg.twn F.TWN_DECIDE_SN_SN ≤ d.sn ∧ d.staysAlone = true) ∧
    ((twinned 4 [(Pg.twn, F.TWN_STS_ROLE, 1)] id).staysAlone = false) ∧
    (let d := twinned 5 [] id
     d.twnStands = 5 ∧ d.twinHolds = true ∧ d.get Pg.twn F.TWN_SPLIT_SN_SN + d.twin.fw ≤ d.sn) ∧
    (let d := twinned 2 [] id
     d.Serves fw Pg.twn 0x100 ∧ d.Serves fw Pg.twn 0x128 ∧ ((d.wrote Pg.twn).store Pg.twn 0x100 3 0 true).pairStands = true) ∧
    (let d := twinned 5 [] id
     d.Serves fw Pg.twn 0x158 ∧ (d.wrote Pg.twn).twnState = 5) := by
  unfold Dev.Serves; decide +kernel

/-! ### Witnesses: tables, codes and frames -/

theorem witness_StepsKeepTheTablesCanonical :
    (State.reset.dev.TablesCanonical ∧ step State.reset = .next State.reset) ∧
    (up.TablesCanonical ∧ ∃ t, step { pending := [.pllLock], dev := up } = .next t) := by
  unfold Dev.TablesCanonical Memory.wf
  exact ⟨⟨by decide +kernel, rfl⟩, by decide +kernel, _, rfl⟩

theorem witness_MemoryReadsWhatWasWritten : Memory.wf (holding opened).mem.store.mem ∧ (holding opened).mem.store.mem ≠ [] := by
  unfold Memory.wf; decide +kernel

theorem witness_PatternEntriesReadBack :
    (∃ e : Entry, e.inRange ∧ e.state = 7 ∧ e.heat = 255 ∧ e.owner = 63) ∧ (∃ e : PageEntry, e.inRange ∧ e.loc = 2 ^ 40 - 1) ∧
    (∃ r : Room, r.inRange ∧ r.owner = 63 ∧ r.shareGrp = 15) := by
  refine ⟨⟨{ state := 7, heat := 255, owner := 63 }, by unfold Entry.inRange; decide⟩, ⟨{ loc := 2 ^ 40 - 1 }, by unfold PageEntry.inRange; decide⟩,
    ⟨{ owner := 63, shareGrp := 15 }, by unfold Room.inRange; decide⟩⟩

/-- A slot of each scheme is well formed; one of scheme code 5, one with parameter 0 of BASE-DELTA, one too short and one with a byte after its payload
are malformed. -/
theorem witness_SlotDecoderFollowsTheTable :
    ([[0x00], 0x10 :: List.replicate 8 1, 0x40 :: [0, 0, 0, 0], 0x26 :: List.replicate 104 0, 0x36 :: List.replicate 108 0].all
      fun s => (decodeSlot s).isSome) = true ∧
    ([[0x50], 0x20 :: List.replicate 8 0, [0x10, 0], [0x00, 1], [0x01]].all fun s => (decodeSlot s).isNone) = true := by decide +kernel

theorem witness_SlotsDecodeToTheirBlock :
    (encodeSlot 64 (List.replicate 32 (2 ^ 64 - 1))).isSome = true ∧ (List.replicate 32 (2 ^ 64 - 1)).length = 32 ∧
    (∀ x ∈ List.replicate 32 (2 ^ 64 - 1), x < 2 ^ 64) := by decide +kernel

theorem witness_QueriesChangeNothingElse :
    ∃ t, exec (.getStitchNumber 5 0) (st served) = .next t ∧ t.dev.out = [.mbox 5 .success [served.sn, served.timestamp]] :=
  ⟨_, rfl, by decide +kernel⟩

/-! ### WellFormed refuses what it should -/

/-- One term against each check of WellFormed. -/
theorem test_wf_refuses : (([
   .stitchBoundary [⟨2048, true, 0, 0⟩] true, .stuckInputMask 2048, .stcMaskedRelease fw 64 0, .registerWrite (.ld 64) 0 4 0, .registerWrite (.core 4) 0 4 0,
   .registerWrite fw 0 3 0, .registerWrite fw (2 ^ 26) 4 0, .pgEnableWrite fw 16384 true, .talSelWrite fw 0 4 0, .hostLinkDown 4 0, .hostLinkDown 0 2,
   .functionLevelReset 64, .ldBind 0 16, .hdmDecoderCommit 0 0 ⟨0, 1, 5, 256, 0, 0, false, false⟩, .hdmDecoderCommit 0 0 ⟨0, 1, 2, 256, 2, 0, false, false⟩,
   .dcdManagement 0 (.add 0 [⟨0, 0⟩]), .addDcResponse 0 [⟨0, 0⟩], .setPortAllocation 0 68 0 (List.replicate 17 ⟨0, 0, false⟩), .memRd ⟨0, 0, 0, 1, .any, 0⟩,
   .memRd ⟨4, 0, 0, 0, .any, 0⟩, .patternMissInstall (2 ^ 31) true, .dramLineCapture 0 ⟨true, true, 10, 0⟩, .dramLineCapture 0 ⟨true, true, 0, 10⟩,
   .gateRelease 32, .inlineDecompressorFree 80, .ddrAlert 16, .bankIdleClose 0 0 256, .refreshInterval 0 0 8, .sqTailDoorbell 0 8192 0, .dmvTimerFire 32,
   .dmvBeat 4 noFault, .dmvRoundComplete 64 noFault, .yarnAckDue 17, .yarnTs2Agreed 0 ⟨4, 0, 0⟩, .yarnDomainPower 29 true, .retireTimeout 16, .nocRtFill fw 4 0,
   .nocHeaderError 24 0 .corrected none, .coreWait 4, .spdmGetVersion (.doe 64), .room (header 0) (2 ^ 22) true true, .lreq (header 0) 1,
   .mirrorRepairTimeout (2 ^ 52), .profCounterWrap 0 4 0 0] : List Instr).all fun i => !i.wf) = true := by decide +kernel

/-- Commands at the last value of each range. -/
theorem test_wf_accepts : (([
   .stuckInputMask 2047, .stcMaskedRelease fw 63 0, .registerWrite (.ld 63) (2 ^ 26 - 1) 8 0, .pgEnableWrite (.core 3) 16383 true, .talSelWrite fw 0 3 0,
   .hostLinkDown 3 1, .functionLevelReset 63, .ldBind 3 15, .hdmDecoderCommit 0 0 ⟨0, 1, 16, 256, 15, 0, false, false⟩, .memRd ⟨3, 1, 15, 64, .any, 0⟩,
   .patternMissInstall (2 ^ 31 - 1) true, .dramLineCapture 0 ⟨true, true, 9, 9⟩, .gateRelease 31, .inlineDecompressorFree 79, .bankIdleClose 15 1 255,
   .sqTailDoorbell 63 8191 0, .dmvTimerFire 31, .yarnAckDue 16, .yarnDomainPower 28 true, .room (header 0) (2 ^ 22 - 1) true true, .lreq (header 0) (2 ^ 52 - 64)] : List Instr).all Instr.wf) = true := by decide +kernel

/-- No row of the table gives bits, so no word spells a command, and the queue is left alone. -/
theorem test_no_word_spells_a_command : decodeTableWord 32 0xFFFFFFFF = none ∧ (State.reset.withFetchWord 8 1) = State.reset := by decide +kernel

/-! ### Worked examples of the manual, and known answers of the standards it names -/

/-- Chapter 7, "a 4:1 block and the write that breaks it": the 32 words. -/
def pointers : List Nat :=
  (List.range 32).map fun i => if i < 16 then 0x7F3A00102000 + 4 * i else 0x7F3A00102000 - 4 * (i - 15)

/-- Its slot, from the manual's table. -/
def pointerSlot : List Nat :=
  [0x22, 0x00, 0x20, 0x10, 0x00, 0x3A, 0x7F, 0x00, 0x00,
   0x00, 0x04, 0x08, 0x0C, 0x10, 0x14, 0x18, 0x1C, 0x20, 0x24, 0x28, 0x2C, 0x30, 0x34, 0x38, 0x3C,
   0xFC, 0xF8, 0xF4, 0xF0, 0xEC, 0xE8, 0xE4, 0xE0, 0xDC, 0xD8, 0xD4, 0xD0, 0xCC, 0xC8, 0xC4, 0xC0]

theorem test_codec_base_delta :
    encodeSlot 64 pointers = some (pointerSlot ++ List.replicate 23 0) ∧ encodeSlot 128 pointers = some (pointerSlot ++ List.replicate 87 0) ∧
    decodeSlot (pointerSlot ++ List.replicate 23 0) = some pointers := by decide +kernel

theorem test_codec_write_breaks_it :
    encodeSlot 64 (pointers.set 16 (0x7F3A00102000 - 200)) = none ∧
    ((encodeSlot 128 (pointers.set 16 (0x7F3A00102000 - 200))).map (·.head?)) = some (some 0x24) := by decide +kernel

/-- Chapter 7, "a block that can only be 2:1". -/
def records : List Nat :=
  (List.range 4).flatMap fun j =>
    let p := 0x5A0080000000 + 0x180 * j
    [0x10 + j, p, 2, 0x64 - j, p + 0x40, 1, p + 0x80, 2 ^ 64 - 1]

theorem test_codec_dual_base :
    encodeSlot 64 records = none ∧
    ((encodeSlot 128 records).map (·.take 29)) =
      some [0x34, 0x00, 0x00, 0x00, 0x80, 0x00, 0x5A, 0x00, 0x00, 0x52, 0x52, 0x52, 0x52,
        0x10, 0x00, 0x00, 0x00, 0x02, 0x00, 0x64, 0x00, 0x40, 0x00, 0x01, 0x00, 0x80, 0x00, 0xFF, 0xFF] ∧
    ((encodeSlot 128 records).bind decodeSlot) = some records := by decide +kernel

/-- Chapter 4, "one read through every level": LD12's page and the window. -/
def levels : Dev :=
  upWith [(Pg.pat, F.PAT_CFG_TBL_VALID, 1), (Pg.cry, F.CRY_STS_KEYS_READY, 1), (Pg.pat, F.PAT_WIN_ROOMS_ROOMS, 0x400000),
    (Pg.pat, F.PAT_TBL_BASE_DRA, 0x7F000000000), (Pg.ldm 12, F.LDM_SEG_A_EN, 1), (Pg.ldm 12, F.LDM_SEG_A_ROOMS, 256),
    (Pg.ldm 12, F.LDM_SEG_B_DRN_BASE, 0x10000), (Pg.ldm 12, F.LDM_SEG_A_EN.sh 16, 1), (Pg.ldm 12, F.LDM_SEG_A_LD_ROOM.sh 16, 256),
    (Pg.ldm 12, F.LDM_SEG_A_ROOMS.sh 16, 64), (Pg.ldm 12, F.LDM_SEG_B_DRN_BASE.sh 16, 0x3F0000)]

theorem test_address_levels :
    levels.translate 12 0x4023456780 = some 0xFC00023456780 ∧ dpaSkein 0xFC00023456780 = 0x7E00011A ∧ dpaPage 0xFC00023456780 = 86 ∧
    dpaLine 0xFC00023456780 = 30 ∧ levels.skeinDra 0x7E00011A = 0x7FFC0002340 ∧ patSet 0x7E00011A = 0x3E1A := by decide +kernel

theorem test_entry_words :
    (let e := Entry.decode 0x433130142 0x4A10 0 0
     (e.state, e.owner, e.heat, e.cls, e.shareGrp, e.loc) = (2, 5, 0x30, 1, 3, 0x4A10) ∧ e.shared = true ∧ e.compressible = true ∧ e.locValid = true ∧
       e.pinned = false ∧ e.larderOk = false ∧ e.dc = false) ∧
    (levels.placeEnd 0x7E00011A 2 0 0x4A10 0xFC00023456780 false) = .dram 0x250856780 0 := by decide +kernel

/-- Chapter 9, "the line of LD12's read" and "what DC4 offers the Gauge": the population. -/
def populated : Dev :=
  let d := (List.range 16).foldl (fun d c => sets d [(Pg.dc c, F.DC_CFG_TRAINED, 1), (Pg.dc c, F.DC_CFG_RATE, 2), (Pg.dc c, F.DC_POP_DPC, 2),
    (Pg.dc c, F.DC_POP_PKG_RANKS, 1), (Pg.dc c, F.DC_POP_DENSITY, 3), (Pg.dc c, F.DC_SCRUB_CFG_LINES, 1), (Pg.dc c, F.DC_PLAN_DELIVER, 33)]) up
  sets d [(Pg.dc 0, F.DC_ILV_EN, 1), (Pg.dc 0, F.DC_ILV_WLOG, 5), (Pg.dc 0, F.DC_ILV_LSIZE, 256)]

theorem test_dram_place :
    populated.place 0x250856780 = (8, 0x12842B80) ∧ populated.cellOf 8 0x12842B80 = (0, 4 * 2 + 1, 0x4A1) ∧ populated.rankCount 4 = 4 ∧
    populated.installed = 8 * 2 ^ 40 := by decide +kernel

theorem test_channel_plan : populated.planImage 4 = 40 + 7 * 2 ^ 8 + 33 * 2 ^ 16 := by decide +kernel

/-- Chapter 10, "an over-subscribed commit and a hot rank": every link at x16 and 64 GT/s, every inline decompressor enabled. -/
def admitting : Dev :=
  let d := (List.range 4).foldl (fun d p => sets d [(Pg.hp p, F.HP_LINK_STS_UP, 1), (Pg.hp p, F.HP_LINK_STS_SPEED, 4), (Pg.hp p, F.HP_LINK_STS_WIDTH, 16),
    (Pg.hp p, F.HP_LINK_STS_MLD, 1)]) populated
  (List.range 48).foldl (fun d i => d.set (Pg.cmp (32 + i)) F.PG_CTL_ENABLE 1) d

/-- Its four guarantees, by 4 * master + class. -/
def guarantees : Tbl (Nat × Nat) := [(0, (12288, 0)), (65, (8192, 0)), (130, (6144, 0)), (259, (4096, 0))]

theorem test_admission :
    admitting.admitSet { budgets := guarantees } = (0, 0, 0) ∧
    admitting.admitSet { budgets := tins guarantees 194 (4096, 0) } = (2, 0, 0) ∧ Dev.hrOf { budgets := guarantees } 32 = 12 := by decide +kernel

theorem test_scales : Dev.scalesFor 28 8 12 320 240 160 = (256, 204, 0, false) := by decide

/-- Chapter 1, "seven events in one stitch": categories, and the order in which the events leave the waiting list. -/
theorem test_seven_events :
    ((sortBy Dev.evKey ([0x035, 0x1F0, 0x213, 0x420, 0x495, 0x5C2, 0x7C3].map fun i =>
      (⟨9, i, (up.set (Bk.fcu 0x213) F.FCU_SRC_CFG_SEV 4).category i, 0, 0, 0, 0xFF, 0⟩ : Ev))).map fun e => (e.src, e.cat)) =
      [(0x420, 3), (0x495, 5), (0x213, 6), (0x5C2, 8), (0x035, 9), (0x1F0, 9), (0x7C3, 10)] := by decide +kernel

/-- Chapter 12, "rows to columns, paced by a timer": channel 9's registers in its second round. -/
def columns : Dev :=
  let c := Bk.dmv 9
  upWith [(c, F.DMV_CH_XFORM_XFORM, 0x30D), (c, F.DMV_CH_SRC_BASE, 0x5000000000), (c, F.DMV_CH_SRC_SIZE_LOG, 15), (c, F.DMV_CH_DST_BASE, 0x5000100000),
    (c, F.DMV_CH_STRIDE_S, 0x2000), (c, F.DMV_CH_ROUND_BYTES, 0x2000), (c, F.DMV_CH_CTL_TRIG, 1), (c, F.DMV_CH_CTL_TRIG_SRC, 3),
    (c, F.DMV_CH_SRC_POS_POS, 0x2000), (c, F.DMV_CH_DST_POS_POS, 0x800)]

theorem test_rows_to_columns :
    columns.chOk 9 = true ∧ ((columns.chDst 9).spans 0 0x2000).length = 128 ∧ ((columns.chDst 9).spans 0 0x2000).getLast? = some (0x5000106FC0, 64) ∧
    ((columns.chSrc 9).spans 0 0x2000).head? = some (0x5000002000, 64) := by decide +kernel

/-- Chapter 14, "fetching a 2:1 page": the line address A of block 5's second line. -/
theorem test_cartridge_line_address : Dev.slotAddr 0x24880007500 1 = 0x9220001D5 := by decide

/-- The known answer of SM3 for "abc" (GB/T 32905). -/
theorem test_sm3 : Sm3.digest [0x61, 0x62, 0x63] = 0x66c7f0f462eeedd9d1f2d46bdc10e4e24167c4875cf2f7a2297da02b8f4ba8e0 := by decide +kernel

/-- The known answer of SM4 (GB/T 32907). -/
theorem test_sm4 : Sm4.encrypt 0x0123456789ABCDEFFEDCBA9876543210 0x0123456789ABCDEFFEDCBA9876543210 = 0x681EDF34D206965E86B3E94F536E4246 := by
  decide +kernel

/-- The known answer of CRC-32C for "123456789". -/
theorem test_crc32c : crc32c 0 ((List.range 9).map (0x31 + ·)) = 0xE3069283 := by decide +kernel

end Sys2Proof.Tests
end

