-- ==== Sys2Proof/Proofs/Memory.lean ====
section
/-! PROOFS. What one byte of memory reads after a write, a read and a clear. -/

set_option Elab.async false

namespace Sys2Proof.Laws

open Sys2Proof.Machine

/-! ### Bytes of memory -/

/-- Keeping the cells whose address satisfies `q` is keeping those addresses of the table. -/
theorem filter_eq_tfilter {α : Type} (q : Nat → Bool) (t : Tbl α) : t.filter (fun c => q c.1) = tfilter q t := by
  induction t with
  | nil => rfl
  | cons c t ih => rw [List.filter_cons, ih]; rfl

/-- A byte after the cells outside `q` were dropped. -/
theorem memByte_filter (q : Nat → Bool) (m : List Host.Cell) (i : Nat) :
    memByte (m.filter fun c => q c.1) i = if q i then memByte m i else 0 := by
  rw [filter_eq_tfilter]
  exact tget_tfilter _ _ _ _

/-- A byte of two tables, the first of which lists no address from `k` on, the second none below. -/
theorem memByte_append {m m' : List Host.Cell} {k : Nat} (h : ∀ c ∈ m, c.1 < k) (h' : ∀ c ∈ m', k ≤ c.1) (i : Nat) :
    memByte (m ++ m') i = if i < k then memByte m i else memByte m' i := by
  have unlisted : ∀ t : List Host.Cell, (∀ c ∈ t, c.1 ≠ i) → memByte t i = 0 := by
    intro t ht
    induction t with
    | nil => rfl
    | cons c t ih =>
      refine (if_neg fun e => ht c List.mem_cons_self e.symm).trans ?_
      exact ih fun x hx => ht x (List.mem_cons_of_mem _ hx)
  induction m with
  | nil =>
    split
    · next hi => exact unlisted m' fun c hc e => by have := h' c hc; omega
    · rfl
  | cons c m ih =>
    have hc : c.1 < k := h c List.mem_cons_self
    have ih := ih fun x hx => h x (List.mem_cons_of_mem _ hx)
    unfold memByte at ih ⊢
    rw [List.cons_append, tget, tget]
    split
    · next e => rw [if_pos (by omega)]
    · exact ih

/-- The keys of a table in order from `lo` on. -/
theorem le_of_tokFrom {α : Type} [DecidableEq α] {d : Nat → α} {t : Tbl α} {lo : Nat} (h : tokFrom d lo t = true) :
    ∀ c ∈ t, lo ≤ c.1 := by
  induction t generalizing lo with
  | nil => simp
  | cons c t ih =>
    simp only [tokFrom, Bool.and_eq_true, decide_eq_true_eq] at h
    obtain ⟨⟨hlo, -⟩, ht⟩ := h
    refine List.forall_mem_cons.mpr ⟨hlo, fun x hx => ?_⟩
    have := ih ht x hx
    omega

/-- A byte of the cells of bytes placed at `a`. -/
theorem memByte_cellsOf (a : Nat) (bs : List Nat) (i : Nat) :
    memByte (cellsOf a bs) i = if a ≤ i ∧ i < a + bs.length then BitVec.ofNat 8 (bs.getD (i - a) 0) else 0 := by
  induction bs generalizing a with
  | nil => rw [if_neg (by simp only [List.length_nil]; omega)]; rfl
  | cons b bs ih =>
    have head : memByte (cellsOf a (b :: bs)) i = if i = a then BitVec.ofNat 8 b else memByte (cellsOf (a + 1) bs) i := by
      rw [cellsOf]
      split
      · next hb =>
        split
        · rw [hb, ih, if_neg (by omega)]
        · rfl
      · rfl
    rw [head, ih, List.length_cons]
    rcases Nat.lt_trichotomy i a with hi | rfl | hi
    · rw [if_neg (by omega), if_neg (by omega), if_neg (by omega)]
    · rw [if_pos rfl, if_pos (by omega), Nat.sub_self, List.getD_cons_zero]
    · obtain ⟨j, rfl⟩ : ∃ j, i = a + 1 + j := ⟨i - (a + 1), by omega⟩
      rw [if_neg (by omega), show a + 1 + j - a = j + 1 by omega, List.getD_cons_succ, Nat.add_sub_cancel_left]
      exact ite_congr (propext (by omega)) (fun _ => rfl) fun _ => rfl

/-- A byte after a write: the bytes written read as written, every other as before. -/
theorem memByte_memWrite (m : List Host.Cell) (a : Nat) (bs : List Nat) (i : Nat) :
    memByte (memWrite m a bs) i = if a ≤ i ∧ i < a + bs.length then BitVec.ofNat 8 (bs.getD (i - a) 0) else memByte m i := by
  have below : ∀ c ∈ m.filter (fun c => c.1 < a), c.1 < a := fun c hc => by simpa using (List.mem_filter.mp hc).2
  have above : ∀ c ∈ m.filter (fun c => a + bs.length ≤ c.1), a + bs.length ≤ c.1 := fun c hc => by
    simpa using (List.mem_filter.mp hc).2
  have rest : ∀ c ∈ cellsOf a bs ++ m.filter (fun c => a + bs.length ≤ c.1), a ≤ c.1 := fun c hc =>
    (List.mem_append.mp hc).elim (le_of_tokFrom (tokFrom_cellsOf a bs) c) fun hc => (Nat.le_add_right _ _).trans (above c hc)
  rw [memWrite, memByte_append below rest, memByte_append (cellsOf_below a bs) above, memByte_cellsOf,
    memByte_filter (fun k => decide (k < a)), memByte_filter (fun k => decide (a + bs.length ≤ k))]
  simp only [decide_eq_true_eq]
  by_cases hlo : i < a
  · rw [if_pos hlo, if_pos hlo, if_neg (by omega)]
  · by_cases hhi : i < a + bs.length
    · rw [if_neg hlo, if_pos hhi, if_pos (by omega), if_pos (by omega)]
    · rw [if_neg hlo, if_neg hhi, if_pos (by omega), if_neg (by omega)]

/-- Reading gives the bytes one by one. -/
theorem memRead_eq (m : List Host.Cell) (a n : Nat) : memRead m a n = (List.range n).map fun i => (memByte m (a + i)).toNat := by
  refine List.map_congr_left fun i hi => ?_
  have hi : i < n := List.mem_range.mp hi
  have : memByte (m.filter fun c => decide (a ≤ c.1 ∧ c.1 < a + n)) (a + i) = memByte m (a + i) := by
    rw [memByte_filter fun k => decide (a ≤ k ∧ k < a + n), if_pos (by simp; omega)]
  exact congrArg BitVec.toNat this

end Sys2Proof.Laws

namespace Sys2Proof.Machine

open Sys2Proof.Laws

/-- Settles O54: a reset leaves both tables empty. -/
theorem resetTablesAreCanonical : Obligations.ResetTablesAreCanonical := ⟨rfl, rfl⟩

/-- Settles O56, by what a write, a read and a clear of bytes do to one byte. -/
theorem memoryReadsWhatWasWritten : Obligations.MemoryReadsWhatWasWritten := by
  intro d a bs h
  refine ⟨wf_memWrite _ a bs h, memByte_memWrite _ a bs, memRead_eq _ a, fun n => ⟨wf_clear _ a n h, fun i => ?_⟩⟩
  refine (memByte_filter (fun k => decide (k < a ∨ a + n ≤ k)) _ i).trans ?_
  simp only [decide_eq_true_eq]
  split_ifs with hout hin hin
  · omega
  · rfl
  · rfl
  · omega

end Sys2Proof.Machine
end

