-- ==== Sys2Proof/Proofs/RegisterReads.lean ====
section
/-! PROOFS. Reads of registers that have no effect of their own. -/

set_option Elab.async false

namespace Sys2Proof.Machine

open Sys2Proof.Laws

namespace Dev

/-! ### Reads of registers -/

theorem mayRead_tally (d : Dev) (p ev k : Nat) (a : Agent) (q : Nat) : (d.tally p ev k).mayRead a q = d.mayRead a q := by
  unfold mayRead isMgmt pageMode pageOwner debugLevel
  rw [get_tally d p ev k _ F.GEN_MGMT_LD_MGMT (by decide) (by decide), get_tally d p ev k _ F.GEN_ACC_MODE (by decide) (by decide),
    get_tally d p ev k _ F.GEN_ACC_OWNER (by decide) (by decide), get_tally d p ev k _ F.DBG_STS_LEVEL (by decide) (by decide)]

/-- The debug port alone is noted. -/
theorem portUsed_of_ne_debug (d : Dev) {a : Agent} (h : a ≠ .debug) : d.portUsed a = d := by
  cases a with
  | debug => exact absurd rfl h
  | ld | core | strongroom => rfl

/-- A word of a ready page whose read has no effect. -/
theorem readReady_plain (d : Dev) (a : Agent) {p off : Nat} (hready : d.pageReady p = true) (h : readHasEffect p off = false) :
    d.readReady a p off = (d.readWord p off, d) := by
  simp only [readHasEffect, Bool.or_eq_false_iff, Bool.and_eq_false_iff, beq_eq_false_iff_ne, decide_eq_false_iff_not] at h
  obtain ⟨⟨⟨hwide, hstc⟩, hnoc⟩, hphy⟩ := h
  unfold readReady readWord4
  rw [if_pos hready, if_neg (by simpa [or_iff_not_imp_left] using hphy), if_neg (by tauto), hwide,
    if_neg Bool.false_ne_true, if_neg (by tauto)]

/-- An aligned read of four bytes reads its one word. -/
theorem readWords_four (d : Dev) (a : Agent) {p off : Nat} (hal : off % 4 = 0) (hready : d.pageReady p = true)
    (h : readHasEffect p off = false) : d.readWords a p off 4 = (d.readWord p off % 2 ^ 32, d) := by
  have hone : (off + 4 - 1) / 4 - off / 4 + 1 = 1 := by omega
  have hoff : 4 * (off / 4) = off := by omega
  unfold readWords
  simp only [hone, List.range_one, List.foldl_cons, List.foldl_nil, Nat.add_zero, hoff, readReady_plain d a hready h]
  simp [bits, hal]
/-- A read of four bytes that is served counts itself and gives its word. -/
theorem readOne_four (d : Dev) {a : Agent} {p off : Nat} (hal : off % 4 = 0) (hpage : (pageKind p).isSome = true)
    (hmay : d.mayRead a p = true) (hheld : d.domHeld (pageDomain p) = false) (hready : d.pageReady p = true) (h : readHasEffect p off = false) :
    d.readOne a p off 4 = (some ((d.tally p 0x0003 1).readWord p off % 2 ^ 32), d.tally p 0x0003 1) := by
  unfold readOne
  rw [Option.isNone_eq_false_iff.mpr hpage, if_neg Bool.false_ne_true]
  dsimp only
  rw [mayRead_tally, hmay, domHeld_tally, hheld, readWords_four _ _ hal (by rwa [pageReady_tally]) h]
  rfl

/-- What an aligned read of four bytes answers. -/
theorem barRead_four {a : Agent} {o : Nat} (d : Dev) {v : Nat} {d' : Dev} (hal : o % 4 = 0)
    (h : d.readOne a (o / 4096) (o % 4096) 4 = (some v, d')) : barRead a o 4 d = d'.emit (.barData a o 4 v) := by
  unfold barRead
  dsimp only
  rw [if_neg (by decide), if_pos (by omega), h]

end Dev

theorem run_eq_withDev {f : Effect} {s : State} {d : Dev} (h : f s.dev = d) : s.run f = .next (s.withDev d) := h ▸ rfl

/-- Settles O8, from the one word that an aligned read of four bytes reads. -/
theorem registerReadsAnswer : Obligations.RegisterReadsAnswer := by
  refine ⟨fun s a o ho hal ha hpage hmay hheld hready heff => run_eq_withDev ?_,
    fun s w hw ho hal hwidth hread hheld hready heff => run_eq_withDev ?_, fun s w hw hsn hready => run_eq_withDev ?_⟩
  · rw [if_pos ho, Dev.portUsed_of_ne_debug _ ha,
      Dev.barRead_four _ hal (Dev.readOne_four s.dev (by omega) hpage hmay hheld hready heff)]
  · have hp : waitPage w.off = w.off / 4096 := if_neg (by omega)
    unfold Dev.accessComplete
    rw [hw]
    dsimp only
    rw [hp, hready, hheld, if_neg (by decide), if_neg (by omega), hread, hwidth]
    dsimp only
    rw [Dev.readWords_four { s.dev with bar := { s.dev.bar with waits := s.dev.bar.waits.filter (fun x => x.id ≠ w.id) } } w.agent
      (by omega) hready heff]
  · unfold barTimeout
    rw [hw]
    dsimp only
    rw [if_neg (by simp only [hready, Bool.false_eq_true, or_false]; omega)]
    cases w.write with
    | none => rfl
    | some v => rfl

end Sys2Proof.Machine
end

