-- ==== Sys2Proof/Proofs/TablesKept.lean ====
section
/-! PROOFS. The tables stay canonical. One lemma for each function of the model that a command can reach and that gives a device, named after
it; its proof follows the definition, call by call: `h.set.raise` says that the tables of `(d.set …).raise …` are canonical where those of `d` are.
A function that gives more than a device is stated of its result `res`, so that a caller that has matched on the result can cite it. -/

set_option Elab.async false

namespace Sys2Proof.Machine

/-- The device that an attempt at an access leaves, whatever it came to. -/
abbrev Got.dev {α : Type} : Got α → Dev
  | .done _ d | .wait d _ _ | .fail d => d

namespace Dev

/-- The device that one access of a channel leaves. -/
abbrev Beat.dev : Beat → Dev
  | .issued d | .waits d | .halted d => d

/-- The device that an operation leaves that may come to nothing: `d` where it did, else the device in its result. -/
abbrev devOf {α : Type} (d : Dev) (p : α → Dev) (o : Option α) : Dev :=
  match o with
  | some x => p x
  | none => d

namespace TablesCanonical

open Sys2Proof.Laws

variable {d : Dev}

/-! ### The registers that a reset keeps (R575) -/

/-- A fold from the right that keeps an entry, gives it another value that is not its default, or drops it. -/
theorem tokFrom_foldr {α : Type} [DecidableEq α] {d : Nat → α} {f : Nat × α → Tbl α → Tbl α}
    (hf : ∀ x t, x.2 ≠ d x.1 → f x t = t ∨ ∃ v, v ≠ d x.1 ∧ f x t = (x.1, v) :: t) {l : Tbl α} {lo : Nat}
    (h : tokFrom d lo l = true) : tokFrom d lo (l.foldr f []) = true := by
  induction l generalizing lo with
  | nil => rfl
  | cons x l ih =>
    simp only [tokFrom, Bool.and_eq_true, decide_eq_true_eq] at h
    obtain ⟨⟨hlo, hx⟩, hl⟩ := h
    rcases hf x (l.foldr f []) hx with e | ⟨v, hv, e⟩
    · rw [List.foldr_cons, e]
      exact tokFrom_mono (by omega) (ih hl)
    · rw [List.foldr_cons, e]
      simp only [tokFrom, Bool.and_eq_true, decide_eq_true_eq]
      exact ⟨⟨hlo, hv⟩, ih hl⟩

theorem tok_keptRegs {warm : Bool} (h : tok resetWord d.regs = true) : tok resetWord (d.keptRegs warm) = true := by
  refine tokFrom_foldr (fun x t hx => ?_) h
  dsimp only
  split_ifs with haon hwarm hreset
  · exact .inr ⟨x.2, hx, rfl⟩
  · exact .inl rfl
  · exact .inr ⟨_, hreset, rfl⟩
  · exact .inl rfl

/-! ### What every proof below is put together from -/

/-- A device with the registers and the memory of another. -/
theorem frame {sn fresh out stc frogs nextFrog bar clk pwr host str tal carts links twin rings dmv noc}
    (h : d.TablesCanonical) :
    Dev.TablesCanonical ⟨sn, d.regs, fresh, out, stc, frogs, nextFrog, bar, clk, pwr, host, str, tal, d.mem, carts, links, twin,
      rings, dmv, noc⟩ := h

/-- A device with the registers and the stored lines of another. -/
theorem frameStore {sn fresh out stc frogs nextFrog bar clk pwr host str tal carts links twin rings dmv noc}
    {pat reqs nextReq tier gau chans cry cmp} (h : d.TablesCanonical) :
    Dev.TablesCanonical ⟨sn, d.regs, fresh, out, stc, frogs, nextFrog, bar, clk, pwr, host, str, tal,
      ⟨d.mem.store, pat, reqs, nextReq, tier, gau, chans, cry, cmp⟩, carts, links, twin, rings, dmv, noc⟩ := h

/-- `p` takes the device out of what either branch gives. -/
theorem ite_of {α : Type} (p : α → Dev) {c : Prop} [Decidable c] {a b : α} (ha : (p a).TablesCanonical)
    (hb : (p b).TablesCanonical) : (p (if c then a else b)).TablesCanonical := by
  split
  · exact ha
  · exact hb

theorem ite {c : Prop} [Decidable c] {a b : Dev} (ha : a.TablesCanonical) (hb : b.TablesCanonical) :
    (if c then a else b).TablesCanonical := ha.ite_of id hb

/-- Either effect keeps the tables of `d` canonical. -/
theorem ite_apply {c : Prop} [Decidable c] {f g : Dev → Dev} (_ : d.TablesCanonical) (hf : (f d).TablesCanonical)
    (hg : (g d).TablesCanonical) : ((if c then f else g) d).TablesCanonical := by
  split
  · exact hf
  · exact hg

/-- A fold keeps what its step keeps; `p` takes the device out of what is carried along. -/
theorem foldl_of {α β : Type} (p : β → Dev) {f : β → α → β} {l : List α} {b : β} (h : (p b).TablesCanonical)
    (hf : ∀ {b x}, (p b).TablesCanonical → (p (f b x)).TablesCanonical) : (p (l.foldl f b)).TablesCanonical := by
  induction l generalizing b with
  | nil => exact h
  | cons x l ih => exact ih (hf h)

theorem foldl {α : Type} {f : Dev → α → Dev} {l : List α} (h : d.TablesCanonical)
    (hf : ∀ {d x}, d.TablesCanonical → (f d x).TablesCanonical) : (l.foldl f d).TablesCanonical := h.foldl_of id hf

theorem getD {o : Option Dev} (h : (devOf d (fun x => x) o).TablesCanonical) : (o.getD d).TablesCanonical := by
  cases o with
  | none => exact h
  | some d' => exact h

/-- What an operation leaves in its result is canonical, so any canonical device may stand in where it came to nothing. -/
theorem orElse {α : Type} {o : Option α} {p : α → Dev} {d' : Dev} (h : (devOf d p o).TablesCanonical) (h' : d'.TablesCanonical) :
    (devOf d' p o).TablesCanonical := by
  cases o with
  | none => exact h'
  | some x => exact h

end TablesCanonical
end Dev
end Sys2Proof.Machine
end

