-- ==== Sys2Proof/Proofs/TablesMemory.lean ====
section
/-! PROOFS. The tables stay canonical: storage, skeins, the channels, the flow of requests and the tier engine. -/

set_option Elab.async false

namespace Sys2Proof.Machine.Dev.TablesCanonical

open Sys2Proof.Laws

variable {d : Dev}

/-! ### Operations on the state (Machine/Ops.lean) -/

theorem setWord {p off w} (h : d.TablesCanonical) : (d.setWord p off w).TablesCanonical := ⟨tok_tput _ _ h.1, h.2⟩
theorem set {p f v} (h : d.TablesCanonical) : (d.set p f v).TablesCanonical := .ite h.setWord h.setWord.setWord
theorem setFlag {p f b} (h : d.TablesCanonical) : (d.setFlag p f b).TablesCanonical := h.set
theorem addSat {p f k} (h : d.TablesCanonical) : (d.addSat p f k).TablesCanonical := h.set
theorem resetPage {p} (h : d.TablesCanonical) : (d.resetPage p).TablesCanonical := ⟨tok_tfilter _ h.1, h.2⟩
theorem resetBank {b} (h : d.TablesCanonical) : (d.resetBank b).TablesCanonical := ⟨tok_tfilter _ h.1, h.2⟩
theorem emit {m} (h : d.TablesCanonical) : (d.emit m).TablesCanonical := h.frame
theorem draw (h : d.TablesCanonical) : d.draw.TablesCanonical := h.frame
theorem raise {src addr master acc} (h : d.TablesCanonical) : (d.raise src addr master acc).TablesCanonical := h.frame
theorem raiseOnce {src addr master acc} (h : d.TablesCanonical) : (d.raiseOnce src addr master acc).TablesCanonical :=
  .ite h.raise h
theorem latch {src} (h : d.TablesCanonical) : (d.latch src).TablesCanonical := .ite h h.frame
theorem setLevel {src active} (h : d.TablesCanonical) : (d.setLevel src active).TablesCanonical := h.frame
theorem tallyAdd {p n k} (h : d.TablesCanonical) : (d.tallyAdd p n k).TablesCanonical :=
  .ite h.set (.ite h.set.set h.set.set.latch)
theorem tally {p ev k} (h : d.TablesCanonical) : (d.tally p ev k).TablesCanonical :=
  h.foldl fun h => .ite h.tallyAdd h
theorem setMsixEntry {ld vec v} (h : d.TablesCanonical) : (d.setMsixEntry ld vec v).TablesCanonical := h.frame
theorem sendMsix {ld vec} (h : d.TablesCanonical) : (d.sendMsix ld vec).TablesCanonical := .ite h.setMsixEntry h.emit
theorem coreInterrupt {core page} (h : d.TablesCanonical) : (d.coreInterrupt core page).TablesCanonical :=
  .ite h h.frame.emit
theorem hostInterrupt {p} (h : d.TablesCanonical) : (d.hostInterrupt p).TablesCanonical := .ite h.sendMsix h.raise

theorem pageInterrupt {p} (h : d.TablesCanonical) : (d.pageInterrupt p).TablesCanonical := by
  unfold Dev.pageInterrupt
  refine .ite h ?_
  extract_lets +onlyGivenNames core
  split
  · exact h.hostInterrupt.tally
  · exact h.coreInterrupt.tally
  · exact h.hostInterrupt.coreInterrupt.tally
  · exact h

theorem setPageBits {p mask} (h : d.TablesCanonical) : (d.setPageBits p mask).TablesCanonical :=
  .ite h.set.pageInterrupt h.set
theorem modLd {n f} (h : d.TablesCanonical) : (d.modLd n f).TablesCanonical := h.frame
theorem modLink {port half f} (h : d.TablesCanonical) : (d.modLink port half f).TablesCanonical := h.frame
theorem appendWith {n k src sn ext} (h : d.TablesCanonical) : (d.appendWith n k src sn ext).TablesCanonical :=
  .ite (.ite h.modLd.sendMsix h.modLd) h.modLd
theorem appendRec {n k src sn} (h : d.TablesCanonical) : (d.appendRec n k src sn).TablesCanonical := h.appendWith
theorem fcuRecord {src sn sev master} (h : d.TablesCanonical) : (d.fcuRecord src sn sev master).TablesCanonical :=
  .ite h (h.foldl fun h => h.appendRec)
theorem makeViral {ld} (h : d.TablesCanonical) : (d.makeViral ld).TablesCanonical := .ite h h.set.emit
theorem clearViral {ld} (h : d.TablesCanonical) : (d.clearViral ld).TablesCanonical := h.set
theorem wakeFor {k} (h : d.TablesCanonical) : (d.wakeFor k).TablesCanonical := .ite h h.latch.tally
theorem setDom {k on} (h : d.TablesCanonical) : (d.setDom k on).TablesCanonical := (TablesCanonical.ite h h.frame).set
theorem setAbsent {k} (h : d.TablesCanonical) : (d.setAbsent k).TablesCanonical := h.setDom.frame
theorem store {p off mask value aligned} (h : d.TablesCanonical) : (d.store p off mask value aligned).TablesCanonical :=
  .ite h.frame h.setWord

theorem commitAligned (h : d.TablesCanonical) : d.commitAligned.TablesCanonical := by
  unfold Dev.commitAligned
  extract_lets +onlyGivenNames dueNow d1
  have hd1 : d1.TablesCanonical := h.foldl fun h => ⟨tok_tput _ _ h.1, h.2⟩
  exact hd1.frame

theorem when {c f} (h : d.TablesCanonical) (hf : ∀ {d}, d.TablesCanonical → (f d).TablesCanonical) :
    (when c f d).TablesCanonical :=
  .ite (hf h) h

/-! ### Storage (Machine/Memory.lean) -/

theorem modChan {c f} (h : d.TablesCanonical) : (d.modChan c f).TablesCanonical := h.frameStore
theorem modSub {l f} (h : d.TablesCanonical) : (d.modSub l f).TablesCanonical := h.modChan
theorem dcTally {l ev k} (h : d.TablesCanonical) : (d.dcTally l ev k).TablesCanonical := h.tally.tally
theorem bursts {l write maint k} (h : d.TablesCanonical) : (d.bursts l write maint k).TablesCanonical :=
  h.dcTally.frame
theorem hpLines {port half write k} (h : d.TablesCanonical) : (d.hpLines port half write k).TablesCanonical := h.frame

theorem modStore {f} (h : d.TablesCanonical) (hf : ∀ s, (f s).mem = s.mem := by intro _; rfl) :
    (d.modStore f).TablesCanonical := by
  unfold Dev.TablesCanonical Dev.modStore
  rw [hf]
  exact h

theorem writeBytes {dra bs} (h : d.TablesCanonical) : (d.writeBytes dra bs).TablesCanonical :=
  ⟨h.1, wf_memWrite _ _ _ h.2⟩
theorem setSide {dra m} (h : d.TablesCanonical) : (d.setSide dra m).TablesCanonical := h.modStore
theorem clearRange {a n} (h : d.TablesCanonical) : (d.clearRange a n).TablesCanonical :=
  ⟨h.1, wf_clear _ _ _ h.2⟩
theorem setWiped {f b} (h : d.TablesCanonical) : (d.setWiped f b).TablesCanonical := h.modStore
theorem unwipe {f} (h : d.TablesCanonical) : (d.unwipe f).TablesCanonical := h.setWiped.modStore.clearRange

theorem fillDone {f} (h : d.TablesCanonical) : (d.fillDone f).TablesCanonical := by
  unfold Dev.fillDone
  split
  · exact .ite h.setWiped.modStore h
  · exact h

theorem completeOldest (h : d.TablesCanonical) : d.completeOldest.TablesCanonical := by
  unfold Dev.completeOldest
  split
  · exact h
  · exact h.setWiped.modStore

theorem markWritten {dra} (h : d.TablesCanonical) : (d.markWritten dra).TablesCanonical := by
  unfold Dev.markWritten
  extract_lets +onlyGivenNames f
  refine .ite h ?_
  extract_lets +onlyGivenNames b
  split
  · exact h.modStore.fillDone
  · exact (TablesCanonical.ite h h.completeOldest).modStore

theorem putLine {dra tier a knit poison bs} (h : d.TablesCanonical) : (d.putLine dra tier a knit poison bs).TablesCanonical :=
  h.markWritten.writeBytes.setSide
theorem putOpen {dra dpa poison bs} (h : d.TablesCanonical) : (d.putOpen dra dpa poison bs).TablesCanonical :=
  h.putLine
theorem putSlot {dra blockDpa poison slot} (h : d.TablesCanonical) : (d.putSlot dra blockDpa poison slot).TablesCanonical :=
  .ite h.putLine h.putLine.putLine
theorem putDevice {dra bs} (h : d.TablesCanonical) : (d.putDevice dra bs).TablesCanonical :=
  h.markWritten.writeBytes.setSide
theorem setFrame {f u} (h : d.TablesCanonical) : (d.setFrame f u).TablesCanonical := h.modStore
theorem takeFrame {f u} (h : d.TablesCanonical) : (d.takeFrame f u).TablesCanonical := h.setFrame.setWiped
theorem takeWhole {f n skein wiped} (h : d.TablesCanonical) : (d.takeWhole f n skein wiped).TablesCanonical :=
  h.foldl fun h => .ite h.takeFrame h.setFrame
theorem freeFrame {f} (h : d.TablesCanonical) : (d.freeFrame f).TablesCanonical := h.setFrame.unwipe
theorem freeWhole {f n} (h : d.TablesCanonical) : (d.freeWhole f n).TablesCanonical := h.foldl fun h => h.freeFrame

theorem refillReserve (h : d.TablesCanonical) : d.refillReserve.TablesCanonical := by
  unfold Dev.refillReserve
  extract_lets +onlyGivenNames want
  refine h.foldl fun h => ?_
  split
  · exact h.takeFrame
  · exact h

theorem holdUnits {f u n hd rsv} (h : d.TablesCanonical) : (d.holdUnits f u n hd rsv).TablesCanonical := by
  unfold Dev.holdUnits
  split
  · exact h.setFrame
  · exact h.takeFrame

theorem takeUnits {n skein page res} (h : d.TablesCanonical) (eq : d.takeUnits n skein page = res) :
    (devOf d Prod.snd res).TablesCanonical := by
  subst eq
  unfold Dev.takeUnits
  split
  · exact h.holdUnits
  · split
    · exact h.holdUnits
    · exact h

theorem takeFitUnit {skein page res} (h : d.TablesCanonical) (eq : d.takeFitUnit skein page = res) :
    (devOf d Prod.snd res).TablesCanonical := by
  subst eq
  unfold Dev.takeFitUnit
  split
  · exact h
  · exact h.holdUnits.refillReserve

theorem freeUnits {dra n} (h : d.TablesCanonical) : (d.freeUnits dra n).TablesCanonical := by
  unfold Dev.freeUnits
  extract_lets +onlyGivenNames f
  split
  · exact .ite h.freeFrame h.setFrame
  · exact h

theorem freeHeld {skein} (h : d.TablesCanonical) : (d.freeHeld skein).TablesCanonical := by
  unfold Dev.freeHeld
  refine h.foldl fun h => ?_
  split
  · exact .ite h.freeFrame h
  · exact .ite h (.ite h.freeFrame h.setFrame)
  · exact h

theorem useMap {i b} (h : d.TablesCanonical) : (d.useMap i b).TablesCanonical := h.modStore
theorem setPageEntry {map page ev} (h : d.TablesCanonical) : (d.setPageEntry map page ev).TablesCanonical :=
  h.putDevice
theorem writeMap {map es} (h : d.TablesCanonical) : (d.writeMap map es).TablesCanonical :=
  h.useMap.foldl fun h => h.setPageEntry

/-! ### Skeins (Machine/Skeins.lean) -/

theorem modPat {f} (h : d.TablesCanonical) : (d.modPat f).TablesCanonical := h.frameStore
theorem writeTable {s ev} (h : d.TablesCanonical) : (d.writeTable s ev).TablesCanonical := h.putDevice.tally

theorem evictFor {set} (h : d.TablesCanonical) : (d.evictFor set).TablesCanonical := by
  unfold Dev.evictFor
  refine .ite h ?_
  split
  · exact h
  · exact .ite h.modPat.tally.writeTable h.modPat.tally

theorem installWay {s ev changed} (h : d.TablesCanonical) : (d.installWay s ev changed).TablesCanonical :=
  h.evictFor.modPat

theorem touchWay {s} (h : d.TablesCanonical) : (d.touchWay s).TablesCanonical := by
  unfold Dev.touchWay
  split
  · exact h.modPat
  · exact h

theorem setCached {s ev} (h : d.TablesCanonical) : (d.setCached s ev).TablesCanonical := h.modPat
theorem addUse {ld subKib addKib subExt addExt dpa} (h : d.TablesCanonical) :
    (d.addUse ld subKib addKib subExt addExt dpa).TablesCanonical :=
  .ite h (.ite h.set.set.setFlag.raise (.ite h.set.set.setFlag h.set.set))
theorem recharge {s old new} (h : d.TablesCanonical) : (d.recharge s old new).TablesCanonical :=
  .ite h (.ite h.addUse h.addUse.addUse)
theorem putEntry {s ev} (h : d.TablesCanonical) : (d.putEntry s ev).TablesCanonical :=
  .ite h.recharge.setCached (.ite h.recharge.writeTable h.recharge.installWay)
theorem putEntryQuiet {s ev} (h : d.TablesCanonical) : (d.putEntryQuiet s ev).TablesCanonical :=
  .ite h.recharge.setCached h.recharge.writeTable
theorem putPage {s page ev} (h : d.TablesCanonical) : (d.putPage s page ev).TablesCanonical :=
  .ite h.setPageEntry.addUse h.setPageEntry.addUse
theorem setRoom {drn r} (h : d.TablesCanonical) : (d.setRoom drn r).TablesCanonical := h.putDevice
theorem modCart {n f} (h : d.TablesCanonical) : (d.modCart n f).TablesCanonical := h.frame
theorem ctgSet {n f v} (h : d.TablesCanonical) : (d.ctgSet n f v).TablesCanonical := h.set

theorem takeExtent {but res} (h : d.TablesCanonical) (eq : d.takeExtent but = res) :
    (devOf d (fun x : Nat × Nat × Dev => x.2.2) res).TablesCanonical := by
  subst eq
  unfold Dev.takeExtent
  split
  · exact h
  · split
    · exact h
    · exact h.modCart.tally

theorem freeExtent {n ev} (h : d.TablesCanonical) : (d.freeExtent n ev).TablesCanonical := .ite h.modCart.tally h
theorem freePage {ev} (h : d.TablesCanonical) : (d.freePage ev).TablesCanonical := .ite h.freeUnits h
theorem freeMapAll {map} (h : d.TablesCanonical) : (d.freeMapAll map).TablesCanonical :=
  ((h.foldl fun h => h.freePage).foldl fun h => h.freeExtent).useMap
theorem freeLoc {st ratio loc} (h : d.TablesCanonical) : (d.freeLoc st ratio loc).TablesCanonical :=
  .ite h.freeWhole (.ite h.freeMapAll (.ite h.freeExtent h))
theorem freeSkein {s} (h : d.TablesCanonical) : (d.freeSkein s).TablesCanonical := .ite h.freeHeld (.ite h.freeLoc h)

/-! ### The gate of the channels (Machine/Gate.lean) -/

theorem modMem {f} (h : d.TablesCanonical) (hf : ∀ m, (f m).store = m.store := by intro _; rfl) :
    (d.modMem f).TablesCanonical := by
  unfold Dev.TablesCanonical Dev.modMem
  rw [hf]
  exact h

theorem modGau {f} (h : d.TablesCanonical) : (d.modGau f).TablesCanonical := h.modMem
theorem modTier {f} (h : d.TablesCanonical) : (d.modTier f).TablesCanonical := h.modMem
theorem refreshPlan {c} (h : d.TablesCanonical) : (d.refreshPlan c).TablesCanonical := .ite h.setWord h.setWord.raise
theorem setAllow {l k v} (h : d.TablesCanonical) : (d.setAllow l k v).TablesCanonical := h.modGau
theorem chargeLines {m c l n} (h : d.TablesCanonical) : (d.chargeLines m c l n).TablesCanonical :=
  .ite h.modGau.tally h.modGau
theorem putReq {r} (h : d.TablesCanonical) : (d.putReq r).TablesCanonical := h.modMem
theorem dropReq {id} (h : d.TablesCanonical) : (d.dropReq id).TablesCanonical := h.modMem

theorem tryPass {r res} (h : d.TablesCanonical) (eq : d.tryPass r = res) : (devOf d (fun x => x) res).TablesCanonical := by
  subst eq
  unfold Dev.tryPass
  extract_lets +onlyGivenNames c
  split
  extract_lets +onlyGivenNames n ch
  refine ite_of (devOf d fun x => x) h ?_
  refine ite_of (devOf d fun x => x) h ?_
  refine ite_of (devOf d fun x => x) h ?_
  exact (TablesCanonical.ite h.setAllow.modGau.chargeLines h.setAllow.modGau.chargeLines.modGau).putReq

theorem passAccess {m cls l nr nw res} (h : d.TablesCanonical) (eq : d.passAccess m cls l nr nw = res) :
    (devOf d (fun x => x) res).TablesCanonical := by
  subst eq
  unfold Dev.passAccess
  extract_lets +onlyGivenNames c ch
  refine ite_of (devOf d fun x => x) h ?_
  refine ite_of (devOf d fun x => x) h ?_
  exact ite_of (devOf d fun x => x) h h.setAllow.modGau.chargeLines

theorem ask {a} (h : d.TablesCanonical) : (d.ask a).TablesCanonical := .ite h h.modGau.tally
theorem setPlan {v complete} (h : d.TablesCanonical) : (d.setPlan v complete).TablesCanonical :=
  (h.modGau.foldl fun h => h.setAllow.foldl fun h => h.setAllow).modGau

/-! ### Moves (Machine/Moves.lean) -/

theorem writePage {p dpa ls maint res} (h : d.TablesCanonical) (eq : d.writePage p dpa ls maint = res) :
    (devOf d (fun x => x) res).TablesCanonical := by
  subst eq
  unfold Dev.writePage
  extract_lets +onlyGivenNames n d1
  have hd1 : d1.TablesCanonical := h.foldl fun h => h.bursts
  refine ite_of (devOf d fun x => x) (hd1.foldl fun h => h.putOpen) (ite_of (devOf d fun x => x) ?_ hd1)
  refine TablesCanonical.foldl_of (devOf d fun x => x) hd1 fun {o b} ho => ?_
  cases o with
  | none => exact h
  | some d2 =>
    dsimp only
    split
    · exact h
    · exact TablesCanonical.putSlot ho

theorem putMig {m} (h : d.TablesCanonical) : (d.putMig m).TablesCanonical := h.modTier
theorem dropMig {id} (h : d.TablesCanonical) : (d.dropMig id).TablesCanonical := h.modTier

theorem takeSplit {s ratios gen heat res} (h : d.TablesCanonical) (eq : d.takeSplit s ratios gen heat = res) :
    (devOf d Prod.snd res).TablesCanonical := by
  subst eq
  unfold Dev.takeSplit
  refine TablesCanonical.foldl_of (devOf d Prod.snd) h fun {o n} ho => ?_
  cases o with
  | none => exact h
  | some x =>
    dsimp only
    split
    · exact h
    · next dra d1 eq => exact TablesCanonical.takeUnits (d := x.2) ho eq

theorem takeDest {w ev res} (h : d.TablesCanonical) (eq : d.takeDest w ev = res) : (devOf d Prod.snd res).TablesCanonical := by
  subst eq
  unfold Dev.takeDest
  refine ite_of (devOf d Prod.snd) ?_ ?_
  · split
    · next n x d1 eq => exact h.takeExtent eq
    · exact h
  · refine ite_of (devOf d Prod.snd) ?_ ?_
    · split
      · exact h
      · split
        · exact h
        · next es d1 eq =>
          have hd1 : d1.TablesCanonical := h.useMap.takeSplit eq
          exact hd1.writeMap
    · split
      · exact h.takeWhole
      · exact h

theorem startSkein {w res} (h : d.TablesCanonical) (eq : d.startSkein w = res) : (devOf d (fun x => x) res).TablesCanonical := by
  subst eq
  unfold Dev.startSkein
  extract_lets +onlyGivenNames e
  refine ite_of (devOf d fun x => x) h ?_
  split
  · exact h
  · extract_lets +onlyGivenNames settle
    refine ite_of (devOf d fun x => x) h ?_
    extract_lets +onlyGivenNames settleMap
    split
    · exact h
    · next loc d1 eq =>
      have hd1 : d1.TablesCanonical := h.takeDest eq
      exact hd1.putEntry.modTier.tally

theorem startPage {w page fit res} (h : d.TablesCanonical) (eq : d.startPage w page fit = res) :
    (devOf d (fun x => x) res).TablesCanonical := by
  subst eq
  unfold Dev.startPage
  extract_lets +onlyGivenNames e pe
  refine ite_of (devOf d fun x => x) h ?_
  split
  · exact h
  · extract_lets +onlyGivenNames dest
    have hdest : (devOf d Prod.snd dest).TablesCanonical := by
      refine ite_of (devOf d Prod.snd) ?_ ?_
      · split
        · next n x d1 eq => exact h.takeExtent eq
        · exact h
      · have hu : (devOf d Prod.snd (if fit then d.takeFitUnit w.skein page
            else d.takeUnits (pageUnits w.state w.ratio) w.skein page)).TablesCanonical :=
          ite_of (devOf d Prod.snd) (h.takeFitUnit rfl) (h.takeUnits rfl)
        split
        · next dra d1 eq =>
          rw [eq] at hu
          exact hu
        · exact h
    clear_value dest
    cases dest with
    | none => exact h
    | some x =>
      exact TablesCanonical.tally (TablesCanonical.modTier (TablesCanonical.addUse (TablesCanonical.putPage hdest)))

theorem startWant {w res} (h : d.TablesCanonical) (eq : d.startWant w = res) : (devOf d (fun x => x) res).TablesCanonical := by
  subst eq
  unfold Dev.startWant
  split
  · exact h.startSkein rfl
  · exact h.startPage rfl

theorem endFetch {m} (h : d.TablesCanonical) : (d.endFetch m).TablesCanonical := h.modTier
theorem finishSkein {m} (h : d.TablesCanonical) : (d.finishSkein m).TablesCanonical :=
  h.putEntry.freeLoc.dropMig.endFetch

theorem finishPage {m page} (h : d.TablesCanonical) : (d.finishPage m page).TablesCanonical := by
  unfold Dev.finishPage
  extract_lets +onlyGivenNames e pe new d0 d1 d2
  have hd1 : d1.TablesCanonical := (TablesCanonical.ite h h.addUse).putPage.freePage
  have hd2 : d2.TablesCanonical := by
    unfold d2
    split
    · exact hd1
    · exact .ite hd1 hd1.freeExtent
  exact hd2.dropMig.endFetch

theorem carveEnd {s st ratio loc pages} (h : d.TablesCanonical) : (d.carveEnd s st ratio loc pages).TablesCanonical :=
  h.foldl fun h => .ite h.freeFrame h.setFrame

theorem settleEnd {s st ratio loc keep old es} (h : d.TablesCanonical) :
    (d.settleEnd s st ratio loc keep old es).TablesCanonical := by
  unfold Dev.settleEnd
  refine .ite h.carveEnd ?_
  exact .ite (.ite h h.freeExtent) (.ite ((h.foldl fun h => .ite h h.freePage).foldl fun h => .ite h h.freeExtent) h)

theorem settleSkein {m} (h : d.TablesCanonical) : (d.settleSkein m).TablesCanonical := by
  have ended {a : Dev} {c c' : Prop} [Decidable c] [Decidable c'] {i s map es e e'} (ha : a.TablesCanonical)
      (b : Dev) (hb : b = (if c then a.useMap i false else a).writeMap map es) :
      (if c' then b.setCached s e else b.installWay s e' true).TablesCanonical := by
    subst hb
    exact .ite (TablesCanonical.ite ha.useMap ha).writeMap.setCached (TablesCanonical.ite ha.useMap ha).writeMap.installWay
  exact .ite h.putEntry.freeLoc.dropMig.endFetch (ended h.settleEnd.settleEnd _ rfl).addUse.dropMig.endFetch

theorem settlePage {m page} (h : d.TablesCanonical) : (d.settlePage m page).TablesCanonical :=
  (TablesCanonical.ite h.putPage.freeExtent h.putPage.freeUnits.addUse).dropMig.endFetch
theorem failMig {m reason} (h : d.TablesCanonical) : (d.failMig m reason).TablesCanonical :=
  .ite h h.putMig.tally.raise
theorem dropMigTxns {id} (h : d.TablesCanonical) : (d.dropMigTxns id).TablesCanonical := h.foldl fun h => h.modCart

theorem settleNow {m} (h : d.TablesCanonical) : (d.settleNow m).TablesCanonical := by
  unfold Dev.settleNow
  extract_lets +onlyGivenNames e p d0 d1 info d2 d3
  have hd0 : d0.TablesCanonical := h.dropMigTxns
  have hd1 : d1.TablesCanonical := by
    unfold d1
    split
    · exact hd0.settleSkein
    · exact hd0.settlePage
  have hd3 : d3.TablesCanonical := hd1.setWord.setWord.set
  exact .ite hd3 hd3.modTier

theorem settleMig {m reason} (h : d.TablesCanonical) : (d.settleMig m reason).TablesCanonical := by
  unfold Dev.settleMig
  extract_lets +onlyGivenNames d1
  split
  · exact h.failMig.settleNow
  · exact h.failMig

theorem settleAll {p reason} (h : d.TablesCanonical) : (d.settleAll p reason).TablesCanonical :=
  h.foldl fun h => h.settleMig
theorem failAll {p reason} (h : d.TablesCanonical) : (d.failAll p reason).TablesCanonical :=
  h.foldl fun h => h.failMig

theorem splitForFit {s res} (h : d.TablesCanonical) (eq : d.splitForFit s = res) :
    (devOf d (fun x => x) res).TablesCanonical := by
  subst eq
  unfold Dev.splitForFit
  extract_lets +onlyGivenNames e
  refine ite_of (devOf d fun x => x) ?_ h
  split
  · exact h
  · exact h.carveEnd.writeMap.putEntry

theorem noFit {s page} (h : d.TablesCanonical) : (d.noFit s page).TablesCanonical := by
  unfold Dev.noFit
  extract_lets +onlyGivenNames e w want empty move
  have hwant : ∀ {d : Dev}, d.TablesCanonical → (want d).TablesCanonical := fun h => .ite h h.modTier
  have hempty : ∀ {d : Dev}, d.TablesCanonical → (empty d).TablesCanonical := fun h => hwant h.raise.modTier
  have hmove : ∀ {d : Dev}, d.TablesCanonical → (move d).TablesCanonical := fun h => by
    refine .ite h ?_
    split
    · next d1 eq => exact h.startPage eq
    · exact .ite (hempty h) (hwant h)
  split
  · exact hempty h
  · next d1 eq =>
    have hd1 : d1.TablesCanonical := h.splitForFit eq
    exact .ite (hmove hd1) h

/-! ### Channels (Machine/Channel.lean) -/

theorem hpTally {r ev k} (h : d.TablesCanonical) : (d.hpTally r ev k).TablesCanonical := h.tally.tally
theorem hearthMeasure {r} (h : d.TablesCanonical) : (d.hearthMeasure r).TablesCanonical :=
  .ite h (.ite (.ite h.draw.tally.modGau.set.addSat.raise h.draw.tally.modGau.set) h.addSat.tally)
theorem sendData {r data poison} (h : d.TablesCanonical) : (d.sendData r data poison).TablesCanonical :=
  .ite h.hearthMeasure h.hearthMeasure.hpTally.hpLines.emit
theorem answerRead {r data poison} (h : d.TablesCanonical) : (d.answerRead r data poison).TablesCanonical :=
  h.sendData.dropReq
theorem answerCmp {r} (h : d.TablesCanonical) : (d.answerCmp r).TablesCanonical :=
  (TablesCanonical.ite h h.emit).dropReq
theorem discard {r} (h : d.TablesCanonical) : (d.discard r).TablesCanonical :=
  (TablesCanonical.ite h.modLd h).answerCmp
theorem refuse {r} (h : d.TablesCanonical) : (d.refuse r).TablesCanonical :=
  .ite h.answerRead (.ite h.dropReq h.discard)
theorem stageReq {r s} (h : d.TablesCanonical) : (d.stageReq r s).TablesCanonical := h.putReq

theorem alarmViral {src owner also} (h : d.TablesCanonical) : (d.alarmViral src owner also).TablesCanonical := by
  unfold Dev.alarmViral
  refine .ite ?_ h
  extract_lets +onlyGivenNames d1
  split
  · exact h.makeViral.makeViral
  · exact h.makeViral

theorem pushWq {l dra} (h : d.TablesCanonical) : (d.pushWq l dra).TablesCanonical := h.modSub
theorem pushWqNew {l dra} (h : d.TablesCanonical) : (d.pushWqNew l dra).TablesCanonical := h.pushWq.modMem
theorem pushSlot {l dra ratio} (h : d.TablesCanonical) : (d.pushSlot l dra ratio).TablesCanonical :=
  .ite h.pushWqNew.pushWqNew h.pushWqNew
theorem mirrorOut {i} (h : d.TablesCanonical) : (d.mirrorOut i).TablesCanonical := h.frame
theorem writeVisible {r line poison} (h : d.TablesCanonical) : (d.writeVisible r line poison).TablesCanonical :=
  .ite h.mirrorOut.stageReq h.answerCmp
theorem lineWrite {r bytes poison} (h : d.TablesCanonical) : (d.lineWrite r bytes poison).TablesCanonical :=
  .ite h.stageReq.raiseOnce (.ite h.stageReq h.putOpen.pushWqNew.writeVisible)
theorem setCmpBusy {i w} (h : d.TablesCanonical) : (d.setCmpBusy i w).TablesCanonical := h.modMem
theorem cmpCount {i f k} (h : d.TablesCanonical) : (d.cmpCount i f k).TablesCanonical := h.set

theorem toEncoder {r} (h : d.TablesCanonical) : (d.toEncoder r).TablesCanonical := by
  unfold Dev.toEncoder
  split
  · exact h.setCmpBusy.putReq
  · exact .ite h.putReq.raiseOnce h.putReq

theorem decodeOn {r i} (h : d.TablesCanonical) : (d.decodeOn r i).TablesCanonical := by
  unfold Dev.decodeOn
  extract_lets +onlyGivenNames d1
  have hd1 : d1.TablesCanonical := h.setCmpBusy.cmpCount.tally
  split
  · exact hd1.addSat.raise.answerRead
  · exact hd1.answerRead

theorem toDecoder {r} (h : d.TablesCanonical) : (d.toDecoder r).TablesCanonical := by
  unfold Dev.toDecoder
  split
  · exact h.raise.answerRead
  · split
    · exact h.decodeOn
    · exact h.stageReq

theorem packedNoFit {r} (h : d.TablesCanonical) : (d.packedNoFit r).TablesCanonical := h.putReq.noFit
theorem slotForRewrite {r} (h : d.TablesCanonical) : (d.slotForRewrite r).TablesCanonical :=
  .ite h.packedNoFit h.toEncoder
theorem partialFailed {r} (h : d.TablesCanonical) : (d.partialFailed r).TablesCanonical :=
  h.putOpen.pushWqNew.raise.answerCmp
theorem goodLine {r} (h : d.TablesCanonical) : (d.goodLine r).TablesCanonical :=
  .ite (.ite h.answerRead (.ite h.partialFailed h.lineWrite)) (.ite (.ite h.answerRead h.toDecoder) h.slotForRewrite)
theorem failedRank {r} (h : d.TablesCanonical) : (d.failedRank r).TablesCanonical := .ite h.raise h

theorem enterChannel {r0} (h : d.TablesCanonical) : (d.enterChannel r0).TablesCanonical := by
  unfold Dev.enterChannel
  extract_lets +onlyGivenNames c r
  refine .ite h.stageReq.wakeFor ?_
  refine .ite h.stageReq ?_
  refine .ite h.failedRank.refuse ?_
  exact .ite h.refuse (.ite h.lineWrite (.ite h.goodLine (.ite h.packedNoFit (.ite h.goodLine h.putReq.modSub))))

theorem countTagFail {l dra} (h : d.TablesCanonical) : (d.countTagFail l dra).TablesCanonical :=
  .ite h.modChan.set h.modChan

theorem verdict {l dra genOk f res} (h : d.TablesCanonical) (eq : d.verdict l dra genOk f = res) : res.2.TablesCanonical := by
  subst eq
  unfold Dev.verdict
  extract_lets +onlyGivenNames good
  refine ite_of Prod.snd h ?_
  exact ite_of Prod.snd h h.countTagFail

theorem verdictEvent {c v addr owner acc} (h : d.TablesCanonical) : (d.verdictEvent c v addr owner acc).TablesCanonical := by
  unfold Dev.verdictEvent
  refine .ite h ?_
  split
  · exact h.addSat.raise
  · exact h.addSat.raise
  · exact h.addSat.raise
  · exact h.raise
  · exact h
  · exact h

theorem poisonStored {r} (h : d.TablesCanonical) : (d.poisonStored r).TablesCanonical :=
  .ite h.putOpen.pushWqNew h.putSlot.pushSlot
theorem lateAlarm {r also} (h : d.TablesCanonical) : (d.lateAlarm r also).TablesCanonical :=
  .ite h.poisonStored h.poisonStored.raise.alarmViral
theorem askRepair {r} (h : d.TablesCanonical) : (d.askRepair r).TablesCanonical := h.stageReq.frame

theorem uncorrectable {r} (h : d.TablesCanonical) : (d.uncorrectable r).TablesCanonical := by
  unfold Dev.uncorrectable
  extract_lets +onlyGivenNames d1
  have hd1 : d1.TablesCanonical := h.verdictEvent
  exact .ite hd1.poisonStored.answerRead (.ite hd1.partialFailed hd1.poisonStored.packedNoFit)

theorem captured {r f} (h : d.TablesCanonical) : (d.captured r f).TablesCanonical := by
  unfold Dev.captured
  split
  next v d0 eq =>
    have hd0 : d0.TablesCanonical := h.verdict eq
    extract_lets +onlyGivenNames ev
    have hev : ∀ {d : Dev}, d.TablesCanonical → (ev d).TablesCanonical := fun h => h.verdictEvent
    split
    · exact hd0.goodLine
    · exact (hev hd0).pushWqNew.goodLine
    · exact (hev hd0).pushWqNew.goodLine
    · exact (hev hd0).goodLine
    · exact .ite hd0.askRepair hd0.uncorrectable
    · refine .ite (.ite hd0.lateAlarm.answerRead hd0.draw.sendData.stageReq) ?_
      exact .ite hd0.partialFailed hd0.poisonStored.packedNoFit

theorem checkFailed {i header target addr owner acc} (h : d.TablesCanonical) :
    (d.checkFailed i header target addr owner acc).TablesCanonical :=
  .ite h.addSat.raise.modMem.setFlag.raise h.addSat.raise.modMem
theorem countEncode {i fit} (h : d.TablesCanonical) : (d.countEncode i fit).TablesCanonical :=
  .ite h.tally.cmpCount h.tally.cmpCount.tally
theorem putRewritten {r slot line} (h : d.TablesCanonical) : (d.putRewritten r slot line).TablesCanonical :=
  .ite h.putReq h.putSlot.pushSlot.writeVisible

theorem rewriteDone {r i checkOk} (h : d.TablesCanonical) : (d.rewriteDone r i checkOk).TablesCanonical := by
  unfold Dev.rewriteDone
  split
  · exact h.packedNoFit
  · split
    · exact h.countEncode.packedNoFit
    · exact .ite h.countEncode.checkFailed.packedNoFit h.countEncode.putRewritten

theorem retryWrite {r} (h : d.TablesCanonical) : (d.retryWrite r).TablesCanonical := by
  unfold Dev.retryWrite
  refine .ite ?_ (.ite h.lineWrite h.lineWrite)
  split
  · exact h.packedNoFit
  · split
    · exact h.packedNoFit
    · exact h.putRewritten

/-! ### The flow of a request (Machine/Flow.lean) -/

theorem park {r c} (h : d.TablesCanonical) : (d.park r c).TablesCanonical := .ite h.putReq.tally h.stageReq.raiseOnce
theorem setDir {line excl holders} (h : d.TablesCanonical) : (d.setDir line excl holders).TablesCanonical := h.modPat
theorem issueSnoop {line holders kind req evict} (h : d.TablesCanonical) :
    (d.issueSnoop line holders kind req evict).TablesCanonical :=
  h.modPat.foldl fun h => h.emit

theorem coherence {r res} (h : d.TablesCanonical) (eq : d.coherence r = res) : res.1.TablesCanonical := by
  subst eq
  unfold Dev.coherence
  extract_lets +onlyGivenNames line hold
  have hhold : ∀ {d : Dev}, d.TablesCanonical → (hold d).1.TablesCanonical := fun h => h.putReq
  refine ite_of Prod.fst (hhold h) ?_
  split
  refine ite_of Prod.fst (hhold h.issueSnoop) ?_
  refine ite_of Prod.fst h.setDir ?_
  split
  · exact hhold h
  · exact hhold h.issueSnoop
  · exact h.setDir

theorem addHeat {s page} (h : d.TablesCanonical) : (d.addHeat s page).TablesCanonical := by
  unfold Dev.addHeat
  extract_lets +onlyGivenNames e inc d1
  refine .ite h.putEntry ?_
  split
  · exact h.putEntry
  · exact .ite h.putEntry.modPat.setPageEntry h.putEntry.modPat

theorem toGate {r dra ratio} (h : d.TablesCanonical) : (d.toGate r dra ratio).TablesCanonical := by
  unfold Dev.toGate
  extract_lets +onlyGivenNames r d1
  have hd1 : d1.TablesCanonical := h.putReq
  refine .ite hd1.enterChannel ?_
  extract_lets +onlyGivenNames ahead
  split
  · next d2 eq =>
    split at eq
    · cases eq
    · exact (hd1.tryPass eq).enterChannel
  · exact .ite hd1.stageReq.tally hd1.stageReq

theorem putFetch {f} (h : d.TablesCanonical) : (d.putFetch f).TablesCanonical := h.modTier
theorem issueFetch {f} (h : d.TablesCanonical) : (d.issueFetch f).TablesCanonical := h.putFetch.modCart.tally
theorem newFetch {f0} (h : d.TablesCanonical) : (d.newFetch f0).TablesCanonical :=
  .ite h.modTier.issueFetch h.modTier.raiseOnce
theorem chargeUse {m c n} (h : d.TablesCanonical) : (d.chargeUse m c n).TablesCanonical :=
  .ite h.modGau.tally h.modGau
theorem zeroRead {r} (h : d.TablesCanonical) : (d.zeroRead r).TablesCanonical :=
  .ite h.chargeUse.answerRead (.ite h.stageReq.tally h.stageReq)
theorem serveFetched {r f} (h : d.TablesCanonical) : (d.serveFetched r f).TablesCanonical := h.answerRead

theorem touch {r cart extent slot} (h : d.TablesCanonical) : (d.touch r cart extent slot).TablesCanonical := by
  unfold Dev.touch
  extract_lets +onlyGivenNames s
  split
  · exact .ite h.serveFetched (TablesCanonical.ite h.putFetch h).park
  · exact h.park.newFetch.chargeUse

theorem attachLarder {r page res} (h : d.TablesCanonical) (eq : d.attachLarder r page = res) :
    (devOf d (fun x : Nat × Nat × Dev => x.2.2) res).TablesCanonical := by
  subst eq
  unfold Dev.attachLarder
  extract_lets +onlyGivenNames s e
  refine ite_of (devOf d (fun x : Nat × Nat × Dev => x.2.2)) ?_ h
  split
  · next n x d1 eq =>
    have hd1 : d1.TablesCanonical := h.takeExtent eq
    exact .ite hd1.putPage hd1.putEntry
  · exact h

theorem allocRefused {owner addr master acc} (h : d.TablesCanonical) : (d.allocRefused owner addr master acc).TablesCanonical :=
  h.addSat.raise

theorem attachElse {r page quotaOk} (h : d.TablesCanonical) : (d.attachElse r page quotaOk).TablesCanonical := by
  unfold Dev.attachElse
  split
  · next n x d2 eq =>
    have hd2 : d2.TablesCanonical := h.attachLarder eq
    exact hd2.touch
  · exact .ite h.modTier.park h.allocRefused.discard

theorem attachDram {r page res} (h : d.TablesCanonical) (eq : d.attachDram r page = res) :
    (devOf d Prod.snd res.1).TablesCanonical := by
  subst eq
  unfold Dev.attachDram
  extract_lets +onlyGivenNames s e kib ok
  refine ite_of (fun x : Option (Nat × Dev) × Bool => (devOf d Prod.snd x.1)) h ?_
  refine ite_of (fun x : Option (Nat × Dev) × Bool => (devOf d Prod.snd x.1)) ?_ ?_
  · split
    · exact h
    · next dra d1 eq =>
      have hd1 : d1.TablesCanonical := h.takeUnits eq
      exact (hd1.foldl fun h => h.putOpen).putPage
  · split
    · exact h
    · exact h.takeWhole.putEntry

theorem openVoid {s} (h : d.TablesCanonical) : (d.openVoid s).TablesCanonical := h.putEntry

theorem flow {r} (h : d.TablesCanonical) : (d.flow r).TablesCanonical := by
  unfold Dev.flow
  extract_lets +onlyGivenNames s w drn
  split
  · exact h.answerCmp
  · exact h.answerCmp
  · exact h.dropReq
  · refine .ite h.park ?_
    refine .ite h.raiseOnce.refuse ?_
    refine .ite h.park ?_
    refine .ite h.mirrorOut.stageReq ?_
    split
    · exact h.raise.refuse
    · exact h.park
    · exact .ite h.stageReq h.touch
    · refine .ite h.stageReq ?_
      split
      · exact h.toGate
      · refine .ite h.zeroRead ?_
        split
        · next dra d1 snd eq =>
          have hd1 : d1.TablesCanonical := h.attachDram eq
          exact hd1.toGate
        · exact h.attachElse
      · exact .ite h.zeroRead h.openVoid.toGate
      · exact h

theorem coherentFlow {r} (h : d.TablesCanonical) : (d.coherentFlow r).TablesCanonical := by
  unfold Dev.coherentFlow
  refine .ite ?_ h.flow
  split
  · next d1 eq =>
    have hd1 : d1.TablesCanonical := h.coherence eq
    exact hd1.flow
  · next d1 eq => exact h.coherence eq

theorem failCheck {r src} (h : d.TablesCanonical) : (d.failCheck r src).TablesCanonical := h.raise.refuse

theorem afterLookup {r bi} (h : d.TablesCanonical) : (d.afterLookup r bi).TablesCanonical := by
  unfold Dev.afterLookup
  extract_lets +onlyGivenNames s e grp
  refine .ite h.dropReq ?_
  refine .ite h.park ?_
  refine .ite h.failCheck ?_
  refine .ite h.addSat.failCheck ?_
  refine .ite h.failCheck ?_
  exact .ite h.failCheck (.ite h.failCheck (.ite h.putReq.tally.refuse h.putReq.tally.addHeat.coherentFlow))

theorem lookup {r bi} (h : d.TablesCanonical) : (d.lookup r bi).TablesCanonical := by
  unfold Dev.lookup
  extract_lets +onlyGivenNames s d1
  refine .ite h.tally.tally.stageReq ?_
  exact .ite h.tally.tally.touchWay.afterLookup (.ite h.tally.tally.modPat.stageReq.chargeUse h.tally.tally.stageReq.tally)

theorem enter {r} (h : d.TablesCanonical) : (d.enter r).TablesCanonical := by
  unfold Dev.enter
  refine .ite h.refuse ?_
  refine .ite h.stageReq.wakeFor ?_
  split
  · exact h.failCheck
  · split
    · exact h.failCheck
    · exact h.putReq.lookup

theorem resume {r} (h : d.TablesCanonical) : (d.resume r).TablesCanonical :=
  .ite h.enter (.ite h.putReq.coherentFlow (.ite h.stageReq h.modPat.stageReq))

theorem kick (h : d.TablesCanonical) : d.kick.TablesCanonical := by
  unfold Dev.kick
  refine h.foldl fun h => ?_
  split
  · exact h
  · split
    · exact .ite h h.resume
    · exact .ite h h.coherentFlow
    · exact h

theorem accept {r0} (h : d.TablesCanonical) : (d.accept r0).TablesCanonical := by
  unfold Dev.accept
  extract_lets +onlyGivenNames held r d1 d2
  have hd1 : d1.TablesCanonical := h.draw.modMem
  have hd2 : d2.TablesCanonical := .ite hd1.hpTally (.ite hd1.hpTally.hpLines hd1)
  exact .ite hd2 (.ite hd2.stageReq hd2.enter)

/-! ### Operands (Machine/Operands.lean) -/

theorem portUsed {a} (h : d.TablesCanonical) : (d.portUsed a).TablesCanonical := by
  unfold Dev.portUsed
  split
  · exact h.setFlag
  · exact h

theorem deny {a off} (h : d.TablesCanonical) : (d.deny a off).TablesCanonical := by
  unfold Dev.deny
  split
  · exact h.raise
  · exact h.raise

theorem waitDomain {a off width write} (h : d.TablesCanonical) : (d.waitDomain a off width write).TablesCanonical :=
  h.frame.wakeFor
theorem writeTo {v a p off f} (h : d.TablesCanonical) (hf : ∀ {d}, d.TablesCanonical → (f d).TablesCanonical) :
    (Dev.writeTo v a p off f d).TablesCanonical :=
  .ite h (.ite h.tally.deny (.ite h.tally.waitDomain (.ite (hf h.tally) h.tally)))

/-! ### Links (Machine/Link.lean) -/

theorem modLnk {l f} (h : d.TablesCanonical) : (d.modLnk l f).TablesCanonical := h.frame
theorem lset {l f v} (h : d.TablesCanonical) : (d.lset l f v).TablesCanonical := h.set
theorem linkCount {l f} (h : d.TablesCanonical) : (d.linkCount l f).TablesCanonical := h.addSat
theorem linkEvent {l bit} (h : d.TablesCanonical) : (d.linkEvent l bit).TablesCanonical := h.modLnk.latch
theorem syncLink {l} (h : d.TablesCanonical) : (d.syncLink l).TablesCanonical := h.lset.lset.lset.lset
theorem sendPlain {l type seq b} (h : d.TablesCanonical) : (d.sendPlain l type seq b).TablesCanonical := h.emit.modLnk
theorem sendNop {l} (h : d.TablesCanonical) : (d.sendNop l).TablesCanonical := h.sendPlain

theorem nakDue {l} (h : d.TablesCanonical) : (d.nakDue l).TablesCanonical := by
  unfold Dev.nakDue
  extract_lets +onlyGivenNames n hold
  split
  · exact .ite h h.sendPlain.lset.linkCount.modLnk
  · exact h.sendPlain.lset.linkCount.modLnk

theorem transmit {l tag b} (h : d.TablesCanonical) : (d.transmit l tag b).TablesCanonical := h.emit.lset.modLnk

theorem flush {l} (h : d.TablesCanonical) : (d.flush l).TablesCanonical := by
  unfold Dev.flush
  extract_lets +onlyGivenNames go woken
  have hgo : go.TablesCanonical := by
    refine h.foldl fun h => ?_
    split
    · exact h
    · exact .ite h.modLnk.transmit h
  exact (TablesCanonical.ite hgo.emit.modLnk hgo).syncLink

theorem sendPkt {l tag b} (h : d.TablesCanonical) : (d.sendPkt l tag b).TablesCanonical := h.modLnk.flush
theorem syncTxn {n} (h : d.TablesCanonical) : (d.syncTxn n).TablesCanonical := h.set
theorem modTxn {n p f} (h : d.TablesCanonical) : (d.modTxn n p f).TablesCanonical := h.modCart
theorem txnPackets {n tag t} (h : d.TablesCanonical) : (d.txnPackets n tag t).TablesCanonical :=
  .ite h.sendPkt (.ite (h.sendPkt.foldl fun h => h.sendPkt) h.sendPkt)
theorem issueTxn {n t} (h : d.TablesCanonical) : (d.issueTxn n t).TablesCanonical :=
  h.modTxn.modCart.txnPackets.syncTxn

theorem pumpPort {n} (h : d.TablesCanonical) : (d.pumpPort n).TablesCanonical := by
  unfold Dev.pumpPort
  refine .ite h ?_
  refine h.foldl fun h => ?_
  split
  · exact h.issueTxn
  · split
    · exact h
    · exact .ite h (.ite h h.issueTxn)

theorem askPeer (h : d.TablesCanonical) : d.askPeer.TablesCanonical := h.frame.foldl fun h => h.sendPkt

theorem pumpHall (h : d.TablesCanonical) : d.pumpHall.TablesCanonical := by
  unfold Dev.pumpHall
  refine .ite h ?_
  extract_lets +onlyGivenNames d d1
  have hd1 : d1.TablesCanonical := by
    refine h.askPeer.foldl fun h => ?_
    split
    · exact h
    · exact .ite h h.frame.sendPkt
  exact hd1.set

theorem pump (h : d.TablesCanonical) : d.pump.TablesCanonical := (h.foldl fun h => .ite h h.pumpPort).pumpHall
theorem clearSession {l} (h : d.TablesCanonical) : (d.clearSession l).TablesCanonical := h.lset.lset.lset.modLnk
theorem setAgreed {l p} (h : d.TablesCanonical) : (d.setAgreed l p).TablesCanonical := h.lset.lset.lset
theorem dropTxns {n} (h : d.TablesCanonical) : (d.dropTxns n).TablesCanonical := h.modCart.syncTxn
theorem cartDown {n} (h : d.TablesCanonical) : (d.cartDown n).TablesCanonical := .ite (.ite h.ctgSet.raise h.ctgSet) h

theorem enterDown {l} (h : d.TablesCanonical) : (d.enterDown l).TablesCanonical := by
  unfold Dev.enterDown
  extract_lets +onlyGivenNames d1 d2
  have hd2 : d2.TablesCanonical := h.clearSession.lset.setAgreed.modLnk.linkEvent.syncLink
  exact .ite hd2.failAll.dropTxns.cartDown hd2

theorem enterDetect {l} (h : d.TablesCanonical) : (d.enterDetect l).TablesCanonical := h.lset.modLnk.emit
theorem enterRetrain {l} (h : d.TablesCanonical) : (d.enterRetrain l).TablesCanonical :=
  .ite h.lset.linkCount.modLnk.emit.lset.linkEvent.modCart.syncTxn h.lset.linkCount.modLnk.emit.lset.linkEvent
theorem replayFrom {l from_} (h : d.TablesCanonical) : (d.replayFrom l from_).TablesCanonical :=
  (h.foldl fun h => h.emit).modLnk

theorem replay {l from_ timeout} (h : d.TablesCanonical) : (d.replay l from_ timeout).TablesCanonical := by
  unfold Dev.replay
  split
  · exact h
  · extract_lets +onlyGivenNames n post
    refine .ite h.enterDown ?_
    exact .ite h.modLnk.lset.enterRetrain (TablesCanonical.ite h.lset.linkCount.linkCount h.lset.linkCount).raise.replayFrom

theorem ackPacket {l a} (h : d.TablesCanonical) : (d.ackPacket l a).TablesCanonical := by
  unfold Dev.ackPacket
  extract_lets +onlyGivenNames s
  split
  · exact h
  · exact (TablesCanonical.ite h.modLnk.lset.lset h.modLnk.lset).flush

theorem takeAck {l ack} (h : d.TablesCanonical) : (d.takeAck l ack).TablesCanonical := by
  unfold Dev.takeAck
  split
  · exact h.ackPacket
  · exact h

theorem rxError {l} (h : d.TablesCanonical) : (d.rxError l).TablesCanonical := h.linkCount.raise.nakDue
theorem tagFailure {l seq} (h : d.TablesCanonical) : (d.tagFailure l seq).TablesCanonical := h.linkCount.raise.rxError
theorem unexpected {l tag} (h : d.TablesCanonical) : (d.unexpected l tag).TablesCanonical := h.raise

theorem receive {l hd early res} (h : d.TablesCanonical) (eq : d.receive l hd early = res) : res.2.TablesCanonical := by
  subst eq
  unfold Dev.receive
  refine ite_of Prod.snd h ?_
  extract_lets +onlyGivenNames d1 next dist
  have hd1 : d1.TablesCanonical := h.modLnk.takeAck
  refine ite_of Prod.snd ?_ ?_
  · refine ite_of Prod.snd hd1.tagFailure ?_
    extract_lets +onlyGivenNames d2
    have hd2 : d2.TablesCanonical := hd1.lset.modLnk
    refine ite_of Prod.snd hd2.unexpected ?_
    dsimp only
    exact hd2
  · exact ite_of Prod.snd hd1.nakDue hd1.modLnk

theorem enterActive {l p} (h : d.TablesCanonical) : (d.enterActive l p).TablesCanonical :=
  h.clearSession.setAgreed.lset.lset.lset.modLnk.linkEvent.syncLink

theorem endRetrain {l p} (h : d.TablesCanonical) : (d.endRetrain l p).TablesCanonical := by
  unfold Dev.endRetrain
  extract_lets +onlyGivenNames fs fw old d1 changed d2 d3 d4 d5
  have hd1 : d1.TablesCanonical := h.setAgreed.lset
  have hd3 : d3.TablesCanonical := hd1.lset.modLnk
  have hd4 : d4.TablesCanonical := (TablesCanonical.ite hd3.linkEvent hd3).sendNop
  have hd5 : d5.TablesCanonical := by
    unfold d5
    split
    · exact hd4
    · exact hd4.replayFrom
  exact hd5.flush.pump

theorem endDoze {l} (h : d.TablesCanonical) : (d.endDoze l).TablesCanonical := h.lset.modLnk.flush.pump
theorem linkDomainOff {l} (h : d.TablesCanonical) : (d.linkDomainOff l).TablesCanonical :=
  .ite h.clearSession h.enterDown

/-! ### The tier engine (Machine/Tier.lean) -/

theorem rewriteLine {dra tier knit poison} (h : d.TablesCanonical) : (d.rewriteLine dra tier knit poison).TablesCanonical :=
  h.setSide.pushWqNew

theorem engineLine {dra tier knit addr owner acc f res} (h : d.TablesCanonical)
    (eq : d.engineLine dra tier knit addr owner acc f = res) : res.2.TablesCanonical := by
  subst eq
  unfold Dev.engineLine
  refine ite_of Prod.snd h ?_
  extract_lets +onlyGivenNames l genOk
  split
  next v d1 eq =>
    have hd1 : d1.TablesCanonical := h.bursts.verdict eq
    extract_lets +onlyGivenNames ev
    have hev : ∀ {d : Dev}, d.TablesCanonical → (ev d).TablesCanonical := fun h => h.verdictEvent
    split
    · exact hd1
    · exact (hev hd1).rewriteLine
    · exact (hev hd1).rewriteLine
    · exact hev hd1
    · exact (hev hd1).rewriteLine
    · exact .ite hd1.rewriteLine hd1.rewriteLine.raise.alarmViral

theorem engineRead {p dpa owner acc fs res} (h : d.TablesCanonical) (eq : d.engineRead p dpa owner acc fs = res) :
    res.2.TablesCanonical := by
  subst eq
  unfold Dev.engineRead
  exact h.foldl fun h => h.engineLine rfl

theorem wantMove {w} (h : d.TablesCanonical) : (d.wantMove w).TablesCanonical := .ite h h.modTier
theorem wantTrial {s cause job} (h : d.TablesCanonical) : (d.wantTrial s cause job).TablesCanonical :=
  .ite h h.modTier

theorem rowEight {s ev} (h : d.TablesCanonical) : (d.rowEight s ev).TablesCanonical := by
  unfold Dev.rowEight
  extract_lets +onlyGivenNames map
  refine h.foldl_of Prod.snd fun h => ?_
  extract_lets +onlyGivenNames d pe w
  refine ite_of Prod.snd h ?_
  refine ite_of Prod.snd ?_ ?_
  · exact h.wantMove
  · refine ite_of Prod.snd ?_ ?_
    · extract_lets +onlyGivenNames r
      exact ite_of Prod.snd h.setPageEntry h.wantMove
    · refine ite_of Prod.snd ?_ h
      exact h.wantMove

theorem applyRows {s} (h : d.TablesCanonical) : (d.applyRows s).TablesCanonical := by
  unfold Dev.applyRows
  extract_lets +onlyGivenNames e w
  refine .ite h ?_
  refine .ite h.putEntryQuiet ?_
  refine .ite ?_ ?_
  · exact h.wantMove
  · refine .ite ?_ ?_
    · exact h.wantMove
    · refine .ite h.wantTrial ?_
      refine .ite ?_ (.ite h.rowEight h)
      exact h.wantMove

theorem decaySkein {s} (h : d.TablesCanonical) : (d.decaySkein s).TablesCanonical :=
  .ite (.ite h h.putEntryQuiet) ((TablesCanonical.ite h h.putEntryQuiet).foldl fun h => .ite h h.setPageEntry)

theorem scanVisit (h : d.TablesCanonical) : d.scanVisit.TablesCanonical := by
  unfold Dev.scanVisit
  split
  · exact h.set.set.raise
  · exact .ite h (TablesCanonical.ite h.tally.modTier.set.decaySkein h.tally.modTier.set).applyRows

theorem attrWalk {drn} (h : d.TablesCanonical) : (d.attrWalk drn).TablesCanonical :=
  h.foldl fun h => .ite h.wantMove h
theorem countPage {i ls} (h : d.TablesCanonical) : (d.countPage i ls).TablesCanonical :=
  h.cmpCount.cmpCount.tally.tally

theorem trialDone {t bad i} (h : d.TablesCanonical) : (d.trialDone t bad i).TablesCanonical := by
  unfold Dev.trialDone
  extract_lets +onlyGivenNames s e d0 decline
  have hdecline : ∀ {d : Dev}, d.TablesCanonical → (decline d).TablesCanonical := fun h => .ite h h.modTier
  refine .ite (hdecline h.modTier) ?_
  extract_lets +onlyGivenNames pages d1 d2 ratios n min' w
  have hd2 : d2.TablesCanonical := (h.modTier.foldl fun h => h.countPage).foldl fun h => h.checkFailed
  exact .ite hd2.wantMove (.ite hd2.wantMove (.ite hd2.wantMove (hdecline hd2).putEntryQuiet))

theorem copyStart {m} (h : d.TablesCanonical) : (d.copyStart m).TablesCanonical := by
  unfold Dev.copyStart
  refine .ite h ?_
  extract_lets +onlyGivenNames src go
  have hgo : ∀ {d : Dev}, d.TablesCanonical → (go d).TablesCanonical := fun h => h.putMig
  refine .ite ?_ (.ite (.ite h (hgo h.modTier)) (hgo h))
  refine .ite (hgo h) ?_
  split
  · exact .ite (hgo h.putFetch) h
  · exact .ite (hgo h.newFetch) h.raiseOnce

theorem copyStarts (h : d.TablesCanonical) : d.copyStarts.TablesCanonical := by
  unfold Dev.copyStarts
  refine h.foldl fun h => ?_
  split
  · exact h.copyStart
  · exact h

theorem evacCheck (h : d.TablesCanonical) : d.evacCheck.TablesCanonical := h.foldl fun h => .ite h.set.raise h

theorem advance {m} (h : d.TablesCanonical) : (d.advance m).TablesCanonical := by
  unfold Dev.advance
  extract_lets +onlyGivenNames d
  split
  · exact h.tally.finishPage.evacCheck
  · exact .ite h.tally.putEntry.modTier.finishSkein.evacCheck h.tally.putEntry.modTier.putMig

theorem copyEnd {m r} (h : d.TablesCanonical) : (d.copyEnd m r).TablesCanonical := by
  unfold Dev.copyEnd
  extract_lets +onlyGivenNames e n dpa src dst fetch
  split
  · split
    · exact (h.engineRead rfl).checkFailed.failMig
    · exact h
  · exact h.failMig
  · split
    next ls d1 eq =>
      have hd1 : d1.TablesCanonical := by
        clear_value fetch
        split at eq
        · cases eq
          exact h
        · exact h.engineRead eq
      refine .ite hd1.modCart.putMig ?_
      split
      · exact hd1.failMig
      · next d2 eq => exact (hd1.writePage eq).advance

theorem evacStart {w res} (h : d.TablesCanonical) (eq : d.evacStart w = res) : (devOf d (fun x => x) res).TablesCanonical := by
  subst eq
  unfold Dev.evacStart
  refine ite_of (devOf d fun x => x) (h.startWant rfl) ?_
  exact h.startWant rfl

theorem startFront (h : d.TablesCanonical) : d.startFront.TablesCanonical := by
  unfold Dev.startFront
  split
  · exact h
  · extract_lets +onlyGivenNames d0 back skip
    have hd0 : d0.TablesCanonical := h.modTier
    have hback {d : Dev} {w} (h : d.TablesCanonical) : (back d w).TablesCanonical := h.modTier
    have hskip : skip.TablesCanonical := .ite hd0 hd0.modTier
    refine .ite hskip (.ite hd0 ?_)
    extract_lets +onlyGivenNames d1 started
    have hd1 : d1.TablesCanonical := .ite (hd0.splitForFit rfl).getD hd0
    have hstarted : (devOf d0 (fun x => x) started).TablesCanonical := by
      refine ite_of (devOf d0 fun x => x) (hd0.evacStart rfl) ?_
      split
      · exact ite_of (devOf d0 fun x => x) ((hd1.startPage rfl).orElse hd0) hd0
      · exact hd0.startWant rfl
    clear_value started
    cases started with
    | some d2 => exact hstarted
    | none => exact .ite (hback hd1) (.ite (.ite (hback hd0.raise) (hback hd0)) hd0)

theorem splitLarder {s res} (h : d.TablesCanonical) (eq : d.splitLarder s = res) :
    (devOf d (fun x => x) res).TablesCanonical := by
  subst eq
  unfold Dev.splitLarder
  extract_lets +onlyGivenNames e
  refine ite_of (devOf d fun x => x) h ?_
  refine ite_of (devOf d fun x => x) ?_ h
  split
  · exact h
  · exact h.writeMap.putEntry

theorem dropFetch {id} (h : d.TablesCanonical) : (d.dropFetch id).TablesCanonical := h.modTier

theorem promoteTouch {f} (h : d.TablesCanonical) : (d.promoteTouch f).TablesCanonical := by
  unfold Dev.promoteTouch
  refine .ite h ?_
  refine .ite h.dropFetch ?_
  refine .ite (.ite h.dropFetch h) ?_
  split
  · exact h
  · next d1 eq =>
    have hd1 : d1.TablesCanonical := h.splitLarder eq
    split
    · exact h
    · next d2 eq =>
      have hd2 : d2.TablesCanonical := hd1.startPage eq
      split
      · exact hd2.putFetch.putMig
      · exact hd2

theorem unpark {id} (h : d.TablesCanonical) : (d.unpark id).TablesCanonical := by
  unfold Dev.unpark
  split
  · exact .ite h (.ite h.refuse h.resume)
  · exact h

theorem decodeFetch {f form ls res} (h : d.TablesCanonical) (eq : d.decodeFetch f form ls = res) : res.2.TablesCanonical := by
  subst eq
  unfold Dev.decodeFetch
  extract_lets +onlyGivenNames dpa owner
  refine ite_of Prod.snd h ?_
  refine ite_of Prod.snd h ?_
  extract_lets +onlyGivenNames k
  refine h.foldl_of Prod.snd fun h => ?_
  extract_lets +onlyGivenNames part bad d
  refine ite_of Prod.snd h ?_
  split
  · exact h.raise
  · extract_lets +onlyGivenNames d1
    have hd1 : d1.TablesCanonical := h.cmpCount.tally
    split
    · exact hd1.addSat.raise
    · dsimp only
      exact hd1

theorem landFetch {id form ls} (h : d.TablesCanonical) : (d.landFetch id form ls).TablesCanonical := by
  unfold Dev.landFetch
  split
  · exact h
  · split
    next lines d0 eq =>
      have hd0 : d0.TablesCanonical := h.decodeFetch eq
      extract_lets +onlyGivenNames d1 reads d2
      have hd2 : d2.TablesCanonical := hd0.putFetch.foldl fun h => h.unpark
      split
      · exact .ite hd2.promoteTouch hd2
      · exact hd2

theorem issueWaiting (h : d.TablesCanonical) : d.issueWaiting.TablesCanonical := by
  unfold Dev.issueWaiting
  refine h.foldl fun h => ?_
  split
  · exact .ite h.issueFetch h
  · exact h

theorem retryPromotions (h : d.TablesCanonical) : d.retryPromotions.TablesCanonical := by
  unfold Dev.retryPromotions
  refine h.foldl fun h => ?_
  split
  · exact h.promoteTouch
  · exact h

theorem pressurePass (h : d.TablesCanonical) : d.pressurePass.TablesCanonical :=
  (h.foldl fun h => .ite h (.ite h.wantMove (.ite h.wantTrial h))).modTier
theorem squeezeUpdate (h : d.TablesCanonical) : d.squeezeUpdate.TablesCanonical :=
  h.foldl fun h => .ite (.ite h h.set) (.ite h.set.modTier.raise h)
theorem squeezeWalk {ld} (h : d.TablesCanonical) : (d.squeezeWalk ld).TablesCanonical :=
  (h.foldl fun h => .ite h.wantMove h).modTier
theorem evacuate {n} (h : d.TablesCanonical) : (d.evacuate n).TablesCanonical :=
  ((TablesCanonical.ite h.set.ctgSet h.set).foldl fun h => h.wantMove).evacCheck
theorem fillLine {f i} (h : d.TablesCanonical) : (d.fillLine f i).TablesCanonical :=
  h.markWritten.setSide.bursts.tally

/-- The fold is unrolled by its recursor: to state its equation, Lean would evaluate the scan of the 8192 marks. -/
theorem fillLines {n} (h : d.TablesCanonical) : (Dev.fillLines n d).TablesCanonical := by
  delta Dev.fillLines
  induction n generalizing d with
  | zero => exact h
  | succ n ih =>
    dsimp only [Nat.brecOn] at ih ⊢
    dsimp only [Dev.fillLines._f]
    split
    · split
      · exact ih h.fillLine
      · exact ih h.fillDone
    · split
      · exact h
      · exact ih h.modStore

theorem endWrites {p} (h : d.TablesCanonical) : (d.endWrites p).TablesCanonical := h.foldl fun h => h.answerCmp
theorem recallWork {p} (h : d.TablesCanonical) : (d.recallWork p).TablesCanonical := h.foldl fun h => h.issueSnoop
theorem forgetWants {p} (h : d.TablesCanonical) : (d.forgetWants p).TablesCanonical := h.modTier
theorem freeTo {s st dcAcc} (h : d.TablesCanonical) : (d.freeTo s st dcAcc).TablesCanonical :=
  .ite h.recharge.freeSkein.modPat.setCached h.recharge.freeSkein.modPat.writeTable
theorem clearSkein {s} (h : d.TablesCanonical) : (d.clearSkein s).TablesCanonical :=
  .ite h (.ite (h.putEntryQuiet.foldl fun h => h.unwipe) (.ite h.putEntryQuiet h.freeTo))
theorem clearLd {ld} (h : d.TablesCanonical) : (d.clearLd ld).TablesCanonical :=
  (h.settleAll.forgetWants.recallWork.endWrites.foldl fun h => h.clearSkein).evacCheck
theorem releaseSkeins {ss} (h : d.TablesCanonical) : (d.releaseSkeins ss).TablesCanonical :=
  (h.settleAll.forgetWants.endWrites.foldl fun h => h.freeTo).evacCheck
theorem visit (h : d.TablesCanonical) : d.visit.TablesCanonical := h.when fun h => h.scanVisit

theorem trialEnd {skein bad} (h : d.TablesCanonical) : (Dev.trialEnd skein bad d).TablesCanonical := by
  unfold Dev.trialEnd
  split
  · exact h.trialDone
  · exact h

theorem copyPhaseEnd {id r} (h : d.TablesCanonical) : (Dev.copyPhaseEnd id r d).TablesCanonical := by
  unfold Dev.copyPhaseEnd
  split
  · exact .ite h.copyEnd.kick.pump h
  · exact h

theorem settle {id reason} (h : d.TablesCanonical) : (Dev.settle id reason d).TablesCanonical := by
  unfold Dev.settle
  split
  · exact .ite h.settleNow.evacCheck.kick.pump h
  · exact h

theorem evacRequest {v} (h : d.TablesCanonical) : (Dev.evacRequest v d).TablesCanonical :=
  (h.foldl fun h => h.evacuate).pump

/-! ### Cartridges (Machine/Larder.lean) -/

theorem sendMgmt {n b} (h : d.TablesCanonical) : (d.sendMgmt n b).TablesCanonical := h.modCart.sendPkt
theorem endAttach {n} (h : d.TablesCanonical) : (d.endAttach n).TablesCanonical := h.modCart.set
theorem attachStart {n} (h : d.TablesCanonical) : (d.attachStart n).TablesCanonical :=
  .ite h.ctgSet.ctgSet.modCart.set.sendMgmt h
theorem reject {n reason} (h : d.TablesCanonical) : (d.reject n reason).TablesCanonical :=
  h.endAttach.lset.enterDown.ctgSet.ctgSet.raise
theorem setWear {n wear budget} (h : d.TablesCanonical) : (d.setWear n wear budget).TablesCanonical := h.ctgSet.ctgSet
theorem askEvac {n} (h : d.TablesCanonical) : (d.askEvac n).TablesCanonical := .ite h h.evacuate

theorem wearReport {n wear budget ro degraded} (h : d.TablesCanonical) :
    (d.wearReport n wear budget ro degraded).TablesCanonical := by
  unfold Dev.wearReport
  extract_lets +onlyGivenNames level warn evac c newRo newDeg d1 d2 d3 d4
  have hd1 : d1.TablesCanonical := h.setWear.ctgSet.ctgSet
  have hd2 : d2.TablesCanonical := .ite hd1.raise hd1
  have hd4 : d4.TablesCanonical := (TablesCanonical.ite hd2.raise hd2).modCart
  exact .ite hd4.askEvac hd4

theorem onMgmt {n hd ok f} (h : d.TablesCanonical) (hf : ∀ {d}, d.TablesCanonical → (f d).TablesCanonical) :
    (Dev.onMgmt n hd ok f d).TablesCanonical := by
  unfold Dev.onMgmt
  refine .ite h ?_
  split
  · next d1 eq => exact h.receive eq
  · next d1 eq =>
    have hd1 : d1.TablesCanonical := h.receive eq
    exact .ite (hf hd1) hd1.unexpected

theorem identify {n hd b} (h : d.TablesCanonical) : (Dev.identify n hd b d).TablesCanonical :=
  h.onMgmt fun h => .ite h.reject h.ctgSet.ctgSet.ctgSet.setWear.ctgSet.ctgSet.modCart.sendMgmt
theorem certPart {n hd bytes verdict} (h : d.TablesCanonical) : (Dev.certPart n hd bytes verdict d).TablesCanonical :=
  h.onMgmt fun h => .ite h.reject (.ite h.modCart.sendMgmt (.ite h.modCart.draw.sendMgmt h.reject))
theorem certSignature {n hd ok} (h : d.TablesCanonical) : (Dev.certSignature n hd ok d).TablesCanonical :=
  h.onMgmt fun h => .ite h.modCart.draw.sendMgmt h.reject
theorem keyResponse {n hd ok} (h : d.TablesCanonical) : (Dev.keyResponse n hd ok d).TablesCanonical :=
  h.onMgmt fun h => .ite h.sendMgmt.endAttach.lset.ctgSet.raise.flush h.reject
theorem attachTimeout {n} (h : d.TablesCanonical) : (Dev.attachTimeout n d).TablesCanonical :=
  h.when fun h => h.reject
theorem admitCartridge {n} (h : d.TablesCanonical) : (d.admitCartridge n).TablesCanonical :=
  .ite h h.modCart.ctgSet.ctgSet.wearReport
theorem strayAnswer {n tag} (h : d.TablesCanonical) : (d.strayAnswer n tag).TablesCanonical := .ite h h.unexpected
theorem endTxn {n tag} (h : d.TablesCanonical) : (d.endTxn n tag).TablesCanonical := h.modCart.syncTxn

theorem acceptSlot {n f t b res} (h : d.TablesCanonical) (eq : d.acceptSlot n f t b = res) : res.2.2.TablesCanonical := by
  subst eq
  unfold Dev.acceptSlot
  extract_lets +onlyGivenNames dpa owner allBad failed
  have hfailed : ∀ {d : Dev}, d.TablesCanonical → (failed d).TablesCanonical := fun h => h.raise
  refine ite_of (fun x : Nat × List (BitVec 512 × Bool) × Dev => x.2.2) (hfailed h) ?_
  extract_lets +onlyGivenNames d1
  have hd1 : d1.TablesCanonical := .ite h.raise h
  refine ite_of (fun x : Nat × List (BitVec 512 × Bool) × Dev => x.2.2) hd1 ?_
  refine ite_of (fun x : Nat × List (BitVec 512 × Bool) × Dev => x.2.2) (hfailed hd1) ?_
  exact .ite (TablesCanonical.ite (hfailed hd1) hd1).raise (.ite (hfailed hd1) hd1)

theorem writeAnswered {t status} (h : d.TablesCanonical) : (d.writeAnswered t status).TablesCanonical := by
  unfold Dev.writeAnswered
  refine .ite (.ite h.modMem h.setFlag.modMem) ?_
  split
  · exact h
  · exact .ite h (.ite h.advance h.raise.failMig)

theorem rxRsp {n hd b} (h : d.TablesCanonical) : (Dev.rxRsp n hd b d).TablesCanonical := by
  unfold Dev.rxRsp
  refine .ite h ?_
  split
  · next d1 eq => exact h.receive eq
  · next d1 eq =>
    have hd1 : d1.TablesCanonical := h.receive eq
    split
    · exact hd1.strayAnswer
    · extract_lets +onlyGivenNames d2 d3
      have hd3 : d3.TablesCanonical := by
        refine .ite ?_ ?_
        · split
          · exact hd1.endTxn
          · split
            next form ls d3 eq =>
              have hd3 : d3.TablesCanonical := hd1.endTxn.acceptSlot eq
              exact .ite (.ite hd3.putFetch.raise hd3.putFetch) hd3.landFetch
        · exact .ite hd1.endTxn.writeAnswered (.ite hd1.endTxn.modCart hd1.endTxn)
      exact hd3.kick.pump

theorem rxData {n hd ls} (h : d.TablesCanonical) : (Dev.rxData n hd ls d).TablesCanonical := by
  unfold Dev.rxData
  refine .ite h ?_
  split
  · next d1 eq => exact h.receive eq
  · next d1 eq =>
    have hd1 : d1.TablesCanonical := h.receive eq
    split
    · exact .ite hd1.modTxn hd1.unexpected
    · exact hd1.strayAnswer

theorem txnTimeout {n tag} (h : d.TablesCanonical) : (Dev.txnTimeout n tag d).TablesCanonical := by
  unfold Dev.txnTimeout
  split
  · exact h
  · refine .ite h ?_
    extract_lets +onlyGivenNames d1
    refine .ite h.raise.enterDown.pump ?_
    extract_lets +onlyGivenNames d2
    have hd2 : d2.TablesCanonical := h.raise.modTxn
    split
    · exact .ite hd2.issueTxn hd2
    · exact hd2

theorem wearMsg {n hd b} (h : d.TablesCanonical) : (Dev.wearMsg n hd b d).TablesCanonical :=
  h.onMgmt fun h => (TablesCanonical.ite h h.modCart).wearReport.pump
theorem retireStart {n} (h : d.TablesCanonical) : (d.retireStart n).TablesCanonical := .ite h.modCart.sendMgmt h
theorem retireEnd {n} (h : d.TablesCanonical) : (d.retireEnd n).TablesCanonical :=
  h.lset.enterDown.modCart.ctgSet.raise

theorem retireTimeout {n} (h : d.TablesCanonical) : (Dev.retireTimeout n d).TablesCanonical := by
  unfold Dev.retireTimeout
  split
  · exact .ite h.retireEnd h
  · exact h

theorem reclaim (h : d.TablesCanonical) : d.reclaim.TablesCanonical := .ite h (h.foldl fun h => .ite h h.modCart).pump
theorem wearPoll (h : d.TablesCanonical) : d.wearPoll.TablesCanonical :=
  .ite h (h.foldl fun h => .ite h.modCart.sendMgmt h)

/-! ### Requests (Machine/Requests.lean) -/

theorem after (h : d.TablesCanonical) : d.after.TablesCanonical := h.kick.pump
theorem message {k r} (h : d.TablesCanonical) : (Dev.message k r d).TablesCanonical :=
  h.when fun h => h.accept.after
theorem badOpcode {r} (h : d.TablesCanonical) : (Dev.badOpcode r d).TablesCanonical := h.when fun h => h.raise.emit

theorem snoopAnswer {line ld} (h : d.TablesCanonical) : (d.snoopAnswer line ld).TablesCanonical := by
  unfold Dev.snoopAnswer
  split
  · exact h
  · refine .ite h ?_
    extract_lets +onlyGivenNames w
    refine .ite h.modPat ?_
    extract_lets +onlyGivenNames d1
    refine .ite h.modPat.setDir ?_
    split
    · exact h.modPat.putReq
    · exact .ite h.modPat.setDir h.modPat

theorem biRsp {ld line} (h : d.TablesCanonical) : (Dev.biRsp ld line d).TablesCanonical := h.snoopAnswer.after

theorem biTimeout {ld line} (h : d.TablesCanonical) : (Dev.biTimeout ld line d).TablesCanonical := by
  unfold Dev.biTimeout
  split
  · exact h
  · refine .ite ?_ h
    extract_lets +onlyGivenNames d1
    have hd1 : d1.TablesCanonical := by
      unfold d1
      split
      · exact h.setDir
      · exact h
    exact hd1.raise.snoopAnswer.after

theorem missInstall {s ok} (h : d.TablesCanonical) : (Dev.missInstall s ok d).TablesCanonical := by
  unfold Dev.missInstall
  refine h.when fun h => ?_
  extract_lets +onlyGivenNames d1 good d2 d3
  have hd2 : d2.TablesCanonical := .ite h.modPat h.modPat.modPat.raise
  have hd3 : d3.TablesCanonical := .ite hd2 hd2.installWay
  exact (hd3.foldl fun h => h.resume).after

theorem lineCapture {id f} (h : d.TablesCanonical) : (Dev.lineCapture id f d).TablesCanonical := by
  unfold Dev.lineCapture
  split
  · exact .ite h.captured.after h
  · exact h

theorem macAlarm {id} (h : d.TablesCanonical) : (Dev.macAlarm id d).TablesCanonical := by
  unfold Dev.macAlarm
  split
  · exact .ite h.lateAlarm.dropReq.after h
  · exact h

theorem gateRelease {sub} (h : d.TablesCanonical) : (d.gateRelease sub).TablesCanonical := by
  unfold Dev.gateRelease
  extract_lets +onlyGivenNames ws
  refine h.foldl fun h => ?_
  split
  · exact h
  · refine .ite h ?_
    refine .ite (.ite h h.flow) ?_
    split
    · exact h
    · next d1 eq =>
      have hd1 : d1.TablesCanonical := h.tryPass eq
      split
      · exact hd1.flow
      · exact hd1

theorem ingressRelease {ld} (h : d.TablesCanonical) : (d.ingressRelease ld).TablesCanonical := by
  unfold Dev.ingressRelease
  extract_lets +onlyGivenNames hs
  refine h.foldl_of Prod.snd fun h => ?_
  exact ite_of Prod.snd h h.resume

theorem parkRelease {id} (h : d.TablesCanonical) : (Dev.parkRelease id d).TablesCanonical := by
  unfold Dev.parkRelease
  split
  · exact h
  · split
    · exact .ite h.unpark.after h
    · exact h

theorem backingTimeout {id} (h : d.TablesCanonical) : (Dev.backingTimeout id d).TablesCanonical := by
  unfold Dev.backingTimeout
  split
  · exact .ite h.raise.discard.after h
  · exact h

theorem larderEnd {r} (h : d.TablesCanonical) : (d.larderEnd r).TablesCanonical :=
  .ite h.raise.answerRead h.raise.discard

theorem larderTimeout {id read} (h : d.TablesCanonical) : (Dev.larderTimeout id read d).TablesCanonical := by
  unfold Dev.larderTimeout
  split
  · exact .ite h.larderEnd.after h
  · exact h

theorem assignEncoders (h : d.TablesCanonical) : d.assignEncoders.TablesCanonical := by
  unfold Dev.assignEncoders
  refine h.foldl fun h => ?_
  split
  · exact h.setCmpBusy.putReq
  · exact h

theorem compressorDone {i ok} (h : d.TablesCanonical) : (Dev.compressorDone i ok d).TablesCanonical := by
  unfold Dev.compressorDone
  split
  · exact h.setCmpBusy.rewriteDone.assignEncoders.after
  · exact h

theorem decompressorFree {i} (h : d.TablesCanonical) : (Dev.decompressorFree i d).TablesCanonical := by
  unfold Dev.decompressorFree
  refine h.when fun h => ?_
  extract_lets +onlyGivenNames d1 ws
  clear_value ws
  split
  · exact h.setCmpBusy.decodeOn.after
  · exact h.setCmpBusy

theorem roomBegin {drn img} (h : d.TablesCanonical) : (d.roomBegin drn img).TablesCanonical := by
  unfold Dev.roomBegin
  extract_lets +onlyGivenNames old p d1
  have hd1 : d1.TablesCanonical := h.setRoom.modPat
  exact .ite (.ite hd1.modPat.settleAll.forgetWants.recallWork hd1.modPat.settleAll.forgetWants) hd1

theorem roomSkein {img fresh s} (h : d.TablesCanonical) : (d.roomSkein img fresh s).TablesCanonical :=
  .ite h.modPat.putEntryQuiet h.putEntryQuiet
theorem tellRoom {drn old img} (h : d.TablesCanonical) : (d.tellRoom drn old img).TablesCanonical :=
  .ite h.frame.sendPkt h.frame

theorem roomEnd {drn img was} (h : d.TablesCanonical) : (d.roomEnd drn img was).TablesCanonical := by
  unfold Dev.roomEnd
  extract_lets +onlyGivenNames ss p leaving fresh d1 d2 d3 d4
  have hd3 : d3.TablesCanonical := by
    exact ((TablesCanonical.ite (h.endWrites.foldl fun h => h.freeTo) h).foldl fun h => h.roomSkein).modPat
  exact (TablesCanonical.ite hd3.attrWalk hd3).evacCheck.tellRoom

theorem roomRead (h : d.TablesCanonical) : d.roomRead.TablesCanonical := .ite h.set (.ite h.set h.setWord.set)
theorem roomWrite (h : d.TablesCanonical) : d.roomWrite.TablesCanonical := .ite h.set.setFlag.roomBegin.after h.set

theorem roomComplete (h : d.TablesCanonical) : d.roomComplete.TablesCanonical := by
  unfold Dev.roomComplete
  split
  · exact h
  · exact .ite h h.roomEnd.setFlag.after

theorem flushDone {failed} (h : d.TablesCanonical) : (Dev.flushDone failed d).TablesCanonical :=
  h.when fun h => (h.foldl fun h => .ite h.modPat.raise h.writeTable).modPat.setFlag
theorem probe (h : d.TablesCanonical) : d.probe.TablesCanonical := h.set.set.set.set.setFlag

/-! ### Accesses (Machine/Access.lean) -/

theorem see {s gm cls} (h : d.TablesCanonical) : (d.see s gm cls).TablesCanonical :=
  .ite h.tally.tally.touchWay (.ite h.tally.tally h.tally.tally.installWay.chargeUse)

theorem ringCheck {w off acc res} (h : d.TablesCanonical) (eq : d.ringCheck w off acc = res) : res.2.TablesCanonical := by
  subst eq
  unfold Dev.ringCheck
  split
  · exact h.raise
  · extract_lets +onlyGivenNames d1
    split
    · exact (TablesCanonical.ite h.see.addSat h.see).raise
    · refine ite_of Prod.snd h.see.raise ?_
      dsimp only
      exact h.see

theorem chanWait {dra} (h : d.TablesCanonical) : (d.chanWait dra).TablesCanonical := .ite h h.wakeFor
theorem chanRefuse {dra dpa acc} (h : d.TablesCanonical) : (d.chanRefuse dra dpa acc).TablesCanonical :=
  .ite h.raise h

theorem passOr {w dra nr nw res} (h : d.TablesCanonical) (eq : d.passOr w dra nr nw = res) : res.2.TablesCanonical := by
  subst eq
  unfold Dev.passOr
  extract_lets +onlyGivenNames l
  split
  · next d1 eq =>
    have hd1 : d1.TablesCanonical := h.passAccess eq
    exact hd1.frameStore
  · exact h.ask

theorem askLine {dpa} (h : d.TablesCanonical) : (d.askLine dpa).TablesCanonical := .ite h h.frame

theorem engineSlot {dra ratio block owner acc f res} (h : d.TablesCanonical)
    (eq : d.engineSlot dra ratio block owner acc f = res) : res.2.TablesCanonical := by
  subst eq
  unfold Dev.engineSlot
  split
  next ok d1 eq =>
    have hd1 : d1.TablesCanonical := h.engineLine eq
    refine ite_of Prod.snd hd1 ?_
    split
    next ok2 d2 eq =>
      have hd2 : d2.TablesCanonical := hd1.engineLine eq
      exact hd2

theorem inlineBlock {l dpa owner slot res} (h : d.TablesCanonical) (eq : d.inlineBlock l dpa owner slot = res) :
    res.2.TablesCanonical := by
  subst eq
  unfold Dev.inlineBlock
  split
  · exact h.raise
  · extract_lets +onlyGivenNames d1
    have hd1 : d1.TablesCanonical := h.cmpCount.tally
    split
    · exact hd1.addSat.raise
    · dsimp only
      exact hd1

theorem readDram {w dra ratio dpa f res} (h : d.TablesCanonical) (eq : d.readDram w dra ratio dpa f = res) :
    res.dev.TablesCanonical := by
  subst eq
  unfold Dev.readDram
  extract_lets +onlyGivenNames owner tier knit
  split
  · exact h.chanWait
  · exact h.chanRefuse
  · refine ite_of (fun x : Got MovedLine => x.dev) h.askLine ?_
    split
    · next d1 eq => exact h.passOr eq
    · next d1 eq =>
      have hd1 : d1.TablesCanonical := h.passOr eq
      refine ite_of (fun x : Got MovedLine => x.dev) ?_ ?_
      · split
        next ok d2 eq =>
          have hd2 : d2.TablesCanonical := hd1.engineLine eq
          exact ite_of (fun x : Got MovedLine => x.dev) hd2 hd2
      · split
        next ok d2 eq =>
          have hd2 : d2.TablesCanonical := hd1.engineSlot eq
          refine ite_of (fun x : Got MovedLine => x.dev) hd2 ?_
          split
          · next d3 eq => exact hd2.inlineBlock eq
          · next bs d3 eq => exact hd2.inlineBlock eq

theorem mirrorLine {w dpa line poison} (h : d.TablesCanonical) : (d.mirrorLine w dpa line poison).TablesCanonical := by
  unfold Dev.mirrorLine
  refine .ite ?_ h
  extract_lets +onlyGivenNames i
  split
  · exact h.mirrorOut
  · exact h.frame
  · exact h

theorem writeOpen {w dra dpa data en poison f res} (h : d.TablesCanonical)
    (eq : d.writeOpen w dra dpa data en poison f = res) : res.dev.TablesCanonical := by
  subst eq
  unfold Dev.writeOpen
  extract_lets +onlyGivenNames l owner knit full
  refine ite_of (fun x : Got Unit => x.dev) h.askLine ?_
  split
  · next d1 eq => exact h.passOr eq
  · next d1 eq =>
    have hd1 : d1.TablesCanonical := h.passOr eq
    extract_lets +onlyGivenNames put
    refine ite_of (fun x : Got Unit => x.dev) ?_ ?_
    · exact hd1.putOpen.pushWqNew.mirrorLine
    · split
      next ok d2 eq =>
        have hd2 : d2.TablesCanonical := hd1.engineLine eq
        extract_lets +onlyGivenNames old
        refine ite_of (fun x : Got Unit => x.dev) ?_ ?_
        · exact hd2.putOpen.pushWqNew.mirrorLine.raise
        · exact hd2.putOpen.pushWqNew.mirrorLine

theorem writePacked {w dra ratio dpa data en poison f res} (h : d.TablesCanonical)
    (eq : d.writePacked w dra ratio dpa data en poison f = res) : res.dev.TablesCanonical := by
  subst eq
  unfold Dev.writePacked
  extract_lets +onlyGivenNames l owner b unpack
  have hunpack : ∀ {d : Dev}, d.TablesCanonical → (unpack d).dev.TablesCanonical := fun h => h.noFit
  refine ite_of (fun x : Got Unit => x.dev) (hunpack h) ?_
  refine ite_of (fun x : Got Unit => x.dev) h.askLine ?_
  split
  · exact .ite h.raiseOnce h
  · extract_lets +onlyGivenNames k
    split
    · next d1 eq => exact h.passOr eq
    · next d1 eq =>
      have hd1 : d1.TablesCanonical := h.passOr eq
      split
      next ok d2 eq =>
        have hd2 : d2.TablesCanonical := hd1.engineSlot eq
        split
        · exact hunpack hd2
        · extract_lets +onlyGivenNames old at' line
          split
          · exact hunpack hd2.countEncode
          · exact hd2.countEncode.putSlot.pushSlot.mirrorLine

theorem writeDram {w dra ratio dpa data en poison f res} (h : d.TablesCanonical)
    (eq : d.writeDram w dra ratio dpa data en poison f = res) : res.dev.TablesCanonical := by
  subst eq
  unfold Dev.writeDram
  split
  · exact h.chanWait
  · exact h
  · refine ite_of (fun x : Got Unit => x.dev) h ?_
    refine ite_of (fun x : Got Unit => x.dev) (h.writeOpen rfl) ?_
    exact h.writePacked rfl

theorem snoopStep {w dpa write res} (h : d.TablesCanonical) (eq : d.snoopStep w dpa write = res) :
    (devOf res.2 (fun x => x) res.1).TablesCanonical := by
  subst eq
  unfold Dev.snoopStep
  refine ite_of (fun x : Option Dev × Dev => devOf x.2 (fun y => y) x.1) h ?_
  extract_lets +onlyGivenNames line
  refine ite_of (fun x : Option Dev × Dev => devOf x.2 (fun y => y) x.1) h ?_
  split
  exact ite_of (fun x : Option Dev × Dev => devOf x.2 (fun y => y) x.1) h.issueSnoop h.setDir

theorem awaitFetch {w dpa cart extent slot write} (h : d.TablesCanonical) :
    (d.awaitFetch w dpa cart extent slot write).TablesCanonical := by
  unfold Dev.awaitFetch
  split
  · exact h.putFetch
  · exact h.newFetch.chargeUse

theorem readWindow {w named dpa f res} (h : d.TablesCanonical) (eq : d.readWindow w named dpa f = res) :
    res.dev.TablesCanonical := by
  subst eq
  unfold Dev.readWindow
  extract_lets +onlyGivenNames drn
  refine ite_of (fun x : Got MovedLine => x.dev) h ?_
  refine ite_of (fun x : Got MovedLine => x.dev) h.raiseOnce ?_
  split
  · next d snd eq => exact h.snoopStep eq
  · next d eq =>
    have hd : d.TablesCanonical := h.snoopStep eq
    split
    · exact hd.readDram rfl
    · split
      · refine ite_of (fun x : Got MovedLine => x.dev) ?_ hd.awaitFetch
        split
        exact hd
      · exact hd.awaitFetch
    · exact hd.raise
    · exact hd
    · exact hd.chargeUse
    · exact hd.chargeUse

theorem attachWrite {w named dpa page data en poison res} (h : d.TablesCanonical)
    (eq : d.attachWrite w named dpa page data en poison = res) : res.dev.TablesCanonical := by
  subst eq
  unfold Dev.attachWrite
  extract_lets +onlyGivenNames r
  split
  · next dra d1 snd eq =>
    have hd1 : d1.TablesCanonical := h.attachDram eq
    exact hd1.writeDram rfl
  · split
    · next n x d1 eq =>
      have hd1 : d1.TablesCanonical := h.attachLarder eq
      exact hd1.awaitFetch
    · refine ite_of (fun x : Got Unit => x.dev) h.allocRefused ?_
      exact ite_of (fun x : Got Unit => x.dev) h.raise h.modTier

theorem writeWindow {w named dpa data en poison f res} (h : d.TablesCanonical)
    (eq : d.writeWindow w named dpa data en poison f = res) : res.dev.TablesCanonical := by
  subst eq
  unfold Dev.writeWindow
  extract_lets +onlyGivenNames drn live
  refine ite_of (fun x : Got Unit => x.dev) h ?_
  refine ite_of (fun x : Got Unit => x.dev) h.raiseOnce ?_
  split
  · next d snd eq => exact h.snoopStep eq
  · next d eq =>
    have hd : d.TablesCanonical := h.snoopStep eq
    refine ite_of (fun x : Got Unit => x.dev) hd.mirrorOut ?_
    split
    · exact hd.writeDram rfl
    · exact hd.awaitFetch
    · exact hd
    · exact hd.raise
    · exact hd.attachWrite rfl
    · exact hd.openVoid.writeDram rfl

theorem jobHeat {dpa} (h : d.TablesCanonical) : (d.jobHeat dpa).TablesCanonical := .ite h.addHeat h

theorem readOff {w off f res} (h : d.TablesCanonical) (eq : d.readOff w off f = res) : res.dev.TablesCanonical := by
  subst eq
  unfold Dev.readOff
  split
  · next d1 eq => exact h.ringCheck eq
  · next dpa d1 eq =>
    have hd1 : d1.TablesCanonical := h.ringCheck eq
    split
    · next a d2 eq =>
      have hd2 : d2.TablesCanonical := hd1.readWindow eq
      exact hd2.jobHeat
    · exact hd1.readWindow rfl

theorem writeOff {w off data en poison f res} (h : d.TablesCanonical) (eq : d.writeOff w off data en poison f = res) :
    res.dev.TablesCanonical := by
  subst eq
  unfold Dev.writeOff
  split
  · next d1 eq => exact h.ringCheck eq
  · next dpa d1 eq =>
    have hd1 : d1.TablesCanonical := h.ringCheck eq
    split
    · next a d2 eq =>
      have hd2 : d2.TablesCanonical := hd1.writeWindow eq
      exact hd2.jobHeat
    · exact hd1.writeWindow rfl

theorem dropUser {id} (h : d.TablesCanonical) : (d.dropUser id).TablesCanonical := h.modTier

theorem scrambleLine {w off} (h : d.TablesCanonical) : (d.scrambleLine w off).TablesCanonical := by
  unfold Dev.scrambleLine
  split
  · exact h
  · refine .ite h ?_
    split
    · exact h.draw.putOpen
    · exact h

end Sys2Proof.Machine.Dev.TablesCanonical
end

