-- ==== Sys2Proof/Proofs/TablesJobs.lean ====
section
/-! PROOFS. The tables stay canonical: rings, jobs, movers, links, the NOC and power. -/

set_option Elab.async false

namespace Sys2Proof.Machine.Dev.TablesCanonical

open Sys2Proof.Laws

variable {d : Dev}

/-! ### Rings (Machine/Rings.lean) -/

theorem modRings {f} (h : d.TablesCanonical) : (d.modRings f).TablesCanonical := h.frame
theorem modPair {q f} (h : d.TablesCanonical) : (d.modPair q f).TablesCanonical := h.modRings
theorem putRing {q f v} (h : d.TablesCanonical) : (d.putRing q f v).TablesCanonical := h.set
theorem putJob {j} (h : d.TablesCanonical) : (d.putJob j).TablesCanonical := h.modRings
theorem pairWait {q snoop backing} (h : d.TablesCanonical) : (d.pairWait q snoop backing).TablesCanonical := h.modPair
theorem haltPair {q err acc} (h : d.TablesCanonical) : (d.haltPair q err acc).TablesCanonical :=
  .ite h h.putRing.putRing.modPair.raise
theorem ringViral (h : d.TablesCanonical) : d.ringViral.TablesCanonical := h.foldl fun h => .ite h.haltPair h
theorem pairIdle {q} (h : d.TablesCanonical) : (d.pairIdle q).TablesCanonical := .ite h h.putRing.putRing
theorem ringLatch {g} (h : d.TablesCanonical) : (d.ringLatch g).TablesCanonical := .ite h.latch h
theorem doneLatch {g} (h : d.TablesCanonical) : (d.doneLatch g).TablesCanonical := .ite h.latch h
theorem tailWrite {q v} (h : d.TablesCanonical) : (d.tailWrite q v).TablesCanonical :=
  .ite h.putRing.haltPair h.putRing.modPair.ringLatch
theorem headWrite {q v} (h : d.TablesCanonical) : (d.headWrite q v).TablesCanonical :=
  .ite h.putRing (.ite h.haltPair h.putRing)
theorem storeCfg {q v} (h : d.TablesCanonical) : (d.storeCfg q v).TablesCanonical :=
  .ite h.putRing h.putRing.putRing.putRing.putRing

theorem ringOn {q v} (h : d.TablesCanonical) : (d.ringOn q v).TablesCanonical := by
  unfold Dev.ringOn
  extract_lets +onlyGivenNames d1
  refine .ite h.storeCfg ?_
  exact .ite h.storeCfg.putRing h.storeCfg.putRing.putRing.putRing.putRing.putRing.putRing.putRing.modPair.modRings

theorem clearEn {q} (h : d.TablesCanonical) : (d.clearEn q).TablesCanonical := h.putRing.modRings.modPair
theorem ringOff {q v} (h : d.TablesCanonical) : (d.ringOff q v).TablesCanonical :=
  .ite h.storeCfg.clearEn.pairIdle h.storeCfg
theorem slotWrite {ld q off width v f} (h : d.TablesCanonical) (hf : ∀ {d}, d.TablesCanonical → (f d).TablesCanonical) :
    (Dev.slotWrite ld q off width v f d).TablesCanonical :=
  .ite h.raise (.ite h.waitDomain (.ite (hf h) h))
theorem qpAssign {v} (h : d.TablesCanonical) : (Dev.qpAssign v d).TablesCanonical := .ite h h.store

theorem fetchDesc {q f} (h : d.TablesCanonical) : (d.fetchDesc q f).TablesCanonical := by
  unfold Dev.fetchDesc
  extract_lets +onlyGivenNames hd
  split
  · next d1 s b eq =>
    have hd1 : d1.TablesCanonical := h.readOff eq
    exact hd1.pairWait
  · next d1 eq =>
    have hd1 : d1.TablesCanonical := h.readOff eq
    exact hd1.haltPair
  · next fst d1 eq =>
    have hd1 : d1.TablesCanonical := h.readOff eq
    exact hd1.haltPair
  · next bs d1 eq =>
    have hd1 : d1.TablesCanonical := h.readOff eq
    exact hd1.modMem.modRings.putRing.modPair.dropUser.tally

theorem startJob {q} (h : d.TablesCanonical) : (d.startJob q).TablesCanonical := by
  unfold Dev.startJob
  split
  · exact .ite h.putJob.tally h
  · exact h

theorem ringDue {q} (h : d.TablesCanonical) : (d.ringDue q).TablesCanonical := h.modPair.doneLatch
theorem countDone {q} (h : d.TablesCanonical) : (d.countDone q).TablesCanonical := .ite h.modPair.ringDue h.modPair
theorem dropJob {j} (h : d.TablesCanonical) : (d.dropJob j).TablesCanonical := h.modRings.modTier.dropUser.pairIdle

theorem completed {j ev} (h : d.TablesCanonical) : (d.completed j ev).TablesCanonical := by
  unfold Dev.completed
  extract_lets +onlyGivenNames q t d1 d2 d3 d4
  have hd2 : d2.TablesCanonical := .ite h.putRing.putRing h.putRing
  have hd3 : d3.TablesCanonical := hd2.set.tally
  have hd4 : d4.TablesCanonical := .ite hd3 hd3.addSat
  exact (TablesCanonical.ite hd4.countDone hd4).dropJob

theorem writeDone {j ev f} (h : d.TablesCanonical) : (d.writeDone j ev f).TablesCanonical := by
  unfold Dev.writeDone
  extract_lets +onlyGivenNames q
  refine .ite h.completed ?_
  extract_lets +onlyGivenNames a
  split
  split
  · next d1 s b eq =>
    have hd1 : d1.TablesCanonical := h.writeOff eq
    exact hd1.pairWait
  · next d1 eq =>
    have hd1 : d1.TablesCanonical := h.writeOff eq
    exact hd1.haltPair.dropJob
  · next a d1 eq =>
    have hd1 : d1.TablesCanonical := h.writeOff eq
    exact hd1.pairWait.dropUser.completed

theorem jobComplete {id f} (h : d.TablesCanonical) : (Dev.jobComplete id f d).TablesCanonical := by
  unfold Dev.jobComplete
  split
  · split
    · exact .ite h.writeDone.after h
    · exact h
  · exact h

theorem ringDoorbell {g} (h : d.TablesCanonical) : (d.ringDoorbell g).TablesCanonical := .ite h.set h.set.modRings
theorem ringMsg {q} (h : d.TablesCanonical) : (d.ringMsg q).TablesCanonical :=
  .ite h.modPair.sendMsix.tally h.modPair.raise
theorem ringDoneEvent {g} (h : d.TablesCanonical) : (d.ringDoneEvent g).TablesCanonical :=
  .ite h.set (h.set.foldl fun h => h.ringMsg)
theorem ringRearm (h : d.TablesCanonical) : d.ringRearm.TablesCanonical :=
  .ite h ((h.set.set.foldl fun h => .ite h.latch h).foldl fun h => .ite h.latch h)
theorem coalesce {q} (h : d.TablesCanonical) : (Dev.coalesce q d).TablesCanonical := .ite h.ringDue h
theorem scramble {j} (h : d.TablesCanonical) : (d.scramble j).TablesCanonical :=
  h.foldl fun h => h.foldl fun h => h.scrambleLine

theorem freeInst {j} (h : d.TablesCanonical) : (d.freeInst j).TablesCanonical := by
  unfold Dev.freeInst
  split
  · exact h.setCmpBusy
  · exact h

theorem forgetJob {id} (h : d.TablesCanonical) : (d.forgetJob id).TablesCanonical := h.modTier

theorem abortJob {j} (h : d.TablesCanonical) : (d.abortJob j).TablesCanonical := by
  unfold Dev.abortJob
  extract_lets +onlyGivenNames d1 q e
  have hd1 : d1.TablesCanonical := (TablesCanonical.ite h.scramble h).freeInst.forgetJob
  exact .ite hd1.dropJob hd1.writeDone.dropJob

theorem frogPair {q} (h : d.TablesCanonical) : (d.frogPair q).TablesCanonical :=
  (h.clearEn.foldl fun h => h.abortJob).modPair.putRing.pairIdle
theorem stopFetch {q} (h : d.TablesCanonical) : (d.stopFetch q).TablesCanonical := h.modPair

/-! ### Jobs (Machine/Jobs.lean) -/

theorem poisonEnd {j rel addr res} (h : d.TablesCanonical) (eq : d.poisonEnd j rel addr = res) : res.1.TablesCanonical := by
  subst eq
  unfold Dev.poisonEnd
  exact h.raise

theorem jobRead {j fs off n start res} (h : d.TablesCanonical) (eq : d.jobRead j fs off n start = res) :
    res.2.1.TablesCanonical := by
  subst eq
  unfold Dev.jobRead
  split
  · next bs po d1 eq => exact h.readOff eq
  · next d1 s backing eq => exact h.readOff eq
  · next d1 eq =>
    have hd1 : d1.TablesCanonical := h.readOff eq
    exact hd1.raise

theorem jobReadSpan {j fs off n start res} (h : d.TablesCanonical) (eq : d.jobReadSpan j fs off n start = res) :
    res.2.1.TablesCanonical := by
  subst eq
  unfold Dev.jobReadSpan
  extract_lets +onlyGivenNames n1 note
  split
  · next r eq => exact h.jobRead eq
  · next b1 p1 d1 j1 snd eq =>
    have hd1 : d1.TablesCanonical := h.jobRead eq
    extract_lets +onlyGivenNames j1
    refine ite_of (fun x : Option (List Nat) × Dev.JobRun => x.2.1) hd1 ?_
    split
    · next r eq => exact hd1.jobRead eq
    · next b2 p2 d2 j2 snd eq => exact hd1.jobRead eq

theorem jobWrite {j fs off bs rel res} (h : d.TablesCanonical) (eq : d.jobWrite j fs off bs rel = res) :
    res.2.1.TablesCanonical := by
  subst eq
  unfold Dev.jobWrite
  split
  split
  · next a d1 eq => exact h.writeOff eq
  · next d1 s b eq => exact h.writeOff eq
  · next d1 eq =>
    have hd1 : d1.TablesCanonical := h.writeOff eq
    exact hd1.raise

theorem runSteps {step n r res} (h : r.1.TablesCanonical)
    (hstep : ∀ {d x}, d.TablesCanonical → (step d x).1.TablesCanonical) (eq : Dev.runSteps step n r = res) :
    res.1.TablesCanonical := by
  subst eq
  induction n generalizing r with
  | zero => exact h
  | succ n ih =>
    obtain ⟨d, j, go⟩ := r
    rw [Dev.runSteps]
    exact ite_of Prod.fst (ih (hstep h)) h

theorem jobBeat (h : d.TablesCanonical) : d.jobBeat.TablesCanonical := h.tally

theorem gatherStep {fs base stride part total stopAt j res} (h : d.TablesCanonical)
    (eq : Dev.gatherStep fs base stride part total stopAt d j = res) : res.1.TablesCanonical := by
  subst eq
  unfold Dev.gatherStep
  refine ite_of Prod.fst h ?_
  split
  split
  · next r eq => exact h.jobRead eq
  · next bs po d1 j1 snd eq =>
    have hd1 : d1.TablesCanonical := h.jobRead eq
    extract_lets +onlyGivenNames line
    exact ite_of Prod.fst (hd1.poisonEnd rfl) hd1.jobBeat

theorem scatterStep {fs base stride part bs j res} (h : d.TablesCanonical)
    (eq : Dev.scatterStep fs base stride part bs d j = res) : res.1.TablesCanonical := by
  subst eq
  unfold Dev.scatterStep
  refine ite_of Prod.fst h ?_
  split
  split
  · next r eq => exact h.jobWrite eq
  · next d1 j1 snd eq =>
    have hd1 : d1.TablesCanonical := h.jobWrite eq
    exact hd1.jobBeat

theorem gatherJob {j fs src dst stopAt make fin res} (h : d.TablesCanonical)
    (hmake : ∀ {d x}, d.TablesCanonical → (make d x).2.1.TablesCanonical)
    (hfin : ∀ {d x}, d.TablesCanonical → (fin d x).1.TablesCanonical) (eq : d.gatherJob j fs src dst stopAt make fin = res) :
    res.1.TablesCanonical := by
  subst eq
  unfold Dev.gatherJob
  split
  split
  extract_lets +onlyGivenNames write
  have hwrite : ∀ {d j bs}, d.TablesCanonical → (write d j bs).1.TablesCanonical := by
    intro d j bs h
    unfold write
    split
    next d1 j1 go eq =>
      have hd1 : d1.TablesCanonical := TablesCanonical.runSteps (r := (d, j, true)) h (fun h => h.scatterStep rfl) eq
      exact ite_of Prod.fst (hfin hd1) hd1
  clear_value write
  split
  · exact hwrite h
  · split
    next d1 j1 go eq =>
      have hd1 : d1.TablesCanonical := TablesCanonical.runSteps (r := (d, j, true)) h (fun h => h.gatherStep rfl) eq
      have hmade := hmake (x := j1) hd1
      refine ite_of Prod.fst hd1 ?_
      split
      · next r eq =>
        rw [eq] at hmade
        exact hmade
      · next bs d2 j2 go eq =>
        rw [eq] at hmade
        exact hwrite hmade

theorem moveStep {fs j res} (h : d.TablesCanonical) (eq : Dev.moveStep fs d j = res) : res.1.TablesCanonical := by
  subst eq
  unfold Dev.moveStep
  extract_lets +onlyGivenNames x
  refine ite_of Prod.fst h ?_
  split
  split
  · next r eq => exact h.jobReadSpan eq
  · next bs d1 j1 go eq =>
    have hd1 : d1.TablesCanonical := h.jobReadSpan eq
    split
    · next r eq => exact hd1.jobWrite eq
    · next d2 j2 go eq =>
      have hd2 : d2.TablesCanonical := hd1.jobWrite eq
      dsimp only
      exact hd2.jobBeat.jobBeat

theorem finish {result j res} (h : d.TablesCanonical) (eq : Dev.finish result d j = res) : res.1.TablesCanonical := by
  subst eq
  unfold Dev.finish
  split
  · exact h.poisonEnd rfl
  · exact h

theorem runMove {j fs res} (h : d.TablesCanonical) (eq : d.runMove j fs = res) : res.1.TablesCanonical := by
  subst eq
  unfold Dev.runMove
  split
  next d1 j1 snd eq =>
    have hd1 : d1.TablesCanonical := h.runSteps (fun h => h.moveStep rfl) eq
    exact ite_of Prod.fst (hd1.finish rfl) hd1

theorem fillStep {fs j res} (h : d.TablesCanonical) (eq : Dev.fillStep fs d j = res) : res.1.TablesCanonical := by
  subst eq
  unfold Dev.fillStep
  extract_lets +onlyGivenNames x
  refine ite_of Prod.fst h ?_
  extract_lets +onlyGivenNames n
  split
  · next r eq => exact h.jobWrite eq
  · next d1 j1 snd eq =>
    have hd1 : d1.TablesCanonical := h.jobWrite eq
    exact hd1.jobBeat

theorem runFill {j fs res} (h : d.TablesCanonical) (eq : d.runFill j fs = res) : res.1.TablesCanonical := by
  subst eq
  unfold Dev.runFill
  split
  next d1 j1 snd eq =>
    have hd1 : d1.TablesCanonical := h.runSteps (fun h => h.fillStep rfl) eq
    exact ite_of Prod.fst hd1 hd1

theorem compareStep {fs j res} (h : d.TablesCanonical) (eq : Dev.compareStep fs d j = res) : res.1.TablesCanonical := by
  subst eq
  unfold Dev.compareStep
  extract_lets +onlyGivenNames x second
  refine ite_of Prod.fst h ?_
  extract_lets +onlyGivenNames n
  split
  · next r eq => exact h.jobReadSpan eq
  · next a d1 j1 go eq =>
    have hd1 : d1.TablesCanonical := h.jobReadSpan eq
    split
    · exact hd1.poisonEnd rfl
    · split
      · next r eq => exact hd1.jobReadSpan eq
      · next b d2 j2 go eq =>
        have hd2 : d2.TablesCanonical := hd1.jobReadSpan eq
        split
        · exact hd2.poisonEnd rfl
        · split
          · exact hd2
          · dsimp only
            exact hd2.jobBeat.jobBeat

theorem runCompare {j fs res} (h : d.TablesCanonical) (eq : d.runCompare j fs = res) : res.1.TablesCanonical := by
  subst eq
  unfold Dev.runCompare
  split
  next d1 j1 snd eq =>
    have hd1 : d1.TablesCanonical := h.runSteps (fun h => h.compareStep rfl) eq
    exact ite_of Prod.fst hd1 hd1

theorem runChecksum {j fs res} (h : d.TablesCanonical) (eq : d.runChecksum j fs = res) : res.1.TablesCanonical := by
  subst eq
  unfold Dev.runChecksum
  extract_lets +onlyGivenNames x sm3
  refine h.gatherJob (fun h => ?_) (fun h => ?_) rfl
  · exact ite_of (fun x : Option (List Nat) × Dev.JobRun => x.2.1) h h
  · exact h

theorem runCable {j fs res} (h : d.TablesCanonical) (eq : d.runCable j fs = res) : res.1.TablesCanonical := by
  subst eq
  unfold Dev.runCable
  extract_lets +onlyGivenNames x w c
  refine ite_of Prod.fst h ?_
  refine ite_of Prod.fst (h.runMove rfl) ?_
  exact h.gatherJob (fun h => h) (fun h => h.finish rfl) rfl

theorem takeInst {j work res} (h : d.TablesCanonical) (eq : d.takeInst j work = res) :
    (devOf d (fun x : Nat × Dev × Job => x.2.1) res).TablesCanonical := by
  subst eq
  unfold Dev.takeInst
  split
  · exact h
  · split
    · exact h.setCmpBusy
    · exact h

theorem failOut {j status result res} (h : d.TablesCanonical) (eq : d.failOut j status result = res) : res.1.TablesCanonical := by
  subst eq
  unfold Dev.failOut
  exact h.scramble

theorem encodeBlocks {i mismatch j res} (h : d.TablesCanonical) (eq : Dev.encodeBlocks i mismatch d j = res) :
    res.2.1.TablesCanonical := by
  subst eq
  unfold Dev.encodeBlocks
  extract_lets +onlyGivenNames x bytes t
  refine h.foldl_of (fun x : Option (List Nat) × Dev.JobRun => x.2.1) fun h => ?_
  split
  · exact h
  · split
    · exact h.countEncode.failOut rfl
    · extract_lets +onlyGivenNames d1
      have hd1 : d1.TablesCanonical := h.countEncode
      refine ite_of (fun x : Option (List Nat) × Dev.JobRun => x.2.1) (hd1.checkFailed.failOut rfl) ?_
      dsimp only
      exact hd1

theorem runCompress {j mismatch fs res} (h : d.TablesCanonical) (eq : d.runCompress j mismatch fs = res) :
    res.1.TablesCanonical := by
  subst eq
  unfold Dev.runCompress
  extract_lets +onlyGivenNames x n size take
  refine ite_of Prod.fst h ?_
  refine ite_of Prod.fst h ?_
  refine ite_of Prod.fst h ?_
  split
  · exact h
  · next i d1 j1 eq =>
    have hd1 : d1.TablesCanonical := h.takeInst eq
    exact hd1.gatherJob (fun h => h.encodeBlocks rfl) (fun h => h) rfl

theorem decodeSlots {i j res} (h : d.TablesCanonical) (eq : Dev.decodeSlots i d j = res) : res.2.1.TablesCanonical := by
  subst eq
  unfold Dev.decodeSlots
  extract_lets +onlyGivenNames x t
  refine h.foldl_of (fun x : Option (List Nat) × Dev.JobRun => x.2.1) fun h => ?_
  split
  · exact h
  · extract_lets +onlyGivenNames d1
    have hd1 : d1.TablesCanonical := h.cmpCount.tally
    split
    · exact hd1.addSat.raise.failOut rfl
    · dsimp only
      exact hd1

theorem runDecompress {j fs res} (h : d.TablesCanonical) (eq : d.runDecompress j fs = res) : res.1.TablesCanonical := by
  subst eq
  unfold Dev.runDecompress
  extract_lets +onlyGivenNames x t size
  refine ite_of Prod.fst h ?_
  refine ite_of Prod.fst h ?_
  split
  · exact h
  · next i d1 j1 eq =>
    have hd1 : d1.TablesCanonical := h.takeInst eq
    exact hd1.gatherJob (fun h => h.decodeSlots rfl) (fun h => h) rfl

theorem unitStop {j rel src res} (h : d.TablesCanonical) (eq : d.unitStop j rel src = res) : res.1.TablesCanonical := by
  subst eq
  unfold Dev.unitStop
  exact (TablesCanonical.ite h.addSat h).raise.raise

theorem unitMove {s target id res} (h : d.TablesCanonical) (eq : d.unitMove s target id = res) :
    (devOf d (fun x => x) res).TablesCanonical := by
  subst eq
  unfold Dev.unitMove
  extract_lets +onlyGivenNames e w add
  refine ite_of (devOf d fun x => x) h ?_
  refine ite_of (devOf d fun x => x) ?_ ?_
  · refine ite_of (devOf d fun x => x) ?_ h
    exact h.modTier
  · refine ite_of (devOf d fun x => x) h ?_
    refine ite_of (devOf d fun x => x) ?_ ?_
    · exact ite_of (devOf d fun x => x) h.modTier h
    · refine ite_of (devOf d fun x => x) ?_ h
      exact h.modTier

theorem runMoves {j target res} (h : d.TablesCanonical) (eq : d.runMoves j target = res) : res.1.TablesCanonical := by
  subst eq
  unfold Dev.runMoves
  extract_lets +onlyGivenNames x n
  refine ite_of Prod.fst h (ite_of Prod.fst ?_ (ite_of Prod.fst h h))
  split
  · exact h.unitStop rfl
  · have moved {l : List Nat} : (l.foldl (fun acc s => match acc.1.unitMove s target j.id with
        | some d1 => (d1, acc.2 + 1)
        | none => acc) (d, 0)).1.TablesCanonical := by
      refine h.foldl_of Prod.fst fun h => ?_
      split
      · next d1 eq => exact TablesCanonical.unitMove h eq
      · exact h
    exact ite_of Prod.fst moved moved

theorem runPin {j on res} (h : d.TablesCanonical) (eq : d.runPin j on = res) : res.1.TablesCanonical := by
  subst eq
  unfold Dev.runPin
  extract_lets +onlyGivenNames x ld n
  refine ite_of Prod.fst h ?_
  extract_lets +onlyGivenNames rooms
  refine ite_of Prod.fst (h.unitStop rfl) ?_
  refine ite_of Prod.fst h ?_
  refine ite_of Prod.fst h ?_
  exact h.foldl fun h => h.roomBegin.roomEnd

theorem scrambleIf {j} (h : d.TablesCanonical) : (d.scrambleIf j).TablesCanonical := .ite h.scramble h

theorem runJob {opcodeOk zeroLen run id} (h : d.TablesCanonical)
    (hrun : ∀ {d x}, d.TablesCanonical → (run d x).1.TablesCanonical) :
    (Dev.runJob opcodeOk zeroLen run id d).TablesCanonical := by
  unfold Dev.runJob
  split
  · exact h
  · refine .ite h ?_
    extract_lets +onlyGivenNames
    split
    next d1 j1 go eq =>
      have hd1 : d1.TablesCanonical := by
        have ran := congrArg Prod.fst eq
        subst ran
        exact ite_of Prod.fst h.scrambleIf (ite_of Prod.fst h (hrun h))
      exact .ite hd1.freeInst.dropUser.forgetJob.putJob.after hd1.putJob.after

/-! ### The movers (Machine/Mover.lean) -/

theorem modMover {ch f} (h : d.TablesCanonical) : (d.modMover ch f).TablesCanonical := h.frame
theorem putChan {ch f v} (h : d.TablesCanonical) : (d.putChan ch f v).TablesCanonical := h.set
theorem startRound {ch} (h : d.TablesCanonical) : (d.startRound ch).TablesCanonical := h.modMover.putChan
theorem chTrigger {ch} (h : d.TablesCanonical) : (d.chTrigger ch).TablesCanonical :=
  .ite h (.ite h.startRound (.ite h.putChan h.putChan.raise))
theorem chOff {ch} (h : d.TablesCanonical) : (d.chOff ch).TablesCanonical := h.putChan.putChan
theorem chOn {ch} (h : d.TablesCanonical) : (d.chOn ch).TablesCanonical :=
  .ite h (.ite h.putChan.raise (h.foldl fun h => h.putChan).putChan)

theorem chCtl {v} (h : d.TablesCanonical) : (Dev.chCtl v d).TablesCanonical := by
  unfold Dev.chCtl
  extract_lets +onlyGivenNames ch put go
  have hgo : ∀ {d : Dev}, d.TablesCanonical → (go d).TablesCanonical := fun h => .ite h.chTrigger h
  refine .ite ?_ ?_
  · extract_lets +onlyGivenNames d1
    have hd1 : d1.TablesCanonical := h.putChan
    exact .ite (hgo hd1) hd1.chOff
  · extract_lets +onlyGivenNames d1
    have hd1 : d1.TablesCanonical := by
      exact h.foldl fun h => h.putChan
    exact .ite (hgo hd1.chOn) hd1

theorem timersTick (h : d.TablesCanonical) : d.timersTick.TablesCanonical := .ite h (h.foldl fun h => .ite h.set h)
theorem timersLoad {ts} (h : d.TablesCanonical) : (d.timersLoad ts).TablesCanonical := h.foldl fun h => .ite h.set h
theorem timerFire {t} (h : d.TablesCanonical) : (Dev.timerFire t d).TablesCanonical :=
  .ite (h.set.foldl fun h => h.chTrigger) h
theorem moversResume (h : d.TablesCanonical) : d.moversResume.TablesCanonical :=
  .ite h (h.foldl fun h => .ite h.putChan.startRound h)

theorem readDra {w dra view f res} (h : d.TablesCanonical) (eq : d.readDra w dra view f = res) : res.dev.TablesCanonical := by
  subst eq
  unfold Dev.readDra
  extract_lets +onlyGivenNames a
  refine ite_of (fun x : Got MovedLine => x.dev) h ?_
  split
  · exact h.chanWait
  · exact h.chanRefuse
  · split
    · next d1 eq => exact h.passOr eq
    · next d1 eq =>
      have hd1 : d1.TablesCanonical := h.passOr eq
      refine ite_of (fun x : Got MovedLine => x.dev) hd1.bursts ?_
      split
      next ok d2 eq =>
        have hd2 : d2.TablesCanonical := hd1.engineLine eq
        exact ite_of (fun x : Got MovedLine => x.dev) hd2 hd2

theorem writeDra {w dra data en poison f res} (h : d.TablesCanonical) (eq : d.writeDra w dra data en poison f = res) :
    res.dev.TablesCanonical := by
  subst eq
  unfold Dev.writeDra
  extract_lets +onlyGivenNames a
  split
  · exact h.chanWait
  · exact h
  · extract_lets +onlyGivenNames l full
    refine ite_of (fun x : Got Unit => x.dev) h ?_
    split
    · next d1 eq => exact h.passOr eq
    · next d1 eq =>
      have hd1 : d1.TablesCanonical := h.passOr eq
      extract_lets +onlyGivenNames put
      refine ite_of (fun x : Got Unit => x.dev) ?_ ?_
      · exact (TablesCanonical.ite hd1.putDevice.setSide hd1.putDevice).pushWqNew
      · split
        next ok d2 eq =>
          have hd2 : d2.TablesCanonical := hd1.engineLine eq
          extract_lets +onlyGivenNames old
          refine ite_of (fun x : Got Unit => x.dev) ?_ ?_
          · refine .raise ?_
            exact (TablesCanonical.ite hd2.putDevice.setSide hd2.putDevice).pushWqNew
          · exact (TablesCanonical.ite hd2.putDevice.setSide hd2.putDevice).pushWqNew

theorem chHalt {ch err addr} (h : d.TablesCanonical) : (d.chHalt ch err addr).TablesCanonical :=
  h.chOff.putChan.putChan.putChan.putChan.modMover.dropUser.raise

theorem chCheck {ch space addr need plain res} (h : d.TablesCanonical) (eq : d.chCheck ch space addr need plain = res) :
    res.1.TablesCanonical := by
  subst eq
  unfold Dev.chCheck
  extract_lets +onlyGivenNames m d1
  have hd1 : d1.TablesCanonical := .ite h.see h
  clear_value d1
  split
  · exact hd1
  · exact hd1.raise.chHalt
  · exact hd1.chHalt

theorem chWaits {ch snoop backing} (h : d.TablesCanonical) : (d.chWaits ch snoop backing).TablesCanonical :=
  h.modMover
theorem chPoison {ch addr} (h : d.TablesCanonical) : (d.chPoison ch addr).TablesCanonical :=
  .ite h h.modMover.putChan.raise

theorem chRead {ch space addr n view f res} (h : d.TablesCanonical) (eq : d.chRead ch space addr n view f = res) :
    res.2.dev.TablesCanonical := by
  subst eq
  unfold Dev.chRead
  split
  · next d1 eq => exact h.chCheck eq
  · next d1 eq =>
    have hd1 : d1.TablesCanonical := h.chCheck eq
    extract_lets +onlyGivenNames w
    have got : (if space = 0 then d1.readWindow w addr addr f else d1.readDra w addr view f).dev.TablesCanonical :=
      ite_of Got.dev (hd1.readWindow rfl) (hd1.readDra rfl)
    split
    · next bs po d2 eq =>
      rw [eq] at got
      exact (TablesCanonical.ite (TablesCanonical.jobHeat got) got).modMover
    · next d2 s b eq =>
      rw [eq] at got
      exact TablesCanonical.chWaits got
    · next d2 eq =>
      rw [eq] at got
      exact got

theorem chWrite {ch space addr bs f res} (h : d.TablesCanonical) (eq : d.chWrite ch space addr bs f = res) :
    res.dev.TablesCanonical := by
  subst eq
  unfold Dev.chWrite
  split
  · next d1 eq => exact h.chCheck eq
  · next d1 eq =>
    have hd1 : d1.TablesCanonical := h.chCheck eq
    extract_lets +onlyGivenNames w
    split
    next x en eqx =>
      have got : (if space = 0 then d1.writeWindow w addr addr x en (anyBad bs) f
          else d1.writeDra w addr x en (anyBad bs) f).dev.TablesCanonical :=
        ite_of Got.dev (hd1.writeWindow rfl) (hd1.writeDra rfl)
      split
      · next d2 eq =>
        rw [eq] at got
        exact (TablesCanonical.ite (TablesCanonical.jobHeat got) got).modMover
      · next d2 s b eq =>
        rw [eq] at got
        exact TablesCanonical.chWaits got
      · next d2 eq =>
        rw [eq] at got
        exact got

theorem chBeat {ch f res} (h : d.TablesCanonical) (eq : d.chBeat ch f = res) : res.dev.TablesCanonical := by
  subst eq
  unfold Dev.chBeat
  extract_lets +onlyGivenNames m w bytes view size
  refine ite_of (fun x : Dev.Beat => x.dev) h.modMover ?_
  extract_lets +onlyGivenNames reads
  split
  · split
    · next bs d1 eq =>
      have hd1 : d1.TablesCanonical := h.chRead eq
      exact (TablesCanonical.ite hd1.chPoison hd1).modMover
    · next fst b eq => exact h.chRead eq
  · extract_lets +onlyGivenNames out writes
    split
    · exact h.modMover
    · extract_lets +onlyGivenNames at'
      split
      · next d1 eq =>
        have hd1 : d1.TablesCanonical := h.chWrite eq
        exact hd1.modMover
      · exact h.chWrite rfl

theorem takeEngine {ev ch} (h : d.TablesCanonical) : (d.takeEngine ev ch).TablesCanonical :=
  (TablesCanonical.ite h.putChan.tally h).frame.putChan.tally

theorem serve {ev f l} (h : d.TablesCanonical) : (Dev.serve ev f l d).TablesCanonical := by
  induction l generalizing d with
  | nil => exact h
  | cons ch rest ih =>
    rw [Dev.serve]
    have beat := h.chBeat (ch := ch) (f := f) rfl
    split
    · next d1 eq =>
      rw [eq] at beat
      exact TablesCanonical.takeEngine beat
    · next d1 eq =>
      rw [eq] at beat
      exact beat
    · next d1 eq =>
      rw [eq] at beat
      exact ih beat

theorem moverBeat {ev f} (h : d.TablesCanonical) : (Dev.moverBeat ev f d).TablesCanonical := .ite h h.serve.after

theorem roundDone {ch} (h : d.TablesCanonical) : (d.roundDone ch).TablesCanonical := by
  unfold Dev.roundDone
  extract_lets +onlyGivenNames n src dst d1 cnt d2 w d3 d4 rounds
  have hd1 : d1.TablesCanonical := h.putChan.putChan
  have hd4 : d4.TablesCanonical := hd1.putChan.putChan.modMover.dropUser.putChan.latch.tally
  exact .ite hd4.chOff (.ite hd4.putChan.startRound hd4)

theorem readBack {ch f} (h : d.TablesCanonical) : (Dev.readBack ch f d).TablesCanonical := by
  unfold Dev.readBack
  extract_lets +onlyGivenNames m id
  refine .ite h ?_
  split
  · exact h.roundDone
  · next last a eq =>
    have read : (d.chRead ch (d.chReg ch F.DMV_CH_CTL_DST_SPACE) a 0 false f).2.dev.TablesCanonical := h.chRead rfl
    split
    · next bs d1 eq =>
      rw [eq] at read
      exact TablesCanonical.after (TablesCanonical.roundDone read)
    · next o d1 eq =>
      rw [eq] at read
      exact TablesCanonical.after read
    · next o d1 eq =>
      rw [eq] at read
      exact TablesCanonical.after read
    · next o d1 eq =>
      rw [eq] at read
      exact TablesCanonical.after read

theorem moverEvent {ch} (h : d.TablesCanonical) : (d.moverEvent ch).TablesCanonical :=
  .ite h.set.setPageBits (h.set.setPageBits.foldl fun h => h.chTrigger)
theorem frogChan {ch} (h : d.TablesCanonical) : (d.frogChan ch).TablesCanonical :=
  h.chOff.putChan.putChan.modMover.dropUser

/-! ### DDR commands (Machine/Ddr.lean) -/

theorem noteMandatory {l k} (h : d.TablesCanonical) : (d.noteMandatory l k).TablesCanonical := h.modSub
theorem keepCmd {l c} (h : d.TablesCanonical) : (d.keepCmd l c).TablesCanonical := .ite h.modSub.modChan h.modSub
theorem touchRow {l b row} (h : d.TablesCanonical) : (d.touchRow l b row).TablesCanonical := h.modSub
theorem closeRow {l b} (h : d.TablesCanonical) : (d.closeRow l b).TablesCanonical := h.modSub
theorem openRow {l b row} (h : d.TablesCanonical) : (d.openRow l b row).TablesCanonical := h.modSub.keepCmd.dcTally
theorem wqReleased {l} (h : d.TablesCanonical) : (d.wqReleased l).TablesCanonical :=
  h.foldl fun h => .ite h h.retryWrite

theorem issueCand {l c} (h : d.TablesCanonical) : (d.issueCand l c).TablesCanonical := by
  unfold Dev.issueCand
  split
  extract_lets +onlyGivenNames open'
  split
  · refine .ite ?_ (.ite h.closeRow.keepCmd h.openRow)
    extract_lets +onlyGivenNames lines d0 d1 d2
    have hd2 : d2.TablesCanonical := (TablesCanonical.ite h.dcTally h).modSub.putReq.bursts
    exact .ite hd2 hd2.touchRow.keepCmd.dcTally
  · refine .ite ?_ (.ite h.closeRow.keepCmd h.openRow)
    exact (TablesCanonical.ite h.dcTally h).modSub.touchRow.keepCmd.bursts.dcTally.wqReleased
  · exact .ite (h.foldl fun h => h.modSub).keepCmd (TablesCanonical.ite h.dcTally h).keepCmd.modSub.noteMandatory.dcTally

theorem haltedAnswers {c} (h : d.TablesCanonical) : (d.haltedAnswers c).TablesCanonical :=
  .ite h (h.foldl fun h => h.refuse).modChan
theorem failedAnswers {l} (h : d.TablesCanonical) : (d.failedAnswers l).TablesCanonical :=
  .ite h (h.modSub.foldl fun h => h.failedRank.refuse)

theorem commandSlot {c sub t} (h : d.TablesCanonical) : (Dev.commandSlot c sub t d).TablesCanonical := by
  unfold Dev.commandSlot
  refine h.when fun h => ?_
  extract_lets +onlyGivenNames l
  refine .ite h ?_
  refine .ite h.haltedAnswers.after ?_
  extract_lets +onlyGivenNames d0 d1
  have hd0 : d0.TablesCanonical := h.failedAnswers
  have hd1 : d1.TablesCanonical := .ite hd0.modSub hd0
  split
  · exact hd1.issueCand.after
  · exact hd1

theorem idleClose {c sub bank} (h : d.TablesCanonical) : (Dev.idleClose c sub bank d).TablesCanonical := by
  unfold Dev.idleClose
  refine h.when fun h => ?_
  extract_lets +onlyGivenNames l
  split
  · exact h
  · exact .ite h h.modSub.keepCmd

theorem refreshInterval {c sub rank} (h : d.TablesCanonical) : (Dev.refreshInterval c sub rank d).TablesCanonical :=
  h.when fun h => .ite h.modSub h.modSub.noteMandatory
theorem oscRead {c sub rank count} (h : d.TablesCanonical) : (Dev.oscRead c sub rank count d).TablesCanonical :=
  h.when fun h => h.modChan
theorem zqCal {c sub rank} (h : d.TablesCanonical) : (Dev.zqCal c sub rank d).TablesCanonical :=
  h.when fun h => h.modChan
theorem checkLine {dra acc f} (h : d.TablesCanonical) : (d.checkLine dra acc f).TablesCanonical := h.engineLine rfl

theorem scrubLine {c f} (h : d.TablesCanonical) : (d.scrubLine c f).TablesCanonical := by
  unfold Dev.scrubLine
  extract_lets +onlyGivenNames p sa sub dra d1
  have hd1 : d1.TablesCanonical := .ite h h.checkLine
  exact .ite hd1.set (.ite hd1.set.set hd1.set.set.set.raise)

theorem scrub {c fs} (h : d.TablesCanonical) : (Dev.scrub c fs d).TablesCanonical :=
  h.when fun h => (h.foldl fun h => h.scrubLine).after
theorem modSubs {c f} (h : d.TablesCanonical) : (d.modSubs c f).TablesCanonical := h.modChan
theorem haltChan {c} (h : d.TablesCanonical) : (d.haltChan c).TablesCanonical :=
  h.modSubs.modChan.setFlag.setFlag.raise.refreshPlan.haltedAnswers.after
theorem replayEnded {c} (h : d.TablesCanonical) : (d.replayEnded c).TablesCanonical := .ite h.haltChan h.modChan

theorem ddrAlert {c} (h : d.TablesCanonical) : (Dev.ddrAlert c d).TablesCanonical := by
  unfold Dev.ddrAlert
  refine h.when fun h => ?_
  extract_lets +onlyGivenNames running d1 d2
  have hd2 : d2.TablesCanonical := .ite h.modChan.replayEnded h.modChan
  exact .ite hd2 hd2.modSubs.setFlag.dcTally.tally

theorem replayDone {c sub} (h : d.TablesCanonical) : (Dev.replayDone c sub d).TablesCanonical :=
  .ite h (.ite h.modSub.addSat.raise h.modSub.addSat.raise.setFlag.replayEnded)
theorem restart {c} (h : d.TablesCanonical) : (Dev.restart c d).TablesCanonical :=
  h.when fun h => (h.foldl fun h => h.putReq).modChan.setFlag.refreshPlan.after
theorem pprStart {c v} (h : d.TablesCanonical) : (Dev.pprStart c v d).TablesCanonical :=
  .ite h.store h.store.setFlag.setFlag.modChan
theorem pprDone {c ok} (h : d.TablesCanonical) : (Dev.pprDone c ok d).TablesCanonical :=
  h.when fun h => h.setFlag.setFlag.setFlag.modChan.raise
theorem spareFields {c v} (h : d.TablesCanonical) : (d.spareFields c v).TablesCanonical :=
  .ite (.ite h.setFlag h) (TablesCanonical.ite h.setFlag h).store
theorem spareGo {c sa} (h : d.TablesCanonical) : (d.spareGo c sa).TablesCanonical := h.setFlag.setFlag.set.modChan
theorem rankSpare {c v} (h : d.TablesCanonical) : (Dev.rankSpare c v d).TablesCanonical :=
  .ite h.spareFields (.ite h.spareFields.setFlag h.spareFields.spareGo)
theorem chanSpare {c v} (h : d.TablesCanonical) : (Dev.chanSpare c v d).TablesCanonical :=
  .ite h.spareFields (.ite h.spareFields.setFlag h.spareFields.spareGo)
theorem spareEnd {c} (h : d.TablesCanonical) : (d.spareEnd c).TablesCanonical :=
  .ite h.setFlag.setFlag.raise.set.setFlag.refreshPlan h.setFlag.setFlag.raise.set.set.setFlag

theorem spareLine {c f} (h : d.TablesCanonical) : (Dev.spareLine c f d).TablesCanonical := by
  unfold Dev.spareLine
  refine h.when fun h => ?_
  extract_lets +onlyGivenNames p sa b l dra last pass
  have hpass : ∀ {d : Dev}, d.TablesCanonical → (pass d).TablesCanonical := fun h =>
    .ite (TablesCanonical.ite h.modChan.set h.modChan).spareEnd (.ite h.modChan.set h.modChan)
  exact .ite (hpass h) (.ite h (hpass h.checkLine.pushWqNew.modChan))

theorem ilvEnable {v} (h : d.TablesCanonical) : (Dev.ilvEnable v d).TablesCanonical := by
  unfold Dev.ilvEnable
  extract_lets +onlyGivenNames p
  refine .ite (.ite h.setFlag h) ?_
  extract_lets +onlyGivenNames d1 d2
  have hd2 : d2.TablesCanonical := .ite h.store.setFlag h.store
  exact .ite hd2 (.ite (hd2.setFlag.setFlag.foldl fun h => .ite h h.setAbsent) hd2.setFlag)

theorem chspareWrite {v} (h : d.TablesCanonical) : (Dev.chspareWrite v d).TablesCanonical :=
  .ite h h.set.setFlag.refreshPlan
theorem retireCmds {c} (h : d.TablesCanonical) : (d.retireCmds c).TablesCanonical := .ite h h.modChan
theorem deliverHeld (h : d.TablesCanonical) : d.deliverHeld.TablesCanonical :=
  h.foldl fun h => .ite (.ite h.enterChannel h) (.ite h.resume h)
theorem dcBoundary (h : d.TablesCanonical) : d.dcBoundary.TablesCanonical :=
  (h.foldl fun h => .ite h.retireCmds.setFlag.refreshPlan h).deliverHeld

/-! ### Yarn links (Machine/Yarn.lean) -/

theorem onLink {l f} (h : d.TablesCanonical) (hf : ∀ {d}, d.TablesCanonical → (f d).TablesCanonical) :
    (Dev.onLink l f d).TablesCanonical :=
  h.when hf
theorem rxNop {l ack} (h : d.TablesCanonical) : (Dev.rxNop l ack d).TablesCanonical :=
  h.onLink fun h => h.when fun h => h.modLnk.takeAck.pump

theorem rxNak {l seq ack} (h : d.TablesCanonical) : (Dev.rxNak l seq ack d).TablesCanonical := by
  unfold Dev.rxNak
  refine h.onLink fun h => ?_
  exact h.when fun h => .ite h.modLnk.linkCount.takeAck.ackPacket.replay.syncLink.pump h.modLnk.linkCount.takeAck.pump

theorem rxBad {l why} (h : d.TablesCanonical) : (Dev.rxBad l why d).TablesCanonical := by
  unfold Dev.rxBad
  refine h.onLink fun h => ?_
  refine h.when fun h => ?_
  split
  · exact h.rxError
  · exact h.rxError
  · exact h.rxError
  · exact h.tagFailure
  · exact h.modLnk.nakDue
  · exact h.modLnk

theorem ackDue {l} (h : d.TablesCanonical) : (Dev.ackDue l d).TablesCanonical :=
  h.onLink fun h => h.when fun h => h.sendNop

theorem replayTimeout {l} (h : d.TablesCanonical) : (Dev.replayTimeout l d).TablesCanonical := by
  unfold Dev.replayTimeout
  refine h.onLink fun h => ?_
  refine h.when fun h => ?_
  split
  · exact h
  · exact h.replay.syncLink

theorem detectTimer {l} (h : d.TablesCanonical) : (Dev.detectTimer l d).TablesCanonical :=
  h.onLink fun h => h.when fun h => h.enterDetect

theorem ts1 {l retrain p} (h : d.TablesCanonical) : (Dev.ts1 l retrain p d).TablesCanonical := by
  unfold Dev.ts1
  refine h.onLink fun h => ?_
  extract_lets +onlyGivenNames keep
  have hkeep : ∀ {d : Dev}, d.TablesCanonical → (keep d).TablesCanonical := fun h => h.modLnk
  split
  · exact hkeep h.enterDetect
  · exact hkeep h.lset
  · exact hkeep h
  · exact .ite (hkeep h.enterRetrain).modLnk h
  · exact (hkeep h).modLnk
  · exact .ite (hkeep h.enterRetrain) h.modLnk

theorem ts2 {l p} (h : d.TablesCanonical) : (Dev.ts2 l p d).TablesCanonical := by
  unfold Dev.ts2
  refine h.onLink fun h => ?_
  split
  · exact h
  · split
    · exact h.enterActive.emit
    · exact h.emit.endRetrain
    · exact h

theorem trainTimeout {l} (h : d.TablesCanonical) : (Dev.trainTimeout l d).TablesCanonical :=
  h.onLink fun h => h.when fun h => h.enterDown
theorem silenceTimeout {l} (h : d.TablesCanonical) : (Dev.silenceTimeout l d).TablesCanonical :=
  h.onLink fun h => h.when fun h => h.enterRetrain
theorem lossOfLock {l lane} (h : d.TablesCanonical) : (Dev.lossOfLock l lane d).TablesCanonical :=
  h.onLink fun h => h.when fun h => h.modLnk.enterRetrain
theorem dozeEntry {l powerRequest} (h : d.TablesCanonical) : (Dev.dozeEntry l powerRequest d).TablesCanonical :=
  h.onLink fun h => h.when fun h => h.lset.modLnk
theorem wakeReceived {l} (h : d.TablesCanonical) : (Dev.wakeReceived l d).TablesCanonical :=
  h.onLink fun h => h.when fun h => h.modLnk.latch
theorem dozeResync {l ok} (h : d.TablesCanonical) : (Dev.dozeResync l ok d).TablesCanonical :=
  h.onLink fun h => h.when fun h => .ite h.endDoze h.enterRetrain
theorem linkDomainOn {k} (h : d.TablesCanonical) : (d.linkDomainOn k).TablesCanonical :=
  h.foldl fun h => h.resetPage.modLnk
theorem domainPower {k on} (h : d.TablesCanonical) : (Dev.domainPower k on d).TablesCanonical :=
  h.when fun h => .ite h.setDom.linkDomainOn.frame (h.foldl fun h => h.linkDomainOff).setDom.frame

theorem linkControl {l v} (h : d.TablesCanonical) : (Dev.linkControl l v d).TablesCanonical := by
  unfold Dev.linkControl
  split
  · exact h.when fun h => h.enterRetrain
  · exact h.when fun h => h.enterDown

/-! ### The NOC (Machine/Noc.lean) -/

theorem modNoc {f} (h : d.TablesCanonical) : (d.modNoc f).TablesCanonical := h.frame
theorem nocSwap (h : d.TablesCanonical) : d.nocSwap.TablesCanonical :=
  .ite h (.ite h.setFlag.set h.setFlag.set.set.setFlag.set.modNoc)
theorem nocDrained (h : d.TablesCanonical) : d.nocDrained.TablesCanonical :=
  h.when fun h => h.setFlag.set.modNoc.raise
theorem writeRtEnt {v} (h : d.TablesCanonical) : (d.writeRtEnt v).TablesCanonical := .ite h h.modNoc
theorem rtCommand {f} (h : d.TablesCanonical) : (Dev.rtCommand f d).TablesCanonical := h.when fun h => h.modNoc
theorem planeWrite {v} (h : d.TablesCanonical) : (Dev.planeWrite v d).TablesCanonical := .ite h h.store
theorem planeFault {net plane errors} (h : d.TablesCanonical) : (Dev.planeFault net plane errors d).TablesCanonical :=
  h.when fun h => h.raise

theorem losePacket {id} (h : d.TablesCanonical) : (d.losePacket id).TablesCanonical := by
  unfold Dev.losePacket
  split
  · exact h
  · split
    · exact h.putReq.modSub
    · exact h.putReq.modSub
    · exact h.putReq.modSub
    · exact h.putReq.modSub
    · exact h.putReq.modSub
    · exact h.putReq.modSub
    · exact h.putReq.modSub
    · exact h

theorem headerError {router port kind request} (h : d.TablesCanonical) :
    (Dev.headerError router port kind request d).TablesCanonical := by
  unfold Dev.headerError
  refine h.when fun h => ?_
  split
  · exact h.addSat.raise
  · extract_lets +onlyGivenNames d1
    split
    · exact h.raise.losePacket.after
    · exact h.raise

theorem wakeTimeout {id} (h : d.TablesCanonical) : (Dev.wakeTimeout id d).TablesCanonical := by
  unfold Dev.wakeTimeout
  split
  · exact h
  · exact .ite h h.raise.refuse.after

theorem domainReady {k} (h : d.TablesCanonical) : (Dev.domainReady k d).TablesCanonical :=
  h.when fun h => (TablesCanonical.ite h h.linkDomainOn).frame.deliverHeld.after
theorem trimmedWake {k} (h : d.TablesCanonical) : (Dev.trimmedWake k d).TablesCanonical :=
  h.when fun h => h.setDom.set

/-! ### Reknit (Machine/Reknit.lean) -/

theorem modCry {f} (h : d.TablesCanonical) : (d.modCry f).TablesCanonical := h.modMem
theorem reknitRequest (h : d.TablesCanonical) : d.reknitRequest.TablesCanonical := .ite h.setFlag h.set.modCry.draw
theorem reknitActivate (h : d.TablesCanonical) : d.reknitActivate.TablesCanonical :=
  h.when fun h => h.setFlag.set.set.set.modCry

theorem knitLine {dra tier knit addr owner f res} (h : d.TablesCanonical)
    (eq : d.knitLine dra tier knit addr owner f = res) : res.2.TablesCanonical := by
  subst eq
  unfold Dev.knitLine
  extract_lets +onlyGivenNames l genOk
  split
  next v d1 eq =>
    have hd1 : d1.TablesCanonical := h.verdict eq
    exact (TablesCanonical.ite hd1.writeBytes hd1.verdictEvent).setSide.pushWqNew

theorem reknitFail {addr owner} (h : d.TablesCanonical) : (d.reknitFail addr owner).TablesCanonical := h.raise

theorem knitStruct {f} (h : d.TablesCanonical) : (d.knitStruct f).TablesCanonical := by
  unfold Dev.knitStruct
  split
  · exact h.set.set
  · exact (TablesCanonical.ite (h.knitLine rfl).reknitFail (h.knitLine rfl)).set.modCry

theorem knitTo {k} (h : d.TablesCanonical) : (d.knitTo k).TablesCanonical := by
  unfold Dev.knitTo
  extract_lets +onlyGivenNames old s bit e _ d1 _ d2
  have hd1 : d1.TablesCanonical := .ite (.ite h h.setPageEntry) h
  exact (TablesCanonical.ite hd1.putEntry hd1).set.setFlag.setFlag

theorem knitSkip {s k} (h : d.TablesCanonical) : (d.knitSkip s k).TablesCanonical :=
  (TablesCanonical.ite h h.raise.modCry).knitTo

theorem knitCart {s n p next} (h : d.TablesCanonical) : (d.knitCart s n p next).TablesCanonical := by
  unfold Dev.knitCart
  extract_lets +onlyGivenNames wait c fetch
  have hwait : ∀ {d : Dev}, d.TablesCanonical → (wait d).TablesCanonical := fun h => h.setFlag
  refine .ite ?_ ?_
  · extract_lets +onlyGivenNames d1
    have hd1 : d1.TablesCanonical := by
      unfold d1
      clear_value fetch
      split
      · exact h.dropFetch
      · exact h
    exact hd1.modCry.knitTo
  · refine .ite (hwait h) ?_
    refine .ite ?_ ?_
    · extract_lets +onlyGivenNames d1
      have hd1 : d1.TablesCanonical := by
        unfold d1
        clear_value fetch
        split
        · exact h.dropFetch
        · exact h
      exact hd1.modCry.knitSkip
    · refine .ite h ?_
      refine .ite ?_ ?_
      · refine .ite h ?_
        extract_lets +onlyGivenNames d1
        have hd1 : d1.TablesCanonical := by
          unfold d1
          clear_value fetch
          split
          · exact h.dropFetch
          · exact h
        exact hd1.newFetch.modCry
      · clear_value fetch
        split
        · exact .ite h h.modCart.modCry
        · exact h

theorem knitWindow {f} (h : d.TablesCanonical) : (d.knitWindow f).TablesCanonical := by
  unfold Dev.knitWindow
  extract_lets +onlyGivenNames k s n e nextPage nextSkein wait count
  refine .ite h.modCry ?_
  refine .ite h.knitTo ?_
  refine .ite h.knitTo ?_
  refine .ite h.setFlag ?_
  extract_lets +onlyGivenNames pe
  refine .ite h.knitTo ?_
  refine .ite h.setFlag ?_
  extract_lets +onlyGivenNames p
  refine .ite h.knitCart ?_
  refine .ite ?_ ?_
  · split
    · exact h.knitTo
    · extract_lets +onlyGivenNames a
      split
      next bad d1 eq =>
        have hd1 : d1.TablesCanonical := h.knitLine eq
        extract_lets +onlyGivenNames d2
        refine .knitTo ?_
        exact (TablesCanonical.ite hd1.reknitFail hd1).modCry
  · refine .ite ?_ h.knitTo
    extract_lets +onlyGivenNames b dra
    refine .ite h.knitTo ?_
    split
    next bad d1 eq =>
      have hd1 : d1.TablesCanonical := h.knitLine eq
      extract_lets +onlyGivenNames d2 _ d3
      have hd2 : d2.TablesCanonical := .ite hd1 (hd1.knitLine rfl)
      refine .knitTo ?_
      exact (TablesCanonical.ite (TablesCanonical.ite hd2 hd2.writeBytes.setSide).reknitFail hd2).modCry

theorem reknitItem {f} (h : d.TablesCanonical) : (Dev.reknitItem f d).TablesCanonical :=
  h.when fun h => (TablesCanonical.ite h.knitWindow h.knitStruct).after
theorem reknitEnd (h : d.TablesCanonical) : d.reknitEnd.TablesCanonical :=
  h.when fun h => h.set.setFlag.set.set.set.set.modCry.raise

/-! ### Frogs (Machine/Frog.lean) -/

theorem unqueue {r} (h : d.TablesCanonical) : (d.unqueue r).TablesCanonical := by
  unfold Dev.unqueue
  extract_lets +onlyGivenNames d1
  have hd1 : d1.TablesCanonical := by
    unfold d1
    split
    · exact h.setCmpBusy
    · exact h
  exact hd1.modSub

theorem frogRequest {r} (h : d.TablesCanonical) : (d.frogRequest r).TablesCanonical := .ite h h.unqueue.refuse
theorem frogLd {n} (h : d.TablesCanonical) : (d.frogLd n).TablesCanonical :=
  (h.foldl fun h => h.frogRequest).frame.foldl fun h => h.frogPair
theorem detachPort {n} (h : d.TablesCanonical) : (d.detachPort n).TablesCanonical :=
  (TablesCanonical.ite h.modCart.syncTxn.modCry h.modCart.syncTxn).failAll
theorem frogPort {n} (h : d.TablesCanonical) : (d.frogPort n).TablesCanonical :=
  (h.settleAll.foldl fun h => h.larderEnd).modTier.modCart
theorem frogCmp {i} (h : d.TablesCanonical) : (d.frogCmp i).TablesCanonical :=
  ((h.setCmpBusy.foldl fun h => h.putReq).foldl fun h => h.scramble.putJob).assignEncoders

theorem frogAt {a} (h : d.TablesCanonical) : (d.frogAt a).TablesCanonical := by
  unfold Dev.frogAt
  split
  · exact h.stopFetch
  · exact h
  · split
    · exact h.failMig
    · exact h
  · split
    · exact h.frame
    · exact h.frame
    · exact h.detachPort
    · exact h.foldl fun h => h.stopFetch
    · exact h.failAll
    · exact h

theorem frogDone {a} (h : d.TablesCanonical) : (d.frogDone a).TablesCanonical := by
  unfold Dev.frogDone
  split
  · exact h.frogPair
  · exact h.frogChan
  · split
    · exact h.settleMig.set
    · exact h.set
  · split
    · exact h.foldl fun h => h.frogLd
    · exact h.foldl fun h => h.frogLd
    · exact h.frogPort
    · exact h.frogCmp
    · exact h.foldl fun h => h.frogPair
    · exact h.foldl fun h => h.frogChan
    · exact h.settleAll
    · exact h

theorem frogReport {f} (h : d.TablesCanonical) : (d.frogReport f).TablesCanonical := by
  unfold Dev.frogReport
  extract_lets +onlyGivenNames d1
  have hd1 : d1.TablesCanonical := by
    unfold d1
    split
    · exact h.setFlag.setFlag.setFlag.set
    · exact h
  split
  · exact hd1.emit
  · exact hd1

theorem frogEnd {f} (h : d.TablesCanonical) : (d.frogEnd f).TablesCanonical :=
  ((h.frogDone.foldl fun h => h.frogDone).foldl fun h => h.frogReport).frame.after
theorem frogAccept (h : d.TablesCanonical) : d.frogAccept.TablesCanonical :=
  (h.frame.foldl fun h => h.frogAt).foldl fun h => .ite h.frogEnd h
theorem frogForce (h : d.TablesCanonical) : d.frogForce.TablesCanonical := h.foldl fun h => .ite h.frogEnd h

theorem frogComplete {id} (h : d.TablesCanonical) : (Dev.frogComplete id d).TablesCanonical := by
  unfold Dev.frogComplete
  split
  · exact h
  · exact .ite h h.frogEnd

/-! ### The Gauge (Machine/Gauge.lean) -/

theorem recordCheck {b} (h : d.TablesCanonical) : (d.recordCheck b).TablesCanonical := by
  unfold Dev.recordCheck
  split
  extract_lets +onlyGivenNames p d1 d2
  have hd1 : d1.TablesCanonical := h.setFlag.setFlag.set.set.set.modGau
  have hd2 : d2.TablesCanonical := .ite hd1.set hd1
  exact .ite hd2.setFlag.modGau hd2

theorem commitGo (h : d.TablesCanonical) : d.commitGo.TablesCanonical := h.when fun h => h.setFlag.setFlag.modGau

theorem checkDone (h : d.TablesCanonical) : d.checkDone.TablesCanonical := by
  unfold Dev.checkDone
  split
  · exact h.recordCheck
  · exact h

theorem setScales {sp sk sc hOver} (h : d.TablesCanonical) : (d.setScales sp sk sc hOver).TablesCanonical := by
  unfold Dev.setScales
  extract_lets +onlyGivenNames p d1 d2
  have hd1 : d1.TablesCanonical := h.set.set.set.setFlag
  have hd2 : d2.TablesCanonical := .ite hd1 hd1.raise
  exact .ite hd2.raise hd2

theorem rescale (h : d.TablesCanonical) : d.rescale.TablesCanonical := h.set.setScales
theorem setInForce {b} (h : d.TablesCanonical) : (d.setInForce b).TablesCanonical :=
  .ite h.modGau.set.set.set.set.set.setFlag.set.raise h.modGau.set.set.set.set.set.setFlag.set.raise.setScales

theorem judge (h : d.TablesCanonical) : d.judge.TablesCanonical := by
  unfold Dev.judge
  extract_lets +onlyGivenNames p ms d1 d2 pairs d3
  exact ((TablesCanonical.ite (h.set.set.foldl fun h => h.latch) h.set.set).resetBank.foldl fun h =>
    h.set.set.setFlag).foldl fun h => h.modLd

theorem bandwidth (h : d.TablesCanonical) : d.bandwidth.TablesCanonical := by
  unfold Dev.bandwidth
  extract_lets +onlyGivenNames part d1 d2 off _ d3
  have hd2 : d2.TablesCanonical := by
    exact (h.foldl fun h => .ite h h.set.set.set.set.setFlag).foldl fun h => .ite h h.set.set.set.set.set.setFlag
  exact .ite hd2.frame.latch hd2.frame

theorem readMr4 {rs} (h : d.TablesCanonical) : (d.readMr4 rs).TablesCanonical :=
  h.foldl fun h => .ite h.set.setFlag.refreshPlan h
theorem freshWindow (h : d.TablesCanonical) : d.freshWindow.TablesCanonical := h.frameStore

theorem newWindow (h : d.TablesCanonical) : d.newWindow.TablesCanonical := by
  unfold Dev.newWindow
  extract_lets +onlyGivenNames d1 d2
  have hd1 : d1.TablesCanonical := h.freshWindow
  have hd2 : d2.TablesCanonical := by
    unfold d2
    split
    · exact .ite hd1.setInForce hd1
    · exact hd1
  exact .ite hd2.rescale.modGau hd2

theorem windowEnd {mr4} (h : d.TablesCanonical) : (Dev.windowEnd mr4 d).TablesCanonical :=
  h.when fun h => h.judge.set.bandwidth.newWindow.set.readMr4

theorem poolPass {l} (h : d.TablesCanonical) : (d.poolPass l).TablesCanonical := by
  unfold Dev.poolPass
  extract_lets +onlyGivenNames ws
  refine .ite h ?_
  extract_lets +onlyGivenNames pool d0
  refine h.setAllow.setAllow.setAllow.setAllow.foldl_of Prod.snd fun h => ?_
  split
  · exact h
  · extract_lets +onlyGivenNames c
    refine ite_of Prod.snd h ?_
    split
    · exact h
    · next d1 eq =>
      have hd1 : d1.TablesCanonical := h.setAllow.tryPass eq
      extract_lets +onlyGivenNames left d2
      split
      · exact hd1.setAllow.flow
      · exact hd1.setAllow

theorem gaugePool (h : d.TablesCanonical) : d.gaugePool.TablesCanonical := h.foldl fun h => h.poolPass
theorem gaugeBoundary {complete} (h : d.TablesCanonical) : (d.gaugeBoundary complete).TablesCanonical :=
  .ite h.setPlan (.ite h.setPlan (.ite h.setPlan.addSat.tally h.setPlan.addSat.tally.modGau.raise))

/-! ### Power (Machine/Power.lean) -/

theorem modPwr {f} (h : d.TablesCanonical) : (d.modPwr f).TablesCanonical := h.frame
theorem syncGo (h : d.TablesCanonical) : d.syncGo.TablesCanonical := h.setFlag
theorem endTransition (h : d.TablesCanonical) : d.endTransition.TablesCanonical := h.setFlag.setFlag.set.modPwr.syncGo
theorem cancelTransition (h : d.TablesCanonical) : d.cancelTransition.TablesCanonical :=
  h.endTransition.setFlag.setPageBits.latch
theorem powerRequest {v after} (h : d.TablesCanonical) : (Dev.powerRequest v after d).TablesCanonical :=
  .ite h.set (.ite h.set.setFlag.cancelTransition h.set.setFlag.modPwr.syncGo)

theorem transitionStart (h : d.TablesCanonical) : d.transitionStart.TablesCanonical := by
  unfold Dev.transitionStart
  refine .ite h ?_
  extract_lets +onlyGivenNames t why d1
  have hd1 : d1.TablesCanonical := h.setFlag.set
  refine .ite hd1.syncGo.raise ?_
  exact .ite (hd1.setFlag.setFlag.set.modPwr.syncGo.foldl fun h => .ite h.emit h) hd1.setFlag.setFlag.set.modPwr.syncGo

theorem powerCommit (h : d.TablesCanonical) : d.powerCommit.TablesCanonical := .ite h.setFlag.modPwr h
theorem wakeDispatch {ev} (h : d.TablesCanonical) : (d.wakeDispatch ev).TablesCanonical :=
  .ite (.ite h.cancelTransition h.modPwr.setPageBits) (.ite h.modPwr.setPageBits h)
theorem setReady {ks on} (h : d.TablesCanonical) : (d.setReady ks on).TablesCanonical := h.modPwr
theorem exitHush {src sn} (h : d.TablesCanonical) : (d.exitHush src sn).TablesCanonical :=
  h.frame.setReady.set.set.modPwr.foldl fun h => .ite h.modLnk.emit h
theorem selfRefresh {c} (h : d.TablesCanonical) : (d.selfRefresh c).TablesCanonical := h.modChan
theorem heldWake (h : d.TablesCanonical) : d.heldWake.TablesCanonical := .ite h.frameStore.latch.tally h.frameStore

theorem hushEntry (h : d.TablesCanonical) : d.hushEntry.TablesCanonical := by
  unfold Dev.hushEntry
  refine h.when fun h => ?_
  extract_lets +onlyGivenNames later d1 d2 _ d3 d4 ws _ d5
  have hd2 : d2.TablesCanonical := (h.foldl fun h => .ite h.selfRefresh h).foldl fun h => .ite h.lset.modLnk h
  have hd4 : d4.TablesCanonical := hd2.frame.setReady.set.set.endTransition.heldWake
  clear_value later
  split
  · exact hd4.frame.exitHush
  · exact hd4.frame.exitHush
  · exact hd4.frame

theorem hushWake {src} (h : d.TablesCanonical) : (Dev.hushWake src d).TablesCanonical := by
  unfold Dev.hushWake
  refine h.when fun h => ?_
  split
  · exact h
  · exact h.exitHush

theorem hushExit (h : d.TablesCanonical) : d.hushExit.TablesCanonical :=
  h.when fun h => (h.foldl fun h => .ite h.modChan h).setReady.set.modPwr.set.latch.deliverHeld.after

theorem resetKeep {p} (h : d.TablesCanonical) : (d.resetKeep p).TablesCanonical := by
  unfold Dev.resetKeep
  split
  · exact h.resetPage.set
  · exact h.resetPage

theorem domainOff {k} (h : d.TablesCanonical) : (d.domainOff k).TablesCanonical := by
  unfold Dev.domainOff
  refine .ite h ?_
  extract_lets +onlyGivenNames d0 d1
  have hd1 : d1.TablesCanonical := ((h.foldl fun h => h.linkDomainOff).foldl fun h => h.resetKeep).setDom.setReady
  exact .ite hd1.modChan hd1

theorem domainOn {k} (h : d.TablesCanonical) : (d.domainOn k).TablesCanonical := .ite h h.setDom.linkDomainOn.setReady
theorem trimEntry (h : d.TablesCanonical) : d.trimEntry.TablesCanonical :=
  h.when fun h => (h.foldl fun h => h.domainOff).set.endTransition.latch
theorem fullEntry (h : d.TablesCanonical) : d.fullEntry.TablesCanonical :=
  h.when fun h => (h.foldl fun h => h.domainOn).set.endTransition.latch.deliverHeld.after
theorem transitionOverrun {step} (h : d.TablesCanonical) : (Dev.transitionOverrun step d).TablesCanonical :=
  h.when fun h => h.raise
theorem waitCore {core} (h : d.TablesCanonical) : (Dev.waitCore core d).TablesCanonical := h.when fun h => h.modPwr
theorem vsenseCross {above} (h : d.TablesCanonical) : (Dev.vsenseCross above d).TablesCanonical :=
  h.when fun h => .ite h.setFlag.setFlag.latch h.setFlag

/-! ### Registers (Machine/Registers.lean) -/

theorem afterHeaderWrite {p} (h : d.TablesCanonical) : (d.afterHeaderWrite p).TablesCanonical :=
  .ite h.pageInterrupt h

theorem serviceOn {p} (h : d.TablesCanonical) : (d.serviceOn p).TablesCanonical := by
  unfold Dev.serviceOn
  split
  · exact h.frame
  · exact h.frame.modLd
  · exact h

theorem enableEffect {p on} (h : d.TablesCanonical) : (Dev.enableEffect p on d).TablesCanonical :=
  (TablesCanonical.ite (.ite h h.setFlag.setFlag.serviceOn) h.setFlag).afterHeaderWrite
theorem askFrog {t mbox} (h : d.TablesCanonical) : (d.askFrog t mbox).TablesCanonical := h.frame
theorem frogEffect {p} (h : d.TablesCanonical) : (Dev.frogEffect p d).TablesCanonical :=
  .ite h.afterHeaderWrite h.setFlag.askFrog.afterHeaderWrite
theorem intStsClear {p v coincident} (h : d.TablesCanonical) : (Dev.intStsClear p v coincident d).TablesCanonical :=
  h.set.afterHeaderWrite
theorem intSet {p v} (h : d.TablesCanonical) : (Dev.intSet p v d).TablesCanonical := .ite h.set.pageInterrupt h.set
theorem releaseMask {src} (h : d.TablesCanonical) : (d.releaseMask src).TablesCanonical :=
  .ite h.setFlag.set.setFlag h
theorem releaseQuar {src} (h : d.TablesCanonical) : (d.releaseQuar src).TablesCanonical :=
  .ite h.setFlag.set.setFlag h
theorem releaseWord {f k v} (h : d.TablesCanonical) (hf : ∀ {d x}, d.TablesCanonical → (f d x).TablesCanonical) :
    (d.releaseWord f k v).TablesCanonical :=
  h.foldl fun h => hf h

theorem barTimeout {id} (h : d.TablesCanonical) : (Machine.barTimeout id d).TablesCanonical := by
  unfold Machine.barTimeout
  split
  · exact h
  · exact .ite h ((TablesCanonical.ite h.frame.emit h.frame).raise)

theorem setRoute {p v} (h : d.TablesCanonical) : (setRoute p v d).TablesCanonical :=
  .ite h (.ite h.store.pageInterrupt h.store)
theorem setAccess {p v} (h : d.TablesCanonical) : (setAccess p v d).TablesCanonical := .ite h h.store
theorem setMgmt {hd v} (h : d.TablesCanonical) : (setMgmt hd v d).TablesCanonical := .ite h h.store.store

/-! ### The Strongroom (Machine/Strongroom.lean) -/

theorem loadStrPages (h : d.TablesCanonical) : d.loadStrPages.TablesCanonical := h.set
theorem setSpdmStep {t k} (h : d.TablesCanonical) : (d.setSpdmStep t k).TablesCanonical := h.frame
theorem useNonce {session v} (h : d.TablesCanonical) : (d.useNonce session v).TablesCanonical := h.frame
theorem newNonce {session} (h : d.TablesCanonical) : (d.newNonce session).TablesCanonical := h.frame.draw
theorem newDebugNonce (h : d.TablesCanonical) : d.newDebugNonce.TablesCanonical := h.frame.draw
theorem answerSecure {q code status} (h : d.TablesCanonical) : (d.answerSecure q code status).TablesCanonical :=
  .ite h.useNonce.emit h.useNonce.emit.raise
theorem fuseFailed {q code item} (h : d.TablesCanonical) : (d.fuseFailed q code item).TablesCanonical :=
  h.useNonce.emit.raise
theorem modFuses {f} (h : d.TablesCanonical) : (d.modFuses f).TablesCanonical := h.frame

theorem transition {q code fuse stateOk signerOk room dest consume} (h : d.TablesCanonical) :
    (Dev.transition q code fuse stateOk signerOk room dest consume d).TablesCanonical := by
  unfold Dev.transition
  refine .ite h ?_
  extract_lets +onlyGivenNames st
  refine .ite h.answerSecure ?_
  refine .ite h.answerSecure ?_
  split
  · exact h.fuseFailed
  · exact h.modFuses.answerSecure.frame.setFlag.latch

theorem fuseRequest {q code fuse stateOk signerOk early consume} (h : d.TablesCanonical) :
    (Dev.fuseRequest q code fuse stateOk signerOk early consume d).TablesCanonical := by
  unfold Dev.fuseRequest
  refine .ite h ?_
  extract_lets +onlyGivenNames st st
  refine .ite h.answerSecure ?_
  split
  · exact h.fuseFailed
  · exact h.modFuses.answerSecure

theorem writeRight {ev image} (h : d.TablesCanonical) : (d.writeRight ev image).TablesCanonical := h.store.store

theorem grantDebug {level first last dur} (h : d.TablesCanonical) : (d.grantDebug level first last dur).TablesCanonical := by
  unfold Dev.grantDebug
  extract_lets +onlyGivenNames d1 d2 d3 _ d4 top d5 right d6
  have hd3 : d3.TablesCanonical := h.set.set.set.set
  have hd5 : d5.TablesCanonical := .ite hd3.frame.writeRight hd3.frame
  exact (TablesCanonical.ite hd5.writeRight.writeRight hd5).raise

theorem endGrant (h : d.TablesCanonical) : d.endGrant.TablesCanonical := by
  unfold Dev.endGrant
  split
  · exact h
  · exact h.frame.writeRight.writeRight.writeRight.set.set.raise

theorem portUnlock {sigOk} (h : d.TablesCanonical) : (Dev.portUnlock sigOk d).TablesCanonical := by
  unfold Dev.portUnlock
  extract_lets +onlyGivenNames signerBytes signed signer nonceOk refuse
  refine .ite ?_ ?_
  · exact h.raise.newDebugNonce
  · refine .ite ?_ ?_
    · exact h.raise.newDebugNonce
    · refine .ite ?_ ?_
      · exact h.raise.newDebugNonce
      · refine .ite ?_ ?_
        · exact h.raise.newDebugNonce
        · split
          · exact h.raise.newDebugNonce
          · exact h.grantDebug.newDebugNonce

theorem rightRequest {v} (h : d.TablesCanonical) : (Dev.rightRequest v d).TablesCanonical :=
  .ite h.set (.ite h.set.setFlag h.set.writeRight.setFlag)
theorem setSlot {n x} (h : d.TablesCanonical) : (d.setSlot n x).TablesCanonical := .ite h.frame h.frame
theorem sendWithheld (h : d.TablesCanonical) : d.sendWithheld.TablesCanonical :=
  h.foldl fun h => .ite h.coreInterrupt h
theorem endPause {src} (h : d.TablesCanonical) : (d.endPause src).TablesCanonical :=
  h.setFlag.set.frame.raise.sendWithheld

theorem actReady (h : d.TablesCanonical) : d.actReady.TablesCanonical := by
  unfold Dev.actReady
  split
  · exact .ite h.frame h
  · exact h

theorem spdmAnswer {t need always code payload f} (h : d.TablesCanonical)
    (hf : ∀ {d}, d.TablesCanonical → (f d).TablesCanonical) :
    (spdmAnswer t need always code payload f d).TablesCanonical :=
  h.when fun h => (hf h).emit

end Sys2Proof.Machine.Dev.TablesCanonical
end

