-- ==== Sys2Proof/Proofs/TablesHost.lean ====
section
/-! PROOFS. The tables stay canonical: start-up, host ports, mailboxes, the twin, the FCU, the stitch and register accesses. -/

set_option Elab.async false

namespace Sys2Proof.Machine.Dev.TablesCanonical

open Sys2Proof.Laws

variable {d : Dev}

/-! ### Start-up and resets (Machine/StartUp.lean) -/

theorem loadStraps (h : d.TablesCanonical) : d.loadStraps.TablesCanonical := (h.foldl fun h => h.set).set
theorem powerAll (h : d.TablesCanonical) : d.powerAll.TablesCanonical := h.set.modPwr
theorem freshLinks (h : d.TablesCanonical) : d.freshLinks.TablesCanonical := h.frame.foldl fun h => h.modLnk

theorem startDevice {cause} (h : d.TablesCanonical) : (d.startDevice cause).TablesCanonical := by
  unfold Dev.startDevice
  extract_lets +onlyGivenNames _ _ _ _ d1 d2 d3 d4
  have hd1 : d1.TablesCanonical := ⟨tok_keptRegs h.1, rfl⟩
  have hd4 : d4.TablesCanonical :=
    hd1.powerAll.loadStraps.freshLinks.setFlag.set.setFlag.setFlag.setFlag.setFlag.set.set
  clear_value d4
  split
  · exact hd4.raise
  · exact hd4

theorem coldReset (_ : d.TablesCanonical) : d.coldReset.TablesCanonical := ⟨rfl, rfl⟩

theorem porRelease {st} (h : d.TablesCanonical) : (Dev.porRelease st d).TablesCanonical := by
  unfold Dev.porRelease
  refine h.when fun h => ?_
  exact .ite h.frame.powerAll.loadStraps.freshLinks.set.set.set.set.set h.frame.powerAll.loadStraps.freshLinks.set

theorem pllLock (h : d.TablesCanonical) : d.pllLock.TablesCanonical := h.when fun h => h.frame
theorem pllRetry (h : d.TablesCanonical) : d.pllRetry.TablesCanonical := h.when fun h => h.setFlag
theorem refLoss (h : d.TablesCanonical) : d.refLoss.TablesCanonical := h.when fun h => h.frame.setFlag.raise
theorem refReturn (h : d.TablesCanonical) : d.refReturn.TablesCanonical := h.when fun h => h.frame
theorem modClk {f} (h : d.TablesCanonical) : (d.modClk f).TablesCanonical := h.frame
theorem bootStart (h : d.TablesCanonical) : d.bootStart.TablesCanonical := h.when fun h => h.setReady.modClk

theorem bootRom {chainOk} (h : d.TablesCanonical) : (Dev.bootRom chainOk d).TablesCanonical := by
  unfold Dev.bootRom
  refine h.when fun h => ?_
  extract_lets +onlyGivenNames d1 d2 _ d3 d4
  have hd2 : d2.TablesCanonical := .ite h.modClk.modFuses.raise h.modClk
  exact (TablesCanonical.ite hd2.frame hd2.frame.raise).loadStrPages.newDebugNonce.setReady

theorem trngDraw {failing} (h : d.TablesCanonical) : (Dev.trngDraw failing d).TablesCanonical := by
  unfold Dev.trngDraw
  refine h.when fun h => ?_
  extract_lets +onlyGivenNames d1
  split
  · exact h.modClk.addSat.raise
  · exact h.modClk.setFlag.setFlag.modCry.draw

theorem imageStep (h : d.TablesCanonical) : d.imageStep.TablesCanonical := by
  unfold Dev.imageStep
  refine h.when fun h => ?_
  extract_lets +onlyGivenNames n
  split
  · exact h.modClk
  · exact .ite h.raise.modClk h.raise.setFlag.modClk.frame

theorem coreRelease (h : d.TablesCanonical) : d.coreRelease.TablesCanonical := by
  unfold Dev.coreRelease
  refine h.when fun h => ?_
  split
  · exact h
  · exact h.frame.set.modClk

theorem vsenseDispatch (h : d.TablesCanonical) : d.vsenseDispatch.TablesCanonical :=
  .ite h.setPageBits.modClk h.setPageBits

theorem sleepEntry (h : d.TablesCanonical) : d.sleepEntry.TablesCanonical := by
  unfold Dev.sleepEntry
  refine h.when fun h => ?_
  extract_lets +onlyGivenNames _ _ _ d1 d2
  have hd1 : d1.TablesCanonical := ⟨tok_keptRegs h.1, rfl⟩
  exact hd1.set.set.modPwr.endTransition.loadStraps

theorem sleepWake (h : d.TablesCanonical) : d.sleepWake.TablesCanonical := .ite h.startDevice.modClk.set.set h

theorem thermalTrip (h : d.TablesCanonical) : d.thermalTrip.TablesCanonical := by
  unfold Dev.thermalTrip
  refine h.when fun h => ?_
  extract_lets +onlyGivenNames _ _ _ d1
  have hd1 : d1.TablesCanonical := ⟨tok_keptRegs h.1, rfl⟩
  exact hd1.setReady.emit

/-! ### Host ports (Machine/HostPorts.lean) -/

theorem linkUp {port half speed width mld} (h : d.TablesCanonical) : (Dev.linkUp port half speed width mld d).TablesCanonical :=
  h.when fun h => h.modLink.latch
theorem takeDown {port half} (h : d.TablesCanonical) : (d.takeDown port half).TablesCanonical :=
  .ite h h.modLink.latch.frameStore
theorem linkChange {port half speed width} (h : d.TablesCanonical) : (Dev.linkChange port half speed width d).TablesCanonical :=
  h.when fun h => h.modLink.latch
theorem setBound {port n on} (h : d.TablesCanonical) : (d.setBound port n on).TablesCanonical := h.set

theorem hostLinkDispatch {port half} (h : d.TablesCanonical) : (d.hostLinkDispatch port half).TablesCanonical := by
  unfold Dev.hostLinkDispatch
  extract_lets +onlyGivenNames l p put v d1 d2 d3 d4 d5
  have hd1 : d1.TablesCanonical := by
    refine .set ?_
    refine .set ?_
    refine .set ?_
    refine .set ?_
    exact h.set.set
  have hd2 : d2.TablesCanonical := by
    exact .ite hd1 hd1.set
  have hd3 : d3.TablesCanonical := .ite (hd2.foldl fun h => h.setBound) hd2
  exact (TablesCanonical.ite hd3.setBound hd3).modLink.setPageBits

theorem l0p {port half width} (h : d.TablesCanonical) : (Dev.l0p port half width d).TablesCanonical :=
  h.when fun h => (TablesCanonical.ite h.latch h).set.emit
theorem l1Entry {port half} (h : d.TablesCanonical) : (Dev.l1Entry port half d).TablesCanonical :=
  h.when fun h => h.modLink
theorem l1Wake {port half} (h : d.TablesCanonical) : (Dev.l1Wake port half d).TablesCanonical :=
  h.when fun h => h.modLink.latch
theorem resetMsix {n} (h : d.TablesCanonical) : (d.resetMsix n).TablesCanonical := h.frame
theorem resetCxlMem {n} (h : d.TablesCanonical) : (d.resetCxlMem n).TablesCanonical := h.modLd.clearViral

theorem conventional {port perst} (h : d.TablesCanonical) : (Dev.conventional port perst d).TablesCanonical := by
  unfold Dev.conventional
  refine h.when fun h => ?_
  extract_lets +onlyGivenNames _ _ d1 lds d2 d3
  have hd3 : d3.TablesCanonical := by
    refine ((TablesCanonical.ite (.ite h.modClk.latch.latch h.modClk.latch) h).foldl fun h =>
      h.resetCxlMem.resetMsix.modLd.foldl fun h => h.frogPair).takeDown.takeDown.resetKeep
  exact hd3.frame.after

theorem functionReset {ld} (h : d.TablesCanonical) : (Dev.functionReset ld d).TablesCanonical :=
  h.when fun h => h.resetMsix.modLd
theorem cxlResetStart {ld clear} (h : d.TablesCanonical) : (Dev.cxlResetStart ld clear d).TablesCanonical :=
  h.when fun h => (TablesCanonical.ite h.resetCxlMem.clearLd h.resetCxlMem).modLd.after
theorem cxlResetEnd {ld} (h : d.TablesCanonical) : (Dev.cxlResetEnd ld d).TablesCanonical := h.when fun h => h.modLd
theorem bindLd {port n} (h : d.TablesCanonical) : (Dev.bindLd port n d).TablesCanonical :=
  h.when fun h => .ite h.setBound h
theorem commitDecoder {ld index x} (h : d.TablesCanonical) : (Dev.commitDecoder ld index x d).TablesCanonical :=
  h.when fun h => h.modLd
theorem vecWrite {port n v} (h : d.TablesCanonical) : (Dev.vecWrite port n v d).TablesCanonical := .ite h.set h
theorem hdmWrite {port n v} (h : d.TablesCanonical) : (Dev.hdmWrite port n v d).TablesCanonical := .ite h.set h
theorem ideFailure {port half} (h : d.TablesCanonical) : (Dev.ideFailure port half d).TablesCanonical :=
  h.when fun h => h.modLink.set.raise
theorem linkReplays {port half k} (h : d.TablesCanonical) : (Dev.linkReplays port half k d).TablesCanonical :=
  h.when fun h => .ite h.addSat.tally.tally.modLink.raise h.addSat.tally.tally.modLink
theorem replayWindow (h : d.TablesCanonical) : d.replayWindow.TablesCanonical := h.frame
theorem unmaskMsix {ld vec} (h : d.TablesCanonical) : (Dev.unmaskMsix ld vec d).TablesCanonical :=
  h.when fun h => .ite h.setMsixEntry.emit h.setMsixEntry
theorem setIdeStream {port half s v} (h : d.TablesCanonical) : (d.setIdeStream port half s v).TablesCanonical :=
  .ite h.modLink.set h.modLink

theorem ideKm {session port half c} (h : d.TablesCanonical) : (Dev.ideKm session port half c d).TablesCanonical := by
  unfold Dev.ideKm
  refine h.when fun h => ?_
  extract_lets +onlyGivenNames answer bit
  split
  · exact h.emit
  · refine .ite ?_ ?_
    · exact h.setIdeStream.emit
    · exact h.emit
  · refine .ite ?_ ?_
    · exact h.setIdeStream.emit
    · exact h.emit
  · exact h.setIdeStream.emit

/-! ### Mailboxes (Machine/Mailbox.lean) -/

theorem answer {ld c p} (h : d.TablesCanonical) : (d.answer ld c p).TablesCanonical := h.emit
theorem holdCommand {ld c} (h : d.TablesCanonical) : (d.holdCommand ld c).TablesCanonical := h.frame
theorem mbox {ld rom c f} (h : d.TablesCanonical) (hf : ∀ {d}, d.TablesCanonical → (f d).TablesCanonical) :
    (Dev.mbox ld rom c f d).TablesCanonical :=
  h.when fun h => .ite h.holdCommand (.ite h.answer (hf h))
theorem mgmtOnly {ld f} (h : d.TablesCanonical) (hf : ∀ {d}, d.TablesCanonical → (f d).TablesCanonical) :
    (Dev.mgmtOnly ld f d).TablesCanonical :=
  .ite (hf h) h.answer
theorem mbGetEvents {ld log} (h : d.TablesCanonical) : (Dev.mbGetEvents ld log d).TablesCanonical := h.answer
theorem mbClearEvents {ld log handles all} (h : d.TablesCanonical) : (Dev.mbClearEvents ld log handles all d).TablesCanonical :=
  .ite h.modLd.answer (.ite h.modLd.answer h.answer)
theorem mbFwInfo {ld} (h : d.TablesCanonical) : (Dev.mbFwInfo ld d).TablesCanonical := h.mgmtOnly fun h => h.answer

theorem mbTransfer {ld n last im} (h : d.TablesCanonical) : (Dev.mbTransfer ld n last im d).TablesCanonical := by
  unfold Dev.mbTransfer
  refine h.mgmtOnly fun h => ?_
  refine .ite h.answer ?_
  refine .ite h.setSlot.answer ?_
  split
  · exact h.setSlot.answer
  · exact h.setSlot.raise.answer

theorem mbActivateReset {ld n} (h : d.TablesCanonical) : (Dev.mbActivateReset ld n d).TablesCanonical :=
  h.mgmtOnly fun h => .ite h.frame.answer h.answer
theorem stageActivation {ld n} (h : d.TablesCanonical) : (d.stageActivation ld n).TablesCanonical :=
  h.set.setFlag.setFlag.set.frame.foldl fun h => h.appendRec
theorem mbActivateOnline {ld n digestOk} (h : d.TablesCanonical) : (Dev.mbActivateOnline ld n digestOk d).TablesCanonical :=
  h.mgmtOnly fun h => .ite h.answer (.ite h.answer (.ite h.answer (.ite h.answer h.stageActivation.answer)))
theorem mbSetTime {ld t} (h : d.TablesCanonical) : (Dev.mbSetTime ld t d).TablesCanonical :=
  h.mgmtOnly fun h => h.frame.answer

theorem mbGetLog {ld log off len} (h : d.TablesCanonical) : (Dev.mbGetLog ld log off len d).TablesCanonical := by
  unfold Dev.mbGetLog
  extract_lets +onlyGivenNames go
  split
  · exact .ite h.answer h.answer
  · exact .ite h.answer h.answer
  · exact h.answer

theorem mbGetFeature {ld id} (h : d.TablesCanonical) : (Dev.mbGetFeature ld id d).TablesCanonical :=
  .ite h.answer h.answer
theorem mbSetFeature {ld id v} (h : d.TablesCanonical) : (Dev.mbSetFeature ld id v d).TablesCanonical :=
  .ite h.modLd.answer h.answer
theorem mbGetPolicy {ld} (h : d.TablesCanonical) : (Dev.mbGetPolicy ld d).TablesCanonical := h.answer
theorem mbSetPolicy {ld policy} (h : d.TablesCanonical) : (Dev.mbSetPolicy ld policy d).TablesCanonical :=
  h.modLd.answer
theorem mbGetTime {ld} (h : d.TablesCanonical) : (Dev.mbGetTime ld d).TablesCanonical := h.answer
theorem mbLogs {ld} (h : d.TablesCanonical) : (Dev.mbLogs ld d).TablesCanonical := h.answer
theorem mbFeatures {ld} (h : d.TablesCanonical) : (Dev.mbFeatures ld d).TablesCanonical := h.answer
theorem mbIdentify {ld} (h : d.TablesCanonical) : (Dev.mbIdentify ld d).TablesCanonical := h.answer
theorem mbHealth {ld} (h : d.TablesCanonical) : (Dev.mbHealth ld d).TablesCanonical := h.draw.answer
theorem mbGetAlert {ld} (h : d.TablesCanonical) : (Dev.mbGetAlert ld d).TablesCanonical := h.answer
theorem mbSetAlert {ld config} (h : d.TablesCanonical) : (Dev.mbSetAlert ld config d).TablesCanonical :=
  h.modLd.answer
theorem mbUnsupported {ld} (h : d.TablesCanonical) : (Dev.mbUnsupported ld d).TablesCanonical := h.answer

/-! ### Media (Machine/Media.lean) -/

theorem mbSanitize {ld op} (h : d.TablesCanonical) : (Dev.mbSanitize ld op d).TablesCanonical :=
  .ite h.answer h.clearLd.modLd.answer.after

theorem backgroundEnd {ld} (h : d.TablesCanonical) : (Dev.backgroundEnd ld d).TablesCanonical := by
  unfold Dev.backgroundEnd
  split
  · exact h
  · exact h.modLd.answer

theorem mediaCheck {ld acc l res} (h : d.TablesCanonical) (eq : d.mediaCheck ld acc l = res) : res.2.TablesCanonical := by
  subst eq
  induction l generalizing d with
  | nil => exact h
  | cons o os ih =>
    rw [Dev.mediaCheck]
    split
    · next d1 eq => exact h.ringCheck eq
    · next d1 eq => exact ih (h.ringCheck eq)

theorem overRange {ld acc start n f} (h : d.TablesCanonical) (hf : ∀ {d}, d.TablesCanonical → (f d).TablesCanonical) :
    (Dev.overRange ld acc start n f d).TablesCanonical := by
  unfold Dev.overRange
  split
  · next d1 eq =>
    have hd1 : d1.TablesCanonical := h.mediaCheck eq
    exact hd1.answer
  · next d1 eq =>
    have hd1 : d1.TablesCanonical := h.mediaCheck eq
    exact hf hd1

theorem mbPoisonList {ld start n} (h : d.TablesCanonical) : (Dev.mbPoisonList ld start n d).TablesCanonical :=
  h.overRange fun h => h.answer

theorem mbPoison {ld off inject data} (h : d.TablesCanonical) : (Dev.mbPoison ld off inject data d).TablesCanonical := by
  unfold Dev.mbPoison
  extract_lets +onlyGivenNames o
  split
  · next d1 eq =>
    have hd1 : d1.TablesCanonical := h.ringCheck eq
    exact hd1.answer
  · next dpa d1 eq =>
    have hd1 : d1.TablesCanonical := h.ringCheck eq
    exact (TablesCanonical.ite hd1.draw.modMem.modLd.refuse hd1.draw.modMem.modLd.addHeat.coherentFlow).after

theorem poisonDone {ld} (h : d.TablesCanonical) : (Dev.poisonDone ld d).TablesCanonical := by
  unfold Dev.poisonDone
  split
  · exact h
  · exact .ite h h.modLd.answer

theorem scanLarder {cart dpa owner f res} (h : d.TablesCanonical) (eq : d.scanLarder cart dpa owner f = res) :
    res.2.TablesCanonical := by
  subst eq
  unfold Dev.scanLarder
  exact ite_of Prod.snd h h.raise

theorem scanLine {dpa f res} (h : d.TablesCanonical) (eq : d.scanLine dpa f = res) : res.2.TablesCanonical := by
  subst eq
  unfold Dev.scanLine
  extract_lets +onlyGivenNames owner
  split
  · refine ite_of Prod.snd (h.engineLine rfl) ?_
    exact h.engineSlot rfl
  · exact h.scanLarder rfl
  · exact h

theorem mbScan {ld start n fs} (h : d.TablesCanonical) : (Dev.mbScan ld start n fs d).TablesCanonical := by
  unfold Dev.mbScan
  refine h.overRange fun h => .ite h.answer ?_
  split
  next bad d1 eq =>
    have hd1 : d1.TablesCanonical := by
      have scanned := congrArg Prod.snd eq
      subst scanned
      refine h.foldl_of Prod.snd fun h => ?_
      split
      · exact h
      · split
        next ok d2 eq => exact TablesCanonical.scanLine h eq
    exact hd1.modLd.answer

theorem mbDcConfig {ld} (h : d.TablesCanonical) : (Dev.mbDcConfig ld d).TablesCanonical := h.answer
theorem mbDcExtents {ld} (h : d.TablesCanonical) : (Dev.mbDcExtents ld d).TablesCanonical := h.answer
theorem mbDcAdd {ld es} (h : d.TablesCanonical) : (Dev.mbDcAdd ld es d).TablesCanonical :=
  .ite h.answer (h.foldl fun h => h.putEntryQuiet).modLd.answer.after
theorem mbDcRelease {ld es} (h : d.TablesCanonical) : (Dev.mbDcRelease ld es d).TablesCanonical :=
  .ite h.answer h.releaseSkeins.modLd.answer.after
theorem mbScanResults {ld} (h : d.TablesCanonical) : (Dev.mbScanResults ld d).TablesCanonical := h.answer
theorem mbScanCaps {ld start n} (h : d.TablesCanonical) : (Dev.mbScanCaps ld start n d).TablesCanonical :=
  h.overRange fun h => h.draw.answer

/-! ### The Fabric Manager (Machine/Fabric.lean) -/

theorem fmApi {port c f} (h : d.TablesCanonical) (hf : ∀ {d}, d.TablesCanonical → (f d).TablesCanonical) :
    (Dev.fmApi port c f d).TablesCanonical :=
  h.when fun h => .ite h.holdCommand (.ite h.emit (hf h))
theorem fmAnswer {port c p} (h : d.TablesCanonical) : (d.fmAnswer port c p).TablesCanonical := h.emit
theorem fmRange {port start n f} (h : d.TablesCanonical) (hf : ∀ {d}, d.TablesCanonical → (f d).TablesCanonical) :
    (Dev.fmRange port start n f d).TablesCanonical :=
  .ite h.fmAnswer (hf h)
theorem fmGetAlloc {port start n} (h : d.TablesCanonical) : (Dev.fmGetAlloc port start n d).TablesCanonical :=
  h.fmRange fun h => h.fmAnswer
theorem fmSetAlloc {port start gib} (h : d.TablesCanonical) : (Dev.fmSetAlloc port start gib d).TablesCanonical :=
  h.fmRange fun h => .ite h.fmAnswer (h.foldl fun h => h.store).fmAnswer
theorem fmSetQos {port c} (h : d.TablesCanonical) : (Dev.fmSetQos port c d).TablesCanonical :=
  .ite h.fmAnswer h.frame.fmAnswer
theorem fmBudget {port start ceil vs} (h : d.TablesCanonical) : (Dev.fmBudget port start ceil vs d).TablesCanonical :=
  h.fmRange fun h => .ite h.fmAnswer (.ite h.fmAnswer (h.foldl fun h => h.set).recordCheck.fmAnswer)
theorem fmGetBudget {port start n ceil} (h : d.TablesCanonical) : (Dev.fmGetBudget port start n ceil d).TablesCanonical :=
  h.fmRange fun h => h.fmAnswer

theorem fmTunnel {port n inner} (h : d.TablesCanonical) : (Dev.fmTunnel port n inner d).TablesCanonical := by
  unfold Dev.fmTunnel
  refine .ite h.fmAnswer ?_
  split
  · exact h.fmAnswer
  · exact h.draw.fmAnswer
  · exact h.fmAnswer
  · exact h.fmAnswer

theorem dcSet {port n room rooms} (h : d.TablesCanonical) : (Dev.dcSet port n room rooms d).TablesCanonical :=
  .ite h.fmAnswer h.modLd.fmAnswer
theorem dcRecords {ld kind es} (h : d.TablesCanonical) : (d.dcRecords ld kind es).TablesCanonical :=
  h.foldl fun h => h.appendWith

theorem fmDcd {port c} (h : d.TablesCanonical) : (Dev.fmDcd port c d).TablesCanonical := by
  unfold Dev.fmDcd
  extract_lets +onlyGivenNames ok
  split
  · exact h.fmAnswer
  · exact .ite h.fmAnswer h.fmAnswer
  · exact .ite h.dcSet h.fmAnswer
  · exact .ite h.fmAnswer h.fmAnswer
  · exact .ite (.ite h.fmAnswer h.modLd.dcRecords.fmAnswer) h.fmAnswer
  · exact .ite (.ite h.fmAnswer h.modLd.dcRecords.fmAnswer) h.fmAnswer

theorem readCdat {ld n} (h : d.TablesCanonical) : (Dev.readCdat ld n d).TablesCanonical := h.when fun h => h.emit
theorem fmInfo {port} (h : d.TablesCanonical) : (Dev.fmInfo port d).TablesCanonical := h.fmAnswer
theorem fmGetQos {port} (h : d.TablesCanonical) : (Dev.fmGetQos port d).TablesCanonical := h.fmAnswer
theorem fmQosStatus {port} (h : d.TablesCanonical) : (Dev.fmQosStatus port d).TablesCanonical := h.draw.fmAnswer

/-! ### The twin (Machine/Twin.lean) -/

theorem modTwin {f} (h : d.TablesCanonical) : (d.modTwin f).TablesCanonical := h.frame
theorem twnSet {f v} (h : d.TablesCanonical) : (d.twnSet f v).TablesCanonical := h.set
theorem setTwnState {s} (h : d.TablesCanonical) : (d.setTwnState s).TablesCanonical := h.twnSet
theorem toPeer {b} (h : d.TablesCanonical) : (d.toPeer b).TablesCanonical := h.sendPkt
theorem toPeerNonce {b} (h : d.TablesCanonical) : (d.toPeerNonce b).TablesCanonical := h.draw.toPeer

theorem syncAt (h : d.TablesCanonical) : d.syncAt.TablesCanonical := by
  unfold Dev.syncAt
  split
  · exact h.twnSet
  · exact h.twnSet.twnSet

theorem newLive {both} (h : d.TablesCanonical) : (d.newLive both).TablesCanonical := .ite h.modTwin h.modTwin.syncAt
theorem newPending {l} (h : d.TablesCanonical) : (d.newPending l).TablesCanonical :=
  (h.foldl fun h => h.raise).modTwin
theorem refreshRooms (h : d.TablesCanonical) : d.refreshRooms.TablesCanonical := .ite h.newLive.newPending h.modTwin
theorem pairFail {reason} (h : d.TablesCanonical) : (d.pairFail reason).TablesCanonical :=
  h.setTwnState.twnSet.modTwin.raise.enterDown

theorem takeHello {b} (h : d.TablesCanonical) : (d.takeHello b).TablesCanonical := by
  unfold Dev.takeHello
  split
  · exact h.modTwin.toPeerNonce
  · exact h.modTwin.pairFail

theorem startPairing (h : d.TablesCanonical) : d.startPairing.TablesCanonical := by
  unfold Dev.startPairing
  extract_lets +onlyGivenNames st d1 d2
  have hd1 : d1.TablesCanonical := h.modTwin.setTwnState.twnSet
  split
  · exact hd1.toPeer.takeHello
  · exact hd1.toPeer

theorem fromPeer {hd early f} (h : d.TablesCanonical) (hf : ∀ {d}, d.TablesCanonical → (f d).TablesCanonical) :
    (Dev.fromPeer hd early f d).TablesCanonical :=
  h.when fun h => (TablesCanonical.ite (hf (h.receive rfl)) (h.receive rfl)).after
theorem rxHello {b} (h : d.TablesCanonical) : (Dev.rxHello b d).TablesCanonical :=
  .ite h.takeHello (.ite (.ite h.modTwin.startPairing h.modTwin) h.unexpected)
theorem rxIdentity {ok} (h : d.TablesCanonical) : (Dev.rxIdentity ok d).TablesCanonical :=
  .ite h.unexpected (.ite h.pairFail (.ite h.modTwin h.modTwin.toPeerNonce))
theorem rxKey {ok} (h : d.TablesCanonical) : (Dev.rxKey ok d).TablesCanonical :=
  .ite h.unexpected (.ite h.pairFail (TablesCanonical.ite h.toPeerNonce h.toPeer).lset.modTwin.toPeer)
theorem startSync (h : d.TablesCanonical) : d.startSync.TablesCanonical :=
  (h.setTwnState.modTwin.foldl fun h => h.toPeer).syncAt.refreshRooms
theorem rxSource {b} (h : d.TablesCanonical) : (Dev.rxSource b d).TablesCanonical :=
  .ite h.unexpected (.ite h.setTwnState.twnSet.modTwin.raise h.twnSet.twnSet.twnSet.twnSet.twnSet.modTwin.startSync)
theorem pairingTimeout (h : d.TablesCanonical) : d.pairingTimeout.TablesCanonical := h.when fun h => h.pairFail

theorem keepSnoop {s} (h : d.TablesCanonical) : (d.keepSnoop s).TablesCanonical := by
  unfold Dev.keepSnoop
  split
  · exact h.modTwin
  · exact h

theorem lineDone {id dpa} (h : d.TablesCanonical) : (d.lineDone id dpa).TablesCanonical := h.modTwin.dropUser

theorem twinWrite {w dpa data en poison res} (h : d.TablesCanonical) (eq : d.twinWrite w dpa data en poison = res) :
    res.dev.TablesCanonical := by
  subst eq
  unfold Dev.twinWrite
  refine ite_of (fun x : Got Unit => x.dev) h ?_
  split
  · next d snd eq => exact h.snoopStep eq
  · next d eq =>
    have hd : d.TablesCanonical := h.snoopStep eq
    split
    · exact hd.writeDram rfl
    · exact hd.awaitFetch
    · exact hd
    · exact hd.raise
    · exact hd.attachWrite rfl
    · exact hd.openVoid.writeDram rfl

theorem twinZero {dpa} (h : d.TablesCanonical) : (d.twinZero dpa).TablesCanonical :=
  h.settleAll.forgetWants.endWrites.clearSkein

theorem itemDone {i} (h : d.TablesCanonical) : (d.itemDone i).TablesCanonical := by
  unfold Dev.itemDone
  extract_lets +onlyGivenNames d1
  split
  · exact h.modTwin.answerCmp
  · exact h.modTwin

theorem echoDone {mid} (h : d.TablesCanonical) : (d.echoDone mid).TablesCanonical := by
  unfold Dev.echoDone
  split
  · exact h
  · extract_lets +onlyGivenNames d1
    have hd1 : d1.TablesCanonical := by
      unfold d1
      split
      · refine .ite ?_ h
        split
        exact h.setDir
      · exact h
    exact hd1.itemDone

theorem rxVisible {i} (h : d.TablesCanonical) : (d.rxVisible i).TablesCanonical := by
  unfold Dev.rxVisible
  extract_lets +onlyGivenNames d1 d2
  have hd1 : d1.TablesCanonical := h.modTwin.lineDone
  have hd2 : d2.TablesCanonical := .ite hd1.toPeer hd1
  exact .ite hd2.echoDone hd2

theorem rxFront (h : d.TablesCanonical) : d.rxFront.TablesCanonical := by
  unfold Dev.rxFront
  split
  · exact h
  · refine .ite h.twinZero.rxVisible ?_
    extract_lets +onlyGivenNames own
    split
    · next a d1 eq =>
      have hd1 : d1.TablesCanonical := h.twinWrite eq
      exact hd1.rxVisible
    · next d1 eq =>
      have hd1 : d1.TablesCanonical := h.twinWrite eq
      exact hd1.rxVisible
    · next d1 s backing eq =>
      have hd1 : d1.TablesCanonical := h.twinWrite eq
      exact hd1.keepSnoop

theorem rxPump (h : d.TablesCanonical) : d.rxPump.TablesCanonical :=
  .ite (h.foldl fun h => h.rxFront).modTwin.toPeer (h.foldl fun h => h.rxFront)
theorem takeLine {i} (h : d.TablesCanonical) : (d.takeLine i).TablesCanonical := .ite h.modTwin.rxPump h
theorem rxMwr {b} (h : d.TablesCanonical) : (Dev.rxMwr b d).TablesCanonical := h.takeLine

theorem mackOne {mid} (h : d.TablesCanonical) : (d.mackOne mid).TablesCanonical := by
  unfold Dev.mackOne
  split
  · exact h.unexpected
  · exact .ite h.itemDone h.modTwin

theorem failRepair {req dpa} (h : d.TablesCanonical) : (d.failRepair req dpa).TablesCanonical := by
  unfold Dev.failRepair
  refine .ite ?_ ?_
  · split
    · exact .ite h.uncorrectable h
    · exact h
  · split
    · exact h.verdictEvent.rewriteLine
    · exact h

theorem rewriteFrom {dpa bytes} (h : d.TablesCanonical) : (d.rewriteFrom dpa bytes).TablesCanonical := by
  unfold Dev.rewriteFrom
  split
  · extract_lets +onlyGivenNames l
    refine .ite h.putOpen.pushWqNew ?_
    split
    · exact h
    · extract_lets +onlyGivenNames old k
      split
      · exact h.putSlot.pushSlot
      · exact h
  · exact h

theorem serveRepair {req data} (h : d.TablesCanonical) : (d.serveRepair req data).TablesCanonical := by
  unfold Dev.serveRepair
  split
  · exact .ite h (.ite h.answerRead (.ite h.goodLine h.slotForRewrite))
  · exact h

theorem takeRepair {b} (h : d.TablesCanonical) : (d.takeRepair b).TablesCanonical := by
  unfold Dev.takeRepair
  extract_lets +onlyGivenNames dpa mine d1
  have hd1 : d1.TablesCanonical := h.modTwin.toPeer
  exact .ite hd1 (.ite (hd1.foldl fun h => h.failRepair) (hd1.rewriteFrom.raise.foldl fun h => h.serveRepair))

theorem repairTimeout {dpa} (h : d.TablesCanonical) : (Dev.repairTimeout dpa d).TablesCanonical :=
  (h.modTwin.foldl fun h => h.failRepair).after

theorem serveAsked (h : d.TablesCanonical) : d.serveAsked.TablesCanonical := by
  unfold Dev.serveAsked
  refine h.foldl fun h => ?_
  split
  · next bs p d1 eq =>
    have hd1 : d1.TablesCanonical := h.readWindow eq
    exact hd1.modTwin.lineDone.mirrorOut
  · next d1 s backing eq =>
    have hd1 : d1.TablesCanonical := h.readWindow eq
    exact hd1.keepSnoop
  · next d1 eq => exact h.readWindow eq

theorem rxLreq {dpa} (h : d.TablesCanonical) : (Dev.rxLreq dpa d).TablesCanonical := .ite h.modTwin.serveAsked h
theorem rxSync {b} (h : d.TablesCanonical) : (Dev.rxSync b d).TablesCanonical := .ite (.ite h.takeRepair h) h.takeLine

theorem syncTo {dpa} (h : d.TablesCanonical) : (d.syncTo dpa).TablesCanonical := by
  unfold Dev.syncTo
  split
  · exact h
  · exact .ite h.twnSet h.modTwin.syncAt

theorem copyLine {res} (h : d.TablesCanonical) (eq : d.copyLine = res) : res.2.TablesCanonical := by
  subst eq
  unfold Dev.copyLine
  dsimp only
  refine ite_of Prod.snd h (ite_of Prod.snd h.mirrorOut.syncTo ?_)
  split
  · next bs p d1 eq => exact (h.readWindow eq).mirrorOut.lineDone.syncTo
  · next d1 s backing eq =>
    exact (TablesCanonical.readWindow h eq).keepSnoop
  · next d1 eq => exact h.readWindow eq

theorem copyLines {n} (h : d.TablesCanonical) : (Dev.copyLines n d).TablesCanonical := by
  induction n generalizing d with
  | zero => exact h
  | succ n ih =>
    rw [Dev.copyLines]
    split
    · next d1 eq => exact ih (h.copyLine eq)
    · next d1 eq => exact h.copyLine eq

theorem resyncWindow (h : d.TablesCanonical) : d.resyncWindow.TablesCanonical :=
  h.when fun h => .ite h.copyLines.after.modTwin.toPeer h.copyLines.after
theorem becomePaired {copied} (h : d.TablesCanonical) : (d.becomePaired copied).TablesCanonical :=
  .ite h.raise (.ite h.raise.setTwnState.twnSet.latch h.raise.setTwnState.twnSet)
theorem rxSyncDone (h : d.TablesCanonical) : d.rxSyncDone.TablesCanonical := .ite h.modTwin.rxPump h
theorem rxSyncAck (h : d.TablesCanonical) : d.rxSyncAck.TablesCanonical := .ite h.becomePaired.modTwin.toPeer h
theorem rxPaired (h : d.TablesCanonical) : d.rxPaired.TablesCanonical := .ite h.becomePaired.modTwin h
theorem rxRoom {drn mirrored inService} (h : d.TablesCanonical) : (Dev.rxRoom drn mirrored inService d).TablesCanonical :=
  h.modTwin.refreshRooms
theorem heartbeatIn {x} (h : d.TablesCanonical) : (Dev.heartbeatIn x d).TablesCanonical :=
  h.when fun h => .ite h.twnSet.twnSet.twnSet.twnSet.modTwin h
theorem heartbeatOut (h : d.TablesCanonical) : d.heartbeatOut.TablesCanonical := .ite h.emit.modTwin h
theorem detectSplit (h : d.TablesCanonical) : d.detectSplit.TablesCanonical := .ite h.latch h
theorem splitDispatch (h : d.TablesCanonical) : d.splitDispatch.TablesCanonical :=
  .ite h h.twnSet.twnSet.twnSet.setTwnState.modTwin.modMem
theorem silenceSplit (h : d.TablesCanonical) : d.silenceSplit.TablesCanonical := h.when fun h => h.detectSplit
theorem downSplit (h : d.TablesCanonical) : d.downSplit.TablesCanonical := h.when fun h => h.detectSplit
theorem writeCfg {v} (h : d.TablesCanonical) : (Dev.writeCfg v d).TablesCanonical := .ite h.store.detectSplit h.store
theorem submitToken {epoch winner} (h : d.TablesCanonical) : (d.submitToken epoch winner).TablesCanonical :=
  .ite h.modTwin.modTwin.latch h.modTwin.twnSet

theorem witness {hd v} (h : d.TablesCanonical) : (Dev.witness hd v d).TablesCanonical := by
  unfold Dev.witness
  split
  · exact h.modTwin
  · exact h.submitToken
  · exact h.submitToken

theorem tokenDispatch (h : d.TablesCanonical) : d.tokenDispatch.TablesCanonical := by
  unfold Dev.tokenDispatch
  split
  · exact h
  · exact .ite h.modTwin h.modTwin.twnSet.twnSet

theorem becomeFenced (h : d.TablesCanonical) : d.becomeFenced.TablesCanonical := by
  unfold Dev.becomeFenced
  extract_lets +onlyGivenNames ps d1 d2
  have hd1 : d1.TablesCanonical := h.setTwnState.twnSet.modTwin
  have hd2 : d2.TablesCanonical := by
    unfold d2
    clear_value ps
    split
    · exact hd1
    · exact hd1.raiseOnce
  exact hd2.foldl fun h => h.refuse

theorem decision (h : d.TablesCanonical) : d.decision.TablesCanonical :=
  h.when fun h => (TablesCanonical.ite h.modTwin.latch.setTwnState.twnSet h.modTwin.latch.becomeFenced).after

theorem soloItem {i} (h : d.TablesCanonical) : (d.soloItem i).TablesCanonical := by
  unfold Dev.soloItem
  refine .ite h.itemDone ?_
  split
  · exact h.modTwin.resume
  · exact h.modTwin

theorem solo (h : d.TablesCanonical) : d.solo.TablesCanonical :=
  h.when fun h => ((h.twnSet.foldl fun h => h.soloItem).foldl fun h => h.unpark).rxPump.after
theorem forfeit (h : d.TablesCanonical) : d.forfeit.TablesCanonical :=
  h.when fun h => (TablesCanonical.ite h.becomeFenced.startPairing h.becomeFenced).after
theorem twinDispatch {src} (h : d.TablesCanonical) : (d.twinDispatch src).TablesCanonical :=
  (TablesCanonical.ite h.splitDispatch (.ite h.tokenDispatch h)).setPageBits
theorem hallUp (h : d.TablesCanonical) : d.hallUp.TablesCanonical := .ite h.startPairing h

theorem twinBoundary (h : d.TablesCanonical) : d.twinBoundary.TablesCanonical := by
  unfold Dev.twinBoundary
  extract_lets +onlyGivenNames down d1 d2 d3
  have hd1 : d1.TablesCanonical := .ite h h.refreshRooms
  have hd2 : d2.TablesCanonical := .ite hd1 hd1.rxPump
  have hd3 : d3.TablesCanonical := .ite hd2 hd2.serveAsked
  exact (TablesCanonical.ite hd3 hd3.modTwin).heartbeatOut

/-! ### Vendor commands (Machine/Vendor.lean) -/

theorem vendorOk {len want ok ld f} (h : d.TablesCanonical) (hf : ∀ {d}, d.TablesCanonical → (f d).TablesCanonical) :
    (Dev.vendorOk len want ok ld f d).TablesCanonical :=
  .ite h.answer (.ite h.answer (hf h))
theorem anyLd {ld len want rom c f} (h : d.TablesCanonical) (hf : ∀ {d}, d.TablesCanonical → (f d).TablesCanonical) :
    (Dev.anyLd ld len want rom c f d).TablesCanonical :=
  h.mbox fun h => h.vendorOk hf
theorem mgmtLd {ld len want c f} (h : d.TablesCanonical) (hf : ∀ {d}, d.TablesCanonical → (f d).TablesCanonical) :
    (Dev.mgmtLd ld len want c f d).TablesCanonical :=
  h.mbox fun h => h.vendorOk hf
theorem within {ld ok f} (h : d.TablesCanonical) (hf : ∀ {d}, d.TablesCanonical → (f d).TablesCanonical) :
    (Dev.within ld ok f d).TablesCanonical :=
  .ite (hf h) h.answer
theorem doAnswer {ld f p} (h : d.TablesCanonical) (hf : ∀ {d}, d.TablesCanonical → (f d).TablesCanonical) :
    (Dev.doAnswer ld f p d).TablesCanonical :=
  (hf h).answer
theorem setSource {src cfg rate} (h : d.TablesCanonical) : (Dev.setSource src cfg rate d).TablesCanonical :=
  h.store.store
theorem releaseSource {src mask quar} (h : d.TablesCanonical) : (Dev.releaseSource src mask quar d).TablesCanonical :=
  .ite (TablesCanonical.ite h.releaseMask h).releaseQuar (.ite h.releaseMask h)

theorem mbFrog {ld kind index} (h : d.TablesCanonical) : (Dev.mbFrog ld kind index d).TablesCanonical := by
  unfold Dev.mbFrog
  split
  · exact h.answer
  · exact h.setFlag.askFrog
  · exact h.askFrog

theorem allocApply {port es} (h : d.TablesCanonical) : (Dev.allocApply port es d).TablesCanonical := by
  unfold Dev.allocApply
  refine h.foldl fun h => ?_
  split
  · exact h
  · exact h.set.set

/-! ### Activation (Machine/Activation.lean) -/

theorem actResume (h : d.TablesCanonical) : d.actResume.TablesCanonical := by
  unfold Dev.actResume
  split
  · exact h
  · refine .ite h ?_
    refine .ite h.endPause ?_
    split
    · exact h.endPause
    · exact h.frame.set.set.endPause

/-! ### Debug (Machine/Debug.lean) -/

theorem modStr {f} (h : d.TablesCanonical) : (d.modStr f).TablesCanonical := h.frame
theorem dbgEnd {result} (h : d.TablesCanonical) : (d.dbgEnd result).TablesCanonical := h.modStr.setFlag.set.dropUser
theorem dbgPut {bs} (h : d.TablesCanonical) : (d.dbgPut bs).TablesCanonical := h.foldl fun h => h.set
theorem dbgWaits {x snoop backing} (h : d.TablesCanonical) : (d.dbgWaits x snoop backing).TablesCanonical := h.modStr

theorem dbgTry {x f} (h : d.TablesCanonical) : (d.dbgTry x f).TablesCanonical := by
  unfold Dev.dbgTry
  extract_lets +onlyGivenNames view need
  refine .ite h.dbgEnd ?_
  extract_lets +onlyGivenNames d0
  have hd0 : d0.TablesCanonical := .ite h.see h
  clear_value d0
  split
  · next err src eq =>
    cases src with
    | some s => exact hd0.raise.dbgEnd
    | none => exact hd0.dbgEnd
  · extract_lets +onlyGivenNames w
    have read : (if x.space = 0 then d0.readWindow w x.addr x.addr f else d0.readDra w x.addr view f).dev.TablesCanonical :=
      ite_of Got.dev (hd0.readWindow rfl) (hd0.readDra rfl)
    have written {data} : (if x.space = 0 then d0.writeWindow w x.addr x.addr data (BitVec.allOnes 64) false f
        else d0.writeDra w x.addr data (BitVec.allOnes 64) false f).dev.TablesCanonical :=
      ite_of Got.dev (hd0.writeWindow rfl) (hd0.writeDra rfl)
    refine .ite ?_ ?_
    · split
      · next bs po d1 eq =>
        rw [eq] at read
        exact read.dbgPut.dbgEnd
      · next d1 s b eq =>
        rw [eq] at read
        exact read.dbgWaits
      · next d1 eq =>
        rw [eq] at read
        exact read.dbgEnd
    · extract_lets +onlyGivenNames data
      have written := written (data := data)
      split
      · next d1 eq =>
        rw [eq] at written
        exact written.dbgEnd
      · next d1 s b eq =>
        rw [eq] at written
        exact written.dbgWaits
      · next d1 eq =>
        rw [eq] at written
        exact written.dbgEnd

theorem dbgStart {op v f} (h : d.TablesCanonical) : (Dev.dbgStart op v f d).TablesCanonical :=
  .ite h h.set.set.setFlag.dbgTry.after

theorem dbgAgain (h : d.TablesCanonical) : d.dbgAgain.TablesCanonical := by
  unfold Dev.dbgAgain
  split
  · exact .ite h.dbgTry h
  · exact h

/-! ### The FCU (Machine/Fcu.lean) -/

theorem fcuClear {i} (h : d.TablesCanonical) : (d.fcuClear i).TablesCanonical := h.setWord.set.set.set
theorem fcuClearWord {k v} (h : d.TablesCanonical) : (d.fcuClearWord k v).TablesCanonical :=
  h.foldl fun h => h.fcuClear
theorem fcuFirst {ev} (h : d.TablesCanonical) : (d.fcuFirst ev).TablesCanonical := h.setWord.set.set.set
theorem fcuFurther {ev} (h : d.TablesCanonical) : (d.fcuFurther ev).TablesCanonical :=
  .ite h.addSat.setFlag.set.setFlag h.addSat.setFlag
theorem contain {ev} (h : d.TablesCanonical) : (d.contain ev).TablesCanonical := .ite h.makeViral h

theorem enterFatal {ev} (h : d.TablesCanonical) : (d.enterFatal ev).TablesCanonical := by
  unfold Dev.enterFatal
  refine .ite h.setFlag ?_
  extract_lets +onlyGivenNames d1 d2
  have hd1 : d1.TablesCanonical := h.setFlag.set.set
  exact (TablesCanonical.ite (hd1.foldl fun h => h.makeViral) hd1).foldl fun h => h.coreInterrupt

theorem fcuDispatch {ev} (h : d.TablesCanonical) : (d.fcuDispatch ev).TablesCanonical := by
  unfold Dev.fcuDispatch
  extract_lets +onlyGivenNames d1 d2 d3 d4
  have hd1 : d1.TablesCanonical := .ite h.fcuFurther h.fcuFirst
  have hd2 : d2.TablesCanonical := by
    unfold d2
    split
    · exact (TablesCanonical.ite hd1.setPageBits hd1).tally
    · exact hd1
  have hd4 : d4.TablesCanonical := hd2.setPageBits.fcuRecord.contain
  exact .ite hd4.enterFatal.frame hd4

theorem injectWrite {v} (h : d.TablesCanonical) : (Dev.injectWrite v d).TablesCanonical := .ite h h.set.setFlag
theorem injectBoundary (h : d.TablesCanonical) : d.injectBoundary.TablesCanonical := .ite h.raise.setFlag h

/-! ### Tally (Machine/Tally.lean) -/

theorem talSel {page n ev clear} (h : d.TablesCanonical) : (talSel page n ev clear d).TablesCanonical :=
  .ite h.set.set h.set
theorem talOvf {page v coincident} (h : d.TablesCanonical) : (talOvf page v coincident d).TablesCanonical :=
  .ite h.set h.set.latch

theorem profWrap {c k n pc} (h : d.TablesCanonical) : (Machine.profWrap c k n pc d).TablesCanonical := by
  unfold Machine.profWrap
  extract_lets +onlyGivenNames o p
  refine .ite h ?_
  extract_lets +onlyGivenNames v d1
  refine .ite h.set ?_
  extract_lets +onlyGivenNames ovf d2 d3
  have hd3 : d3.TablesCanonical := .ite h.set.set.set h.set.set.setFlag
  exact .ite hd3 (.ite hd3.frame hd3.frame.emit)

theorem profClear {core k v} (h : d.TablesCanonical) : (profClear core k v d).TablesCanonical :=
  .ite h.store.set h.store

/-! ### The stitch (Machine/Stitch.lean) -/

theorem modStc {f} (h : d.TablesCanonical) : (d.modStc f).TablesCanonical := h.frame

theorem sampleSource {i} (h : d.TablesCanonical) : (d.sampleSource i).TablesCanonical := by
  unfold Dev.sampleSource
  extract_lets +onlyGivenNames p l active cat run d0
  refine .ite h.setFlag.set.set.addSat ?_
  extract_lets +onlyGivenNames asserts blocked guarded base n stuck fast d1 d2
  have hd2 : d2.TablesCanonical := h.setFlag.set.set.modStc
  exact .ite (.ite hd2.addSat hd2) (.ite hd2.modStc hd2)

theorem sampleAll (h : d.TablesCanonical) : d.sampleAll.TablesCanonical := (h.foldl fun h => h.sampleSource).modStc
theorem applyInput {x} (h : d.TablesCanonical) : (d.applyInput x).TablesCanonical :=
  .ite h.modClk.setLevel (.ite (.ite h.raise h) (.ite (.ite h.raise h) h))
theorem overrun (h : d.TablesCanonical) : d.overrun.TablesCanonical := .ite h h.addSat.set.raise
theorem nops (h : d.TablesCanonical) : d.nops.TablesCanonical := h.foldl fun h => .ite h.sendNop h

theorem waiters (h : d.TablesCanonical) : d.waiters.TablesCanonical := by
  unfold Dev.waiters
  extract_lets +onlyGivenNames d1 d2 d3
  have hd1 : d1.TablesCanonical := by
    unfold d1
    split
    · exact h.raiseOnce
    · exact h
  have hd2 : d2.TablesCanonical := by
    unfold d2
    split
    · exact hd1.raiseOnce
    · exact hd1
  have hd3 : d3.TablesCanonical := by
    unfold d3
    split
    · exact hd2.raiseOnce
    · exact hd2
  refine .ite hd3 ?_
  split
  · exact hd3.raiseOnce
  · split
    · exact hd3.raiseOnce
    · exact hd3

theorem lowMarks (h : d.TablesCanonical) : d.lowMarks.TablesCanonical := by
  unfold Dev.lowMarks
  refine .ite h ?_
  extract_lets +onlyGivenNames maps frames lim mapLow frameLow d1 d2
  have hd1 : d1.TablesCanonical := .ite h.raise h
  exact (TablesCanonical.ite hd1.raise.modTier (.ite hd1.modTier hd1)).modStore

theorem wipeEdge (h : d.TablesCanonical) : d.wipeEdge.TablesCanonical := (TablesCanonical.ite h.raise h).modStore

theorem tallyStitch (h : d.TablesCanonical) : d.tallyStitch.TablesCanonical := by
  unfold Dev.tallyStitch
  refine h.foldl fun h => ?_
  extract_lets +onlyGivenNames p n
  refine .ite h ?_
  split
  · exact h.tallyAdd
  · exact h.tallyAdd
  · exact h

theorem commitWrites (h : d.TablesCanonical) : d.commitWrites.TablesCanonical :=
  (TablesCanonical.ite h.timersTick h).commitAligned.timersLoad

theorem fabricBoundary {planComplete} (h : d.TablesCanonical) : (d.fabricBoundary planComplete).TablesCanonical := by
  unfold Dev.fabricBoundary
  extract_lets +onlyGivenNames d1 d2 d3 d4
  have hd1 : d1.TablesCanonical := h.gaugeBoundary.nocSwap.ringRearm.ringViral
  have hd3 : d3.TablesCanonical := (TablesCanonical.ite hd1.replayWindow hd1).frogAccept.frogForce.dcBoundary
  refine (TablesCanonical.ite hd3.squeezeUpdate.lowMarks.refillReserve.retryPromotions.issueWaiting.copyStarts.wipeEdge
    hd3).moversResume.dbgAgain.twinBoundary.assignEncoders.after

theorem boundary {inputs planComplete} (h : d.TablesCanonical) : (Dev.boundary inputs planComplete d).TablesCanonical := by
  unfold Dev.boundary
  refine h.when fun h => ?_
  refine .ite h.frame ?_
  extract_lets +onlyGivenNames d1 _ d2 d3 d4
  have hd3 : d3.TablesCanonical := by
    refine ((TablesCanonical.ite h.gaugePool.powerCommit.nops.waiters.tallyStitch h).overrun.frame.modStc.foldl fun h =>
      h.applyInput).commitWrites
  have hd4 : d4.TablesCanonical := hd3.injectBoundary.setLevel.sampleAll
  exact .ite hd4.fabricBoundary hd4.sleepWake

theorem yarnDispatch {l sn} (h : d.TablesCanonical) : (d.yarnDispatch l sn).TablesCanonical := by
  unfold Dev.yarnDispatch
  extract_lets +onlyGivenNames saw d1
  have hd1 : d1.TablesCanonical := h.modLnk.lset.setPageBits
  exact .ite hd1 (.ite hd1.hallUp (.ite hd1.attachStart hd1))

theorem chkLoad {src} (h : d.TablesCanonical) : (d.chkLoad src).TablesCanonical := by
  unfold Dev.chkLoad
  split
  · exact h
  · exact .ite h h.set.set.set.set.frameStore

theorem faultDispatch {ev} (h : d.TablesCanonical) : (d.faultDispatch ev).TablesCanonical := by
  unfold Dev.faultDispatch
  extract_lets +onlyGivenNames d1 d2
  have hd1 : d1.TablesCanonical := h.chkLoad.fcuDispatch
  have hd2 : d2.TablesCanonical := .ite hd1.detectSplit hd1
  exact .ite hd2 (.ite hd2.modGau (.ite hd2.retireStart hd2))

theorem tallyDispatch {g} (h : d.TablesCanonical) : (d.tallyDispatch g).TablesCanonical :=
  .ite h.setPageBits h.set.setPageBits

theorem dispatchOne {ev} (h : d.TablesCanonical) : (d.dispatchOne ev).TablesCanonical := by
  unfold Dev.dispatchOne
  extract_lets +onlyGivenNames i
  refine .ite h.faultDispatch ?_
  refine .ite h.startDevice ?_
  refine .ite h.startDevice ?_
  refine .ite h.twinDispatch ?_
  refine .ite h.vsenseDispatch ?_
  refine .ite h.wakeDispatch ?_
  refine .ite h.transitionStart ?_
  refine .ite h.setPageBits ?_
  refine .ite h.hostLinkDispatch ?_
  refine .ite h.yarnDispatch ?_
  exact .ite h.setPageBits (.ite h.ringDoneEvent (.ite h.ringDoorbell (.ite h.moverEvent h.tallyDispatch)))

theorem dispatchNext (h : d.TablesCanonical) : d.dispatchNext.TablesCanonical := by
  unfold Dev.dispatchNext
  split
  · exact h
  · exact .ite h h.modStc.dispatchOne.after

theorem maskStuck {i} (h : d.TablesCanonical) : (Dev.maskStuck i d).TablesCanonical :=
  h.when fun h => h.modStc.setFlag.raise
theorem quarantineFast {i} (h : d.TablesCanonical) : (Dev.quarantineFast i d).TablesCanonical :=
  h.when fun h => h.modStc.setFlag.raise

/-! ### BAR accesses (Machine/Bars.lean) -/

theorem storeSegHalf {p off mask v} (h : d.TablesCanonical) : (d.storeSegHalf p off mask v).TablesCanonical := by
  unfold Dev.storeSegHalf
  extract_lets +onlyGivenNames other
  split
  · exact h.frame
  · exact h.frame

theorem afterWrite {p off v} (h : d.TablesCanonical) : (d.afterWrite p off v).TablesCanonical := by
  unfold Dev.afterWrite
  split
  · exact .ite (.ite h.setFlag.frameStore h.setFlag) (.ite (.ite h.setAbsent h) (.ite h.setFlag h))
  · exact h

theorem portDisWrite {a v} (h : d.TablesCanonical) : (d.portDisWrite a v).TablesCanonical := by
  unfold Dev.portDisWrite
  split
  · exact .ite h.store.endGrant h.store
  · exact h

theorem writeWord {a p off v} (h : d.TablesCanonical) : (d.writeWord a p off v).TablesCanonical := by
  unfold Dev.writeWord
  split
  · exact h
  · split
    · exact .ite h.frame h
    · extract_lets +onlyGivenNames rw w1c tp
      refine .ite h ?_
      refine .ite h.portDisWrite ?_
      refine .ite h.writeRtEnt ?_
      extract_lets +onlyGivenNames d1 d2
      have hd1 : d1.TablesCanonical := .ite h (.ite h.storeSegHalf h.store)
      exact (TablesCanonical.ite hd1 hd1.setWord).afterWrite

theorem writeWords {a p off width v} (h : d.TablesCanonical) : (d.writeWords a p off width v).TablesCanonical :=
  .ite h.writeWord.writeWord h.writeWord
theorem writePart {a p off width v} (h : d.TablesCanonical) : (d.writePart a p off width v).TablesCanonical :=
  .ite h.tally.deny (.ite h.tally.waitDomain (.ite h.tally.writeWords h.tally))
theorem writeMalformed {a p off} (h : d.TablesCanonical) : (d.writeMalformed a p off).TablesCanonical := h.tally.raise
theorem writeOne {a p off width v} (h : d.TablesCanonical) : (d.writeOne a p off width v).TablesCanonical :=
  .ite h (.ite h.writePart h.writeMalformed)
theorem barWrite {a o width v} (h : d.TablesCanonical) : (Dev.barWrite a o width v d).TablesCanonical :=
  .ite h.writeOne h.writeOne.writeOne

theorem readWord4 {p off res} (h : d.TablesCanonical) (eq : d.readWord4 p off = res) : res.2.TablesCanonical := by
  subst eq
  unfold Dev.readWord4
  refine ite_of Prod.snd h.frame ?_
  refine ite_of Prod.snd ?_ ?_
  · exact ite_of Prod.snd h.frame h
  · exact ite_of Prod.snd h.draw h

theorem readReady {a p off res} (h : d.TablesCanonical) (eq : d.readReady a p off = res) : res.2.TablesCanonical := by
  subst eq
  unfold Dev.readReady
  refine ite_of Prod.snd ?_ ?_
  · refine ite_of Prod.snd ?_ (h.readWord4 rfl)
    split
    · exact h.draw
    · exact h
  · exact ite_of Prod.snd h h

theorem readWords {a p off width res} (h : d.TablesCanonical) (eq : d.readWords a p off width = res) : res.2.TablesCanonical := by
  subst eq
  unfold Dev.readWords
  extract_lets +onlyGivenNames first last
  refine ite_of Prod.snd (ite_of Prod.snd ?_ h) ?_
  · dsimp only
    exact h.readWord4 rfl
  · split
    next v d1 eq =>
      have read := congrArg Prod.snd eq
      subst read
      refine h.foldl_of Prod.snd fun h => ?_
      split
      next w d' eq =>
        dsimp only
        exact TablesCanonical.readReady h eq

theorem readOne {a p off width res} (h : d.TablesCanonical) (eq : d.readOne a p off width = res) : res.2.TablesCanonical := by
  subst eq
  unfold Dev.readOne
  refine ite_of Prod.snd h ?_
  extract_lets +onlyGivenNames d
  refine ite_of Prod.snd h.tally.deny ?_
  refine ite_of Prod.snd h.tally.waitDomain ?_
  split
  next v d1 eq => exact h.tally.readWords eq

theorem barRead {a o width} (h : d.TablesCanonical) : (Dev.barRead a o width d).TablesCanonical := by
  unfold Dev.barRead
  extract_lets +onlyGivenNames p off n
  refine .ite h ?_
  refine .ite ?_ ?_
  · split
    · next v d1 eq =>
      have hd1 : d1.TablesCanonical := h.readOne eq
      exact hd1.emit
    · next d1 eq => exact h.readOne eq
  · split
    · next v d1 eq =>
      have hd1 : d1.TablesCanonical := h.readOne eq
      split
      · next w d2 eq =>
        have hd2 : d2.TablesCanonical := hd1.readOne eq
        exact hd2.emit
      · next d2 eq =>
        have hd2 : d2.TablesCanonical := hd1.readOne eq
        exact hd2.emit
    · next d1 eq =>
      have hd1 : d1.TablesCanonical := h.readOne eq
      split
      · next w d2 eq =>
        have hd2 : d2.TablesCanonical := hd1.readOne eq
        exact hd2.emit
      · next d2 eq => exact hd1.readOne eq

theorem slotStore {q off v} (h : d.TablesCanonical) : (d.slotStore q off v).TablesCanonical :=
  .ite h.storeCfg (.ite h.store (.ite (.ite h h.store) h))
theorem slotWords {q off width v} (h : d.TablesCanonical) : (d.slotWords q off width v).TablesCanonical :=
  .ite h.slotStore.slotStore h.slotStore
theorem bar4Write {n o width v} (h : d.TablesCanonical) : (Dev.bar4Write n o width v d).TablesCanonical :=
  .ite h (.ite h.raise (.ite h.raise (.ite h.waitDomain (.ite h.slotWords h))))
theorem bar4Read {n o width} (h : d.TablesCanonical) : (Dev.bar4Read n o width d).TablesCanonical :=
  .ite h.emit (.ite h.waitDomain (.ite h.emit h.emit))

theorem heldEffect {p off v} (h : d.TablesCanonical) : (Dev.heldEffect p off v d).TablesCanonical := by
  unfold Dev.heldEffect
  refine h.ite_apply (h.ite_apply h.enableEffect (h.ite_apply h.frogEffect h.setFlag.afterHeaderWrite)) ?_
  refine h.ite_apply h.intStsClear (h.ite_apply h.set.afterHeaderWrite (h.ite_apply h.intSet ?_))
  refine h.ite_apply h.talSel (h.ite_apply h.talOvf ?_)
  generalize pageKind p = kind
  cases kind with
  | none => exact h
  | some kind => cases kind with
    | dc => exact h.ite_apply h.restart (h.ite_apply h.pprStart (h.ite_apply (h.ite_apply h.chanSpare h.rankSpare)
      (h.ite_apply h.ilvEnable h.chspareWrite)))
    | dbg => exact h.ite_apply (h.ite_apply h.dbgStart h.dbgStart) (h.ite_apply h.portUnlock
        (h.ite_apply h.endGrant h.store.endGrant))
    | gau => exact h.commitGo
    | hp => exact h.ite_apply h.vecWrite h.hdmWrite
    | ctg => exact h.ite_apply (h.foldl fun h => h.attachStart) (h.foldl fun h => h.admitCartridge).pump
    | dmv => exact h.chCtl
    | noc => exact h.ite_apply h.setFlag (h.ite_apply h.planeWrite (h.ite_apply h.rtCommand h.rtCommand))
    | cry => exact h.ite_apply h.reknitRequest h.setFlag
    | pat => exact h.ite_apply (h.ite_apply h.roomRead h.roomWrite) (h.ite_apply h.setFlag h.probe)
    | qmg => exact h.qpAssign
    | str => exact h.ite_apply h.actReady h.rightRequest
    | mgc => exact h.profClear
    | tir => exact h.evacRequest
    | twn => exact h.ite_apply h.writeCfg (h.ite_apply h.forfeit h.witness)
    | yp => exact h.linkControl
    | hwl => exact h.linkControl
    | gen | stc | pwr | fcu | cmp | ldm => exact h

theorem heldSlot {q off v} (h : d.TablesCanonical) : (Dev.heldSlot q off v d).TablesCanonical :=
  .ite h.tailWrite (.ite h.headWrite (.ite h.ringOn h.ringOff))

theorem accessComplete {id} (h : d.TablesCanonical) : (Dev.accessComplete id d).TablesCanonical := by
  unfold Dev.accessComplete
  split
  · exact h
  · extract_lets +onlyGivenNames p
    refine .ite h ?_
    extract_lets +onlyGivenNames _ d1
    refine .ite ?_ ?_
    · extract_lets +onlyGivenNames q off
      split
      · exact h.frame.emit
      · exact .ite h.frame.heldSlot h.frame.slotWords
    · extract_lets +onlyGivenNames off
      split
      · exact (h.frame.readWords rfl).emit
      · exact .ite h.frame.heldEffect h.frame.writeWords

end Sys2Proof.Machine.Dev.TablesCanonical
end

