-- ==== Sys2Proof/Proofs/Steps.lean ====
section
/-! PROOFS. Every command goes on, and every step keeps the tables canonical. -/

set_option Elab.async false

namespace Sys2Proof.Machine

/-! ### The commands -/

/-- The outcome is that of an effect on `s`, and the effect keeps the tables canonical. -/
def RunsCanonical (s : State) (o : Host.Outcome State Fault Refusal) : Prop :=
  ∃ f : Effect, o = s.run f ∧ ∀ {d : Dev}, d.TablesCanonical → (f d).TablesCanonical

section

open Dev

variable {s : State}

theorem runs {f : Effect} (hf : ∀ {d : Dev}, d.TablesCanonical → (f d).TablesCanonical) :
    RunsCanonical s (s.run f) := ⟨f, rfl, hf⟩

theorem runsRegisterWrite (a : Agent) (off width : Nat) (v : BitVec 64) :
    RunsCanonical s (execRegisterWrite a off width v s) := by
  refine runs fun h => ?_
  split
  · exact h.portUsed.barWrite
  · split
    · exact h.bar4Write
    · exact h

theorem runsBar2Read (a : Agent) (off width : Nat) : RunsCanonical s (execBar2Read a off width s) := by
  refine runs fun h => ?_
  split
  · exact h.portUsed.barRead
  · split
    · exact h.bar4Read
    · exact h

theorem runsSpdmNegotiateAlgorithms (t : Transport) (offersSm : Bool) :
    RunsCanonical s (execSpdmNegotiateAlgorithms t offersSm s) :=
  runs fun h => h.ite_apply (h.spdmAnswer fun h => h.setSpdmStep) (h.spdmAnswer fun h => h)

theorem runsSpdmGetMeasurements (t : Transport) (index : Nat) (signed : Bool) :
    RunsCanonical s (execSpdmGetMeasurements t index signed s) :=
  runs fun h => h.spdmAnswer fun h => h.ite_apply h.draw h

theorem runsDebugUnlock (q : SecureReq) : RunsCanonical s (execDebugUnlock q s) := by
  refine runs fun h => .ite h ?_
  extract_lets +onlyGivenNames refuse
  have hrefuse {st} : (refuse st).TablesCanonical := h.useNonce.emit.raise
  clear_value refuse
  refine .ite hrefuse (.ite hrefuse ?_)
  split
  · exact hrefuse
  · exact h.useNonce.grantDebug.emit

theorem runsActivationRevert : RunsCanonical s (execActivationRevert s) := by
  refine runs fun h => ?_
  split
  · exact .ite h.frame.frame.setFlag h
  · exact h

theorem runsDbgPortDisable (a : Agent) : RunsCanonical s (execDbgPortDisable a s) := by
  refine runs fun h => h.writeTo fun h => ?_
  split
  · exact h.store.endGrant
  · exact h

theorem runsActivationFail : ∃ o, RunsCanonical s o ∧ execActivationFail s = afterPause o := by
  refine ⟨_, runs fun h => ?_, rfl⟩
  split
  · exact .ite h.endPause.raise h
  · exact h

/-- What a command can do: run an effect, or, at the end of the pause of an activation, run an effect and then the commands held.
The arms stand in the order of `exec`. -/
theorem exec_cases (c : Instr) :
    RunsCanonical s (exec c s) ∨
      ((c = .activationResume ∨ c = .activationFail) ∧ ∃ o, RunsCanonical s o ∧ exec c s = afterPause o) := by
  unfold exec
  split
  · exact .inl (runs fun h => h.boundary)
  · exact .inl (runs fun h => h.dispatchNext)
  · exact .inl (runs fun h => h.maskStuck)
  · exact .inl (runs fun h => h.quarantineFast)
  · exact .inl (runs fun h => h.writeTo fun h => h.releaseWord fun h => h.releaseMask)
  · exact .inl (runs fun h => h.writeTo fun h => h.releaseWord fun h => h.releaseQuar)
  · exact .inl (runs fun h => h.refLoss)
  · exact .inl (runs fun h => h.windowEnd)
  · exact .inl (runsRegisterWrite ..)
  · exact .inl (runsBar2Read ..)
  · exact .inl (runs fun h => h.accessComplete)
  · exact .inl (runs fun h => h.barTimeout)
  · exact .inl (runs fun h => h.writeTo fun h => h.enableEffect)
  · exact .inl (runs fun h => h.writeTo fun h => h.frogEffect)
  · exact .inl (runs fun h => h.writeTo fun h => h.setFlag.afterHeaderWrite)
  · exact .inl (runs fun h => h.writeTo fun h => h.intStsClear)
  · exact .inl (runs fun h => h.writeTo fun h => h.set.afterHeaderWrite)
  · exact .inl (runs fun h => h.writeTo fun h => h.intSet)
  · exact .inl (runs fun h => h.writeTo fun h => h.setRoute)
  · exact .inl (runs fun h => h.writeTo fun h => h.setAccess)
  · exact .inl (runs fun h => h.writeTo fun h => h.setMgmt)
  · exact .inl (runs fun h => h.writeTo fun h => h.talSel)
  · exact .inl (runs fun h => h.writeTo fun h => h.talSel)
  · exact .inl (runs fun h => h.writeTo fun h => h.talOvf)
  · exact .inl (runs fun h => h.when fun h => h.tallyAdd)
  · exact .inl (runs fun h => h.linkUp)
  · exact .inl (runs fun h => h.takeDown)
  · exact .inl (runs fun h => h.linkChange)
  · exact .inl (runs fun h => h.l0p)
  · exact .inl (runs fun h => h.l1Wake)
  · exact .inl (runs fun h => h.conventional)
  · exact .inl (runs fun h => h.when fun h => h.modClk)
  · exact .inl (runs fun h => h.functionReset)
  · exact .inl (runs fun h => h.cxlResetStart)
  · exact .inl (runs fun h => h.cxlResetEnd)
  · exact .inl (runs fun h => h.bindLd)
  · exact .inl (runs fun h => h.commitDecoder)
  · exact .inl (runs fun h => h.writeTo fun h => h.vecWrite)
  · exact .inl (runs fun h => h.writeTo fun h => h.hdmWrite)
  · exact .inl (runs fun h => h.ideFailure)
  · exact .inl (runs fun h => h.linkReplays)
  · exact .inl (runs fun h => h.fmApi fun h => h.fmInfo)
  · exact .inl (runs fun h => h.fmApi fun h => h.fmGetAlloc)
  · exact .inl (runs fun h => h.fmApi fun h => h.fmSetAlloc)
  · exact .inl (runs fun h => h.fmApi fun h => h.fmGetQos)
  · exact .inl (runs fun h => h.fmApi fun h => h.fmSetQos)
  · exact .inl (runs fun h => h.fmApi fun h => h.fmQosStatus)
  · exact .inl (runs fun h => h.fmApi fun h => h.fmGetBudget)
  · exact .inl (runs fun h => h.fmApi fun h => h.fmBudget)
  · exact .inl (runs fun h => h.fmApi fun h => h.fmGetBudget)
  · exact .inl (runs fun h => h.fmApi fun h => h.fmBudget)
  · exact .inl (runs fun h => h.fmApi fun h => h.fmTunnel)
  · exact .inl (runs fun h => h.fmApi fun h => h.fmDcd)
  · exact .inl (runs fun h => h.when fun h => h.emit)
  · exact .inl (runs fun h => h.readCdat)
  · exact .inl (runs fun h => h.mbox fun h => h.mbGetEvents)
  · exact .inl (runs fun h => h.mbox fun h => h.mbClearEvents)
  · exact .inl (runs fun h => h.mbox fun h => h.mbGetPolicy)
  · exact .inl (runs fun h => h.mbox fun h => h.mbSetPolicy)
  · exact .inl (runs fun h => h.mbox fun h => h.mbFwInfo)
  · exact .inl (runs fun h => h.mbox fun h => h.mbTransfer)
  · exact .inl (runs fun h => h.mbox fun h => h.mbActivateReset)
  · exact .inl (runs fun h => h.mbox fun h => h.mbActivateOnline)
  · exact .inl (runs fun h => h.mbox fun h => h.mbGetTime)
  · exact .inl (runs fun h => h.mbox fun h => h.mbSetTime)
  · exact .inl (runs fun h => h.mbox fun h => h.mbLogs)
  · exact .inl (runs fun h => h.mbox fun h => h.mbGetLog)
  · exact .inl (runs fun h => h.mbox fun h => h.mbFeatures)
  · exact .inl (runs fun h => h.mbox fun h => h.mbGetFeature)
  · exact .inl (runs fun h => h.mbox fun h => h.mbSetFeature)
  · exact .inl (runs fun h => h.mbox fun h => h.mbIdentify)
  · exact .inl (runs fun h => h.mbox fun h => h.mbHealth)
  · exact .inl (runs fun h => h.mbox fun h => h.mbGetAlert)
  · exact .inl (runs fun h => h.mbox fun h => h.mbSetAlert)
  · exact .inl (runs fun h => h.mbox fun h => h.mbSanitize)
  · exact .inl (runs fun h => h.mbox fun h => h.mbSanitize)
  · exact .inl (runs fun h => h.backgroundEnd)
  · exact .inl (runs fun h => h.mbox fun h => h.mbPoisonList)
  · exact .inl (runs fun h => h.mbox fun h => h.mbPoison)
  · exact .inl (runs fun h => h.mbox fun h => h.mbPoison)
  · exact .inl (runs fun h => h.poisonDone)
  · exact .inl (runs fun h => h.mbox fun h => h.mbScanCaps)
  · exact .inl (runs fun h => h.mbox fun h => h.mbScan)
  · exact .inl (runs fun h => h.mbox fun h => h.mbScanResults)
  · exact .inl (runs fun h => h.mbox fun h => h.mbDcConfig)
  · exact .inl (runs fun h => h.mbox fun h => h.mbDcExtents)
  · exact .inl (runs fun h => h.mbox fun h => h.mbDcAdd)
  · exact .inl (runs fun h => h.mbox fun h => h.mbDcRelease)
  · exact .inl (runs fun h => h.mbox fun h => h.mbUnsupported)
  · exact .inl (runs fun h => h.anyLd fun h => h.doAnswer fun h => h)
  · exact .inl (runs fun h => h.anyLd fun h => h.doAnswer fun h => h)
  · exact .inl (runs fun h => h.mgmtLd fun h => h.within fun h => h.doAnswer fun h => h)
  · exact .inl (runs fun h => h.mgmtLd fun h => h.within fun h => h.doAnswer fun h => h.setSource)
  · exact .inl (runs fun h => h.mgmtLd fun h => h.within fun h => h.doAnswer fun h => h.releaseSource)
  · exact .inl (runs fun h => h.mgmtLd fun h => h.within fun h => h.doAnswer fun h => h)
  · exact .inl (runs fun h => h.mgmtLd fun h => h.within fun h => h.doAnswer fun h => h.setRoute)
  · exact .inl (runs fun h => h.mgmtLd fun h => h.within fun h => h.doAnswer fun h => h)
  · exact .inl (runs fun h => h.mgmtLd fun h => h.within fun h => h.doAnswer fun h => h.setAccess)
  · exact .inl (runs fun h => h.mbox fun h => h.vendorOk fun h => h.mbFrog)
  · exact .inl (runs fun h => h.mgmtLd fun h => h.within fun h => h.doAnswer fun h => h)
  · exact .inl (runs fun h => h.mgmtLd fun h => h.within fun h => h.doAnswer fun h => h.allocApply)
  · exact .inl (runs fun h => h.mgmtLd fun h => h.within fun h => h.doAnswer fun h => h.setMgmt)
  · exact .inl (runs fun h => h.message)
  · exact .inl (runs fun h => h.message)
  · exact .inl (runs fun h => h.message)
  · exact .inl (runs fun h => h.message)
  · exact .inl (runs fun h => h.message)
  · exact .inl (runs fun h => h.when fun h => h.accept.after)
  · exact .inl (runs fun h => h.when fun h => h.accept.after)
  · exact .inl (runs fun h => h.when fun h => h.emit)
  · exact .inl (runs fun h => h.biRsp)
  · exact .inl (runs fun h => h.badOpcode)
  · exact .inl (runs fun h => h.missInstall)
  · exact .inl (runs fun h => h.lineCapture)
  · exact .inl (runs fun h => h.macAlarm)
  · exact .inl (runs fun h => h.gateRelease.after)
  · exact .inl (runs fun h => h.ingressRelease.after)
  · exact .inl (runs fun h => h.parkRelease)
  · exact .inl (runs fun h => h.backingTimeout)
  · exact .inl (runs fun h => h.larderTimeout)
  · exact .inl (runs fun h => h.larderTimeout)
  · exact .inl (runs fun h => h.biTimeout)
  · exact .inl (runs fun h => h.writeTo fun h => h.roomRead)
  · exact .inl (runs fun h => h.writeTo fun h => h.roomWrite)
  · exact .inl (runs fun h => h.roomComplete)
  · exact .inl (runs fun h => h.writeTo fun h => h.setFlag)
  · exact .inl (runs fun h => h.flushDone)
  · exact .inl (runs fun h => h.writeTo fun h => h.probe)
  · exact .inl (runs fun h => h.visit)
  · exact .inl (runs fun h => h.trialEnd)
  · exact .inl (runs fun h => h.when fun h => h.startFront.pump)
  · exact .inl (runs fun h => h.copyPhaseEnd)
  · exact .inl (runs fun h => h.settle)
  · exact .inl (runs fun h => h.retryPromotions.kick.pump)
  · exact .inl (runs fun h => h.issueWaiting.pump)
  · exact .inl (runs fun h => h.when fun h => h.pressurePass)
  · exact .inl (runs fun h => .ite h.squeezeUpdate.squeezeWalk h.squeezeUpdate)
  · exact .inl (runs fun h => h.writeTo fun h => h.evacRequest)
  · exact .inl (runs fun h => h.when fun h => h.fillLines)
  · exact .inl (runs fun h => h.when fun h => ((TablesCanonical.ite h h.completeOldest).foldl fun h => h.retryWrite).kick.pump)
  · exact .inl (runs fun h => h.compressorDone)
  · exact .inl (runs fun h => h.decompressorFree)
  · exact .inl (runs fun h => h.writeTo fun h => h.reknitRequest)
  · exact .inl (runs fun h => h.when fun h => h.reknitRequest)
  · exact .inl (runs fun h => h.reknitActivate)
  · exact .inl (runs fun h => h.reknitItem)
  · exact .inl (runs fun h => h.reknitEnd)
  · exact .inl (runs fun h => h.writeTo fun h => h.setFlag)
  · exact .inl (runs fun h => h.commandSlot)
  · exact .inl (runs fun h => h.idleClose)
  · exact .inl (runs fun h => h.refreshInterval)
  · exact .inl (runs fun h => h.oscRead)
  · exact .inl (runs fun h => h.zqCal)
  · exact .inl (runs fun h => h.scrub)
  · exact .inl (runs fun h => h.ddrAlert)
  · exact .inl (runs fun h => h.replayDone)
  · exact .inl (runs fun h => h.writeTo fun h => h.restart)
  · exact .inl (runs fun h => h.writeTo fun h => h.pprStart)
  · exact .inl (runs fun h => h.pprDone)
  · exact .inl (runs fun h => h.writeTo fun h => h.rankSpare)
  · exact .inl (runs fun h => h.writeTo fun h => h.chanSpare)
  · exact .inl (runs fun h => h.spareLine)
  · exact .inl (runs fun h => h.writeTo fun h => h.ilvEnable)
  · exact .inl (runs fun h => h.writeTo fun h => h.chspareWrite)
  · exact .inl (runs fun h => h.writeTo fun h => h.commitGo)
  · exact .inl (runs fun h => h.checkDone)
  · exact .inl (runs fun h => h.slotWrite fun h => h.tailWrite)
  · exact .inl (runs fun h => h.slotWrite fun h => h.headWrite)
  · exact .inl (runs fun h => h.slotWrite fun h => h.ringOn)
  · exact .inl (runs fun h => h.slotWrite fun h => h.ringOff)
  · exact .inl (runs fun h => h.writeTo fun h => h.qpAssign)
  · exact .inl (runs fun h => h.when fun h => h.fetchDesc.after)
  · exact .inl (runs fun h => h.startJob)
  · exact .inl (runs fun h => h.jobComplete)
  · exact .inl (runs fun h => h.coalesce)
  · exact .inl (runs fun h => h.runJob fun h => h)
  · exact .inl (runs fun h => h.runJob fun h => h.runMove rfl)
  · exact .inl (runs fun h => h.runJob fun h => h.runFill rfl)
  · exact .inl (runs fun h => h.runJob fun h => h.runCompare rfl)
  · exact .inl (runs fun h => h.runJob fun h => h.runCable rfl)
  · exact .inl (runs fun h => h.runJob fun h => h.runCompress rfl)
  · exact .inl (runs fun h => h.runJob fun h => h.runDecompress rfl)
  · exact .inl (runs fun h => h.runJob fun h => h.runMoves rfl)
  · exact .inl (runs fun h => h.runJob fun h => h.runMoves rfl)
  · exact .inl (runs fun h => h.runJob fun h => h.runPin rfl)
  · exact .inl (runs fun h => h.runJob fun h => h.runPin rfl)
  · exact .inl (runs fun h => h.runJob fun h => h.runChecksum rfl)
  · exact .inl (runs fun h => h.runJob fun h => h)
  · exact .inl (runs fun h => h.writeTo fun h => h.chCtl)
  · exact .inl (runs fun h => h.writeTo fun h => h.chCtl)
  · exact .inl (runs fun h => h.writeTo fun h => h.chCtl)
  · exact .inl (runs fun h => h.timerFire)
  · exact .inl (runs fun h => h.moverBeat)
  · exact .inl (runs fun h => h.readBack)
  · exact .inl (runs fun h => h.rxNop)
  · exact .inl (runs fun h => h.rxNak)
  · exact .inl (runs fun h => h.rxBad)
  · exact .inl (runs fun h => h.ackDue)
  · exact .inl (runs fun h => h.replayTimeout)
  · exact .inl (runs fun h => h.detectTimer)
  · exact .inl (runs fun h => h.ts1)
  · exact .inl (runs fun h => h.ts2)
  · exact .inl (runs fun h => h.trainTimeout)
  · exact .inl (runs fun h => h.silenceTimeout)
  · exact .inl (runs fun h => h.lossOfLock)
  · exact .inl (runs fun h => h.writeTo fun h => h.when fun h => h.enterRetrain)
  · exact .inl (runs fun h => h.writeTo fun h => h.when fun h => h.enterDown)
  · exact .inl (runs fun h => h.dozeEntry)
  · exact .inl (runs fun h => h.wakeReceived)
  · exact .inl (runs fun h => h.dozeResync)
  · exact .inl (runs fun h => h.domainPower)
  · exact .inl (runs fun h => h.writeTo fun h => h.foldl fun h => h.attachStart)
  · exact .inl (runs fun h => h.identify)
  · exact .inl (runs fun h => h.certPart)
  · exact .inl (runs fun h => h.certSignature)
  · exact .inl (runs fun h => h.keyResponse)
  · exact .inl (runs fun h => h.attachTimeout)
  · exact .inl (runs fun h => h.writeTo fun h => (h.foldl fun h => h.admitCartridge).pump)
  · exact .inl (runs fun h => h.rxRsp)
  · exact .inl (runs fun h => h.rxData)
  · exact .inl (runs fun h => h.wearMsg)
  · exact .inl (runs fun h => h.onMgmt fun h => h.retireEnd)
  · exact .inl (runs fun h => h.retireTimeout)
  · exact .inl (runs fun h => h.reclaim)
  · exact .inl (runs fun h => h.txnTimeout)
  · exact .inl (runs fun h => h.wearPoll)
  · exact .inl (runs fun h => h.writeTo fun h => h.setFlag)
  · exact .inl (runs fun h => h.nocDrained)
  · exact .inl (runs fun h => h.writeTo fun h => h.rtCommand)
  · exact .inl (runs fun h => h.writeTo fun h => h.rtCommand)
  · exact .inl (runs fun h => h.writeTo fun h => h.planeWrite)
  · exact .inl (runs fun h => h.planeFault)
  · exact .inl (runs fun h => h.headerError)
  · exact .inl (runs fun h => h.wakeTimeout)
  · exact .inl (runs fun h => h.domainReady)
  · exact .inl (runs fun h => h.trimmedWake)
  · exact .inl (runs fun h => h.writeTo fun h => h.fcuClearWord)
  · exact .inl (runs fun h => h.writeTo fun h => h.injectWrite)
  · exact .inl (runs fun h => h.frogComplete)
  · exact .inl (runs fun h => h.writeTo fun h => h.powerRequest)
  · exact .inl (runs fun h => h.waitCore)
  · exact .inl (runs fun h => h.hushEntry)
  · exact .inl (runs fun h => h.trimEntry)
  · exact .inl (runs fun h => h.sleepEntry)
  · exact .inl (runs fun h => h.hushWake)
  · exact .inl (runs fun h => h.hushExit)
  · exact .inl (runs fun h => h.transitionOverrun)
  · exact .inl (runs fun h => h.vsenseCross)
  · exact .inl (runs fun h => h.when fun h => h.latch)
  · exact .inl (runs fun h => h.when fun h => h.latch)
  · exact .inl (runs fun h => h.thermalTrip)
  · exact .inl (runs fun h => h.coldReset)
  · exact .inl (runs fun h => h.porRelease)
  · exact .inl (runs fun h => h.pllLock)
  · exact .inl (runs fun h => h.pllRetry)
  · exact .inl (runs fun h => h.bootStart)
  · exact .inl (runs fun h => h.bootRom)
  · exact .inl (runs fun h => h.trngDraw)
  · exact .inl (runs fun h => h.imageStep)
  · exact .inl (runs fun h => h.coreRelease)
  · exact .inl (runs fun h => h.spdmAnswer fun h => h.setSpdmStep)
  · exact .inl (runs fun h => h.spdmAnswer fun h => h.setSpdmStep)
  · exact .inl (runsSpdmNegotiateAlgorithms ..)
  · exact .inl (runs fun h => h.spdmAnswer fun h => h)
  · exact .inl (runs fun h => .ite (h.spdmAnswer (fun h => h)) (h.spdmAnswer (fun h => h)))
  · exact .inl (runs fun h => .ite (h.spdmAnswer (fun h => h.draw)) (h.spdmAnswer (fun h => h)))
  · exact .inl (runsSpdmGetMeasurements ..)
  · exact .inl (runs fun h => .ite (h.spdmAnswer (fun h => h.frame)) (h.spdmAnswer (fun h => h)))
  · exact .inl (runs fun h => h.when fun h => .ite h.frame.emit h.frame.emit)
  · exact .inl (runs fun h => h.when fun h => h.emit)
  · exact .inl (runs fun h => h.when fun h => h.draw.emit)
  · exact .inl (runs fun h => h.when fun h => h.frame.emit)
  · exact .inl (runs fun h => h.when fun h => h.newNonce.emit)
  · exact .inl (runs fun h => h.transition)
  · exact .inl (runs fun h => h.transition)
  · exact .inl (runs fun h => h.transition)
  · exact .inl (runs fun h => h.transition)
  · exact .inl (runs fun h => h.transition)
  · exact .inl (runsDebugUnlock ..)
  · exact .inl (runs fun h => h.fuseRequest)
  · exact .inl (runs fun h => h.fuseRequest)
  · exact .inl (runs fun h => h.fuseRequest)
  · exact .inl (runs fun h => h.transition)
  · exact .inl (runs fun h => h.frame)
  · exact .inl (runs fun h => h.when fun h => h.setFlag.setFlag.frame)
  · exact .inl (runs fun h => h.writeTo fun h => h.actReady)
  · exact .inr ⟨.inl rfl, _, runs fun h => h.actResume, rfl⟩
  · exact .inl (runsActivationRevert ..)
  · exact .inr ⟨.inr rfl, runsActivationFail⟩
  · exact .inl (runs fun h => h.writeTo fun h => h.rightRequest)
  · exact .inl (runs fun h => h.portUsed.writeTo fun h => h.portUnlock)
  · exact .inl (runs fun h => h.writeTo fun h => h.endGrant)
  · exact .inl (runsDbgPortDisable ..)
  · exact .inl (runs fun h => h.when fun h => h.endGrant)
  · exact .inl (runs fun h => h.portUsed.writeTo fun h => h.dbgStart)
  · exact .inl (runs fun h => h.portUsed.writeTo fun h => h.dbgStart)
  · exact .inl (runs fun h => h.fromPeer fun h => h.rxHello)
  · exact .inl (runs fun h => h.fromPeer fun h => h.rxIdentity)
  · exact .inl (runs fun h => h.fromPeer fun h => h.rxKey)
  · exact .inl (runs fun h => h.fromPeer fun h => h.rxSource)
  · exact .inl (runs fun h => h.pairingTimeout)
  · exact .inl (runs fun h => h.fromPeer fun h => h.rxRoom)
  · exact .inl (runs fun h => h.fromPeer fun h => h.rxMwr)
  · exact .inl (runs fun h => h.fromPeer fun h => h.foldl fun h => h.mackOne)
  · exact .inl (runs fun h => h.fromPeer fun h => h.rxSync)
  · exact .inl (runs fun h => h.fromPeer fun h => h.rxLreq)
  · exact .inl (runs fun h => h.fromPeer fun h => h.rxSyncDone)
  · exact .inl (runs fun h => h.fromPeer fun h => h.rxSyncAck)
  · exact .inl (runs fun h => h.fromPeer fun h => h.rxPaired)
  · exact .inl (runs fun h => h.resyncWindow)
  · exact .inl (runs fun h => h.repairTimeout)
  · exact .inl (runs fun h => h.heartbeatIn)
  · exact .inl (runs fun h => h.silenceSplit)
  · exact .inl (runs fun h => h.downSplit)
  · exact .inl (runs fun h => h.writeTo fun h => h.writeCfg)
  · exact .inl (runs fun h => h.writeTo fun h => h.witness)
  · exact .inl (runs fun h => h.decision)
  · exact .inl (runs fun h => h.solo)
  · exact .inl (runs fun h => h.writeTo fun h => h.forfeit)
  · exact .inl (runs fun h => h.when fun h => h.profWrap)
  · exact .inl (runs fun h => h.writeTo fun h => h.profClear)
  · exact .inl (runs fun h => h.refReturn)
  · exact .inl (runs fun h => h.l1Entry)
  · exact .inl (runs fun h => h.when fun h => h.modChan)
  · exact .inl (runs fun h => h.unmaskMsix)
  · exact .inl (runs fun h => h.ideKm)
  · exact .inl (runs fun h => h.fullEntry)

/-- A command held in a pause is run as it would have been, or is none that a pause holds. -/
theorem heldMailbox_cases (c : Instr) :
    (heldMailbox c s = exec c s ∧ c ≠ .activationResume ∧ c ≠ .activationFail) ∨ heldMailbox c s = .next s := by
  unfold heldMailbox
  split
  case h_58 => exact .inr rfl
  all_goals exact .inl ⟨rfl, nofun, nofun⟩

/-- The outcome is a next state with the queue of `s`, whose tables are canonical where those of `s` are. -/
def GoesOnCanonical (s : State) (o : Host.Outcome State Fault Refusal) : Prop :=
  ∃ d, o = .next (s.withDev d) ∧ (s.dev.TablesCanonical → d.TablesCanonical)

theorem RunsCanonical.goesOn {o} (h : RunsCanonical s o) : GoesOnCanonical s o := by
  obtain ⟨f, rfl, hf⟩ := h
  exact ⟨f s.dev, rfl, hf⟩

theorem heldMailbox_goesOn (c : Instr) : GoesOnCanonical s (heldMailbox c s) := by
  obtain ⟨e, hresume, hfail⟩ | e := heldMailbox_cases (s := s) c
  · rw [e]
    obtain h | ⟨hc | hc, -⟩ := exec_cases (s := s) c
    · exact h.goesOn
    · exact absurd hc hresume
    · exact absurd hc hfail
  · exact ⟨s.dev, e, id⟩

theorem runHeld_goesOn (l : List (Nat × Instr)) : GoesOnCanonical s (runHeld l s) := by
  induction l generalizing s with
  | nil => exact ⟨s.dev, rfl, id⟩
  | cons x l ih =>
    obtain ⟨d, hd, hcanon⟩ := heldMailbox_goesOn (s := s) x.2
    obtain ⟨d', hd', hcanon'⟩ := ih (s := s.withDev d)
    refine ⟨d', ?_, fun h => hcanon' (hcanon h)⟩
    rw [runHeld, hd]
    exact hd'

theorem afterPause_goesOn {o} (h : GoesOnCanonical s o) : GoesOnCanonical s (afterPause o) := by
  obtain ⟨d, rfl, hcanon⟩ := h
  unfold afterPause
  dsimp only
  split
  · exact ⟨d, rfl, hcanon⟩
  · obtain ⟨d', hd', hcanon'⟩ := runHeld_goesOn (s := { s with dev := { d with host := { d.host with held := [] } } }) d.host.held
    exact ⟨d', hd', fun h => hcanon' (hcanon h)⟩

theorem exec_goesOn (c : Instr) : GoesOnCanonical s (exec c s) := by
  obtain h | ⟨-, o, h, e⟩ := exec_cases (s := s) c
  · exact h.goesOn
  · rw [e]
    exact afterPause_goesOn h.goesOn

end

/-- Settles O2: every command runs an effect; the end of a pause runs the held commands after it. -/
theorem everyCommandGoesOn : Obligations.EveryCommandGoesOn := by
  intro c s
  obtain ⟨d, hd, -⟩ := exec_goesOn (s := s) c
  exact ⟨d, hd⟩

/-- Settles O55: the effects of all commands are built from operations that keep the tables canonical. -/
theorem stepsKeepTheTablesCanonical : Obligations.StepsKeepTheTablesCanonical := by
  intro s t h e
  unfold step at e
  split at e
  · cases e
    exact h
  · next c rest _ =>
    obtain ⟨d, hd, hcanon⟩ := exec_goesOn (s := { s with pending := rest }) c
    rw [hd] at e
    cases e
    exact hcanon h

end Sys2Proof.Machine
end

