-- ==== Sys2Proof/Proofs/FieldsApart.lean ====
section
/-! PROOFS. Fields that share no bit, writes of fields over other pages, and bits that are cleared. -/

set_option Elab.async false

namespace Sys2Proof.Machine

open Sys2Proof.Laws

/-! ### Bits that are cleared -/

theorem testBit_clrBit (n i j : Nat) : (clrBit n i).testBit j = (n.testBit j && j != i) := by
  unfold clrBit
  split
  · next h =>
    have hlow := Nat.mod_lt n (Nat.two_pow_pos i)
    obtain ⟨q, hq⟩ : ∃ q, n / 2 ^ i = 2 * q + 1 := ⟨n / 2 ^ i / 2, by
      rw [Nat.testBit_eq_decide_div_mod_eq, decide_eq_true_eq] at h; omega⟩
    have hn : n = 2 ^ i * (2 * q + 1) + n % 2 ^ i := by rw [← hq, Nat.div_add_mod]
    have hcleared : n - 2 ^ i = 2 ^ i * (2 * q) + n % 2 ^ i := by rw [Nat.mul_succ] at hn; omega
    rw [hcleared]
    conv_rhs => rw [hn]
    rw [Nat.testBit_two_pow_mul_add _ hlow, Nat.testBit_two_pow_mul_add _ hlow]
    rcases Nat.lt_trichotomy j i with hj | rfl | hj
    · simp [hj, hj.ne]
    · simp
    · obtain ⟨k, rfl⟩ : ∃ k, j = i + (k + 1) := ⟨j - i - 1, by omega⟩
      have habove : (2 * q + 1).testBit (k + 1) = (2 * q).testBit (k + 1) := by
        rw [Nat.testBit_succ, Nat.testBit_succ]; congr 1; omega
      simp [habove]
  · next h =>
    by_cases hj : j = i
    · subst hj; simpa using h
    · simp [hj]

theorem testBit_foldl_clrBit (ks : List Nat) (n j : Nat) : (ks.foldl clrBit n).testBit j = (n.testBit j && !ks.contains j) := by
  induction ks generalizing n with
  | nil => simp
  | cons k ks ih => rw [List.foldl_cons, ih, testBit_clrBit, Bool.and_assoc, List.contains_cons, Bool.not_or]; rfl

namespace Dev

theorem testBit_setReady_off (d : Dev) {ks : List Nat} {k : Nat} (h : k ∈ ks) : (d.setReady ks false).pwr.ready.testBit k = false := by
  refine (testBit_foldl_clrBit ks d.pwr.ready k).trans ?_
  rw [List.contains_iff_mem.mpr h, Bool.not_true, Bool.and_false]

/-! ### Fields that a write leaves alone -/

/-- Two fields that lie each in one word and share no bit. -/
abbrev Apart (f g : Fld) : Prop :=
  f.lsb + f.width ≤ 32 ∧ g.lsb + g.width ≤ 32 ∧ (g.off ≠ f.off ∨ g.lsb + g.width ≤ f.lsb ∨ f.lsb + f.width ≤ g.lsb)

theorem Apart.symm {f g : Fld} (h : Apart f g) : Apart g f := ⟨h.2.1, h.1, h.2.2.imp Ne.symm Or.symm⟩

/-- A write of a field leaves the fields of its page that share no bit with it. -/
theorem get_set_apart (d : Dev) (p : Nat) {f g : Fld} (v : Nat) (h : Apart f g) : (d.set p f v).get p g = d.get p g := by
  obtain ⟨hf, hg, hapart⟩ := h
  by_cases hoff : g.off = f.off
  · exact get_set_disjoint d p f g v hoff hf hg (hapart.resolve_left (absurd hoff))
  · exact get_set_ne d p p f g v (by simpa [rkey] using hoff) (fun hw => by omega) fun hw => by omega

/-- A write of a field leaves every field of another page. -/
theorem get_set_page_ne (d : Dev) {p q : Nat} {f g : Fld} (v : Nat) (h : q ≠ p) (hf : f.off + 4 < 4096) (hg : g.off + 4 < 4096) :
    (d.set p f v).get q g = d.get q g := by
  have hkey : ∀ o o', o < 4096 → o' < 4096 → rkey q o ≠ rkey p o' := fun o o' ho ho' => by simp only [rkey]; omega
  exact get_set_ne d p q f g v (hkey _ _ (by omega) (by omega)) (fun _ => hkey _ _ (by omega) (by omega))
    fun _ => ⟨hkey _ _ (by omega) (by omega), fun _ => hkey _ _ (by omega) (by omega)⟩

theorem get_foldl_set_page_ne {α : Type} {p : α → Nat} {q : Nat} {f g : Fld} (v : Dev → α → Nat) (h : ∀ x, q ≠ p x)
    (hf : f.off + 4 < 4096) (hg : g.off + 4 < 4096) (l : List α) (d : Dev) :
    (l.foldl (fun d x => d.set (p x) f (v d x)) d).get q g = d.get q g := by
  induction l generalizing d with
  | nil => rfl
  | cons x l ih => exact (ih _).trans (get_set_page_ne d _ (h x) hf hg)

theorem foldl_set_eq {α : Type} (p : α → Nat) (f : Fld) (v : Dev → α → Nat) (l : List α) (d : Dev) :
    ∃ r, l.foldl (fun d x => d.set (p x) f (v d x)) d = { d with regs := r } := by
  induction l generalizing d with
  | nil => exact ⟨_, rfl⟩
  | cons x l ih =>
    obtain ⟨r, hr⟩ := set_eq d (p x) f (v d x)
    obtain ⟨r', hr'⟩ := ih (d.set (p x) f (v d x))
    exact ⟨r', by rw [List.foldl_cons, hr', hr]⟩

theorem get_modPwr (d : Dev) (f : Power → Power) (p : Nat) (g : Fld) : (d.modPwr f).get p g = d.get p g := rfl

/-- A write of a field within one word leaves every other word. -/
theorem WordsKept.set_narrow {d : Dev} {t : Nat → Prop} {p : Nat} {f : Fld} {v : Nat} (hw : f.lsb + f.width ≤ 32)
    (h : t (rkey p f.off)) : WordsKept d (d.set p f v) t :=
  WordsKept.set p f v h fun hwide => absurd hw (Nat.not_le.mpr hwide)

end Dev

end Sys2Proof.Machine
end

