-- ==== Sys2Proof/Proofs/Dispatch.lean ====
section
/-! PROOFS. The step and the dispatch of events: the order of R42 and the slot that a dispatch takes. -/

set_option Elab.async false

namespace Sys2Proof.Machine

/-! ### The order of keys -/

/-- The order of keys is the lexicographic order of lists. -/
theorem lexLt_eq_true_iff {a b : List Nat} : lexLt a b = true ↔ a < b := by
  induction a generalizing b with
  | nil => cases b <;> simp [lexLt]
  | cons x a ih =>
    cases b with
    | nil => simp [lexLt]
    | cons y b => simp [lexLt, List.cons_lt_cons_iff, ih]

theorem lexLt_eq_false_iff {a b : List Nat} : lexLt a b = false ↔ b ≤ a := by
  rw [← Bool.not_eq_true, lexLt_eq_true_iff, not_lt]

/-- The element at the front after an insertion: the one inserted, unless the sorted rest begins below it. -/
theorem head?_sortBy_cons {α : Type} (key : α → List Nat) (x : α) (xs : List α) :
    (sortBy key (x :: xs)).head? = some ((sortBy key xs).head?.elim x fun y => if key y < key x then y else x) := by
  rw [sortBy]
  cases sortBy key xs with
  | nil => rfl
  | cons y s =>
    by_cases h : key y < key x
    · simp [lexLt_eq_true_iff.mpr h, h]
    · simp [lexLt_eq_false_iff.mpr (not_lt.mp h), h]

/-- What sorting puts at the front is an element, and none has a lower key. -/
theorem head?_sortBy_least {α : Type} {key : α → List Nat} {l : List α} {e : α} (h : (sortBy key l).head? = some e) :
    e ∈ l ∧ ∀ x ∈ l, key e ≤ key x := by
  induction l generalizing e with
  | nil => cases h
  | cons x xs ih =>
    rw [head?_sortBy_cons] at h
    cases hrest : (sortBy key xs).head? with
    | none =>
      have hxs : xs = [] := by
        cases xs with
        | nil => rfl
        | cons y ys => rw [head?_sortBy_cons] at hrest; cases hrest
      rw [hrest] at h
      cases h
      simp [hxs]
    | some y =>
      obtain ⟨hmem, hleast⟩ := ih hrest
      rw [hrest] at h
      cases h
      dsimp only [Option.elim_some]
      split
      · next hlt => exact ⟨List.mem_cons_of_mem _ hmem, List.forall_mem_cons.mpr ⟨hlt.le, hleast⟩⟩
      · next hge =>
        exact ⟨List.mem_cons_self, List.forall_mem_cons.mpr ⟨le_rfl, fun z hz => (not_lt.mp hge).trans (hleast z hz)⟩⟩

/-- R42: the order of dispatch, key by key. -/
theorem evKey_le_iff {e x : Ev} : Dev.evKey e ≤ Dev.evKey x ↔
    (e.cat ≤ 3 ∧ 3 < x.cat) ∨
      ((e.cat ≤ 3 ↔ x.cat ≤ 3) ∧ (e.sn < x.sn ∨ (e.sn = x.sn ∧ (e.cat < x.cat ∨ (e.cat = x.cat ∧ e.src ≤ x.src))))) := by
  rw [← not_lt]
  simp only [Dev.evKey, List.cons_lt_cons_iff, List.lt_irrefl, and_false, or_false]
  split <;> split <;> omega

/-- Settles O5: what is at the front of the sorted events has the least key of R42. -/
theorem dispatchOrder : Obligations.DispatchOrder := by
  intro d e h
  obtain ⟨hmem, hleast⟩ := head?_sortBy_least h
  exact ⟨hmem, fun x hx => evKey_le_iff.mp (hleast x hx)⟩

/-! ### The step and a dispatch -/

theorem step_cons (c : Instr) (rest : List Instr) (d : Dev) :
    step { pending := c :: rest, dev := d } = exec c { pending := rest, dev := d } := by rw [step]

theorem step_nil (d : Dev) : step { pending := [], dev := d } = .next { pending := [], dev := d } := by rw [step]

/-- Settles O1, by the two forms of the queue. -/
theorem stepRunsTheFrontCommand : Obligations.StepRunsTheFrontCommand := ⟨step_cons, step_nil⟩

/-- A dispatch that nothing holds back. -/
theorem Dev.dispatchNext_open {d : Dev} {e : Ev} (he : d.nextEvent = some e) (hpor : d.clk.porN = true) (htrip : d.clk.thermtrip = false)
    (hslot : d.stc.slot < 64) (hclk : d.clk.fabricOn = true ∨ e.cat = 1) :
    dispatchNext d = ((d.modStc fun s => { s with
      events := if e.cat = 1 then [] else d.stc.events.filter (fun x => x ≠ e), slot := s.slot + 1 }).dispatchOne e).after := by
  have hopen : (!d.clk.porN || d.clk.thermtrip || decide (64 ≤ d.stc.slot) || (!d.clk.fabricOn && e.cat != 1)) = false := by
    rw [hpor, htrip, decide_eq_false (Nat.not_le.mpr hslot)]
    rcases hclk with hclk | hcat
    · simp [hclk]
    · simp [hcat]
  unfold dispatchNext
  rw [he]
  dsimp only
  rw [hopen, if_neg Bool.false_ne_true]

/-- Settles O4, from a dispatch that nothing holds back. -/
theorem eventDispatchTakesOneSlot : Obligations.EventDispatchTakesOneSlot := fun _ _ he hpor htrip hslot hclk =>
  run_eq_withDev (Dev.dispatchNext_open he hpor htrip hslot hclk)

end Sys2Proof.Machine
end

