-- ==== Sys2Proof/Proofs/Boundary.lean ====
section
/-! PROOFS. STITCH_BOUNDARY: what the inputs, the writes due and the samples of a boundary leave alone. -/

set_option Elab.async false

namespace Sys2Proof.Machine

open Sys2Proof.Laws

namespace Dev

/-! ### What the samples of a boundary leave alone -/

/-- The word of PWR_STS, which holds the power state. -/
abbrev pwrStsKey : Nat := rkey Pg.pwr 0x104

/-- What the inputs, the writes due and the samples of a boundary change: registers, the state of the STC but for its slot, and warm_rst_n. PWR_STS
changes only where a stitch-aligned write to it waits. -/
structure SamplesOnly (d d' : Dev) : Prop where
  frame : ∃ r x w, d' = { d with regs := r, stc := x, clk := { d.clk with warmRstN := w } }
  slot : d'.stc.slot = d.stc.slot
  align : d'.stc.align ⊆ d.stc.align
  pwrSts : (∀ a ∈ d.stc.align, a.key ≠ pwrStsKey) → d'.wordAt pwrStsKey = d.wordAt pwrStsKey

/-- A stitch-aligned write comes into force. -/
def commitWord (d : Dev) (a : AlignPend) : Dev :=
  { d with regs := tput resetWord d.regs a.key (BitVec.ofNat 32 (clearBits (d.wordAt a.key).toNat a.mask + (a.value &&& a.mask))) }

theorem wordAt_commitWord_ne (d : Dev) {a : AlignPend} {k : Nat} (h : a.key ≠ k) : (d.commitWord a).wordAt k = d.wordAt k :=
  tget_tput_ne _ _ _ h.symm

/-- Writes that come into force change registers alone, and of those only the ones they name. -/
theorem foldl_commitWord (l : List AlignPend) (d : Dev) :
    (∃ r, l.foldl commitWord d = { d with regs := r }) ∧
      ∀ k, (∀ a ∈ l, a.key ≠ k) → (l.foldl commitWord d).wordAt k = d.wordAt k := by
  induction l generalizing d with
  | nil => exact ⟨⟨_, rfl⟩, fun _ _ => rfl⟩
  | cons a l ih =>
    obtain ⟨⟨r, hr⟩, hkeep⟩ := ih (d.commitWord a)
    refine ⟨⟨r, hr⟩, fun k hk => ?_⟩
    obtain ⟨ha, hl⟩ := List.forall_mem_cons.mp hk
    exact (hkeep k hl).trans (wordAt_commitWord_ne d ha)

theorem commitAligned_eq (d : Dev) :
    d.commitAligned = ((d.stc.align.filter fun a => a.due ≠ 0 ∧ a.due ≤ d.sn).foldl commitWord d).modStc fun s =>
      { s with align := s.align.filter fun a => ¬ (a.due ≠ 0 ∧ a.due ≤ d.sn) } := rfl

/-- What the inputs, the writes due and the samples of a boundary leave of the device that the stitch that ends left. -/
def boundarySamples (inputs : List InputSample) (d : Dev) : Dev :=
  let written := (inputs.foldl applyInput (d.modStc fun x => { x with slot := 0, recordOnly := false })).commitWrites
  (written.injectBoundary.setLevel Src.pwrReady written.readyToStart).sampleAll

namespace SamplesOnly

theorem refl (d : Dev) : SamplesOnly d d := ⟨⟨_, _, _, rfl⟩, rfl, fun _ h => h, fun _ => rfl⟩

variable {d d' d'' : Dev}

theorem trans (h : SamplesOnly d d') (h' : SamplesOnly d' d'') : SamplesOnly d d'' := by
  refine ⟨?_, h'.slot.trans h.slot, fun _ ha => h.align (h'.align ha),
    fun ha => (h'.pwrSts fun a ha' => ha a (h.align ha')).trans (h.pwrSts ha)⟩
  obtain ⟨r, x, w, rfl⟩ := h.frame
  obtain ⟨r', x', w', rfl⟩ := h'.frame
  exact ⟨r', x', w', rfl⟩

theorem foldl {α : Type} {f : Dev → α → Dev} (hf : ∀ d x, SamplesOnly d (f d x)) (l : List α) (d : Dev) :
    SamplesOnly d (l.foldl f d) := by
  induction l generalizing d with
  | nil => exact refl d
  | cons x l ih => exact (hf d x).trans (ih _)

/-- A register field of a page after PWR. -/
theorem set {p : Nat} (hp : Pg.pwr < p) (d : Dev) (f : Fld) (v : Nat) : SamplesOnly d (d.set p f v) := by
  have hne : ∀ o, pwrStsKey ≠ rkey p o := fun o => by
    simp only [rkey, Pg.pwr] at hp ⊢; omega
  obtain ⟨r, hr⟩ := set_eq d p f v
  exact ⟨⟨r, d.stc, d.clk.warmRstN, hr⟩, by simp, by simp, fun _ => wordAt_set_ne d p f v _ (hne _) fun _ => hne _⟩

/-- A change of the STC that keeps the slot and the waiting writes. -/
theorem ofStc (d : Dev) {x : Stc} (hslot : x.slot = d.stc.slot) (halign : x.align = d.stc.align) :
    SamplesOnly d { d with stc := x } :=
  ⟨⟨_, _, _, rfl⟩, hslot, fun _ ha => halign ▸ ha, fun _ => rfl⟩

theorem raise (d : Dev) (i a m c : Nat) : SamplesOnly d (d.raise i a m c) := ofStc d rfl rfl

theorem setLevel (d : Dev) (i : Nat) (b : Bool) : SamplesOnly d (d.setLevel i b) := ofStc d rfl rfl

theorem applyInput (d : Dev) (x : InputSample) : SamplesOnly d (d.applyInput x) := by
  unfold Dev.applyInput
  split_ifs
  · exact trans (d' := d.modClk fun c => { c with warmRstN := !x.active })
      ⟨⟨_, _, _, rfl⟩, rfl, fun _ h => h, fun _ => rfl⟩ (setLevel _ _ _)
  · exact raise ..
  · exact refl d
  · exact raise ..
  · exact refl d
  · exact refl d

theorem timersTick (d : Dev) : SamplesOnly d d.timersTick := by
  unfold Dev.timersTick
  split
  · exact refl d
  · refine foldl (fun d t => ?_) _ d
    dsimp only
    split
    · exact set (by decide) ..
    · exact refl d

theorem timersLoad (d : Dev) (ts : List Nat) : SamplesOnly d (d.timersLoad ts) := by
  refine foldl (fun d t => ?_) _ d
  split
  · exact set (by decide) ..
  · exact refl d

theorem commitAligned (d : Dev) : SamplesOnly d d.commitAligned := by
  obtain ⟨⟨r, hr⟩, hkeep⟩ := foldl_commitWord (d.stc.align.filter fun a => a.due ≠ 0 ∧ a.due ≤ d.sn) d
  rw [hr] at hkeep
  rw [commitAligned_eq, hr]
  exact ⟨⟨r, _, d.clk.warmRstN, rfl⟩, rfl, List.filter_subset_self _, fun ha => hkeep _ fun a h => ha a (List.mem_filter.mp h).1⟩

theorem commitWrites (d : Dev) : SamplesOnly d d.commitWrites := by
  unfold Dev.commitWrites
  refine trans (trans ?_ (commitAligned _)) (timersLoad _ _)
  split
  · exact timersTick d
  · exact refl d

theorem injectBoundary (d : Dev) : SamplesOnly d d.injectBoundary := by
  unfold Dev.injectBoundary
  split
  · exact (raise d ..).trans (set (by decide) ..)
  · exact refl d

theorem pwr_lt_bank (b i : Nat) : Pg.pwr < bankPage b i := by
  simp only [Pg.pwr, bankPage]; omega

theorem sampleSource (d : Dev) (i : Nat) : SamplesOnly d (d.sampleSource i) := by
  have hsrc {d : Dev} {f : Fld} {v : Nat} : SamplesOnly d (d.set (Bk.stc i) f v) := set (pwr_lt_bank 0 i) ..
  have hfcu {d : Dev} {f : Fld} {k : Nat} : SamplesOnly d (d.addSat (Bk.fcu i) f k) := set (pwr_lt_bank 3 i) ..
  unfold Dev.sampleSource
  extract_lets p l active cat run d0 asserts blocked guarded base n stuck fast d1 d2 sev
  have h0 : SamplesOnly d d0 := hsrc
  have h2 : SamplesOnly d d2 := ((h0.trans hsrc).trans hsrc).trans (ofStc _ rfl rfl)
  clear_value d0 d2
  split_ifs
  · exact ((h0.trans hsrc).trans hsrc).trans hfcu
  · exact h2.trans hfcu
  · exact h2
  · exact h2.trans (ofStc _ rfl rfl)
  · exact h2

theorem sampleAll (d : Dev) : SamplesOnly d d.sampleAll := (foldl sampleSource _ d).trans (ofStc _ rfl rfl)

/-- The samples of a boundary, of the device `d` that the stitch that ended left. -/
theorem boundarySamples (inputs : List InputSample) (d : Dev) :
    SamplesOnly (d.modStc fun x => { x with slot := 0, recordOnly := false }) (boundarySamples inputs d) :=
  ((foldl applyInput inputs _).trans (commitWrites _)).trans ((injectBoundary _).trans ((setLevel _ _ _).trans (sampleAll _)))

theorem sn (h : SamplesOnly d d') : d'.sn = d.sn := by
  obtain ⟨r, x, w, rfl⟩ := h.frame
  rfl

theorem fabricOn (h : SamplesOnly d d') : d'.clk.fabricOn = d.clk.fabricOn := by
  obtain ⟨r, x, w, rfl⟩ := h.frame
  rfl

/-- Storage, the messages sent, the host side, the Strongroom, cartridges, links, rings and the network stand. -/
theorem parts (h : SamplesOnly d d') : d'.mem = d.mem ∧ d'.out = d.out ∧ d'.host = d.host ∧ d'.str = d.str ∧ d'.carts = d.carts ∧
    d'.links = d.links ∧ d'.rings = d.rings ∧ d'.noc = d.noc := by
  obtain ⟨r, x, w, rfl⟩ := h.frame
  exact ⟨rfl, rfl, rfl, rfl, rfl, rfl, rfl, rfl⟩

/-- PWR_STS and so the power state stand where no write to it waits. -/
theorem powerState (h : SamplesOnly d d') (ha : ∀ a ∈ d.stc.align, a.key ≠ pwrStsKey) : d'.powerState = d.powerState :=
  get_congr (h.pwrSts ha) fun hw => absurd hw (by decide)

end SamplesOnly

/-- The device that the stitch that ends leaves: its pool, commit point, NOPs, waits and counts while the fabric clock runs, and SN advanced. -/
def endStitch (d : Dev) : Dev :=
  { (if d.clk.fabricOn then d.gaugePool.powerCommit.nops.waiters.tallyStitch else d).overrun with sn := d.sn + 1 }

theorem endStitch_running {d : Dev} (h : d.clk.fabricOn = true) :
    d.endStitch = { d.gaugePool.powerCommit.nops.waiters.tallyStitch.overrun with sn := d.sn + 1 } := by
  rw [endStitch, if_pos h]

theorem endStitch_stopped {d : Dev} (h : d.clk.fabricOn = false) : d.endStitch = { d with sn := d.sn + 1 } := by
  rw [endStitch, h, if_neg Bool.false_ne_true, overrun, h, Bool.not_false, Bool.or_true, if_pos rfl]

/-- A boundary: the end of the stitch, the samples, and then the fabric's work or, without its clock, the wake from Recovery-Sleep. -/
theorem boundary_eq (inputs : List InputSample) (plan : Bool) {d : Dev} (hpor : d.clk.porN = true) :
    boundary inputs plan d =
      if d.clk.thermtrip then { d with sn := d.sn + 1 }
      else if (boundarySamples inputs d.endStitch).clk.fabricOn then (boundarySamples inputs d.endStitch).fabricBoundary plan
      else (boundarySamples inputs d.endStitch).sleepWake := when_true hpor

theorem sleepWake_awake {d : Dev} (h : d.powerState ≠ 3) : d.sleepWake = d := by
  rw [sleepWake, beq_false_of_ne h, Bool.false_and, Bool.false_and, if_neg Bool.false_ne_true]

end Dev

/-- Settles O3, by what the samples of a boundary leave alone. -/
theorem stitchBoundaryAdvances : Obligations.StitchBoundaryAdvances := by
  refine ⟨fun s inputs plan hpor htrip => run_eq_withDev ?_, fun s inputs plan hpor htrip hfab hstate halign => ?_,
    fun s inputs plan hpor htrip hfab => ?_⟩
  · rw [Dev.boundary_eq inputs plan hpor, if_pos htrip]
  · have h := Dev.SamplesOnly.boundarySamples inputs s.dev.endStitch
    rw [Dev.endStitch_stopped hfab] at h
    have hawake := Dev.sleepWake_awake (h.powerState halign ▸ hstate)
    refine ⟨s.withDev (Dev.boundarySamples inputs { s.dev with sn := s.dev.sn + 1 }), run_eq_withDev ?_, rfl, h.sn, h.slot, rfl, rfl, h.parts⟩
    rw [Dev.boundary_eq inputs plan hpor, htrip, if_neg Bool.false_ne_true, Dev.endStitch_stopped hfab, h.fabricOn.trans hfab,
      if_neg Bool.false_ne_true, hawake]
  · intro ended written sampled hon
    have h : Dev.SamplesOnly _ sampled := Dev.SamplesOnly.boundarySamples inputs ended
    refine ⟨run_eq_withDev ?_, h.sn⟩
    rw [Dev.boundary_eq inputs plan hpor, htrip, if_neg Bool.false_ne_true, Dev.endStitch_running hfab]
    exact if_pos hon

end Sys2Proof.Machine
end

