-- ==== Sys2Proof/Proofs/Releases.lean ====
section
/-! PROOFS. The commands of the stitch clock: the release of masked and quarantined sources, and the clock commands. -/

set_option Elab.async false

namespace Sys2Proof.Machine

open Sys2Proof.Laws

namespace Dev

/-! ### The release of a source -/

/-- The release of a source of the STC: where `held` stops it, `held` and the count `count` clear, and its sample is forgotten. -/
def release (held count : Fld) (d : Dev) (src : Nat) : Dev :=
  if d.flag (Bk.stc src) held then
    ((d.setFlag (Bk.stc src) held false).set (Bk.stc src) count 0).setFlag (Bk.stc src) F.STC_SRC_STS_SAMPLE false
  else d

theorem releaseMask_eq : releaseMask = release F.STC_SRC_STS_MASKED F.STC_SRC_STS_RUN := rfl

theorem releaseQuar_eq : releaseQuar = release F.STC_SRC_STS_QUAR F.STC_SRC_COUNT_ASSERTS := rfl

/-- The words of a source that a release writes. -/
def releaseKey (count : Fld) (src k : Nat) : Prop := k = rkey (Bk.stc src) 0x13C ∨ k = rkey (Bk.stc src) count.off

/-- What a release needs of its fields: `held` is a bit of STC_SRC_STS, `count` lies in a word of the page, and they and SAMPLE share no bit. -/
structure ReleaseFields (held count : Fld) : Prop where
  heldOff : held.off = 0x13C
  heldBit : held.width = 1
  countOff : count.off < 4096
  heldCount : Apart held count
  sampleHeld : Apart F.STC_SRC_STS_SAMPLE held
  sampleCount : Apart F.STC_SRC_STS_SAMPLE count

theorem releaseFields_mask : ReleaseFields F.STC_SRC_STS_MASKED F.STC_SRC_STS_RUN :=
  ⟨rfl, rfl, by decide, by decide, by decide, by decide⟩

theorem releaseFields_quar : ReleaseFields F.STC_SRC_STS_QUAR F.STC_SRC_COUNT_ASSERTS :=
  ⟨rfl, rfl, by decide, by decide, by decide, by decide⟩

section

variable {held count : Fld} (hf : ReleaseFields held count)

theorem release_regs (d : Dev) (src : Nat) : ∃ r, release held count d src = { d with regs := r } := by
  obtain ⟨r₁, h₁⟩ := set_eq d (Bk.stc src) held (b2n false)
  obtain ⟨r₂, h₂⟩ := set_eq { d with regs := r₁ } (Bk.stc src) count 0
  obtain ⟨r₃, h₃⟩ := set_eq { d with regs := r₂ } (Bk.stc src) F.STC_SRC_STS_SAMPLE (b2n false)
  unfold release setFlag
  split
  · exact ⟨r₃, by rw [h₁, h₂, h₃]⟩
  · exact ⟨_, rfl⟩

theorem releases_regs (l : List Nat) (d : Dev) : ∃ r, l.foldl (release held count) d = { d with regs := r } := by
  induction l generalizing d with
  | nil => exact ⟨_, rfl⟩
  | cons src l ih =>
    obtain ⟨r, hr⟩ := release_regs (held := held) (count := count) d src
    obtain ⟨r', hr'⟩ := ih (release held count d src)
    exact ⟨r', by rw [List.foldl_cons, hr', hr]⟩

include hf

theorem release_kept (d : Dev) (src : Nat) : WordsKept d (release held count d src) (releaseKey count src) := by
  unfold release
  split
  · exact ((WordsKept.set_narrow hf.heldCount.1 (.inl (by rw [hf.heldOff]))).trans
      (WordsKept.set_narrow hf.heldCount.2.1 (.inr rfl))).trans (WordsKept.set_narrow hf.sampleHeld.1 (.inl rfl))
  · exact WordsKept.refl _ _

/-- A released source is held no more. -/
theorem flag_release (d : Dev) (src : Nat) : (release held count d src).flag (Bk.stc src) held = false := by
  unfold release
  split
  · rw [setFlag, flag, get_set_apart _ _ _ hf.sampleHeld, get_set_apart _ _ _ hf.heldCount.symm]
    exact flag_setFlag d _ held false hf.heldCount.1 hf.heldBit
  · next h => simpa using h

/-- The count of a source that was held is cleared. -/
theorem get_release (d : Dev) (src : Nat) (h : d.flag (Bk.stc src) held = true) :
    (release held count d src).get (Bk.stc src) count = 0 := by
  rw [release, if_pos h, setFlag, get_set_apart _ _ _ hf.sampleCount, get_set _ _ _ _ hf.heldCount.2.1, Nat.zero_mod]

/-- A release leaves the words of other sources. -/
theorem get_release_ne (d : Dev) {src i : Nat} (hi : i ≠ src) (f : Fld) (hoff : f.off < 4096) (hw : f.lsb + f.width ≤ 32) :
    (release held count d src).get (Bk.stc i) f = d.get (Bk.stc i) f := by
  have hcount := hf.countOff
  refine get_congr (release_kept hf d src _ ?_) fun h => by omega
  unfold releaseKey rkey Bk.stc bankPage
  omega

theorem get_releases_ne {l : List Nat} (d : Dev) {i : Nat} (hi : i ∉ l) (f : Fld) (hoff : f.off < 4096) (hw : f.lsb + f.width ≤ 32) :
    (l.foldl (release held count) d).get (Bk.stc i) f = d.get (Bk.stc i) f := by
  induction l generalizing d with
  | nil => rfl
  | cons src l ih =>
    obtain ⟨hsrc, hl⟩ := List.ne_and_not_mem_of_not_mem_cons hi
    exact (ih _ hl).trans (get_release_ne hf d hsrc f hoff hw)

/-- The releases of a list of sources: registers alone change, and of those the words of the sources alone. -/
theorem releases_kept (l : List Nat) (d : Dev) :
    WordsKept d (l.foldl (release held count) d) fun k => ∃ src ∈ l, releaseKey count src k := by
  induction l generalizing d with
  | nil => exact WordsKept.refl _ _
  | cons src l ih =>
    intro k hk
    refine (ih _ k fun ⟨i, hi, h⟩ => hk ⟨i, List.mem_cons_of_mem _ hi, h⟩).trans ?_
    exact release_kept hf d src k fun h => hk ⟨src, List.mem_cons_self, h⟩

/-- Each source of a list without repetitions is released where its turn comes. -/
theorem releases_at {l : List Nat} (hl : l.Nodup) (d : Dev) {src : Nat} (hsrc : src ∈ l) :
    ∃ d' : Dev, d'.flag (Bk.stc src) held = d.flag (Bk.stc src) held ∧ ∀ f : Fld, f.off < 4096 → f.lsb + f.width ≤ 32 →
      (l.foldl (release held count) d).get (Bk.stc src) f = (release held count d' src).get (Bk.stc src) f := by
  obtain ⟨l₁, l₂, rfl⟩ := List.append_of_mem hsrc
  obtain ⟨hl₁, hl₂⟩ : src ∉ l₁ ∧ src ∉ l₂ := by
    rw [List.nodup_middle, List.nodup_cons, List.mem_append, not_or] at hl
    exact hl.1
  refine ⟨l₁.foldl (release held count) d, ?_, fun f hoff hw => ?_⟩
  · exact congrArg (· != 0) (get_releases_ne hf d hl₁ held (by rw [hf.heldOff]; decide) hf.heldCount.1)
  · rw [List.foldl_append, List.foldl_cons]
    exact get_releases_ne hf _ hl₂ f hoff hw

theorem flag_releases {l : List Nat} (hl : l.Nodup) (d : Dev) {src : Nat} (hsrc : src ∈ l) :
    (l.foldl (release held count) d).flag (Bk.stc src) held = false := by
  obtain ⟨d', -, hget⟩ := releases_at hf hl d hsrc
  rw [flag, hget held (by rw [hf.heldOff]; decide) hf.heldCount.1]
  exact flag_release hf d' src

theorem get_releases {l : List Nat} (hl : l.Nodup) (d : Dev) {src : Nat} (hsrc : src ∈ l) (h : d.flag (Bk.stc src) held = true) :
    (l.foldl (release held count) d).get (Bk.stc src) count = 0 := by
  obtain ⟨d', hflag, hget⟩ := releases_at hf hl d hsrc
  rw [hget count hf.countOff hf.heldCount.2.1]
  exact get_release hf d' src (hflag.trans h)

/-- What the release of a word of sources does. -/
theorem releaseWord_spec {d d' : Dev} {w : Nat} {v : BitVec 32} (h : d' = d.releaseWord (release held count) w v.toNat) :
    d' = { d with regs := d'.regs } ∧
    (∀ b < 32, v.getLsbD b = true → d'.flag (Bk.stc (32 * w + b)) held = false) ∧
    (∀ b < 32, v.getLsbD b = true → d.flag (Bk.stc (32 * w + b)) held = true → d'.get (Bk.stc (32 * w + b)) count = 0) ∧
    WordsKept d d' fun k => ∃ b < 32, v.getLsbD b = true ∧ releaseKey count (32 * w + b) k := by
  have hword : d' = ((bitList 32 v.toNat).map (32 * w + ·)).foldl (release held count) d := h.trans List.foldl_map.symm
  have hmem : ∀ b, b ∈ bitList 32 v.toNat ↔ b < 32 ∧ v.getLsbD b = true := fun b => by
    rw [bitList, List.mem_filter, List.mem_range, BitVec.testBit_toNat]
  have hnodup : ((bitList 32 v.toNat).map (32 * w + ·)).Nodup := (List.nodup_range.filter _).map fun _ _ => Nat.add_left_cancel
  have hsrc : ∀ b < 32, v.getLsbD b = true → 32 * w + b ∈ (bitList 32 v.toNat).map (32 * w + ·) := fun b hb hv =>
    List.mem_map_of_mem ((hmem b).mpr ⟨hb, hv⟩)
  obtain ⟨r, hr⟩ := releases_regs (held := held) (count := count) ((bitList 32 v.toNat).map (32 * w + ·)) d
  subst hword
  refine ⟨by rw [hr], fun b hb hv => flag_releases hf hnodup d (hsrc b hb hv), fun b hb hv => get_releases hf hnodup d (hsrc b hb hv),
    fun k hk => releases_kept hf _ d k fun ⟨i, hi, hkey⟩ => hk ?_⟩
  obtain ⟨b, hb, rfl⟩ := List.mem_map.mp hi
  obtain ⟨hlt, hv⟩ := (hmem b).mp hb
  exact ⟨b, hlt, hv, hkey⟩

end

end Dev

/-- Settles O6, by what the release of a word of sources does. -/
theorem stitchClockCommandsComplete : Obligations.StitchClockCommandsComplete := by
  refine ⟨fun s i hi => run_eq_withDev (when_true hi), fun s i hi => run_eq_withDev (when_true hi), fun s a w v hw hserves => ?_,
    fun s a w v hw hserves => ?_, fun s hpor hfab href => run_eq_withDev (when_true ?_), fun s href => run_eq_withDev (when_true ?_),
    fun s mr4 hfab hdue => run_eq_withDev (when_true ?_)⟩
  · obtain ⟨hregs, hflag, hcount, hkept⟩ := Dev.releaseWord_spec Dev.releaseFields_mask
      (congrArg (fun f => (s.dev.wrote Pg.stc).releaseWord f w v.toNat) Dev.releaseMask_eq)
    refine ⟨_, run_eq_withDev (Dev.writeTo_serves _ _ _ _ _ _ ?_), rfl, ?_⟩
    · rwa [Nat.mod_eq_of_lt hw]
    · rw [Nat.mod_eq_of_lt hw]
      exact ⟨hregs, hflag, hcount, fun k hk => hkept k fun ⟨b, hb, hv, hkey⟩ => hk ⟨b, hb, hv, hkey.elim id id⟩⟩
  · obtain ⟨hregs, hflag, hcount, hkept⟩ := Dev.releaseWord_spec Dev.releaseFields_quar
      (congrArg (fun f => (s.dev.wrote Pg.stc).releaseWord f w v.toNat) Dev.releaseQuar_eq)
    refine ⟨_, run_eq_withDev (Dev.writeTo_serves _ _ _ _ _ _ ?_), rfl, ?_⟩
    · rwa [Nat.mod_eq_of_lt hw]
    · rw [Nat.mod_eq_of_lt hw]
      exact ⟨hregs, hflag, hcount, hkept⟩
  · rw [hpor, hfab, href]; rfl
  · rw [href]; rfl
  · rw [hfab, hdue]; rfl

end Sys2Proof.Machine
end

