-- ==== Sys2Proof/Proofs/StartUp.lean ====
section
/-! PROOFS. Starts, the boot chain, Recovery-Sleep, the thermal trip, and what reset leaves. -/

set_option Elab.async false

namespace Sys2Proof.Machine

open Sys2Proof.Laws

namespace Dev

/-! ### The boot chain -/

/-- The boot ROM where no copy of a log entry disagrees. -/
theorem bootRom_intact {d : Dev} (chainOk : Bool) (hstep : atStep 0 d = true) (hgate : d.clk.gateHold = false)
    (hcopies : 3 ≤ d.str.fuses.lcCopies) :
    bootRom chainOk d =
      let d3 : Dev := { d with clk := { d.clk with bootStep := 1 }, str := { d.str with chainBad := !chainOk } }
      ((if chainOk then d3 else d3.raise Src.idChainInvalid 0 0x85 0).loadStrPages.newDebugNonce).setReady [1, 3] true := by
  unfold bootRom
  rw [when_true (by rw [hstep, hgate]; rfl)]
  dsimp only
  rw [modClk_str, if_neg (Nat.not_lt.mpr hcopies)]
  rfl

/-- The active slot holds a valid image. -/
theorem imageStep_valid {d : Dev} (hstep : atStep 2 d = true) (hlc : d.lcState ≠ 4) (htried : d.clk.bootTried = 0)
    (hcheck : d.slotCheck d.str.activeSlot = none) :
    imageStep d = d.modClk fun c => { c with bootStep := 4, bootSlot := d.str.activeSlot } := by
  unfold imageStep
  rw [when_true (by rw [hstep, bne_iff_ne.mpr hlc]; rfl), if_pos htried]
  dsimp only
  rw [hcheck]

/-- The active slot's image fails a check. -/
theorem imageStep_rejected {d : Dev} {k : Nat} (hstep : atStep 2 d = true) (hlc : d.lcState ≠ 4) (htried : d.clk.bootTried = 0)
    (hcheck : d.slotCheck d.str.activeSlot = some k) :
    imageStep d = (d.raise Src.imgRejected (16 * d.str.activeSlot + k) 0x85 0).modClk fun c => { c with bootTried := 1 } := by
  unfold imageStep
  rw [when_true (by rw [hstep, bne_iff_ne.mpr hlc]; rfl), if_pos htried]
  dsimp only
  rw [hcheck]
  dsimp only
  rw [if_pos htried]

theorem coreRelease_image {d : Dev} {im : FwImage} (hstep : atStep 4 d = true) (htest : d.clk.testHold = false)
    (him : (d.slot d.clk.bootSlot).image = some im) :
    coreRelease d = (({ d with str := { d.str with running := some im, loaded := [im.digest] } } : Dev).set
      Pg.str F.STR_FW_SLOT_RUNNING d.clk.bootSlot).modClk fun c => { c with bootStep := 6, coresRun := 0xF } := by
  unfold coreRelease
  rw [when_true (by rw [hstep, htest]; rfl), him]

theorem porRelease_ungated {d : Dev} {x : Straps} (hpor : d.clk.porN = false) (hgate : x.vsGate = false) :
    porRelease x d = ({ d with sn := 0, clk := { d.clk with
      porN := true, straps := x, starting := true, gateHold := false, tsBase := 0, tsSn := 0 } } : Dev).powerAll.loadStraps.freshLinks.set
        Pg.str F.STR_START_CAUSE 0 := by
  unfold porRelease
  rw [when_true (by rw [hpor]; rfl), hgate, if_neg Bool.false_ne_true]

/-! ### Recovery-Sleep -/

/-- What the entry of Recovery-Sleep loses: every domain but AON. -/
def sleepLoss (d : Dev) : Dev :=
  { d with
    regs := d.keptRegs false, host := {}, mem := {}, carts := [], links := [], twin := {}, rings := {}, dmv := {}, noc := {}, frogs := []
    bar := { d.bar with latch := tfilter aonPage d.bar.latch, waits := [], msix := [], token := [] }
    clk := { d.clk with fabricOn := false, coresRun := 0, bootStep := 0 }
    str := { d.str with sessions := [], spdmState := [], nonces := [], activation := none, grant := none, dbgAcc := none, running := none,
                        loaded := [] }
    tal := { partialDoms := 2 ^ 29 - 2 } }

/-- The state that Recovery-Sleep shows: domain 0 alone is on, the transition has ended, the straps are loaded. -/
def fallAsleep (d : Dev) : Dev :=
  (((d.set Pg.pwr F.PWR_DOM_STS_ON 1).set Pg.pwr F.PWR_STS_STATE 3).modPwr fun p =>
    { p with ready := 0, coreWait := 0, absent := 0 }).endTransition.loadStraps

theorem sleepEntry_entering {d : Dev} (h : entering 3 d = true) : sleepEntry d = d.sleepLoss.fallAsleep := when_true h

theorem loadStraps_eq (d : Dev) : ∃ r, d.loadStraps = { d with regs := r } := by
  obtain ⟨r, hr⟩ := foldl_set_eq Pg.hp F.HP_CFG_SPLIT (fun d n => b2n (d.clk.straps.bifurcate.getLsbD n)) (List.range 4) d
  obtain ⟨r', hr'⟩ := set_eq { d with regs := r } Pg.twn F.TWN_STS_ROLE (b2n d.clk.straps.twinRole)
  refine ⟨r', ?_⟩
  unfold loadStraps
  rw [hr]
  exact hr'

theorem endTransition_eq (d : Dev) : ∃ r w, d.endTransition = { d with regs := r, pwr := w } := by
  obtain ⟨r₁, h₁⟩ := set_eq d Pg.pwr F.PWR_STS_IN_PROGRESS (b2n false)
  obtain ⟨r₂, h₂⟩ := set_eq { d with regs := r₁ } Pg.pwr F.PWR_STS_COMMITTED (b2n false)
  obtain ⟨r₃, h₃⟩ := set_eq { d with regs := r₂ } Pg.pwr F.PWR_DONE_SN_SN d.sn
  unfold endTransition setFlag
  rw [h₁, h₂, h₃]
  obtain ⟨r₄, h₄⟩ := set_eq (({ d with regs := r₃ } : Dev).modPwr fun p => { p with beforeCommit := false, wakeAfter := none }) Pg.pwr
    F.PWR_MODE_GO _
  exact ⟨r₄, _, h₄⟩

/-- The end of a transition leaves the fields of PWR that share no bit with those it writes. -/
theorem get_endTransition (d : Dev) {g : Fld} (hprogress : Apart F.PWR_STS_IN_PROGRESS g) (hcommitted : Apart F.PWR_STS_COMMITTED g)
    (hgo : Apart F.PWR_MODE_GO g) (hbelow : g.off < 0x148) : d.endTransition.get Pg.pwr g = d.get Pg.pwr g := by
  have hkey : ∀ o, 0x148 ≤ o → rkey Pg.pwr g.off ≠ rkey Pg.pwr o := fun o ho => by simp only [rkey]; omega
  have hdone : ∀ (d : Dev) (v : Nat), (d.set Pg.pwr F.PWR_DONE_SN_SN v).get Pg.pwr g = d.get Pg.pwr g := fun d v =>
    get_set_ne d Pg.pwr Pg.pwr F.PWR_DONE_SN_SN g v (hkey _ (by decide)) (fun _ => hkey _ (by decide))
      fun hwide => absurd hgo.2.1 (Nat.not_le.mpr hwide)
  unfold endTransition syncGo setFlag
  rw [get_set_apart _ _ _ hgo, get_modPwr, hdone, get_set_apart _ _ _ hcommitted, get_set_apart _ _ _ hprogress]

/-- The straps are loaded into other pages than PWR. -/
theorem get_loadStraps (d : Dev) {g : Fld} (hg : g.off + 4 < 4096) : d.loadStraps.get Pg.pwr g = d.get Pg.pwr g := by
  unfold loadStraps
  rw [get_set_page_ne _ _ (by decide) (by decide) hg]
  exact get_foldl_set_page_ne _ (fun n => by simp only [Pg.pwr, Pg.hp]; omega) (by decide) hg _ _

theorem powerState_fallAsleep (d : Dev) : d.fallAsleep.powerState = 3 := by
  unfold powerState fallAsleep
  rw [get_loadStraps _ (by decide), get_endTransition _ (by decide) (by decide) (by decide) (by decide), get_modPwr]
  exact get_set _ _ _ _ (by decide)

theorem domsOn_fallAsleep (d : Dev) : d.fallAsleep.get Pg.pwr F.PWR_DOM_STS_ON = 1 := by
  unfold fallAsleep
  rw [get_loadStraps _ (by decide), get_endTransition _ (by decide) (by decide) (by decide) (by decide), get_modPwr,
    get_set_apart _ _ _ (by decide)]
  exact get_set _ _ _ _ (by decide)

theorem fallAsleep_eq (d : Dev) : ∃ r w, d.fallAsleep = { d with regs := r, pwr := w } := by
  obtain ⟨r₁, h₁⟩ := set_eq d Pg.pwr F.PWR_DOM_STS_ON 1
  obtain ⟨r₂, h₂⟩ := set_eq { d with regs := r₁ } Pg.pwr F.PWR_STS_STATE 3
  obtain ⟨r₃, w, h₃⟩ := endTransition_eq (({ d with regs := r₂ } : Dev).modPwr fun p => { p with ready := 0, coreWait := 0, absent := 0 })
  unfold fallAsleep
  rw [h₁, h₂, h₃]
  obtain ⟨r, hr⟩ := loadStraps_eq { d with regs := r₃, pwr := w }
  exact ⟨r, w, hr⟩

end Dev

/-- Settles O16, from each command's effect where its conditions hold. -/
theorem startUpCommandsComplete : Obligations.StartUpCommandsComplete := by
  refine ⟨fun s => rfl, fun s x hpor hgate => run_eq_withDev (Dev.porRelease_ungated hpor hgate),
    fun s hlock href => run_eq_withDev (when_true ?_),
    fun s hlock hsn => run_eq_withDev (when_true ?_), fun s hpor hfab hwarm hstart htrip => run_eq_withDev (when_true ?_),
    fun s hstep hgate hcopies => run_eq_withDev (Dev.bootRom_intact true hstep hgate hcopies),
    fun s hstep hgate hcopies => run_eq_withDev (Dev.bootRom_intact false hstep hgate hcopies),
    fun s hstep => run_eq_withDev (when_true hstep),
    fun s hstep hlc htried hcheck => run_eq_withDev (Dev.imageStep_valid hstep hlc htried hcheck),
    fun s k hstep hlc htried hcheck => run_eq_withDev (Dev.imageStep_rejected hstep hlc htried hcheck),
    fun s im hstep htest him => run_eq_withDev (Dev.coreRelease_image hstep htest him),
    fun s hentering => ?_, fun s hpor htrip => ?_⟩
  · rw [hlock, href]; rfl
  · rw [hlock, decide_eq_true hsn]; rfl
  · rw [hpor, hfab, hwarm, hstart, htrip]; rfl
  · obtain ⟨r, w, hr⟩ := Dev.fallAsleep_eq s.dev.sleepLoss
    have hstate := Dev.powerState_fallAsleep s.dev.sleepLoss
    have hdoms := Dev.domsOn_fallAsleep s.dev.sleepLoss
    have hexec := run_eq_withDev (Dev.sleepEntry_entering hentering)
    rw [hr] at hstate hdoms hexec
    exact ⟨_, hexec, rfl, rfl, hstate, hdoms, rfl, rfl, rfl, rfl, rfl, rfl, rfl, rfl, rfl, rfl, rfl, rfl⟩
  · refine ⟨_, run_eq_withDev (when_true ?_), rfl, rfl, rfl, rfl, rfl, rfl, rfl, rfl, fun k hk => ?_, rfl, rfl, rfl⟩
    · rw [hpor, htrip]; rfl
    · exact Dev.testBit_setReady_off _ (List.mem_range.mpr hk)

namespace Dev

/-! ### Reset -/

/-- PG_CTL of a listed page after reset. -/
theorem resetWord_pgCtl {p : Nat} (hkind : (pageKind p).isSome = true) (hp : p < 0x100000) :
    resetWord (rkey p 8) = BitVec.ofNat 32 (b2n (enableAtReset p)) := by
  obtain ⟨k, hk⟩ := Option.isSome_iff_exists.mp hkind
  have hpage : rkey p 8 / 4096 = p := by unfold rkey; omega
  have hoff : rkey p 8 % 4096 = 8 := by unfold rkey; omega
  unfold resetWord
  simp only [hpage, hoff, if_pos hp, hk, if_true]

theorem enabled_reset {p : Nat} (hkind : (pageKind p).isSome = true) (hp : p < 0x100000) :
    State.reset.dev.enabled p = enableAtReset p := by
  have hword : State.reset.dev.wordAt (rkey p 8) = BitVec.ofNat 32 (b2n (enableAtReset p)) := resetWord_pgCtl hkind hp
  unfold enabled flag get
  rw [if_pos (by decide), word_eq]
  simp only [F.PG_CTL_ENABLE, hword]
  cases enableAtReset p <;> rfl

/-- R63: the pages that are enabled after reset, all among the single-page blocks. -/
theorem enableAtReset_eq (p : Nat) : enableAtReset p =
    (p == Pg.gen || p == Pg.stc || p == Pg.pwr || p == Pg.fcu || p == Pg.str || p == Pg.mgc || p == Pg.noc) := by
  by_cases hp : p < 0x11
  · have h : ∀ p < 0x11, enableAtReset p =
        (p == Pg.gen || p == Pg.stc || p == Pg.pwr || p == Pg.fcu || p == Pg.str || p == Pg.mgc || p == Pg.noc) := by decide
    exact h p hp
  · have hpages : ∀ q < 0x11, (p == q) = false := fun q hq => beq_false_of_ne (by omega)
    rw [hpages Pg.gen (by decide), hpages Pg.stc (by decide), hpages Pg.pwr (by decide), hpages Pg.fcu (by decide),
      hpages Pg.str (by decide), hpages Pg.mgc (by decide), hpages Pg.noc (by decide)]
    unfold enableAtReset pageKind
    rw [if_neg hp]
    split_ifs <;> rfl

end Dev

/-- Settles O53: the tables are empty after reset, so a register reads its value of the "At reset" column. -/
theorem resetHoldsTheGivenValues : Obligations.ResetHoldsTheGivenValues := by
  refine ⟨rfl, rfl, rfl, rfl, rfl, rfl, rfl, fun p hkind hp => ?_, ?_⟩
  · exact (Dev.enabled_reset hkind hp).trans (Dev.enableAtReset_eq p)
  · decide

end Sys2Proof.Machine
end

