-- ==== Sys2Proof/Proofs/RegisterWrites.lean ====
section
/-! PROOFS. REGISTER_WRITE: the word that a plain write stores, the writes that are dropped, and accesses to reserved slots. -/

set_option Elab.async false

namespace Sys2Proof.Machine

open Sys2Proof.Laws

/-! ### Bits replaced under a mask -/

/-- Numbers that share no bit add without a carry. -/
theorem add_eq_or_of_and_eq_zero {a b : Nat} (h : a &&& b = 0) : a + b = a ||| b := by
  have hab : a + b < 2 ^ (a + b) := Nat.lt_two_pow_self
  have ha : a < 2 ^ (a + b) := by omega
  have hb : b < 2 ^ (a + b) := by omega
  have hsum := congrArg BitVec.toNat (BitVec.add_eq_or_of_and_eq_zero (BitVec.ofNatLT a ha) (BitVec.ofNatLT b hb)
    (BitVec.eq_of_toNat_eq (by simpa using h)))
  simpa [Nat.mod_eq_of_lt hab] using hsum

theorem clearBits_eq_ldiff (n m : Nat) : clearBits n m = n.ldiff m := by
  have hsplit : (n &&& m) ||| n.ldiff m = n := by
    refine Nat.eq_of_testBit_eq fun i => ?_
    rw [Nat.testBit_or, Nat.testBit_and, Nat.testBit_ldiff]
    cases n.testBit i <;> cases m.testBit i <;> rfl
  have hapart : (n &&& m) &&& n.ldiff m = 0 := by
    refine Nat.eq_of_testBit_eq fun i => ?_
    rw [Nat.testBit_and, Nat.testBit_and, Nat.testBit_ldiff, Nat.zero_testBit]
    cases n.testBit i <;> cases m.testBit i <;> rfl
  have hsum : (n &&& m) + n.ldiff m = n := (add_eq_or_of_and_eq_zero hapart).trans hsplit
  unfold clearBits
  omega

/-- A write under a mask takes the bits of the mask from the value written. -/
theorem testBit_clearBits_add (n m v i : Nat) :
    (clearBits n m + (v &&& m)).testBit i = if m.testBit i then v.testBit i else n.testBit i := by
  have hapart : n.ldiff m &&& (v &&& m) = 0 := by
    refine Nat.eq_of_testBit_eq fun i => ?_
    rw [Nat.testBit_and, Nat.testBit_and, Nat.testBit_ldiff, Nat.zero_testBit]
    cases m.testBit i <;> simp
  rw [clearBits_eq_ldiff, add_eq_or_of_and_eq_zero hapart, Nat.testBit_or, Nat.testBit_and, Nat.testBit_ldiff]
  cases m.testBit i <;> simp

namespace Dev

/-! ### A word that is stored at once -/

theorem rkey_div_mod (o : Nat) : rkey (o / 4096) (o % 4096) = o := Nat.div_add_mod o 4096

theorem store_now (d : Dev) (p off m v : Nat) :
    d.store p off m v false = d.setWord p off (BitVec.ofNat 32 (clearBits (d.word p off).toNat m + (v &&& m))) := rfl

/-- The word that a write under a mask leaves. -/
theorem getLsbD_store (d : Dev) (p off m v : Nat) {i : Nat} (hi : i < 32) :
    ((d.store p off m v false).wordAt (rkey p off)).getLsbD i =
      if m.testBit i then v.testBit i else (d.wordAt (rkey p off)).getLsbD i := by
  rw [store_now, wordAt_setWord, if_pos rfl, BitVec.getLsbD_ofNat, testBit_clearBits_add, BitVec.testBit_toNat, word_eq]
  simp [hi]

theorem store_kept (d : Dev) (p off m v : Nat) : WordsKept d (d.store p off m v false) (· = rkey p off) := fun k hk => by
  rw [store_now, wordAt_setWord, if_neg hk]

/-! ### REGISTER_WRITE -/

/-- An aligned write of four bytes lies in one page. -/
theorem barWrite_four {a : Agent} {o : Nat} (v : Nat) (d : Dev) (hal : o % 4 = 0) (hpage : (pageKind (o / 4096)).isSome = true) :
    barWrite a o 4 v d = d.writePart a (o / 4096) (o % 4096) 4 v := by
  unfold barWrite writeOne
  dsimp only
  rw [if_pos (by omega), Option.isNone_eq_false_iff.mpr hpage, if_neg Bool.false_ne_true, if_pos (by omega)]

/-- A narrow or misaligned write within one page is malformed. -/
theorem barWrite_malformed {a : Agent} {o width : Nat} (v : Nat) (d : Dev) (hpage : (pageKind (o / 4096)).isSome = true)
    (hfit : o % 4096 + width ≤ 4096) (h4 : ¬ (width = 4 ∧ o % 4 = 0)) (h8 : ¬ (width = 8 ∧ o % 8 = 0)) :
    barWrite a o width v d = d.writeMalformed a (o / 4096) (o % 4096) := by
  unfold barWrite writeOne
  dsimp only
  rw [if_pos (by omega), Option.isNone_eq_false_iff.mpr hpage, if_neg Bool.false_ne_true, if_neg (by omega)]

/-- Where a page serves a write of four bytes, the write counts itself and its word takes effect. -/
theorem writePart_serves (d : Dev) {a : Agent} {p off : Nat} (v : Nat) (h : d.Serves a p off) :
    d.writePart a p off 4 v = (d.wrote p).writeWord a p off (v % 2 ^ 32) := by
  obtain ⟨-, hpage, hreg, hheld, hready⟩ := h
  unfold writePart writeWords wrote
  simp only [mayWritePage_tally, mayWriteReg_tally, domHeld_tally, pageReady_tally, hpage, hreg, hheld, hready]
  rfl

/-- A write that the page's mode denies the agent. -/
theorem writePart_denied (d : Dev) {a : Agent} {p off : Nat} (v : Nat) (h : d.mayWritePage a p off = false) :
    d.writePart a p off 4 v = (d.wrote p).deny a (4096 * p + off) := by
  unfold writePart wrote
  simp only [mayWritePage_tally, h]
  rfl

/-- A write to a page that is powered but not ready is dropped. -/
theorem writePart_notReady (d : Dev) {a : Agent} {p off : Nat} (v : Nat) (hpage : d.mayWritePage a p off = true)
    (hreg : d.mayWriteReg a (whoOf p off) = true) (hheld : d.domHeld (pageDomain p) = false) (hready : d.pageReady p = false) :
    d.writePart a p off 4 v = d.wrote p := by
  unfold writePart wrote
  simp only [mayWritePage_tally, mayWriteReg_tally, domHeld_tally, pageReady_tally, hpage, hreg, hheld, hready]
  rfl

/-- An agent but the debug port raises "BAR2 access denied". -/
theorem deny_of_ne_debug (d : Dev) {a : Agent} (off : Nat) (h : a ≠ .debug) :
    d.deny a off = d.raise Src.barDenied off (agentMaster a) 10 := by
  cases a with
  | debug => exact absurd rfl h
  | ld | core | strongroom => rfl

theorem agentAcc_of_ne_debug {a : Agent} (h : a ≠ .debug) : agentAcc a = 10 := by
  cases a with
  | debug => exact absurd rfl h
  | ld | core | strongroom => rfl

/-! ### Reserved slots (R52) -/

theorem writeOne_reserved (d : Dev) (a : Agent) {p : Nat} (off width v : Nat) (h : (pageKind p).isNone = true) :
    d.writeOne a p off width v = d := if_pos h

theorem readOne_reserved (d : Dev) (a : Agent) {p : Nat} (off width : Nat) (h : (pageKind p).isNone = true) :
    d.readOne a p off width = (some 0, d) := if_pos h

theorem barWrite_reserved (a : Agent) {o width : Nat} (v : Nat) (d : Dev) (h : (pageKind (o / 4096)).isNone = true)
    (hnext : ¬ width ≤ 4096 - o % 4096 → (pageKind (o / 4096 + 1)).isNone = true) : barWrite a o width v d = d := by
  unfold barWrite
  dsimp only
  rw [writeOne_reserved d a _ _ _ h]
  split
  · rfl
  · next hcross => rw [writeOne_reserved d a _ _ _ h, writeOne_reserved d a _ _ _ (hnext hcross)]

theorem barRead_reserved (a : Agent) {o width : Nat} (d : Dev) (hpos : 0 < width) (h : (pageKind (o / 4096)).isNone = true)
    (hnext : ¬ width ≤ 4096 - o % 4096 → (pageKind (o / 4096 + 1)).isNone = true) :
    barRead a o width d = d.emit (.barData a o width 0) := by
  unfold barRead
  dsimp only
  rw [if_neg (by omega), readOne_reserved d a _ _ h, readOne_reserved d a _ _ h]
  dsimp only
  split
  · rfl
  · next hcross =>
    rw [readOne_reserved d a _ _ (hnext hcross)]
    simp

/-! ### A plain register word -/

/-- The blocks whose words a write may change beyond their RW fields or hold back. -/
def HoldsBack (k : PageKind) : Prop := k = .dc ∨ k = .dmv ∨ k = .twn ∨ k = .ldm ∨ k = .dbg ∨ k = .noc

theorem rwMask_plain (d : Dev) {p : Nat} {k : PageKind} (hk : pageKind p = some k) (h : ¬ HoldsBack k) (off rw v : Nat) :
    d.rwMask p off rw v = rw := by
  unfold rwMask
  rw [hk]
  split
  · next e => cases e; exact absurd (.inl rfl) h
  · next e => cases e; exact absurd (.inr (.inl rfl)) h
  · next e => cases e; exact absurd (.inr (.inr (.inl rfl))) h
  · rfl

theorem afterWrite_plain (d : Dev) {p : Nat} {k : PageKind} (hk : pageKind p = some k) (h : ¬ HoldsBack k) (off v : Nat) :
    d.afterWrite p off v = d := by
  unfold afterWrite
  rw [hk]
  split
  · next e => cases e; exact absurd (.inl rfl) h
  · rfl

/-- The device after the fields of a mask took their bits of `v`. -/
def storeFields (d : Dev) (p off m v : Nat) : Dev := if m = 0 then d else d.store p off m (v &&& m) false

/-- A write of a plain register word stores its RW fields and does nothing else. -/
theorem writeWord_plain (d : Dev) (a : Agent) {p off v : Nat} {k : PageKind} {r : RegRow} (hk : pageKind p = some k)
    (hr : findRow k off = some r) (hbank : r.bank = false) (hal : r.al = false) (hw1c : r.w1c = 0) (hplain : ¬ HoldsBack k)
    (hign : d.writeIgnored p off v = false) :
    d.writeWord a p off v = d.storeFields p off ((r.rw >>> (8 * r.half off)) % 2 ^ 32) v := by
  obtain ⟨-, -, -, hldm, hdbg, hnoc⟩ : k ≠ .dc ∧ k ≠ .dmv ∧ k ≠ .twn ∧ k ≠ .ldm ∧ k ≠ .dbg ∧ k ≠ .noc := by
    simpa only [HoldsBack, not_or] using hplain
  have hpd : p ≠ Pg.dbg := fun h => hdbg (Option.some.inj (hk.symm.trans (h ▸ rfl)))
  have hpn : p ≠ Pg.noc := fun h => hnoc (Option.some.inj (hk.symm.trans (h ▸ rfl)))
  unfold writeWord storeFields
  simp only [hk, hr, hbank, hal, hw1c, rwMask_plain d hk hplain, afterWrite_plain _ hk hplain, hign, hpd, hpn, hldm, Nat.zero_shiftRight,
    Nat.zero_mod, Bool.false_eq_true, false_and, if_false, if_true]

theorem storeFields_eq (d : Dev) (p off m v : Nat) : ∃ r, d.storeFields p off m v = { d with regs := r } := by
  unfold storeFields
  split <;> exact ⟨_, rfl⟩

theorem storeFields_kept (d : Dev) (p off m v : Nat) : WordsKept d (d.storeFields p off m v) (· = rkey p off) := by
  unfold storeFields
  split
  · exact WordsKept.refl d _
  · exact store_kept d p off m _

/-- The fields of the mask take the bits written, the other bits stay. -/
theorem getLsbD_storeFields (d : Dev) (p off m v : Nat) {i : Nat} (hi : i < 32) :
    ((d.storeFields p off m v).wordAt (rkey p off)).getLsbD i =
      if m.testBit i then v.testBit i else (d.wordAt (rkey p off)).getLsbD i := by
  unfold storeFields
  split
  · next h => rw [h, Nat.zero_testBit, if_neg Bool.false_ne_true]
  · rw [getLsbD_store d p off m _ hi]
    split
    · next h => rw [Nat.testBit_and, h, Bool.and_true]
    · rfl

end Dev

/-- The effect of REGISTER_WRITE on BAR2, by an agent but the debug port. -/
theorem exec_registerWrite {a : Agent} {o : Nat} (width : Nat) (v : BitVec 64) (s : State) (ho : o < 2 ^ 32) (ha : a ≠ .debug) :
    exec (.registerWrite a o width v) s = .next (s.withDev (Dev.barWrite a o width v.toNat s.dev)) :=
  run_eq_withDev (by rw [if_pos ho, Dev.portUsed_of_ne_debug _ ha])

/-- Settles O7: the page serves the write, and its word is plain. -/
theorem registerWriteStoresItsFields : Obligations.RegisterWriteStoresItsFields := by
  intro s a o v k r ho hal ha hserves htally hk hr hbank halign hw1c hdc hdmv htwn hldm hdbg hnoc hign
  have hplain : ¬ Dev.HoldsBack k := by simp only [Dev.HoldsBack, hdc, hdmv, htwn, hldm, hdbg, hnoc, or_false, not_false_eq_true]
  have hdev : Dev.barWrite a o 4 v.toNat s.dev = (s.dev.wrote (o / 4096)).storeFields (o / 4096) (o % 4096)
      ((r.rw >>> (8 * r.half (o % 4096))) % 2 ^ 32) (v.toNat % 2 ^ 32) := by
    rw [Dev.barWrite_four _ _ hal (Option.isSome_of_eq_some hk), Dev.writePart_serves _ _ hserves,
      Dev.writeWord_plain _ _ hk hr hbank halign hw1c hplain hign]
  have hwrote : Dev.WordsKept s.dev (s.dev.wrote (o / 4096)) (Dev.tallyKey (o / 4096)) := Dev.tally_kept _ _ _ _
  dsimp only
  generalize (r.rw >>> (8 * r.half (o % 4096))) % 2 ^ 32 = rw at hdev ⊢
  have hbits := fun i (hi : i < 32) =>
    Dev.getLsbD_storeFields (s.dev.wrote (o / 4096)) (o / 4096) (o % 4096) rw (v.toNat % 2 ^ 32) hi
  have hkept := Dev.storeFields_kept (s.dev.wrote (o / 4096)) (o / 4096) (o % 4096) rw (v.toNat % 2 ^ 32)
  obtain ⟨regs, hregs⟩ := Dev.storeFields_eq (s.dev.wrote (o / 4096)) (o / 4096) (o % 4096) rw (v.toNat % 2 ^ 32)
  obtain ⟨_, _, htallied⟩ := Dev.tally_eq s.dev (o / 4096) 0x0004 1
  rw [Dev.rkey_div_mod] at hbits hkept
  refine ⟨_, exec_registerWrite 4 v s ho ha, rfl, ?_⟩
  rw [State.withDev, hdev]
  refine ⟨fun i hi => ?_, fun x hx => ?_, ?_, ?_⟩
  · rw [hbits i hi, hwrote o htally, Nat.testBit_mod_two_pow, BitVec.testBit_toNat]
    simp [hi]
  · obtain ⟨hne, hnt⟩ := not_or.mp hx
    exact (hkept x hne).trans (hwrote x hnt)
  · rw [hregs, Dev.wrote, htallied]
  · rw [hregs]

/-- Settles O9, from the branches of a write within one page. -/
theorem registerWriteDropped : Obligations.RegisterWriteDropped := by
  refine ⟨fun s a o width v ho ha hpage hfit h4 h8 => ?_, fun s a o v ho hal ha hpage hmay => ?_,
    fun s a o v ho hal ha hpage hmay hreg hheld hready => ?_⟩
  · rw [exec_registerWrite width v s ho ha, Dev.barWrite_malformed _ _ hpage hfit h4 h8, Dev.writeMalformed, Nat.div_add_mod,
      Dev.agentAcc_of_ne_debug ha]
  · rw [exec_registerWrite 4 v s ho ha, Dev.barWrite_four _ _ hal hpage, Dev.writePart_denied _ _ hmay, Nat.div_add_mod,
      Dev.deny_of_ne_debug _ _ ha]
    rfl
  · rw [exec_registerWrite 4 v s ho ha, Dev.barWrite_four _ _ hal hpage, Dev.writePart_notReady _ _ hmay hreg hheld hready]
    rfl

/-- Settles O10: each part of the access lies in a reserved slot. -/
theorem reservedSlotsAreInert : Obligations.ReservedSlotsAreInert := by
  intro s a o width v ho hres hfit
  have hnext : ¬ width ≤ 4096 - o % 4096 → (pageKind (o / 4096 + 1)).isNone = true := fun h => hfit.resolve_left (by omega)
  refine ⟨run_eq_withDev ?_, fun hpos => run_eq_withDev ?_, Dev.portUsed_of_ne_debug _⟩
  · rw [if_pos ho]
    exact Dev.barWrite_reserved _ _ _ hres hnext
  · rw [if_pos ho]
    exact Dev.barRead_reserved _ _ hpos hres hnext

end Sys2Proof.Machine
end

