-- ==== Sys2Proof/Proofs/PageInterrupts.lean ====
section
/-! PROOFS. Writes of the common page header, and where a page interrupt goes. -/

set_option Elab.async false

namespace Sys2Proof.Machine

open Sys2Proof.Laws

namespace Dev

/-! ### Header fields that a counted write leaves alone -/

/-- A counted write leaves the fields of the page header below the Tally counters. -/
theorem get_wrote_header (d : Dev) (p q : Nat) {f : Fld} (hoff : f.off < 0xA0) (hw : f.lsb + f.width ≤ 32) :
    (d.wrote p).get q f = d.get q f :=
  get_congr (tally_kept d p _ _ _ (by unfold tallyKey rkey; omega)) fun hwide => absurd hw (Nat.not_le.mpr hwide)

theorem flag_wrote_header (d : Dev) (p q : Nat) {f : Fld} (hoff : f.off < 0xA0) (hw : f.lsb + f.width ≤ 32) :
    (d.wrote p).flag q f = d.flag q f := by
  unfold flag
  rw [get_wrote_header d p q hoff hw]

theorem pagePending_wrote (d : Dev) (p q : Nat) : (d.wrote p).pagePending q = d.pagePending q := by
  unfold pagePending
  rw [get_wrote_header d p q (by decide) (by decide), get_wrote_header d p q (by decide) (by decide),
    flag_wrote_header d p q (by decide) (by decide)]

/-! ### The effects of header writes -/

theorem enableEffect_on {d : Dev} {p : Nat} (h : d.flag p F.PG_CTL_FROG = false) :
    enableEffect p true d = (((d.setFlag p F.PG_CTL_ENABLE true).setFlag p F.PG_STS_FROGGED false).serviceOn p).afterHeaderWrite p := by
  unfold enableEffect
  rw [h]
  rfl

theorem enableEffect_off (d : Dev) (p : Nat) : enableEffect p false d = (d.setFlag p F.PG_CTL_ENABLE false).afterHeaderWrite p := by
  unfold enableEffect
  rw [if_neg Bool.false_ne_true]

/-- R64: a 1 to ENABLE is ignored while FROG reads 1. -/
theorem enableEffect_ignored {d : Dev} {p : Nat} (h : d.flag p F.PG_CTL_FROG = true) : enableEffect p true d = d.afterHeaderWrite p := by
  unfold enableEffect
  rw [h]
  rfl

theorem frogEffect_asks {d : Dev} {p : Nat} (hpage : frogPage p = true) (h : d.flag p F.PG_CTL_FROG = false) :
    frogEffect p d = ((d.setFlag p F.PG_CTL_FROG true).askFrog (.page p) none).afterHeaderWrite p := by
  unfold frogEffect
  rw [hpage, h]
  rfl

/-- R68, R69: a write of PG_INT_SET sends the interrupt where the page becomes pending. -/
theorem intSet_eq (d : Dev) {p : Nat} {k : PageKind} (v : Nat) (hk : pageKind p = some k) :
    intSet p v d =
      let d' := d.set p F.PG_INT_STS_STS (d.get p F.PG_INT_STS_STS ||| v % 2 ^ intStsBits k)
      if d.pagePending p = false ∧ d'.pagePending p = true then d'.pageInterrupt p else d' := by
  unfold intSet
  rw [hk]
  simp only [Bool.and_eq_true, Bool.not_eq_true']

/-! ### The route of a page interrupt (R68, R71, R72) -/

theorem pageInterrupt_masked {d : Dev} {p : Nat} (h : d.flag (Bk.route p) F.GEN_IRQ_ROUTE_MASK = true) : d.pageInterrupt p = d := if_pos h

theorem pageInterrupt_nowhere {d : Dev} {p : Nat} (h : d.get (Bk.route p) F.GEN_IRQ_ROUTE_DEST = 0) : d.pageInterrupt p = d := by
  unfold pageInterrupt
  dsimp only
  rw [h]
  exact ite_self d

theorem pageInterrupt_toHost {d : Dev} {p : Nat} (hmask : d.flag (Bk.route p) F.GEN_IRQ_ROUTE_MASK = false)
    (h : d.get (Bk.route p) F.GEN_IRQ_ROUTE_DEST = 1) : d.pageInterrupt p = (d.hostInterrupt p).tally p 0x0006 1 := by
  unfold pageInterrupt
  rw [hmask, if_neg Bool.false_ne_true]
  dsimp only
  rw [h]
  rfl

theorem pageInterrupt_toCore {d : Dev} {p : Nat} (hmask : d.flag (Bk.route p) F.GEN_IRQ_ROUTE_MASK = false)
    (h : d.get (Bk.route p) F.GEN_IRQ_ROUTE_DEST = 2) :
    d.pageInterrupt p = (d.coreInterrupt (d.get (Bk.route p) F.GEN_IRQ_ROUTE_CORE) p).tally p 0x0006 1 := by
  unfold pageInterrupt
  rw [hmask, if_neg Bool.false_ne_true]
  dsimp only
  rw [h]
  rfl

theorem coreInterrupt_out_running {d : Dev} (core page : Nat) (h : d.flag Pg.str F.STR_ACT_CTL_PAUSED = false) :
    (d.coreInterrupt core page).out = d.out ++ [.coreIrq core page] := by
  unfold coreInterrupt
  rw [h, if_neg Bool.false_ne_true]
  rfl

theorem hostInterrupt_valid {d : Dev} {p : Nat}
    (h : d.get (Bk.route p) F.GEN_IRQ_ROUTE_VECTOR < d.msixCount (d.get (Bk.route p) F.GEN_IRQ_ROUTE_LD)) :
    d.hostInterrupt p = d.sendMsix (d.get (Bk.route p) F.GEN_IRQ_ROUTE_LD) (d.get (Bk.route p) F.GEN_IRQ_ROUTE_VECTOR) := if_pos h

theorem sendMsix_out (d : Dev) (ld vec : Nat) :
    (d.sendMsix ld vec).out = if (d.msixEntry ld vec).testBit 0 then d.out else d.out ++ [.msix ld vec] := by
  unfold sendMsix
  dsimp only
  split <;> rfl

/-- R71: a masked entry keeps the message as its pending bit. -/
theorem msixEntry_sendMsix (d : Dev) (ld vec : Nat) :
    (d.sendMsix ld vec).msixEntry ld vec =
      if (d.msixEntry ld vec).testBit 0 then setBit (d.msixEntry ld vec) 1 else d.msixEntry ld vec := by
  unfold sendMsix
  dsimp only
  split
  · exact tget_tput_same _ _ _ _
  · rfl

theorem msixEntry_tally (d : Dev) (p ev k ld vec : Nat) : (d.tally p ev k).msixEntry ld vec = d.msixEntry ld vec := by
  unfold msixEntry
  rw [tally_bar]

end Dev

/-- A register write that its page serves leaves its effect on the device that has counted it. -/
theorem run_writeTo {s : State} {a : Agent} {p off : Nat} {f : Effect} {d : Dev} (v : Nat) (h : s.dev.Serves a p off)
    (hd : f (s.dev.wrote p) = d) : s.run (Dev.writeTo v a p off f) = .next (s.withDev d) :=
  run_eq_withDev ((Dev.writeTo_serves v a p off f s.dev h).trans hd)

/-- Settles O11, from the effect of each header write. -/
theorem headerWritesComplete : Obligations.HeaderWritesComplete := by
  refine ⟨fun s a p h hfrog => run_writeTo _ h (Dev.enableEffect_on ?_), fun s a p h => run_writeTo _ h (Dev.enableEffect_off _ _),
    fun s a p h hfrog => run_writeTo _ h (Dev.enableEffect_ignored ?_),
    fun s a p h hpage hfrog => run_writeTo _ h (Dev.frogEffect_asks hpage ?_), fun s a p on h => run_writeTo _ h rfl,
    fun s a p v c h => run_writeTo _ h ?_, fun s a p v h => run_writeTo _ h rfl, fun s a p v k h hk => run_writeTo _ h ?_⟩
  · rwa [Dev.flag_wrote_header _ _ _ (by decide) (by decide)]
  · rwa [Dev.flag_wrote_header _ _ _ (by decide) (by decide)]
  · rwa [Dev.flag_wrote_header _ _ _ (by decide) (by decide)]
  · rw [Dev.intStsClear, Dev.get_wrote_header _ _ _ (by decide) (by decide)]
  · rw [Dev.intSet_eq _ _ hk, Dev.get_wrote_header _ _ _ (by decide) (by decide), Dev.pagePending_wrote]

/-- Settles O12, by the destination that the route names. -/
theorem pageInterruptGoesByItsRoute : Obligations.PageInterruptGoesByItsRoute := by
  refine ⟨fun d p h => h.elim Dev.pageInterrupt_masked Dev.pageInterrupt_nowhere, fun d p hmask hdest hrun => ?_,
    fun d p hmask hdest hvec => ?_⟩
  · rw [Dev.pageInterrupt_toCore hmask hdest, Dev.tally_out, Dev.coreInterrupt_out_running _ _ hrun]
  · rw [Dev.pageInterrupt_toHost hmask hdest, Dev.tally_out, Dev.msixEntry_tally, Dev.hostInterrupt_valid hvec]
    exact ⟨Dev.sendMsix_out _ _ _, Dev.msixEntry_sendMsix _ _ _⟩

end Sys2Proof.Machine
end

