-- ==== Sys2Proof/Proofs/TallyWrites.lean ====
section
/-! PROOFS. Writes of the GEN tables, and of the Tally and profiling counters. -/

set_option Elab.async false

namespace Sys2Proof.Machine

open Sys2Proof.Laws

/-! ### Fields and words that a counted write leaves alone -/

namespace Dev

theorem get_wrote (d : Dev) (p q : Nat) {f : Fld} (h1 : 0x100 ≤ f.off) (h2 : f.off + 4 < 4096) : (d.wrote p).get q f = d.get q f :=
  get_tally d p _ _ q f h1 h2

theorem flag_wrote (d : Dev) (p q : Nat) {f : Fld} (h1 : 0x100 ≤ f.off) (h2 : f.off + 4 < 4096) : (d.wrote p).flag q f = d.flag q f :=
  flag_tally d p _ _ q f h1 h2

theorem word_wrote (d : Dev) (p q : Nat) {off : Nat} (h1 : 0x100 ≤ off) (h2 : off < 4096) : (d.wrote p).word q off = d.word q off :=
  tally_kept d p _ _ _ (not_tallyKey p q off h1 h2)

/-- A stitch-aligned write waits for the next boundary. -/
theorem store_aligned (d : Dev) (p off m v : Nat) :
    d.store p off m v true = { d with stc := { d.stc with align := d.stc.align ++ [⟨d.sn + 1, rkey p off, m, v⟩] } } := rfl

end Dev

/-! ### The GEN tables (R59 to R61, R68, R73) -/

/-- R68: a route entry whose MASK clears while the page is pending sends the interrupt. -/
theorem setRoute_listed (d : Dev) {p : Nat} (v : Nat) (h : (pageKind p).isSome = true) :
    setRoute p v d =
      let d' := d.setWord (Bk.route p) 0x124
        (BitVec.ofNat 32 (clearBits (d.word (Bk.route p) 0x124).toNat routeMask + (v &&& routeMask)))
      if d.flag (Bk.route p) F.GEN_IRQ_ROUTE_MASK = true ∧ d'.flag (Bk.route p) F.GEN_IRQ_ROUTE_MASK = false ∧ d'.pagePending p = true
        then d'.pageInterrupt p else d' := by
  unfold setRoute
  rw [Option.isNone_eq_false_iff.mpr h, if_neg Bool.false_ne_true, Dev.store_now]
  simp only [Bool.and_eq_true, Bool.not_eq_true', and_assoc]

theorem setAccess_open (d : Dev) {p : Nat} (v : Nat) (h : fixedAccess p = false) : setAccess p v d = d.store (Bk.acc p) 0x12C 0xFF v true := by
  unfold setAccess
  rw [h, if_neg Bool.false_ne_true]

/-- R73: a write of the whole mask that leaves a management LD. -/
theorem setMgmt_both (d : Dev) {v : Nat} (h : v ≠ 0) :
    setMgmt .both v d =
      (d.store Pg.gen 0x130 (2 ^ 32 - 1) (v % 2 ^ 32) true).store Pg.gen 0x134 (2 ^ 32 - 1) (v / 2 ^ 32) true := if_neg h

/-! ### Tally counters (R561, R562) -/

theorem talOvf_alone (d : Dev) (p v : Nat) : talOvf p v 0 d = d.set p F.TAL_OVF_OVF (clearBits (d.get p F.TAL_OVF_OVF) v) := by
  unfold talOvf
  simp [clearBits]

/-- R562: a count that passes 2^48 - 1 with its bit of TAL_OVF clear. -/
theorem Dev.tallyAdd_wraps {d : Dev} {p n k : Nat} (h : 2 ^ 48 ≤ d.get p (F.TAL_CNT_COUNT.sh (8 * n)) + k)
    (hovf : (d.get p F.TAL_OVF_OVF).testBit n = false) :
    d.tallyAdd p n k =
      ((d.set p (F.TAL_CNT_COUNT.sh (8 * n)) (d.get p (F.TAL_CNT_COUNT.sh (8 * n)) + k)).set p F.TAL_OVF_OVF
        (setBit (d.get p F.TAL_OVF_OVF) n)).latch (Src.tally (Dev.tallyGroup p)) := by
  unfold Dev.tallyAdd
  dsimp only
  rw [if_neg (Nat.not_lt.mpr h), hovf, if_neg Bool.false_ne_true]

/-! ### Profiling counters (R571 to R573) -/

theorem profWrap_counts {d : Dev} {c k n : Nat} (pc : Nat) (hen : d.flag Pg.mgc (F.MGC_PROF_CTL_EN.sh (profOff c + 4 * k)) = true)
    (h : d.get Pg.mgc (F.MGC_PROF_CNT_COUNT.sh (profOff c + 8 * k)) + n < 2 ^ 48) :
    profWrap c k n pc d = d.set Pg.mgc (F.MGC_PROF_CNT_COUNT.sh (profOff c + 8 * k))
      (d.get Pg.mgc (F.MGC_PROF_CNT_COUNT.sh (profOff c + 8 * k)) + n) := by
  unfold profWrap
  dsimp only
  rw [hen, Bool.not_true, if_neg Bool.false_ne_true, if_pos h]

/-- R572: the first counter of a core to wrap gives EPC its instruction. -/
theorem profWrap_wraps {d : Dev} {c k n : Nat} (pc : Nat) (hen : d.flag Pg.mgc (F.MGC_PROF_CTL_EN.sh (profOff c + 4 * k)) = true)
    (h : 2 ^ 48 ≤ d.get Pg.mgc (F.MGC_PROF_CNT_COUNT.sh (profOff c + 8 * k)) + n)
    (hovf : d.get Pg.mgc (F.MGC_PROF_OVF_OVF.sh (profOff c)) = 0)
    (hint : d.flag Pg.mgc (F.MGC_PROF_CTL_INT_EN.sh (profOff c + 4 * k)) = false) :
    profWrap c k n pc d = ((d.set Pg.mgc (F.MGC_PROF_CNT_COUNT.sh (profOff c + 8 * k))
      (d.get Pg.mgc (F.MGC_PROF_CNT_COUNT.sh (profOff c + 8 * k)) + n)).set Pg.mgc (F.MGC_PROF_OVF_OVF.sh (profOff c)) (setBit 0 k)).set
        Pg.mgc (F.MGC_PROF_EPC_ADDR.sh (profOff c)) pc := by
  unfold profWrap
  dsimp only
  rw [hen, Bool.not_true, if_neg Bool.false_ne_true, if_neg (Nat.not_lt.mpr h), hint, Bool.not_false, if_pos rfl, hovf, if_pos rfl]

theorem profClear_clears (d : Dev) (c k : Nat) {v : Nat} (h : v.testBit 10 = true) :
    profClear c k v d = (d.store Pg.mgc (0x200 + profOff c + 4 * (k % 4)) 0x3FF v false).set
      Pg.mgc (F.MGC_PROF_CNT_COUNT.sh (profOff c + 8 * (k % 4))) 0 := if_pos h

/-- Settles O13, from the effect of each write and count. -/
theorem tableAndTallyWritesComplete : Obligations.TableAndTallyWritesComplete := by
  refine ⟨fun s a v k h hk => run_writeTo _ h ?_, fun s a v h hfixed => run_writeTo _ h ?_, fun s a v h hv => run_writeTo _ h ?_,
    fun s a p n e hn h => run_writeTo _ (by rwa [Nat.mod_eq_of_lt hn]) ?_,
    fun s a p n e hn h => run_writeTo _ (by rwa [Nat.mod_eq_of_lt hn]) ?_, fun s a p v h => run_writeTo _ h (talOvf_alone _ _ _),
    fun s p n k hn hcount hsel hwrap hovf => run_eq_withDev ?_, fun s c k n pc hc hk hready hen hlt => run_eq_withDev ?_,
    fun s c k n pc hc hk hready hen hwrap hovf hint => run_eq_withDev ?_,
    fun s a c k v hc hk hv h => run_writeTo _ (by rwa [Nat.mod_eq_of_lt hk]) ?_⟩
  · rw [Dev.get_wrote _ _ _ (by decide) (by decide), setRoute_listed _ _ (Option.isSome_of_eq_some hk),
      Dev.word_wrote _ _ _ (by decide) (by decide), Dev.flag_wrote _ _ _ (by decide) (by decide)]
  · rw [Dev.get_wrote _ _ _ (by decide) (by decide), setAccess_open _ _ hfixed, Dev.store_aligned]
  · rw [setMgmt_both _ (fun h0 => hv (BitVec.eq_of_toNat_eq h0)), Dev.store_aligned, Dev.store_aligned]
    simp only [List.append_assoc, List.singleton_append]
  · rw [talSel, Nat.mod_eq_of_lt hn, if_neg Bool.false_ne_true]
  · rw [talSel, Nat.mod_eq_of_lt hn, if_pos rfl]
  · rw [when_true (by rw [hcount, Nat.mod_eq_of_lt hn]; simpa using hsel), Nat.mod_eq_of_lt hn, Dev.tallyAdd_wraps hwrap hovf]
  · rw [when_true hready, Nat.mod_eq_of_lt hc, Nat.mod_eq_of_lt hk, profWrap_counts _ hen hlt]
  · rw [when_true hready, Nat.mod_eq_of_lt hc, Nat.mod_eq_of_lt hk, profWrap_wraps _ hen hwrap hovf hint]
  · rw [profClear_clears _ _ _ ((BitVec.testBit_toNat v).trans hv), Nat.mod_eq_of_lt hk]

end Sys2Proof.Machine
end

