-- ==== Sys2Proof/Proofs/HostResets.lean ====
section
/-! PROOFS. Resets of the host side, binding, decoders, allocations, MSI-X masks and IDE keys. -/

set_option Elab.async false

namespace Sys2Proof.Machine

open Sys2Proof.Laws

namespace Dev

/-! ### Allocations (R93, R94) -/

theorem vecWrite_taken {d : Dev} {port n v : Nat} (hfree : d.allocFree port n = true)
    (hok : vecOk (v % 4096 / 32 * 32) (d.allocSum port F.HP_VEC_ALLOC_COUNT n (v % 4096 / 32 * 32)) = true) :
    vecWrite port n v d = d.set (Pg.hp port) (F.HP_VEC_ALLOC_COUNT.sh (4 * n)) (v % 4096 / 32 * 32) :=
  if_pos (by rw [hfree, hok]; rfl)

theorem hdmWrite_taken {d : Dev} {port n v : Nat} (hfree : d.allocFree port n = true) (hcount : v % 32 ∈ hdmCounts)
    (hsum : d.allocSum port F.HP_HDM_ALLOC_COUNT n (v % 32) ≤ 16) :
    hdmWrite port n v d = d.set (Pg.hp port) (F.HP_HDM_ALLOC_COUNT.sh (4 * n)) (v % 32) :=
  if_pos (by rw [hfree, List.contains_iff_mem.mpr hcount, decide_eq_true hsum]; rfl)

/-! ### Binding and decoders (R84, R88) -/

/-- R84: an LD-ID of a half whose link is up in MLD mode is bound. -/
theorem bindLd_mld {d : Dev} {port n : Nat} (hport : port < 4) (hn : n < 16)
    (hup : d.linkSts port (if d.split port then n / 8 else 0) F.HP_LINK_STS_UP = 1)
    (hmld : d.linkSts port (if d.split port then n / 8 else 0) F.HP_LINK_STS_MLD = 1) :
    bindLd port n d = d.setBound port n true := by
  unfold bindLd
  rw [when_true (decide_eq_true ⟨hport, hn⟩)]
  exact if_pos ⟨hup, hmld⟩

theorem commitDecoder_taken {d : Dev} {ld i : Nat} {x : HdmDecoder} (hld : ld < 64) (hbound : d.bound ld = true)
    (hi : i < d.get (Pg.hp (ld / 16)) (F.HP_HDM_ALLOC_COUNT.sh (4 * (ld % 16)))) (hok : decoderOk x = true)
    (hfree : (d.ld ld).decoders.any (fun y => y.1 == i && y.2.lock) = false) :
    commitDecoder ld i x d = d.modLd ld fun l => { l with decoders := tins l.decoders i x } :=
  when_true (by rw [decide_eq_true hld, hbound, decide_eq_true hi, hok, hfree]; rfl)

end Dev

/-- Settles O15, from each command's effect where its conditions hold. -/
theorem hostResetsAndAllocationsComplete : Obligations.HostResetsAndAllocationsComplete := by
  refine ⟨fun s port hport hdom => run_eq_withDev (when_true ?_), fun s port hport => run_eq_withDev (when_true (decide_eq_true hport)),
    fun s ld hld hbound => run_eq_withDev (when_true ?_), fun s ld clear hld hbound => run_eq_withDev (when_true ?_),
    fun s ld hreset => run_eq_withDev (when_true hreset), fun s port n hport hn hup hmld => run_eq_withDev (Dev.bindLd_mld hport hn hup hmld),
    fun s ld i x hld hbound hi hok hfree => run_eq_withDev (Dev.commitDecoder_taken hld hbound hi hok hfree),
    fun s a port n v hport hn h hfree hmin hmax hsum => run_writeTo _ (by rwa [Nat.mod_eq_of_lt hport, Nat.mod_eq_of_lt hn]) ?_,
    fun s a port n v hport hn h hfree hcount hsum => run_writeTo _ (by rwa [Nat.mod_eq_of_lt hport, Nat.mod_eq_of_lt hn]) ?_,
    fun s ld vec hld hvec => run_eq_withDev (when_true ?_), fun s session port half i rx hsession hhalf hup => ?_⟩
  · rw [decide_eq_true hport, hdom]; rfl
  · rw [decide_eq_true hld, hbound]; rfl
  · rw [decide_eq_true hld, hbound]; rfl
  · rw [Nat.mod_eq_of_lt hport, Nat.mod_eq_of_lt hn]
    exact Dev.vecWrite_taken hfree (decide_eq_true ⟨hmin, hmax, hsum⟩)
  · rw [Nat.mod_eq_of_lt hport, Nat.mod_eq_of_lt hn]
    exact Dev.hdmWrite_taken hfree hcount hsum
  · rw [decide_eq_true hld, decide_eq_true hvec]; rfl
  · have hopen : ((s.dev.session? session).isSome && s.dev.halfOk port half && (s.dev.link port half).up) = true := by
      rw [hsession, hhalf, hup]; rfl
    exact ⟨run_eq_withDev (when_true hopen), fun hi => run_eq_withDev ((when_true hopen).trans (if_pos hi)),
      fun hkey => run_eq_withDev ((when_true hopen).trans (if_pos hkey)), run_eq_withDev (when_true hopen)⟩

end Sys2Proof.Machine
end

