-- ==== Sys2Proof/Proofs/HostLinks.lean ====
section
/-! PROOFS. The events and requests of host links. -/

set_option Elab.async false

namespace Sys2Proof.Machine

open Sys2Proof.Laws

namespace Dev

/-- R79, R80: a link that is up goes down. -/
theorem takeDown_up {d : Dev} {port half : Nat} (hup : (d.link port half).up = true) :
    d.takeDown port half =
      let d' := (d.modLink port half fun l => { l with up := false, sawDown := true, l1 := false, ide := [] }).latch (Src.hostLink port half)
      { d' with mem := { d'.mem with
        reqs := d'.mem.reqs.map fun r => if r.port = port ∧ r.half = half then { r with dropped := true } else r } } := by
  unfold takeDown
  rw [hup]
  rfl

theorem halfUp {d : Dev} {port half : Nat} (hhalf : d.halfOk port half = true) (hup : (d.link port half).up = true) :
    (d.halfOk port half && (d.link port half).up) = true := by rw [hhalf, hup]; rfl

end Dev

/-- Settles O14, from each command's effect where its conditions hold. -/
theorem hostLinkEventsComplete : Obligations.HostLinkEventsComplete := by
  refine ⟨fun s port half speed width mld hhalf htrains hdown htrained => run_eq_withDev (when_true ?_),
    fun s port half hup => run_eq_withDev (f := (·.takeDown port half)) (Dev.takeDown_up hup),
    fun s port half speed width hhalf hup htrained => run_eq_withDev (when_true ?_),
    fun s port half width hhalf hup hspeed hen hwidth hle => run_eq_withDev (when_true ?_),
    fun s port half hhalf hup haspm => run_eq_withDev (when_true ?_), fun s port half hhalf hup hl1 => run_eq_withDev (when_true ?_),
    fun s port half hhalf hup => run_eq_withDev (when_true (Dev.halfUp hhalf hup)),
    fun s port half k hhalf hup hready => run_eq_withDev (when_true ?_)⟩
  · rw [hhalf, htrains, hdown, htrained]; rfl
  · rw [Dev.halfUp hhalf hup, htrained]; rfl
  · rw [Dev.halfUp hhalf hup, hspeed, hen, List.contains_iff_mem.mpr hwidth, decide_eq_true hle]; rfl
  · rw [Dev.halfUp hhalf hup, haspm]; rfl
  · rw [Dev.halfUp hhalf hup, hl1]; rfl
  · rw [Dev.halfUp hhalf hup, hready]; rfl

end Sys2Proof.Machine
end

