-- ==== Sys2Proof/Proofs/HeardCommands.lean ====
section
/-! PROOFS. A mailbox or Fabric Manager command that is heard and passes the checks of its kind leaves its effect (R85, R102, R520, R585). -/

set_option Elab.async false

namespace Sys2Proof.Machine

open Sys2Proof.Laws

namespace Dev

variable {d : Dev} {f : Effect} {c : Instr}

theorem mbox_heard {ld : Nat} {rom : Bool} (h : d.Hears ld) : mbox ld rom c f d = f d := by
  obtain ⟨hheard, hpaused, hrecovery⟩ := h
  unfold mbox
  rw [when_true hheard, hpaused, hrecovery]
  rfl

theorem fmApi_heard {port : Nat} (h : d.FmHears port) : fmApi port c f d = f d := by
  obtain ⟨hfabric, hmld, hmbox, hpaused, hrecovery⟩ := h
  unfold fmApi
  rw [when_true (by rw [hfabric, hmld, hmbox]; rfl), hpaused, hrecovery]
  rfl

theorem mgmtOnly_mgmt {ld : Nat} (h : d.isMgmt ld = true) : mgmtOnly ld f d = f d := if_pos h

theorem vendorOk_taken {ok : Dev → Bool} {want ld : Nat} (h : ok d = true) : vendorOk want want ok ld f d = f d := by
  unfold vendorOk
  rw [h, if_neg (by decide), if_neg fun hne => hne rfl]

theorem within_range {ld : Nat} {ok : Bool} (h : ok = true) : within ld ok f d = f d := if_pos h

/-- A range of LD-IDs of one port. -/
theorem fmRange_inside {port start n : Nat} (hpos : 0 < n) (hle : start + n ≤ 16) : fmRange port start n f d = f d :=
  if_neg (by omega)

end Dev

section

variable {s : State} {c : Instr} {f : Effect} {d : Dev}

/-- A mailbox command that is heard leaves its effect. -/
theorem run_mbox {ld : Nat} {rom : Bool} (h : s.dev.Hears ld) (hd : f s.dev = d) : s.run (Dev.mbox ld rom c f) = .next (s.withDev d) :=
  run_eq_withDev ((Dev.mbox_heard h).trans hd)

/-- A Fabric Manager command that is heard leaves its effect. -/
theorem run_fmApi {port : Nat} (h : s.dev.FmHears port) (hd : f s.dev = d) : s.run (Dev.fmApi port c f) = .next (s.withDev d) :=
  run_eq_withDev ((Dev.fmApi_heard h).trans hd)

end

end Sys2Proof.Machine
end

