-- ==== Sys2Proof/Proofs/Queries.lean ====
section
/-! PROOFS. What the commands that only ask leave alone. -/

set_option Elab.async false

namespace Sys2Proof.Machine

namespace Dev

/-- The device `d'` is `d` but for the host side (where a command may be held), the messages sent and the count of free values. -/
def AskedOf (d d' : Dev) : Prop := ∃ x o n, d' = { d with host := x, out := o, fresh := n }

/-- An effect that at most answers, draws a free value or holds a command back. -/
def OnlyAsks (f : Effect) : Prop := ∀ d : Dev, d.AskedOf (f d)

namespace OnlyAsks

variable {f : Effect}

theorem id : OnlyAsks id := fun _ => ⟨_, _, _, rfl⟩

theorem emit {m : Dev → Msg} : OnlyAsks fun d => d.emit (m d) := fun _ => ⟨_, _, _, rfl⟩

theorem drawEmit {m : Dev → Msg} : OnlyAsks fun d => d.draw.emit (m d) := fun _ => ⟨_, _, _, rfl⟩

theorem holdCommand {ld : Nat} {c : Instr} : OnlyAsks fun d => d.holdCommand ld c := fun _ => ⟨_, _, _, rfl⟩

theorem answer {ld : Nat} {c : MbCode} {p : Dev → List Nat} : OnlyAsks fun d => d.answer ld c (p d) := emit

theorem fmAnswer {port : Nat} {c : MbCode} {p : Dev → List Nat} : OnlyAsks fun d => d.fmAnswer port c (p d) := emit

theorem ite {c : Dev → Prop} [∀ d, Decidable (c d)] {g : Effect} (hf : OnlyAsks f) (hg : OnlyAsks g) :
    OnlyAsks fun d => if c d then f d else g d := fun d => by
  dsimp only
  split
  · exact hf d
  · exact hg d

theorem when {c : Dev → Bool} (hf : OnlyAsks f) : OnlyAsks (when c f) := hf.ite id

theorem mbox {ld : Nat} {rom : Bool} {c : Instr} (hf : OnlyAsks f) : OnlyAsks (Dev.mbox ld rom c f) :=
  (holdCommand.ite (answer.ite hf)).when

theorem fmApi {port : Nat} {c : Instr} (hf : OnlyAsks f) : OnlyAsks (Dev.fmApi port c f) :=
  (holdCommand.ite (emit.ite hf)).when

theorem mgmtOnly {ld : Nat} (hf : OnlyAsks f) : OnlyAsks (Dev.mgmtOnly ld f) := hf.ite answer

theorem fmRange {port start n : Nat} (hf : OnlyAsks f) : OnlyAsks (Dev.fmRange port start n f) := fmAnswer.ite hf

theorem vendorOk {len want ld : Nat} {ok : Dev → Bool} (hf : OnlyAsks f) : OnlyAsks (Dev.vendorOk len want ok ld f) :=
  answer.ite (answer.ite hf)

theorem within {ld : Nat} {ok : Bool} (hf : OnlyAsks f) : OnlyAsks (Dev.within ld ok f) := hf.ite answer

theorem mbGetLog {ld off len : Nat} {log : SupportedLog} : OnlyAsks (Dev.mbGetLog ld log off len) := by
  cases log with
  | cel => exact answer.ite answer
  | vendor => exact answer.ite answer
  | unknown => exact answer

end OnlyAsks

end Dev

/-- A command whose effect only asks. -/
def IsQuery (c : Instr) : Prop := ∃ f, Dev.OnlyAsks f ∧ ∀ s, exec c s = s.run f

theorem isQuery {c : Instr} {f : Effect} (h : ∀ s, exec c s = s.run f) (hf : Dev.OnlyAsks f) : IsQuery c := ⟨f, hf, h⟩

/-- Settles O60: the effect of each of these commands only asks. -/
theorem queriesChangeNothingElse : Obligations.QueriesChangeNothingElse := by
  intro s t ld n m k log which c hc hexec
  have hquery : IsQuery c := by
    clear hexec
    revert c
    simp only [List.forall_mem_cons]
    refine ⟨isQuery (fun _ => rfl) (.fmApi .fmAnswer),
      isQuery (fun _ => rfl) (.fmApi (.fmRange .fmAnswer)),
      isQuery (fun _ => rfl) (.fmApi .fmAnswer),
      isQuery (fun _ => rfl) (.fmApi .drawEmit),
      isQuery (fun _ => rfl) (.fmApi (.fmRange .fmAnswer)),
      isQuery (fun _ => rfl) (.fmApi (.fmRange .fmAnswer)),
      isQuery (fun _ => rfl) (.when .emit),
      isQuery (fun _ => rfl) (.when .emit),
      isQuery (fun _ => rfl) (.mbox .answer),
      isQuery (fun _ => rfl) (.mbox .answer),
      isQuery (fun _ => rfl) (.mbox (.mgmtOnly .answer)),
      isQuery (fun _ => rfl) (.mbox .answer),
      isQuery (fun _ => rfl) (.mbox .answer),
      isQuery (fun _ => rfl) (.mbox .mbGetLog),
      isQuery (fun _ => rfl) (.mbox .answer),
      isQuery (fun _ => rfl) (.mbox (.ite .answer .answer)),
      isQuery (fun _ => rfl) (.mbox .answer),
      isQuery (fun _ => rfl) (.mbox .drawEmit),
      isQuery (fun _ => rfl) (.mbox .answer),
      isQuery (fun _ => rfl) (.mbox .answer),
      isQuery (fun _ => rfl) (.mbox .answer),
      isQuery (fun _ => rfl) (.mbox .answer),
      isQuery (fun _ => rfl) (.mbox (.vendorOk .answer)),
      isQuery (fun _ => rfl) (.mbox (.vendorOk .answer)),
      isQuery (fun _ => rfl) (.mbox (.vendorOk (.within .answer))),
      isQuery (fun _ => rfl) (.mbox (.vendorOk (.within .answer))),
      isQuery (fun _ => rfl) (.mbox (.vendorOk (.within .answer))),
      isQuery (fun _ => rfl) (.mbox (.vendorOk (.within .answer))), List.forall_mem_nil _⟩
  obtain ⟨f, hf, hrun⟩ := hquery
  obtain ⟨x, o, v, hd⟩ := hf s.dev
  obtain rfl : { s with dev := f s.dev } = t := by simpa [hrun] using hexec
  rw [hd]
  exact ⟨rfl, rfl, rfl, rfl, rfl, rfl, rfl, rfl, rfl, rfl, rfl, rfl, rfl⟩

end Sys2Proof.Machine
end

