-- ==== Sys2Proof/Proofs/MailboxAnswers.lean ====
section
/-! PROOFS. What the standard mailbox commands answer. -/

set_option Elab.async false

namespace Sys2Proof.Machine

namespace Dev

/-- Clear Event Records by the handles of the oldest records. -/
theorem mbClearEvents_oldest (d : Dev) (ld : Nat) (log : EventLog) (k : Nat) :
    let rs := logOf (d.ld ld) (logNo log)
    mbClearEvents ld log ((rs.take k).map (·.handle)) false d =
      (d.modLd ld fun l => { setLog l (logNo log) (rs.drop (rs.take k).length) with
        overflow := tput (fun _ => 0) l.overflow (logNo log) 0 }).emit (.mbox ld .success []) := by
  intro rs
  have holdest : (rs.take k).map (·.handle) = (rs.take ((rs.take k).map (·.handle)).length).map (·.handle) := by
    rw [List.length_map, List.length_take, ← List.take_eq_take_min]
  unfold mbClearEvents
  dsimp only
  rw [if_neg Bool.false_ne_true, if_pos holdest, List.length_map]
  rfl

/-- R517: the last part of an image that passes every check of R504. -/
theorem mbTransfer_checked {d : Dev} {ld n : Nat} {im : FwImage} (hmgmt : d.isMgmt ld = true) (hfree : d.slotFree n = true)
    (hcheck : d.imageCheck im = none) : mbTransfer ld n true im d = (d.setSlot n ⟨some im, true⟩).emit (.mbox ld .success []) := by
  unfold mbTransfer
  rw [mgmtOnly_mgmt hmgmt, hfree, hcheck]
  rfl

/-- R517: the last part of an image that fails a check of R504. -/
theorem mbTransfer_rejected {d : Dev} {ld n k : Nat} {im : FwImage} (hmgmt : d.isMgmt ld = true) (hfree : d.slotFree n = true)
    (hcheck : d.imageCheck im = some k) :
    mbTransfer ld n true im d =
      ((d.setSlot n ⟨some im, false⟩).raise Src.imgRejected (16 * n + k) 0x85 0).emit (.mbox ld .fwAuthFailed []) := by
  unfold mbTransfer
  rw [mgmtOnly_mgmt hmgmt, hfree, hcheck]
  rfl

theorem mbActivateReset_checked {d : Dev} {ld n : Nat} (hmgmt : d.isMgmt ld = true) (hn : n = 1 ∨ n = 2)
    (hchecked : (d.slot n).checked = true) :
    mbActivateReset ld n d = ({ d with str := { d.str with activeSlot := n } } : Dev).emit (.mbox ld .success []) :=
  (mgmtOnly_mgmt hmgmt).trans (if_pos ⟨hn, .inl hchecked⟩)

theorem mbActivateOnline_staged {d : Dev} {ld n : Nat} (hmgmt : d.isMgmt ld = true) (hfatal : d.fatal = false) (hidle : d.lcBusy = false)
    (hfree : d.slotFree n = true) (hchecked : (d.slot n).checked = true) :
    mbActivateOnline ld n true d = (d.stageActivation ld n).emit (.mbox ld .success []) := by
  unfold mbActivateOnline
  rw [mgmtOnly_mgmt hmgmt, hfatal, hidle, hfree, hchecked]
  rfl

end Dev

/-- Settles O22, from the effect of each command where the mailbox hears it. -/
theorem mailboxStandardCommandsComplete : Obligations.MailboxStandardCommandsComplete := by
  refine ⟨fun s ld log h => run_mbox h rfl, fun s ld log k h => run_mbox h (Dev.mbClearEvents_oldest s.dev ld log k),
    fun s ld h => run_mbox h rfl, fun s ld v h => run_mbox h rfl, fun s ld h hmgmt => run_mbox h (Dev.mgmtOnly_mgmt hmgmt),
    fun s ld n im h hmgmt hfree hcheck => run_mbox h (Dev.mbTransfer_checked hmgmt hfree hcheck),
    fun s ld n im k h hmgmt hfree hcheck => run_mbox h (Dev.mbTransfer_rejected hmgmt hfree hcheck),
    fun s ld n h hmgmt hn hchecked => run_mbox h (Dev.mbActivateReset_checked hmgmt hn hchecked),
    fun s ld n h hmgmt hfatal hidle hfree hchecked => run_mbox h (Dev.mbActivateOnline_staged hmgmt hfatal hidle hfree hchecked),
    fun s ld h => run_mbox h rfl, fun s ld t h hmgmt => run_mbox h (Dev.mgmtOnly_mgmt hmgmt), fun s ld h => run_mbox h rfl,
    fun s ld off len h => run_mbox h rfl, fun s ld h => run_mbox h rfl, fun s ld id h => run_mbox h rfl,
    fun s ld id v h => run_mbox h rfl, fun s ld h => run_mbox h rfl, fun s ld h => run_mbox h rfl, fun s ld h => run_mbox h rfl,
    fun s ld v h => run_mbox h rfl, fun s ld op h => run_mbox h rfl⟩

end Sys2Proof.Machine
end

