-- ==== Sys2Proof/Proofs/MediaAnswers.lean ====
section
/-! PROOFS. What the Sanitize, Poison and Media and Dynamic Capacity commands answer. -/

set_option Elab.async false

namespace Sys2Proof.Machine

namespace Dev

variable {d : Dev} {ld : Nat}

/-! ### Background commands (R96) -/

theorem mbSanitize_idle (op : BgOp) (h : (d.ld ld).background = none) :
    mbSanitize ld op d = (((d.clearLd ld).modLd ld fun l => { l with background := some op }).emit (.mbox ld .background [])).after :=
  if_neg (by rw [h]; decide)

theorem backgroundEnd_clear (h : (d.ld ld).background = some .sanitize ∨ (d.ld ld).background = some .secureErase) :
    backgroundEnd ld d = (d.modLd ld fun l => { l with background := none }).emit (.mbox ld .success []) := by
  unfold backgroundEnd
  rcases h with h | h <;> rw [h] <;> rfl

theorem backgroundEnd_scan {bad : List Nat} (h : (d.ld ld).background = some (.scan bad)) :
    backgroundEnd ld d = (d.modLd ld fun l =>
      { l with background := none, poisonList := (l.poisonList ++ bad).eraseDups, scanResult := bad }).emit (.mbox ld .success []) := by
  unfold backgroundEnd
  rw [h]
  rfl

/-! ### Poison and Media (R615, R616) -/

theorem overRange_checked {acc start n : Nat} {f : Effect} {d' : Dev} (h : d.mediaCheck ld acc (mediaLines start n) = (true, d')) :
    overRange ld acc start n f d = f d' := by
  unfold overRange
  rw [h]

/-- The request by which Inject Poison or Clear Poison writes the line `addr`. -/
def poisonReq (d : Dev) (ld addr dpa : Nat) (inject : Bool) (data : BitVec 512) : Req :=
  let e := d.entry (dpaSkein dpa)
  { id := d.mem.nextReq, kind := if inject then .partWrite else .write, ld := ld, port := ld / 16, half := 0, tag := 0, addr := addr,
    metaVal := .invalid, data := data, enables := 0, poison := inject, sn := d.sn, phase := (Config.cycle d.fresh).toNat, cls := e.cls,
    deadline := d.sn + d.classTarget e.cls, dpa := dpa, checked := true, dropped := true, mbox := true }

/-- The device that waits for the write `r`. -/
def poisonWaits (d : Dev) (r : Req) (inject : Bool) : Dev :=
  (d.draw.modMem fun m => { m with reqs := m.reqs ++ [r], nextReq := m.nextReq + 1 }).modLd r.ld fun l =>
    { l with poisonWait := some (inject, r.addr), poisonFailed := false }

/-- R616: the write of Inject Poison or Clear Poison enters the coherent flow. -/
theorem mbPoison_flows {off dpa : Nat} {inject : Bool} {data : BitVec 512} {d' : Dev}
    (hcheck : d.ringCheck (mediaWho ld 2) (off / 64 * 64) 2 = (some dpa, d'))
    (hviral : (d'.poisonWaits (d'.poisonReq ld (off / 64 * 64) dpa inject data) inject).isViral ld = false) :
    mbPoison ld off inject data d =
      (((d'.poisonWaits (d'.poisonReq ld (off / 64 * 64) dpa inject data) inject).addHeat (dpaSkein dpa) (dpaPage dpa)).coherentFlow
        (d'.poisonReq ld (off / 64 * 64) dpa inject data)).after := by
  unfold mbPoison
  dsimp only
  rw [hcheck]
  exact congrArg Dev.after (if_neg (Bool.eq_false_iff.mp hviral))

/-- R616: the write has reached its point of visibility. -/
theorem poisonDone_visible {off : Nat} {inject : Bool} (hwait : (d.ld ld).poisonWait = some (inject, off))
    (hgone : (d.mem.reqs.any fun r => r.mbox && r.ld == ld) = false) (hdone : (d.ld ld).poisonFailed = false) :
    poisonDone ld d = (d.modLd ld fun l => { l with
      poisonWait := none, poisonFailed := false,
      poisonList := if inject then (l.poisonList ++ [off]).eraseDups else l.poisonList.filter (· != off) }).emit (.mbox ld .success []) := by
  unfold poisonDone
  rw [hwait]
  dsimp only
  rw [hgone, hdone]
  rfl

/-! ### Dynamic Capacity (R92, R131) -/

theorem all_extents {es : List DcExtent} {p q : DcExtent → Bool} (h : ∀ e ∈ es, p e = true ∧ q e = true) :
    es.all (fun e => p e && q e) = true := List.all_eq_true.mpr fun e he => Bool.and_eq_true_iff.mpr (h e he)

theorem mbDcAdd_offered {es : List DcExtent} (h : ∀ e ∈ es, extOk e = true ∧ extWithin (d.ld ld).dcOffered e = true) :
    mbDcAdd ld es d =
      ((((d.extSkeins ld es).foldl (fun d k => d.putEntryQuiet k { d.entry k with dcAcc := true }) d).modLd ld fun l =>
        { l with dcOffered := [], dcAccepted := l.dcAccepted ++ es }).emit (.mbox ld .success [])).after :=
  if_neg (by rw [all_extents h]; decide)

theorem mbDcRelease_accepted {es : List DcExtent} (h : ∀ e ∈ es, extOk e = true ∧ extCovered (d.ld ld).dcAccepted e = true) :
    mbDcRelease ld es d =
      (((d.releaseSkeins (d.extSkeins ld es)).modLd ld fun l =>
        { l with dcAccepted := extSubtract l.dcAccepted es, dcReleasing := extSubtract l.dcReleasing es }).emit (.mbox ld .success [])).after :=
  if_neg (by rw [all_extents h]; decide)

end Dev

/-- Settles O23, from the effect of each command where its conditions hold. -/
theorem mailboxMediaCommandsComplete : Obligations.MailboxMediaCommandsComplete := by
  refine ⟨fun s ld h hidle => run_mbox h (Dev.mbSanitize_idle _ hidle), fun s ld h hidle => run_mbox h (Dev.mbSanitize_idle _ hidle),
    fun s ld h => run_eq_withDev (Dev.backgroundEnd_clear h), fun s ld bad h => run_eq_withDev (Dev.backgroundEnd_scan h),
    fun s ld start n d h hcheck => run_mbox h (Dev.overRange_checked hcheck), fun s ld off dpa data inject d h hcheck _ => ?_,
    fun s ld off inject hwait hgone hdone => run_eq_withDev (Dev.poisonDone_visible hwait hgone hdone),
    fun s ld start n d h hcheck => run_mbox h (Dev.overRange_checked hcheck),
    fun s ld start n fs d h hcheck hidle => ?_, fun s ld h => run_mbox h rfl,
    fun s ld h => run_mbox h rfl, fun s ld h => run_mbox h rfl, fun s ld es h hoffered => run_mbox h (Dev.mbDcAdd_offered hoffered),
    fun s ld es h haccepted => run_mbox h (Dev.mbDcRelease_accepted haccepted)⟩
  · intro e r waits hviral
    cases inject <;> exact run_mbox h (Dev.mbPoison_flows hcheck hviral)
  · intro scanned
    exact run_mbox h ((Dev.overRange_checked hcheck).trans (if_neg (by rw [hidle]; decide)))

end Sys2Proof.Machine
end

