-- ==== Sys2Proof/Proofs/VendorAnswers.lean ====
section
/-! PROOFS. What the vendor mailbox commands answer. -/

set_option Elab.async false

namespace Sys2Proof.Machine

section

variable {s : State} {ld len : Nat} {c : Instr} {f : Effect} {d : Dev}

/-- A command of any LD that has the length of its payload. -/
theorem run_anyLd {rom : Bool} (h : s.dev.Hears ld) (hd : f s.dev = d) : s.run (Dev.anyLd ld len len rom c f) = .next (s.withDev d) :=
  run_mbox h ((Dev.vendorOk_taken rfl).trans hd)

/-- A command of a management LD that has the length of its payload and its fields in their ranges. -/
theorem run_mgmtLd {ok : Bool} (h : s.dev.Hears ld) (hmgmt : s.dev.isMgmt ld = true) (hok : ok = true) (hd : f s.dev = d) :
    s.run (Dev.mgmtLd ld len len c (Dev.within ld ok f)) = .next (s.withDev d) :=
  run_mbox h ((Dev.vendorOk_taken (ok := fun d => d.isMgmt ld) hmgmt).trans ((Dev.within_range hok).trans hd))

end

namespace Dev

theorem frogIssuer_mgmt {d : Dev} {ld : Nat} (kind index : Nat) (h : d.isMgmt ld = true) : d.frogIssuer ld kind index = true := by
  unfold frogIssuer
  rw [h]
  rfl

theorem mbFrog_page {d : Dev} {ld kind index p : Nat} (h : frogTarget kind index = some (.page p)) :
    mbFrog ld kind index d = (d.setFlag p F.PG_CTL_FROG true).askFrog (.page p) (some ld) := by
  unfold mbFrog
  rw [h]

theorem mbFrog_direct {d : Dev} {ld kind index : Nat} {t : FrogTarget} (h : frogTarget kind index = some t) (hpage : ∀ p, t ≠ .page p) :
    mbFrog ld kind index d = d.askFrog t (some ld) := by
  unfold mbFrog
  rw [h]
  cases t with
  | page p => exact absurd rfl (hpage p)
  | _ => rfl

theorem releaseSource_both (d : Dev) (src : Nat) : releaseSource src true true d = (d.releaseMask src).releaseQuar src := by
  unfold releaseSource
  rw [if_pos rfl, if_pos rfl]

theorem setSource_eq (d : Dev) (src cfg rate : Nat) :
    setSource src cfg rate d = { d with stc := { d.stc with align := d.stc.align ++
      [⟨d.sn + 1, rkey (Bk.stc src) 0x134, 0x1FFFFF, cfg⟩, ⟨d.sn + 1, rkey (Bk.stc src) 0x138, 0xFFFF, rate⟩] } } := by
  unfold setSource
  rw [store_aligned, store_aligned]
  simp only [List.append_assoc, List.singleton_append]

end Dev

/-- R68: a route entry whose MASK clears while the page is pending sends the interrupt. -/
theorem setRoute_stored (d : Dev) {p : Nat} (v : Nat) (h : (pageKind p).isSome = true) :
    setRoute p v d =
      let d' := d.store (Bk.route p) 0x124 routeMask v false
      if d.flag (Bk.route p) F.GEN_IRQ_ROUTE_MASK = true ∧ d'.flag (Bk.route p) F.GEN_IRQ_ROUTE_MASK = false ∧ d'.pagePending p = true
        then d'.pageInterrupt p else d' := by
  rw [setRoute_listed _ _ h, Dev.store_now]

/-- R73: a mask that leaves a management LD waits, as two words, for the next boundary. -/
theorem setMgmt_aligned (d : Dev) {v : Nat} (h : v ≠ 0) :
    setMgmt .both v d = { d with stc := { d.stc with align := d.stc.align ++
      [⟨d.sn + 1, rkey Pg.gen 0x130, 2 ^ 32 - 1, v % 2 ^ 32⟩, ⟨d.sn + 1, rkey Pg.gen 0x134, 2 ^ 32 - 1, v / 2 ^ 32⟩] } } := by
  rw [setMgmt_both _ h, Dev.store_aligned, Dev.store_aligned]
  simp only [List.append_assoc, List.singleton_append]

theorem Dev.doAnswer_eq {f : Effect} {d d' : Dev} (ld : Nat) (p : Dev → List Nat) (h : f d = d') :
    Dev.doAnswer ld f p d = d'.emit (.mbox ld .success (p d)) := h ▸ rfl

/-- Settles O25, from the effect of each command where its conditions hold. -/
theorem vendorCommandsComplete : Obligations.VendorCommandsComplete := by
  refine ⟨fun s ld h => run_anyLd h rfl, fun s ld h => run_anyLd h rfl,
    fun s ld src h hmgmt hsrc => run_mgmtLd h hmgmt (decide_eq_true hsrc) rfl,
    fun s ld src cfg rate h hmgmt hsrc => run_mgmtLd h hmgmt (decide_eq_true hsrc) (Dev.doAnswer_eq _ _ (Dev.setSource_eq _ _ _ _)),
    fun s ld src h hmgmt hsrc => run_mgmtLd h hmgmt (decide_eq_true hsrc) (Dev.doAnswer_eq _ _ (Dev.releaseSource_both _ _)),
    fun s ld p h hmgmt hp => run_mgmtLd h hmgmt (decide_eq_true hp) rfl,
    fun s ld p v h hmgmt hp hpage => run_mgmtLd h hmgmt (decide_eq_true hp) (Dev.doAnswer_eq _ _ (setRoute_stored _ _ hpage)),
    fun s ld p h hmgmt hp => run_mgmtLd h hmgmt (decide_eq_true hp) rfl,
    fun s ld p v h hmgmt hp hopen => run_mgmtLd h hmgmt (decide_eq_true hp) (Dev.doAnswer_eq _ _ (setAccess_open _ _ hopen)),
    fun s ld kind index t h hmgmt ht hpage =>
      run_mbox h ((Dev.vendorOk_taken (Dev.frogIssuer_mgmt _ _ hmgmt)).trans (Dev.mbFrog_direct ht hpage)),
    fun s ld kind index p h hmgmt ht => run_mbox h ((Dev.vendorOk_taken (Dev.frogIssuer_mgmt _ _ hmgmt)).trans (Dev.mbFrog_page ht)),
    fun s ld port h hmgmt hport => run_mgmtLd h hmgmt (decide_eq_true hport) rfl,
    fun s ld port es h hmgmt hok => run_mbox h ((Dev.vendorOk_taken hmgmt).trans (Dev.within_range hok)),
    fun s ld m h hmgmt hm => run_mgmtLd h hmgmt (bne_iff_ne.mpr hm) (Dev.doAnswer_eq _ _ (setMgmt_aligned _ ?_))⟩
  exact fun h0 => hm (BitVec.eq_of_toNat_eq h0)

end Sys2Proof.Machine
end

