-- ==== Sys2Proof/Proofs/FabricAnswers.lean ====
section
/-! PROOFS. What the Fabric Manager and DOE commands answer. -/

set_option Elab.async false

namespace Sys2Proof.Machine

open Sys2Proof.Laws

namespace Dev

variable {d : Dev} {port : Nat}

/-- R135: quotas that the register holds. -/
theorem fmSetAlloc_held {start : Nat} {gib : List Nat} (hpos : 0 < gib.length) (hle : start + gib.length ≤ 16) (hgib : ∀ g ∈ gib, g < 2 ^ 14) :
    fmSetAlloc port start gib d =
      (gib.zipIdx.foldl (fun d x => d.store (Pg.ldm (16 * port + start + x.2)) 0x150 0xFFFFFF (1024 * x.1) true) d).emit
        (.fm port .success ([gib.length, start] ++ gib)) := by
  have hfit : ¬ gib.any (fun g => decide (2 ^ 14 ≤ g)) = true := fun h => by
    obtain ⟨g, hg, hlarge⟩ := List.any_eq_true.mp h
    exact absurd (of_decide_eq_true hlarge) (Nat.not_le.mpr (hgib g hg))
  exact (fmRange_inside hpos hle).trans (if_neg hfit)

theorem fmSetQos_inRange {c : QosControl} (hmod : c.modPct ≤ c.sevPct) (hsev : c.sevPct ≤ 100) (hpos : 0 < c.interval) (hmax : c.interval < 16) :
    fmSetQos port c d =
      ({ d with host := { d.host with qosControl := tput (fun _ => qosDefault) d.host.qosControl port c } } : Dev).emit
        (.fm port .success (qosFields c)) := if_neg (by omega)

/-- R86: budgets that the Gauge admits are staged. -/
theorem fmBudget_admitted {start : Nat} {vs : List (BitVec 8)} {ceil : Bool} (hpos : 0 < vs.length) (hle : start + vs.length ≤ 16)
    (hidle : d.flag Pg.gau F.GAU_COMMIT_BUSY = false) :
    let new := vs.zipIdx.map fun x => (16 * port + start + x.2, d.fracLines (16 * port + start + x.2) x.1)
    let b := { d.baseSet with budgets := new.foldl (fun t x => tmod (fun _ => (0, 0)) t (kitchen x.1) fun y =>
      if ceil then (y.1, x.2) else (x.2, y.2)) d.baseSet.budgets }
    (d.admitSet b).1 = 0 →
    fmBudget port start ceil vs d =
      ((new.foldl (fun d x => d.set (Bk.bud x.1 2) (if ceil then F.GAU_BUD_CEIL else F.GAU_BUD_GUAR) x.2) d).recordCheck b).emit
        (.fm port .success ([vs.length, start] ++ vs.map (·.toNat))) := by
  intro new b hadmit
  refine (fmRange_inside hpos hle).trans ((if_neg (by rw [hidle]; decide)).trans (if_neg ?_))
  exact not_not_intro hadmit

theorem fmTunnel_identify {n : Nat} (hn : n < 16) : fmTunnel port n .identify d = d.emit (.fm port .success (d.identity (16 * port + n))) :=
  if_neg (Nat.not_le.mpr hn)

theorem fmDcd_add {n : Nat} {es : List DcExtent} (hn : n < 16) (hfits : dcFits (d.ld (16 * port + n)) es = true) :
    fmDcd port (.add n es) d =
      ((d.modLd (16 * port + n) fun l => { l with dcOffered := l.dcOffered ++ es }).dcRecords (16 * port + n) 0 es).emit
        (.fm port .success []) := (if_pos hn).trans (if_neg (by rw [hfits]; decide))

end Dev

/-- Settles O26, from the effect of each command where its conditions hold. -/
theorem fabricManagerCommandsComplete : Obligations.FabricManagerCommandsComplete := by
  refine ⟨fun s port h => run_fmApi h rfl, fun s port start n h hpos hle => run_fmApi h (Dev.fmRange_inside hpos hle),
    fun s port start gib h hpos hle hgib => run_fmApi h (Dev.fmSetAlloc_held hpos hle hgib), fun s port h => run_fmApi h rfl,
    fun s port c h hmod hsev hpos hmax => run_fmApi h (Dev.fmSetQos_inRange hmod hsev hpos hmax), fun s port h => run_fmApi h rfl,
    fun s port start n h hpos hle => run_fmApi h (Dev.fmRange_inside hpos hle),
    fun s port start n h hpos hle => run_fmApi h (Dev.fmRange_inside hpos hle), fun s port start vs ceil h hpos hle hidle => ?_,
    fun s port n h hn => run_fmApi h (Dev.fmTunnel_identify hn), fun s port h => run_fmApi h rfl,
    fun s port n es h hn hfits => run_fmApi h (Dev.fmDcd_add hn hfits), fun s ld i h => run_eq_withDev (when_true h),
    fun s ld n h hready _ => run_eq_withDev (when_true ?_)⟩
  · intro new b hadmit staged
    cases ceil <;> exact run_fmApi h (Dev.fmBudget_admitted hpos hle hidle hadmit)
  · rw [h, hready]; rfl

end Sys2Proof.Machine
end

