-- ==== Sys2Proof/Proofs/PatternEntries.lean ====
section
/-! PROOFS. Fields packed side by side in a word are read back from it; the entries of the Pattern (R114, R119, R121, R139) are such words. -/

set_option Elab.async false

namespace Sys2Proof.Machine

open Sys2Proof.Laws

/-! ### Fields side by side -/

/-- The word that holds fields side by side from bit 0 on, of the given widths and values. -/
def packed : List Nat → List Nat → Nat
  | w :: ws, v :: vs => v + 2 ^ w * packed ws vs
  | _, _ => 0

/-- Each value lies within its width. -/
abbrev Fit (ws vs : List Nat) : Prop := List.Forall₂ (fun w v => v < 2 ^ w) ws vs

theorem packed_lt {ws vs : List Nat} (h : Fit ws vs) : packed ws vs < 2 ^ ws.sum := by
  induction h with
  | nil => decide
  | @cons w v ws vs hv _ ih =>
    calc v + 2 ^ w * packed ws vs < 2 ^ w * (packed ws vs + 1) := by rw [Nat.mul_succ]; omega
      _ ≤ 2 ^ w * 2 ^ ws.sum := Nat.mul_le_mul_left _ ih
      _ = 2 ^ (w :: ws).sum := by rw [List.sum_cons, Nat.pow_add]

theorem bits_whole {n w : Nat} (h : n < 2 ^ w) : bits n 0 w = n := Nat.mod_eq_of_lt h

theorem bits_packed_head {w v : Nat} (ws vs : List Nat) (h : v < 2 ^ w) : bits (packed (w :: ws) (v :: vs)) 0 w = v :=
  (Nat.add_mul_mod_self_left v _ _).trans (Nat.mod_eq_of_lt h)

/-- A field above the first is a field of what follows the first. -/
theorem bits_packed_tail {w v : Nat} (ws vs : List Nat) (l n : Nat) (h : v < 2 ^ w) :
    bits (packed (w :: ws) (v :: vs)) (w + l) n = bits (packed ws vs) l n := by
  have hdrop : packed (w :: ws) (v :: vs) >>> w = packed ws vs := by
    rw [Nat.shiftRight_eq_div_pow, packed, Nat.add_mul_div_left _ _ (Nat.two_pow_pos w), Nat.div_eq_of_lt h, Nat.zero_add]
  rw [bits, Nat.shiftRight_add, hdrop, bits]

/-- The field at place `i` lies above the widths of those before it. -/
theorem Fit.field {ws vs : List Nat} (h : Fit ws vs) (i : Nat) {l w v : Nat} (hw : ws[i]? = some w := by rfl)
    (hv : vs[i]? = some v := by rfl) (hl : (ws.take i).sum = l := by decide) : bits (packed ws vs) l w = v := by
  subst hl
  induction h generalizing i with
  | nil => cases hw
  | cons hhead _ ih =>
    cases i with
    | zero => cases hw; cases hv; exact bits_packed_head _ _ hhead
    | succ i => rw [List.take_succ_cons, List.sum_cons, bits_packed_tail _ _ _ _ hhead]; exact ih i hw hv

theorem b2n_lt (b : Bool) : b2n b < 2 ^ 1 := by cases b <;> decide

/-- A field of one bit that holds a flag. -/
theorem Fit.flag {ws vs : List Nat} (h : Fit ws vs) (i : Nat) {l : Nat} {b : Bool} (hw : ws[i]? = some 1 := by rfl)
    (hv : vs[i]? = some (b2n b) := by rfl) (hl : (ws.take i).sum = l := by decide) : bit (packed ws vs) l = b := by
  have hbit : (packed ws vs >>> l) % 2 = b2n b := h.field i hw hv hl
  rw [bit, Nat.testBit, Nat.one_and_eq_mod_two, hbit]
  cases b <;> rfl

/-! ### The words of the entries -/

/-- R119: QW0. -/
def Entry.widths0 : List Nat := [3, 1, 2, 6, 8, 2, 1, 1, 1, 1, 1, 1, 4, 1, 1, 1, 1, 12]

def Entry.values0 (e : Entry) : List Nat :=
  [e.state, b2n e.gen, e.ratio, e.owner, e.heat, e.cls, b2n e.pinned, b2n e.mirrored, b2n e.shared, b2n e.compressible, b2n e.larderOk,
    b2n e.squeeze, e.shareGrp, b2n e.dc, b2n e.dcAcc, b2n e.locValid, b2n e.locKind, e.moveId]

/-- R119: QW2, with its reserved bits 10 to 15. -/
def Entry.widths2 : List Nat := [3, 3, 2, 1, 1, 6, 10]

def Entry.values2 (e : Entry) : List Nat := [e.srcState, e.dstState, e.dstRatio, b2n e.dstKind, b2n e.dstGen, 0, e.progress]

/-- R121. -/
def PageEntry.widths : List Nat := [3, 1, 2, 1, 1, 8, 40, 3]

def PageEntry.values (e : PageEntry) : List Nat :=
  [e.state, b2n e.gen, e.ratio, b2n e.locValid, b2n e.locKind, e.heat, e.loc, e.srcState]

/-- R139: the layout of PAT_ROOM_CFG. -/
def Room.widths : List Nat := [6, 2, 1, 1, 1, 1, 1, 1, 4, 1, 1]

def Room.values (r : Room) : List Nat :=
  [r.owner, r.cls, b2n r.pinned, b2n r.mirrored, b2n r.shared, b2n r.compressible, b2n r.larderOk, b2n r.squeeze, r.shareGrp, b2n r.dc,
    b2n r.inService]

theorem Entry.qw0_eq_packed (e : Entry) : e.qw0 = packed Entry.widths0 e.values0 := by
  simp only [Entry.qw0, Entry.widths0, Entry.values0, packed]
  omega

theorem Entry.qw2_eq_packed (e : Entry) : e.qw2 = packed Entry.widths2 e.values2 := by
  simp only [Entry.qw2, Entry.widths2, Entry.values2, packed]
  omega

theorem PageEntry.encode_eq_packed (e : PageEntry) : e.encode = packed PageEntry.widths e.values := by
  simp only [PageEntry.encode, PageEntry.widths, PageEntry.values, packed]
  omega

theorem Room.encode_eq_packed (r : Room) : r.encode = packed Room.widths r.values := by
  simp only [Room.encode, Room.widths, Room.values, packed]
  omega

theorem Entry.fit_values0 {e : Entry} (h : e.inRange) : Fit Entry.widths0 e.values0 := by
  obtain ⟨hstate, hratio, howner, hheat, hcls, hgrp, hmove, -⟩ := h
  simp only [Entry.widths0, Entry.values0, List.forall₂_cons, b2n_lt, List.Forall₂.nil, true_and, and_true]
  exact ⟨hstate, hratio, howner, hheat, hcls, hgrp, hmove⟩

theorem Entry.fit_values2 {e : Entry} (h : e.inRange) : Fit Entry.widths2 e.values2 := by
  obtain ⟨-, -, -, -, -, -, -, -, hsrc, hdst, hratio, hprogress, -⟩ := h
  simp only [Entry.widths2, Entry.values2, List.forall₂_cons, b2n_lt, List.Forall₂.nil, true_and, and_true]
  exact ⟨hsrc, hdst, hratio, Nat.two_pow_pos 6, hprogress⟩

theorem PageEntry.fit_values {e : PageEntry} (h : e.inRange) : Fit PageEntry.widths e.values := by
  obtain ⟨hstate, hratio, hheat, hloc, hsrc⟩ := h
  simp only [PageEntry.widths, PageEntry.values, List.forall₂_cons, b2n_lt, List.Forall₂.nil, true_and, and_true]
  exact ⟨hstate, hratio, hheat, hloc, hsrc⟩

theorem Room.fit_values {r : Room} (h : r.inRange) : Fit Room.widths r.values := by
  obtain ⟨howner, hcls, hgrp⟩ := h
  simp only [Room.widths, Room.values, List.forall₂_cons, b2n_lt, List.Forall₂.nil, true_and, and_true]
  exact ⟨howner, hcls, hgrp⟩

/-! ### Each entry is read back -/

theorem Entry.decode_encode {e : Entry} (h : e.inRange) : Entry.decode e.encode.1 e.encode.2.1 e.encode.2.2.1 e.encode.2.2.2 = e := by
  have fit0 := Entry.fit_values0 h
  have fit2 := Entry.fit_values2 h
  obtain ⟨-, -, -, -, -, -, -, hloc, -, -, -, -, hdstLoc⟩ := h
  cases e
  show Entry.decode (Entry.qw0 _) _ (Entry.qw2 _) _ = _
  rw [Entry.qw0_eq_packed, Entry.qw2_eq_packed]
  simp only [Entry.decode, Entry.mk.injEq]
  exact ⟨fit0.field 0, fit0.flag 1, fit0.field 2, fit0.field 3, fit0.field 4, fit0.field 5, fit0.flag 6, fit0.flag 7, fit0.flag 8,
    fit0.flag 9, fit0.flag 10, fit0.flag 11, fit0.field 12, fit0.flag 13, fit0.flag 14, fit0.flag 15, fit0.flag 16, fit0.field 17,
    bits_whole hloc, fit2.field 0, fit2.field 1, fit2.field 2, fit2.flag 3, fit2.flag 4, fit2.field 6, bits_whole hdstLoc⟩

theorem PageEntry.decode_encode {e : PageEntry} (h : e.inRange) : PageEntry.decode e.encode = e := by
  have fit := PageEntry.fit_values h
  cases e
  rw [PageEntry.encode_eq_packed]
  simp only [PageEntry.decode, PageEntry.mk.injEq]
  exact ⟨fit.field 0, fit.flag 1, fit.field 2, fit.flag 3, fit.flag 4, fit.field 5, fit.field 6, fit.field 7⟩

theorem Room.decode_encode {r : Room} (h : r.inRange) : Room.decode r.encode = r := by
  have fit := Room.fit_values h
  cases r
  rw [Room.encode_eq_packed]
  simp only [Room.decode, Room.mk.injEq]
  exact ⟨fit.field 0, fit.field 1, fit.flag 2, fit.flag 3, fit.flag 4, fit.flag 5, fit.flag 6, fit.flag 7, fit.field 8,
    fit.flag 9, fit.flag 10⟩

/-- Settles O57: the words of each entry are its fields side by side. -/
theorem patternEntriesReadBack : Obligations.PatternEntriesReadBack := by
  refine ⟨fun e h => ⟨Entry.decode_encode h, ?_, ?_⟩, fun e h => ⟨PageEntry.decode_encode h, ?_⟩, fun r h => ⟨Room.decode_encode h, ?_⟩⟩
  · rw [Entry.qw0_eq_packed]; exact packed_lt (Entry.fit_values0 h)
  · rw [Entry.qw2_eq_packed]; exact packed_lt (Entry.fit_values2 h)
  · rw [PageEntry.encode_eq_packed]; exact packed_lt (PageEntry.fit_values h)
  · rw [Room.encode_eq_packed]; exact packed_lt (Room.fit_values h)

end Sys2Proof.Machine
end

