-- ==== Sys2Proof/Proofs/RequestChecks.lean ====
section
/-! PROOFS. A request from its acceptance to its flow: ingress, translation, the Pattern lookup, and the checks of R112 in their order. -/

set_option Elab.async false

namespace Sys2Proof.Machine

open Sys2Proof.Laws

namespace Dev

/-! ### The checks (R112) -/

section

variable (d : Dev) (r : Req)

/-- R112 step 3: the skein is unbacked, and its table line is not one that failed its check. -/
abbrev SeesUnbacked : Prop := (d.entry (dpaSkein r.dpa)).state = St.unbacked ∧ d.mem.pat.bad.contains (dpaSkein r.dpa) = false

/-- R112 step 4: the skein is of the request's LD, or shared with a group of it. -/
abbrev MayAccess : Prop :=
  (d.entry (dpaSkein r.dpa)).owner = r.ld ∨ ((d.entry (dpaSkein r.dpa)).shared = true ∧
    (d.get (Pg.ldm r.ld) F.LDM_SHARE_GRPS_GRPS).testBit (d.entry (dpaSkein r.dpa)).shareGrp = true)

/-- R113, R170, R176: a request that passed the checks takes its class and deadline, and goes to its flow unless its LD is viral. -/
def passChecks : Dev :=
  let e := d.entry (dpaSkein r.dpa)
  let r1 := { r with cls := e.cls, deadline := r.sn + d.classTarget e.cls, checked := true }
  let d1 := (d.putReq r1).tally (Pg.ldm r.ld) (if r.kind.isWrite then 0x0101 else 0x0100) 1
  if d1.isViral r.ld then d1.refuse r1 else (d1.addHeat (dpaSkein r.dpa) (dpaPage r.dpa)).coherentFlow r1

/-- The checks of a request whose room does not leave service, as propositions. -/
theorem afterLookup_eq_checks (bi : Bool) (hkind : r.kind ≠ .specRead) (hstays : d.leaving r = false) :
    d.afterLookup r bi =
      let e := d.entry (dpaSkein r.dpa)
      if d.SeesUnbacked r then d.failCheck r Src.unmappedHdm
      else if ¬ d.MayAccess r then (d.addSat (Pg.ldm r.ld) F.LDM_DENIED_COUNT 1).failCheck r Src.roomDenied
      else if ¬ (e.dc = true → e.dcAcc = true) then d.failCheck r Src.unmappedHdm
      else if ¬ d.skeinValid (dpaSkein r.dpa) = true then d.failCheck r Src.patInvalid
      else if ¬ (e.shared = true → bi = true) then d.failCheck r (Src.hpSharedHdmH r.port)
      else d.passChecks r := by
  unfold afterLookup
  rw [if_neg hkind, if_neg (ne_true_of_eq_false hstays)]
  have hback : ((d.entry (dpaSkein r.dpa)).state = St.unbacked && !d.mem.pat.bad.contains (dpaSkein r.dpa)) = true ↔ d.SeesUnbacked r := by
    rw [Bool.and_eq_true, decide_eq_true_iff, Bool.not_eq_true']
  refine if_congr hback rfl (if_congr ?_ rfl (if_congr ?_ rfl (if_congr ?_ rfl (if_congr ?_ rfl rfl))))
  · rw [Bool.not_eq_true', ← Bool.not_eq_true, Bool.or_eq_true, beq_iff_eq, Bool.and_eq_true]
  · rw [Bool.and_eq_true, Bool.not_eq_true', Classical.not_imp, Bool.not_eq_true]
  · rw [Bool.not_eq_true', Bool.not_eq_true]
  · rw [Bool.and_eq_true, Bool.not_eq_true', Classical.not_imp, Bool.not_eq_true]

theorem afterLookup_specRead {bi : Bool} (h : r.kind = .specRead) : d.afterLookup r bi = d.dropReq r.id := if_pos h

theorem afterLookup_passes {bi : Bool} (hkind : r.kind ≠ .specRead) (hstays : d.leaving r = false) (hback : ¬ d.SeesUnbacked r)
    (hmine : d.MayAccess r) (hdc : (d.entry (dpaSkein r.dpa)).dc = true → (d.entry (dpaSkein r.dpa)).dcAcc = true)
    (hvalid : d.skeinValid (dpaSkein r.dpa) = true) (hshared : (d.entry (dpaSkein r.dpa)).shared = true → bi = true) :
    d.afterLookup r bi = d.passChecks r :=
  (d.afterLookup_eq_checks r bi hkind hstays).trans ((if_neg hback).trans ((if_neg (not_not_intro hmine)).trans
    ((if_neg (not_not_intro hdc)).trans ((if_neg (not_not_intro hvalid)).trans (if_neg (not_not_intro hshared))))))

/-! ### The way to the checks (R87, R112, R126, R141, R150) -/

/-- R150: the request as it stands at ingress. -/
def arrived : Req := { r with id := d.mem.nextReq, sn := d.sn, phase := (Config.cycle d.fresh).toNat, stage := .ingress }

/-- The device with the request at ingress, counted at its port. -/
def counted : Dev :=
  let d1 := d.draw.modMem fun m => { m with reqs := m.reqs ++ [d.arrived r], nextReq := m.nextReq + 1 }
  if r.kind.isRead then d1.hpTally (d.arrived r) 0 1
  else if r.kind.isWrite then (d1.hpTally (d.arrived r) 1 1).hpLines r.port r.half true 1 else d1

theorem accept_enters (hfirst : (d.mem.reqs.any fun x => x.ld == r.ld && decide (x.stage = .ingress)) = false)
    (hrun : d.flag Pg.str F.STR_ACT_CTL_PAUSED = false) : d.accept r = (d.counted r).enter (d.arrived r) := by
  unfold accept
  rw [if_neg (ne_true_of_eq_false hfirst), if_neg (ne_true_of_eq_false hrun)]
  rfl

theorem enter_looksUp {off dpa : Nat} {bi : Bool} (hfrog : d.host.frogged.testBit r.ld = false) (hheld : d.domHeld 2 = false)
    (hready : d.pageReady Pg.pat = true) (hdecode : d.hdmDecode r.ld r.addr = some (off, bi)) (htranslate : d.translate r.ld off = some dpa) :
    d.enter r = (d.putReq { r with dpa := dpa }).lookup { r with dpa := dpa } bi := by
  unfold enter
  rw [if_neg (ne_true_of_eq_false hfrog), hheld, hready, if_neg (by decide), hdecode]
  dsimp only
  rw [htranslate]

/-- A lookup that finds its entry, judged on the device that has counted it. -/
theorem lookup_hit {bi : Bool} :
    let sought := d.tally Pg.pat 0x0100 1
    (sought.mem.pat.misses.any fun x => x.1 == dpaSkein r.dpa) = false → (sought.cached (dpaSkein r.dpa)).isSome = true →
    d.lookup r bi = ((sought.tally Pg.pat 0x0101 1).touchWay (dpaSkein r.dpa)).afterLookup r bi := by
  intro sought hmiss hcached
  unfold cached at hcached
  rw [tally_mem] at hmiss hcached
  exact (if_neg (ne_true_of_eq_false hmiss)).trans (if_pos hcached)

end

end Dev

/-- Settles O34: each check decides where those before it pass. -/
theorem requestChecksInOrder : Obligations.RequestChecksInOrder := by
  intro d r bi hkind hstays s e unbacked mine fails
  have hchecks := d.afterLookup_eq_checks r bi hkind hstays
  refine ⟨fun hun => ?_, fun hback hother => ?_, fun hback hmine hdc hacc => ?_, fun hback hmine hdc hbad => ?_,
    fun hback hmine hdc hvalid hshared hbi => ?_⟩
  · exact hchecks.trans (if_pos hun)
  · exact hchecks.trans ((if_neg hback).trans (if_pos hother))
  · have hrefused : ¬ (e.dc = true → e.dcAcc = true) := fun h => absurd (h hdc) (ne_true_of_eq_false hacc)
    exact hchecks.trans ((if_neg hback).trans ((if_neg (not_not_intro hmine)).trans (if_pos hrefused)))
  · exact hchecks.trans ((if_neg hback).trans ((if_neg (not_not_intro hmine)).trans ((if_neg (not_not_intro hdc)).trans
      (if_pos (ne_true_of_eq_false hbad)))))
  · have hcrossed : ¬ (e.shared = true → bi = true) := fun h => absurd (h hshared) (ne_true_of_eq_false hbi)
    exact hchecks.trans ((if_neg hback).trans ((if_neg (not_not_intro hmine)).trans ((if_neg (not_not_intro hdc)).trans
      ((if_neg (not_not_intro hvalid)).trans (if_pos hcrossed)))))

/-- A message of an LD that its port hears is accepted. -/
theorem exec_message {m : MemReq} {data : BitVec 512} {poison : Bool} {enables : BitVec 64} {c : Instr} {q : Req} {s : State} {d : Dev}
    (h : (c, q) ∈ [(Instr.memRd m, Dev.reqOf .read m), (.memRdData m, Dev.reqOf .readData m), (.memInv m, Dev.reqOf .inv m),
      (.memClnEvct m, Dev.reqOf .clnEvct m), (.memSpecRd m, Dev.reqOf .specRead m),
      (.memWr m data poison, { Dev.reqOf .write m with data := data, poison := poison }),
      (.memWrPtl m data enables, { Dev.reqOf .partWrite m with data := data, enables := enables })])
    (hhears : s.dev.hears m = true) (hd : s.dev.accept q = d) : exec c s = .next (s.withDev d.after) := by
  subst hd
  simp only [List.mem_cons, Prod.mk.injEq, List.not_mem_nil, or_false] at h
  rcases h with ⟨rfl, rfl⟩ | ⟨rfl, rfl⟩ | ⟨rfl, rfl⟩ | ⟨rfl, rfl⟩ | ⟨rfl, rfl⟩ | ⟨rfl, rfl⟩ | ⟨rfl, rfl⟩ <;>
    exact run_eq_withDev (when_true hhears)

/-- Settles O33: ingress, translation, a lookup that hits, then the checks. -/
theorem memoryRequestsPassTheChecks : Obligations.MemoryRequestsPassTheChecks := by
  intro s m data poison enables c q off dpa bi hmem hhears hfirst taken drawn queued counted hrun hfrog hheld hready hdecode htranslate
    placed sought hmiss hcached found e
  have haccept : s.dev.accept q = found.afterLookup placed bi :=
    (s.dev.accept_enters q hfirst hrun).trans ((counted.enter_looksUp taken hfrog hheld hready hdecode htranslate).trans
      ((counted.putReq placed).lookup_hit placed hmiss hcached))
  refine ⟨fun hspec => exec_message hmem hhears (haccept.trans (found.afterLookup_specRead placed hspec)),
    fun hkind hstays hback hmine hdc hvalid hshared => ?_⟩
  intro passed noted hviral
  have hbacked : ¬ found.SeesUnbacked placed := fun h => hback.elim (absurd h.1) (absurd · (ne_true_of_eq_false h.2))
  exact exec_message hmem hhears (haccept.trans ((found.afterLookup_passes placed hkind hstays hbacked hmine hdc hvalid hshared).trans
    (if_neg (ne_true_of_eq_false hviral))))

end Sys2Proof.Machine
end

