-- ==== Sys2Proof/Proofs/PatternCommands.lean ====
section
/-! PROOFS. The commands of the PAT page: room reads and writes (R115 to R117), the cache commands and the probe (R129, R139). -/

set_option Elab.async false

namespace Sys2Proof.Machine

open Sys2Proof.Laws

namespace Dev

variable {d : Dev} {drn : Nat} {img : Room}

/-! ### RESULT of a room write, in the order of R115 -/

/-- R115: the image keeps the room in service with other attributes that must not change. -/
def RoomMoves (old img : Room) : Prop :=
  old.inService = true ∧ img.inService = true ∧
    (img.owner ≠ old.owner ∨ img.shared ≠ old.shared ∨ img.shareGrp ≠ old.shareGrp ∨ img.dc ≠ old.dc)

theorem roomMoves_iff (old img : Room) : (old.inService && img.inService &&
    (old.owner != img.owner || old.shared != img.shared || old.shareGrp != img.shareGrp || old.dc != img.dc)) = true ↔ RoomMoves old img := by
  simp only [RoomMoves, Bool.and_eq_true, Bool.or_eq_true, bne_iff_ne, and_assoc, or_assoc, ne_comm (a := img.owner), ne_comm (a := img.shared),
    ne_comm (a := img.shareGrp), ne_comm (a := img.dc)]

theorem roomResult_busy (h : d.flag Pg.pat F.PAT_ROOM_CMD_BUSY = true) : d.roomResult drn img = 4 := if_pos h

section

variable (hidle : d.flag Pg.pat F.PAT_ROOM_CMD_BUSY = false)
include hidle

theorem roomResult_outside (hout : d.winRooms ≤ drn) : d.roomResult drn img = 1 :=
  (if_neg (ne_true_of_eq_false hidle)).trans (if_pos hout)

theorem roomResult_moves (hin : ¬ d.winRooms ≤ drn) (hmoves : RoomMoves (d.room drn) img) : d.roomResult drn img = 2 :=
  (if_neg (ne_true_of_eq_false hidle)).trans ((if_neg hin).trans (if_pos ((roomMoves_iff _ _).mpr hmoves)))

theorem roomResult_unpaired (hin : ¬ d.winRooms ≤ drn) (hstays : ¬ RoomMoves (d.room drn) img) (hmirrored : img.mirrored = true)
    (hpair : d.isPaired = false) : d.roomResult drn img = 3 :=
  (if_neg (ne_true_of_eq_false hidle)).trans ((if_neg hin).trans ((if_neg (mt (roomMoves_iff _ _).mp hstays)).trans
    (if_pos (by rw [hmirrored, hpair]; rfl))))

theorem roomResult_taken (hin : ¬ d.winRooms ≤ drn) (hstays : ¬ RoomMoves (d.room drn) img) (hpair : img.mirrored = true → d.isPaired = true) :
    d.roomResult drn img = 0 := by
  have hmirror : ¬ (img.mirrored && !d.isPaired) = true := fun h => by
    obtain ⟨hmirrored, hunpaired⟩ := Bool.and_eq_true_iff.mp h
    rw [hpair hmirrored] at hunpaired
    cases hunpaired
  exact (if_neg (ne_true_of_eq_false hidle)).trans ((if_neg hin).trans ((if_neg (mt (roomMoves_iff _ _).mp hstays)).trans (if_neg hmirror)))

end

/-! ### The two room commands -/

theorem roomWrite_refused {n : Nat} (h : d.roomResult (d.get Pg.pat F.PAT_ROOM_SEL_DRN) (Room.decode (d.word Pg.pat 0x138).toNat) = n)
    (hn : n ≠ 0) : d.roomWrite = d.set Pg.pat F.PAT_ROOM_CMD_RESULT n := by
  unfold roomWrite
  dsimp only
  rw [h, if_neg hn]

theorem roomWrite_taken (h : d.roomResult (d.get Pg.pat F.PAT_ROOM_SEL_DRN) (Room.decode (d.word Pg.pat 0x138).toNat) = 0) :
    d.roomWrite = (((d.set Pg.pat F.PAT_ROOM_CMD_RESULT 0).setFlag Pg.pat F.PAT_ROOM_CMD_BUSY true).roomBegin
      (d.get Pg.pat F.PAT_ROOM_SEL_DRN) (Room.decode (d.word Pg.pat 0x138).toNat)).after := by
  unfold roomWrite
  dsimp only
  rw [h, if_pos rfl]

theorem roomRead_busy (h : d.flag Pg.pat F.PAT_ROOM_CMD_BUSY = true) : d.roomRead = d.set Pg.pat F.PAT_ROOM_CMD_RESULT 4 := if_pos h

theorem roomRead_outside (hidle : d.flag Pg.pat F.PAT_ROOM_CMD_BUSY = false) (hout : d.winRooms ≤ d.get Pg.pat F.PAT_ROOM_SEL_DRN) :
    d.roomRead = d.set Pg.pat F.PAT_ROOM_CMD_RESULT 1 := (if_neg (ne_true_of_eq_false hidle)).trans (if_pos hout)

theorem roomRead_loads (hidle : d.flag Pg.pat F.PAT_ROOM_CMD_BUSY = false) (hin : ¬ d.winRooms ≤ d.get Pg.pat F.PAT_ROOM_SEL_DRN) :
    d.roomRead = (d.setWord Pg.pat 0x138 (BitVec.ofNat 32 (d.room (d.get Pg.pat F.PAT_ROOM_SEL_DRN)).encode)).set
      Pg.pat F.PAT_ROOM_CMD_RESULT 0 := (if_neg (ne_true_of_eq_false hidle)).trans (if_neg hin)

/-! ### Completions and the cache commands -/

theorem roomComplete_ends (hcmd : d.mem.pat.roomCmd = some (drn, img))
    (hrecalled : d.mem.pat.roomLeaving ≠ some drn ∨ (d.mem.pat.snoops.any fun n => n.line / 2 ^ 24 == drn) = false) :
    d.roomComplete = ((d.roomEnd drn img (d.roomWas drn img)).setFlag Pg.pat F.PAT_ROOM_CMD_BUSY false).after := by
  have hdone : ¬ (d.mem.pat.roomLeaving == some drn && d.mem.pat.snoops.any fun n => n.line / 2 ^ 24 == drn) = true := fun h => by
    obtain ⟨hleaving, hsnoops⟩ := Bool.and_eq_true_iff.mp h
    exact hrecalled.elim (absurd (eq_of_beq hleaving)) (absurd hsnoops ∘ ne_true_of_eq_false)
  unfold roomComplete
  rw [hcmd]
  exact if_neg hdone

/-- R129: no table line failed its check. -/
theorem flushDone_clean (h : d.flag Pg.pat F.PAT_CACHE_CTL_FLUSH = true) :
    flushDone [] d = (((d.mem.pat.cache.filter (·.changed)).foldl (fun d w => d.writeTable w.skein w.entry) d).modPat fun p =>
      { p with cache := p.cache.map fun w => { w with changed := false } }).setFlag Pg.pat F.PAT_CACHE_CTL_FLUSH false :=
  when_true h

/-- R139: the four words of the entry as a lookup sees it, or of an entry of zeros outside the window. The case split on the words, and not
`rfl`, takes the pattern apart: a kernel comparison of nested register writes is too deep. -/
theorem probe_eq (d : Dev) :
    let k := dpaSkein (d.get Pg.pat F.PAT_PROBE_DPA_DPA)
    let q := (if k / 512 < d.winRooms ∧ d.patServes = true then d.entry k else {}).encode
    let put := fun (d : Dev) (i v : Nat) => d.set Pg.pat (F.PAT_PROBE_ENT_QW.sh (8 * i)) v
    d.probe = (put (put (put (put d 0 q.1) 1 q.2.1) 2 q.2.2.1) 3 q.2.2.2).setFlag Pg.pat F.PAT_PROBE_CMD_HIT (d.cached k).isSome := by
  intro k q put
  unfold probe
  extract_lets
  split
  next a b c e hwords =>
    have hq : q = (a, b, c, e) := hwords
    rw [hq]

end Dev

/-- Settles O37, from RESULT in each case of the table. -/
theorem roomCommandsFollowTheTable : Obligations.RoomCommandsFollowTheTable := by
  intro s a hserves d drn busy img old out moves result
  refine ⟨fun hbusy => ⟨?_, ?_⟩, fun hidle hout => ⟨?_, ?_⟩, fun hidle hin hmoves => ?_, fun hidle hin hstays hmirrored hpair => ?_,
    fun hidle hin hstays hpair => ?_, fun hidle hin => ?_⟩
  · exact run_writeTo _ hserves (Dev.roomWrite_refused (Dev.roomResult_busy hbusy) (by decide))
  · exact run_writeTo _ hserves (Dev.roomRead_busy hbusy)
  · exact run_writeTo _ hserves (Dev.roomWrite_refused (Dev.roomResult_outside hidle hout) (by decide))
  · exact run_writeTo _ hserves (Dev.roomRead_outside hidle hout)
  · exact run_writeTo _ hserves (Dev.roomWrite_refused (Dev.roomResult_moves hidle hin hmoves) (by decide))
  · exact run_writeTo _ hserves (Dev.roomWrite_refused (Dev.roomResult_unpaired hidle hin hstays hmirrored hpair) (by decide))
  · exact run_writeTo _ hserves (Dev.roomWrite_taken (Dev.roomResult_taken hidle hin hstays hpair))
  · exact run_writeTo _ hserves (Dev.roomRead_loads hidle hin)

/-- Settles O38, from the effect of each command where its conditions hold. -/
theorem patternCommandsComplete : Obligations.PatternCommandsComplete :=
  ⟨fun _ _ _ hcmd hrecalled => run_eq_withDev (Dev.roomComplete_ends hcmd hrecalled), fun _ _ h => run_writeTo _ h rfl,
    fun _ hflush => run_eq_withDev (Dev.flushDone_clean hflush), fun _ _ h => run_writeTo _ h (Dev.probe_eq _)⟩

end Sys2Proof.Machine
end

