-- ==== Sys2Proof/Proofs/RequestEvents.lean ====
section
/-! PROOFS. The events that carry a request on (chapters 3 to 6): snoop answers, misses and captures, gates and parks, late requests, compressors. -/

set_option Elab.async false

namespace Sys2Proof.Machine

open Sys2Proof.Laws

/-- A command whose effect ends with what every memory command leaves to do. -/
theorem run_after {f : Effect} {s : State} {d : Dev} (h : f s.dev = d) : s.run (fun d => (f d).after) = .next (s.withDev d.after) :=
  run_eq_withDev (congrArg Dev.after h)

theorem sortBy_singleton {α : Type} (key : α → List Nat) (x : α) : sortBy key [x] = [x] := rfl

namespace Dev

variable {d : Dev} {r : Req} {id : Nat}

/-! ### Snoop answers (R162, R165) -/

section

variable {n : Snoop} {line ld : Nat} (hsnoop : d.snoopOf line = some n) (hwaits : n.waiting.testBit ld = true)
include hsnoop hwaits

/-- The snoop waits for its other holders. -/
theorem snoopAnswer_more (hmore : clrBit n.waiting ld ≠ 0) :
    d.snoopAnswer line ld =
      d.modPat fun p => { p with snoops := p.snoops.map fun x => if x = n then { n with waiting := clrBit n.waiting ld } else x } := by
  unfold snoopAnswer
  rw [hsnoop]
  simp only [hwaits, Bool.not_true, Bool.false_eq_true, if_false]
  exact if_pos hmore

/-- The last holder has answered: an eviction leaves the directory, and a request's coherence step is done. -/
theorem snoopAnswer_last (hlast : clrBit n.waiting ld = 0) :
    let ended := d.modPat fun p => { p with snoops := p.snoops.filter fun x => x != n }
    d.snoopAnswer line ld = if n.evict = true then ended.setDir line false 0
      else match ended.findReq n.req with
        | some r => ended.putReq { r with snooped := true }
        | none => if n.inval = true then ended.setDir line false 0 else ended := by
  intro ended
  unfold snoopAnswer
  rw [hsnoop]
  simp only [hwaits, Bool.not_true, Bool.false_eq_true, if_false]
  exact if_neg (not_not_intro hlast)

theorem biTimeout_late {w : DirWay} (hlate : n.sn + 1024 ≤ d.sn) (hway : d.dirWay line = some w) :
    biTimeout ld line d =
      (((d.setDir line w.excl (clrBit w.holders ld)).raise Src.biTimeout (64 * line) ld 0).snoopAnswer line ld).after := by
  unfold biTimeout
  rw [hsnoop, hway]
  exact if_pos (by rw [hwaits, decide_eq_true hlate]; rfl)

end

/-! ### Misses and captures (R128, R143, R243, R245) -/

/-- R128: a table line that reads well is installed, and what waited for it resumes. -/
theorem missInstall_reads {k : Nat} (hmiss : (d.mem.pat.misses.any fun m => m.1 == k) = true) :
    let served := d.modPat fun p => { p with misses := p.misses.filter fun m => m.1 != k }
    served.cached k = none →
    let installed := served.installWay k (served.tableEntry k) false
    missInstall k true d =
      ((installed.mem.reqs.filter fun r => decide (r.stage = .miss) && dpaSkein r.dpa == k).foldl (fun d r => d.resume r) installed).after := by
  intro served hcached installed
  have hinstalled : (if (served.cached k).isSome then served else installed) = installed := by rw [hcached]; rfl
  refine (when_true hmiss).trans ?_
  rw [← hinstalled]
  rfl

theorem lineCapture_captures {f : LineFault} (hfind : d.findReq id = some r) (hstage : r.stage = .issued)
    (hplays : (d.sub r.sub).replaying = false) (hruns : d.chHalted (r.sub / 2) = false) : lineCapture id f d = (d.captured r f).after := by
  unfold lineCapture
  rw [hfind]
  exact if_pos (by simp only [hstage, hplays, hruns]; decide)

theorem macAlarm_late (hfind : d.findReq id = some r) (hstage : r.stage = .late) :
    macAlarm id d = ((d.lateAlarm r (some r.ld)).dropReq id).after := by
  unfold macAlarm
  rw [hfind]
  exact if_pos hstage

/-! ### Gates and holds (R150, R313) -/

/-- The only request that waits passes the gate and finds its line again. -/
theorem gateRelease_passes {sub : Nat} {y : Req} {e : Dev} (honly : (d.gateReqs.filter fun r => r.sub == sub || r.sub == 32) = [r])
    (hsub : r.sub ≠ 32) (hfind : d.findReq r.id = some r) (hstage : r.stage = .gate) (hpass : d.tryPass r = some e)
    (hagain : e.findReq r.id = some y) : d.gateRelease sub = e.flow y := by
  unfold gateRelease
  rw [honly, sortBy_singleton]
  simp only [List.foldl_cons, List.foldl_nil, hfind, hpass, hagain]
  rw [if_neg (not_not_intro hstage), if_neg hsub]

theorem ingressRelease_resumes {ld : Nat} (honly : (d.mem.reqs.filter fun r => r.ld == ld && decide (r.stage = .ingress)) = [r]) :
    d.ingressRelease ld = d.resume r := by
  unfold ingressRelease
  rw [honly]
  rfl

/-! ### Parked requests (R130, R154, R157) -/

section

variable (hfind : d.findReq id = some r)
include hfind

theorem unpark_resumes {c : ParkCause} (hstage : r.stage = .parked c) (hlives : r.checked = true → d.isViral r.ld = false) :
    d.unpark id = d.resume { r with locking := false, stage := .order } := by
  have hparked : ¬ (!Parked r) = true := by
    unfold Parked
    rw [hstage]
    exact Bool.false_ne_true
  have hviral : ¬ (r.checked && d.isViral r.ld) = true := fun h => by
    obtain ⟨hchecked, hviral⟩ := Bool.and_eq_true_iff.mp h
    exact absurd hviral (ne_true_of_eq_false (hlives hchecked))
  unfold unpark
  rw [hfind]
  exact (if_neg hparked).trans (if_neg hviral)

theorem parkRelease_resumes {c : ParkCause} (hstage : r.stage = .parked c) (hends : d.parkEnds r c = true)
    (hlives : r.checked = true → d.isViral r.ld = false) :
    parkRelease id d = (d.resume { r with locking := false, stage := .order }).after := by
  rw [← unpark_resumes hfind hstage hlives]
  unfold parkRelease
  simp only [hfind, hstage, hends, Bool.true_or, if_true]

theorem backingTimeout_late (hstage : r.stage = .parked .backing) (hlate : r.sn + 3907 ≤ d.sn) :
    backingTimeout id d = ((d.raise Src.backingExhausted r.addr r.ld r.kind.acc).discard r).after := by
  unfold backingTimeout
  rw [hfind]
  exact if_pos ⟨hstage, hlate⟩

theorem larderTimeout_late {read : Bool} (hstage : r.stage = .parked .larder ∨ r.stage = .parked .copy) (hlate : r.sn + 3905 ≤ d.sn)
    (hread : r.kind.isRead = read) : larderTimeout id read d = (d.larderEnd r).after := by
  have hends : d.larderLate r = true := by
    unfold larderLate
    rw [decide_eq_true hlate]
    rcases hstage with h | h <;> rw [h] <;> rfl
  unfold larderTimeout
  rw [hfind]
  exact if_pos (by rw [hends, hread, beq_self_eq_true]; rfl)

end

theorem larderEnd_read (h : r.kind.isRead = true) : d.larderEnd r = (d.raise Src.larderReadTo r.dpa r.ld 1).answerRead r allOnes true :=
  if_pos h

theorem larderEnd_write (h : r.kind.isRead = false) : d.larderEnd r = (d.raise Src.larderWriteTo r.dpa r.ld r.kind.acc).discard r :=
  if_neg (ne_true_of_eq_false h)

/-! ### Compressors and decompressors (R148, R221) -/

theorem compressorDone_rewrites {i : Nat} {ok : Bool}
    (hfind : (d.mem.reqs.find? fun r => decide (r.stage = .encode) && r.inst == some i) = some r) :
    compressorDone i ok d = (((d.setCmpBusy i 0).rewriteDone r i ok).assignEncoders).after := by
  unfold compressorDone
  rw [hfind]

/-- The only block that may use the freed decompressor is decoded. -/
theorem decompressorFree_decodes {i : Nat} (hlow : 32 ≤ i) (hhigh : i < 80) :
    let freed := d.setCmpBusy i 0
    (freed.mem.reqs.filter fun r => decide (r.stage = .decode) && (freed.inlineChoice (r.sub / 2)).contains i) = [r] →
    decompressorFree i d = (freed.decodeOn r i).after := by
  intro freed honly
  refine (when_true (decide_eq_true ⟨hlow, hhigh⟩)).trans ?_
  dsimp only
  rw [honly, sortBy_singleton]

end Dev

/-- Settles O36, from the effect of each event where its conditions hold. -/
theorem requestEventsComplete : Obligations.RequestEventsComplete := by
  refine ⟨fun s r hhears => run_eq_withDev (when_true hhears), fun s r op hhears => run_eq_withDev (when_true hhears),
    fun s ld line n hsnoop hwaits => ⟨fun hmore => run_after (f := (·.snoopAnswer line ld)) (Dev.snoopAnswer_more hsnoop hwaits hmore),
      fun hlast => run_after (f := (·.snoopAnswer line ld)) (Dev.snoopAnswer_last hsnoop hwaits hlast)⟩,
    fun s ld line n w hsnoop hwaits hlate hway => run_eq_withDev (Dev.biTimeout_late hsnoop hwaits hlate hway),
    fun s k hmiss hcached => run_eq_withDev (Dev.missInstall_reads hmiss hcached),
    fun s id f r hfind hstage hplays hruns => run_eq_withDev (Dev.lineCapture_captures hfind hstage hplays hruns),
    fun s id r hfind hstage => run_eq_withDev (Dev.macAlarm_late hfind hstage),
    fun s sub r y d honly hsub hnum hfind hstage hpass hagain =>
      run_after (f := (·.gateRelease sub)) (Dev.gateRelease_passes honly (hsub.trans_ne hnum) hfind hstage hpass hagain),
    fun s ld r honly => run_after (f := (·.ingressRelease ld)) (Dev.ingressRelease_resumes honly),
    fun s id r c hfind hstage hends hlives => run_eq_withDev (Dev.parkRelease_resumes hfind hstage hends hlives),
    fun s id r hfind hstage hlate => run_eq_withDev (Dev.backingTimeout_late hfind hstage hlate),
    fun s id r hfind hstage hlate => ⟨fun hread => run_eq_withDev ?_, fun hwrite => run_eq_withDev ?_⟩,
    fun s i ok r hfind => run_eq_withDev (Dev.compressorDone_rewrites hfind),
    fun s i r hlow hhigh honly => run_eq_withDev (Dev.decompressorFree_decodes hlow hhigh honly)⟩
  · rw [← Dev.larderEnd_read hread]
    exact Dev.larderTimeout_late hfind hstage hlate hread
  · rw [← Dev.larderEnd_write hwrite]
    exact Dev.larderTimeout_late hfind hstage hlate hwrite

end Sys2Proof.Machine
end

