-- ==== Sys2Proof/Proofs/TierCommands.lean ====
section
/-! PROOFS. The commands of the tier engine (R178 to R201): the scanner's visits, pack trials, moves and the squeeze walk. -/

set_option Elab.async false

namespace Sys2Proof.Machine

open Sys2Proof.Laws

namespace Dev

variable {d : Dev}

/-! ### The scanner (R179) -/

/-- R179: a visit whose reads are within TIR_SCAN_CFG.LINES counts them, moves the position on, decays the skein and applies the rows of R180. -/
theorem scanVisit_within {k : Nat} (hnext : d.nextVisit = some k) :
    let cost := (if k % 2 = 0 ∨ k = d.get Pg.tir F.TIR_SCAN_POS_SKEIN then 1 else 0) + (if (d.entry k).state = St.split then 64 else 0)
    d.mem.tier.scanUsed + cost ≤ d.get Pg.tir F.TIR_SCAN_CFG_LINES →
    let e := ((d.tally Pg.tir 0x0103 1).modTier fun t => { t with scanUsed := d.mem.tier.scanUsed + cost }).set Pg.tir F.TIR_SCAN_POS_SKEIN (k + 1)
    d.scanVisit = (if e.skeinValid k ∧ (e.entry k).state ≠ St.unbacked then e.decaySkein k else e).applyRows k := by
  intro cost hwithin e
  unfold scanVisit
  rw [hnext]
  exact if_neg fun hover => Nat.not_lt.mpr hwithin hover.1

theorem scanVisit_pass (hnext : d.nextVisit = none) :
    let n := d.get Pg.tir F.TIR_SCAN_PASS_COUNT + 1
    d.scanVisit = ((d.set Pg.tir F.TIR_SCAN_PASS_COUNT n).set Pg.tir F.TIR_SCAN_POS_SKEIN 0).raise Src.scanPass (n % 2 ^ 32) 0xFF 7 := by
  unfold scanVisit
  rw [hnext]

/-- The scanner runs where the engine is on, scanning is enabled and the engine is not quiesced. -/
theorem visit_on (hon : d.tierOn = true) (hscan : d.flag Pg.tir F.TIR_CFG_SCAN_EN = true) (hquiet : d.quiesced = false) :
    d.visit = d.scanVisit :=
  when_true (by rw [hon, hscan, hquiet]; rfl)

/-! ### Trials and moves (R182, R183, R187, R189) -/

theorem trialEnd_done {k i : Nat} {t : Trial} (bad : List Nat) (hfind : (d.mem.tier.trials.find? fun t => t.skein == k) = some t)
    (hinst : d.deviceCompressor = some i) : trialEnd k bad d = d.trialDone t bad i := by
  unfold trialEnd
  rw [hfind, hinst]

/-- R183: the oldest wanted move starts, where its cause is not no-fit (5), squeeze (7) or evacuation (8), which R193, R196 and R197 treat apart. -/
theorem startFront_starts {w : Want} {rest : List Want} {e : Dev} (hwants : d.mem.tier.wants = w :: rest) (hmoves : d.stillMoves w = true)
    (hfit : w.cause ≠ 5) (hsqueeze : w.cause ≠ 7) (hevac : w.cause ≠ 8)
    (hstart : (d.modTier fun t => { t with wants := rest }).startWant w = some e) : d.startFront = e := by
  -- `simp` takes the last arm of the match on cause and page by `hother`.
  have hother : ∀ n, w.cause = 5 → w.page = some n → False := fun _ h _ => hfit h
  unfold startFront
  rw [hwants]
  simp only [hmoves, Bool.not_true, Bool.false_eq_true, if_false, hsqueeze, false_and, hevac, hstart]

theorem copyPhaseEnd_ready {id : Nat} {m : Mig} (r : CopyResult) (hfind : d.findMig id = some m) (hready : d.copyReady m = true) :
    copyPhaseEnd id r d = ((d.copyEnd m r).kick).pump := by
  unfold copyPhaseEnd
  rw [hfind]
  exact if_pos hready

theorem settle_asked {id n : Nat} {m : Mig} (hfind : d.findMig id = some m) (hreason : m.reason = n) (hn : n ≠ 0) :
    settle id n d = ((d.settleNow m).evacCheck.kick).pump := by
  unfold settle
  rw [hfind]
  exact if_pos ⟨hreason, hn⟩

end Dev

/-- R196: an LD that is still over its quota once the squeezed LDs are brought up to date is walked. -/
theorem execSqueezeWalk_over {s : State} {ld : Nat} (hld : ld < 64) (hon : s.dev.squeezeUpdate.tierOn = true)
    (hover : (s.dev.squeezeUpdate.get Pg.tir F.TIR_SQUEEZE_LDS).testBit ld = true) (hquiet : s.dev.squeezeUpdate.quiesced = false) :
    execSqueezeWalk ld s = .next (s.withDev (s.dev.squeezeUpdate.squeezeWalk ld)) := by
  unfold execSqueezeWalk
  exact run_eq_withDev (if_pos (by rw [hon, decide_eq_true hld, hover, hquiet]; rfl))

/-- Settles O39, from the effect of each command where its conditions hold. -/
theorem tierCommandsComplete : Obligations.TierCommandsComplete := by
  refine ⟨fun s hon hscan hquiet => ⟨fun k hnext hwithin => run_eq_withDev ?_, fun hnext => run_eq_withDev ?_⟩,
    fun s k i bad t hfind hinst => run_eq_withDev (Dev.trialEnd_done bad hfind hinst),
    fun s w rest d hon hquiet hwants hmoves hfit hsqueeze hevac hstart => run_eq_withDev ((when_true ?_).trans
      (congrArg Dev.pump (Dev.startFront_starts hwants hmoves hfit hsqueeze hevac hstart))),
    fun s id r m hfind hready => run_eq_withDev (Dev.copyPhaseEnd_ready r hfind hready),
    fun s id n m hfind hreason hn => run_eq_withDev (Dev.settle_asked hfind hreason hn),
    fun s => ⟨rfl, rfl⟩, fun s hon hpressure hquiet => run_eq_withDev (when_true ?_),
    fun s ld hld hon hover hquiet => execSqueezeWalk_over hld hon hover hquiet, fun s a v h => run_writeTo _ h rfl,
    fun s hready hidle => run_eq_withDev (when_true ?_), fun s hwaits hfree => run_eq_withDev ?_⟩
  · exact (Dev.visit_on hon hscan hquiet).trans (Dev.scanVisit_within hnext hwithin)
  · exact (Dev.visit_on hon hscan hquiet).trans (Dev.scanVisit_pass hnext)
  · rw [hon, hquiet]; rfl
  · rw [hon, hpressure, hquiet]; rfl
  · rw [hready, hidle]; rfl
  · rw [when_true hwaits, if_pos hfree]

end Sys2Proof.Machine
end

