-- ==== Sys2Proof/Proofs/SlotCode.lean ====
section
/-! PROOFS. The fixed-ratio code: what the decoder of a slot answers by scheme (R215, R216), and that it undoes the encoder (R209 to R213). -/

set_option Elab.async false

namespace Sys2Proof.Machine

/-! ### Fields of `k` bits -/

@[simp] theorem length_unpackBits (k n x : Nat) : (unpackBits k n x).length = n := by
  induction n generalizing x with
  | zero => rfl
  | succ n ih => rw [unpackBits, List.length_cons, ih]

theorem unpackBits_eq_map_bits (k n x : Nat) : unpackBits k n x = (List.range n).map fun i => bits x (k * i) k := by
  induction n generalizing x with
  | zero => rfl
  | succ n ih =>
    rw [unpackBits, ih, List.range_succ_eq_map, List.map_cons, List.map_map]
    refine congrArg₂ _ rfl (List.map_congr_left fun i _ => ?_)
    rw [Function.comp_apply, bits, bits, ← Nat.shiftRight_eq_div_pow, ← Nat.shiftRight_add, Nat.mul_succ, Nat.add_comm k]

theorem lt_of_mem_unpackBits {k n x d : Nat} (h : d ∈ unpackBits k n x) : d < 2 ^ k := by
  rw [unpackBits_eq_map_bits, List.mem_map] at h
  obtain ⟨i, -, rfl⟩ := h
  exact Nat.mod_lt _ (Nat.two_pow_pos k)

/-- The lowest field and the others come apart again. -/
theorem field_mod (k d m : Nat) : (d % 2 ^ k + 2 ^ k * m) % 2 ^ k = d % 2 ^ k := by
  rw [Nat.add_mul_mod_self_left, Nat.mod_mod]

theorem field_div (k d m : Nat) : (d % 2 ^ k + 2 ^ k * m) / 2 ^ k = m := by
  rw [Nat.add_mul_div_left _ _ (Nat.two_pow_pos k), Nat.div_eq_of_lt (Nat.mod_lt _ (Nat.two_pow_pos k)), Nat.zero_add]

theorem unpackBits_packBits (k : Nat) (l : List Nat) : unpackBits k l.length (packBits k l) = l.map (· % 2 ^ k) := by
  induction l with
  | nil => rfl
  | cons d l ih => rw [List.length_cons, unpackBits, packBits, field_mod, field_div, ih, List.map_cons]

theorem packBits_unpackBits (k n x : Nat) : packBits k (unpackBits k n x) = x % 2 ^ (k * n) := by
  induction n generalizing x with
  | zero => rw [Nat.mul_zero, Nat.pow_zero, Nat.mod_one]; rfl
  | succ n ih => rw [unpackBits, packBits, ih, Nat.mod_mod, Nat.mul_succ, Nat.add_comm (k * n), Nat.pow_add, Nat.mod_mul]

theorem packBits_lt (k : Nat) (l : List Nat) : packBits k l < 2 ^ (k * l.length) := by
  induction l with
  | nil => exact Nat.two_pow_pos _
  | cons d l ih =>
    have hd : d % 2 ^ k < 2 ^ k := Nat.mod_lt _ (Nat.two_pow_pos k)
    calc d % 2 ^ k + 2 ^ k * packBits k l < 2 ^ k * (packBits k l + 1) := by rw [Nat.mul_succ]; omega
      _ ≤ 2 ^ k * 2 ^ (k * l.length) := Nat.mul_le_mul_left _ ih
      _ = 2 ^ (k * (d :: l).length) := by rw [List.length_cons, Nat.mul_succ, Nat.add_comm (k * _), Nat.pow_add]

theorem packBits_append (k : Nat) (l m : List Nat) : packBits k (l ++ m) = packBits k l + 2 ^ (k * l.length) * packBits k m := by
  induction l with
  | nil => simp [packBits]
  | cons d l ih =>
    rw [List.cons_append, packBits, ih, packBits, List.length_cons, Nat.mul_succ, Nat.add_comm (k * _) k, Nat.pow_add]
    ring

/-- The fields from `m` on, `n` of them, are one wider field of the number. -/
theorem bits_packBits (k : Nat) (l : List Nat) (m n : Nat) : bits (packBits k l) (k * m) (k * n) = packBits k ((l.drop m).take n) := by
  have low : ∀ (l : List Nat) (n : Nat), packBits k l % 2 ^ (k * n) = packBits k (l.take n) := by
    intro l n
    by_cases hn : n ≤ l.length
    · conv_lhs => rw [← List.take_append_drop n l, packBits_append, List.length_take_of_le hn, Nat.add_mul_mod_self_left]
      exact Nat.mod_eq_of_lt ((packBits_lt k _).trans_eq (by rw [List.length_take_of_le hn]))
    · rw [List.take_of_length_le (by omega)]
      exact Nat.mod_eq_of_lt ((packBits_lt k l).trans_le (Nat.pow_le_pow_right Nat.two_pos (Nat.mul_le_mul_left k (by omega))))
  have high : packBits k l / 2 ^ (k * m) = packBits k (l.drop m) := by
    induction m generalizing l with
    | zero => rw [Nat.mul_zero, Nat.pow_zero, Nat.div_one, List.drop_zero]
    | succ m ih =>
      cases l with
      | nil => exact Nat.zero_div _
      | cons d l => rw [Nat.mul_succ, Nat.add_comm, Nat.pow_add, ← Nat.div_div_eq_div_mul, packBits, field_div, ih, List.drop_succ_cons]
  rw [bits, Nat.shiftRight_eq_div_pow, high, low]

/-! ### Bytes of a slot -/

@[simp] theorem length_leBytes (n x : Nat) : (leBytes n x).length = n := length_unpackBits 8 n x

theorem lt_of_mem_leBytes {n x b : Nat} (h : b ∈ leBytes n x) : b < 256 := lt_of_mem_unpackBits h

theorem ofBytes_leBytes {n x : Nat} (h : x < 2 ^ (8 * n)) : ofBytes (leBytes n x) = x :=
  (packBits_unpackBits 8 n x).trans (Nat.mod_eq_of_lt h)

/-- A number stored after `off` other bytes is read back from there. -/
theorem ofBytes_stored {off n x : Nat} {s a rest : List Nat} (hs : s = a ++ (leBytes n x ++ rest)) (ha : a.length = off)
    (hx : x < 2 ^ (8 * n)) : ofBytes ((s.drop off).take n) = x := by
  rw [hs, List.drop_left' ha, List.take_left' (length_leBytes n x), ofBytes_leBytes hx]

/-- Words stored one after the other are read back, whatever bytes follow. -/
theorem unpackBits_stored_words (rest : List Nat) {l : List Nat} {n : Nat} (hl : l.length ≤ n) (hw : ∀ x ∈ l, x < 2 ^ 64) :
    ∃ ws, unpackBits 64 n (ofBytes (l.flatMap (leBytes 8) ++ rest)) = l ++ ws := by
  induction l generalizing n with
  | nil => exact ⟨_, rfl⟩
  | cons x l ih =>
    obtain ⟨n, rfl⟩ : ∃ m, n = m + 1 := ⟨n - 1, by rw [List.length_cons] at hl; omega⟩
    obtain ⟨hx, hw⟩ := List.forall_mem_cons.mp hw
    obtain ⟨ws, hws⟩ := ih (Nat.le_of_succ_le_succ hl) hw
    have hfirst : ofBytes ((x :: l).flatMap (leBytes 8) ++ rest) = x % 2 ^ 64 + 2 ^ 64 * ofBytes (l.flatMap (leBytes 8) ++ rest) := by
      rw [List.flatMap_cons, List.append_assoc]
      refine (packBits_append 8 _ _).trans ?_
      rw [length_leBytes, leBytes, packBits_unpackBits]
      rfl
    exact ⟨ws, by rw [hfirst, unpackBits, field_mod, field_div, hws, Nat.mod_eq_of_lt hx]; rfl⟩

/-! ### Bitmaps of words (R210) -/

theorem wordMap_cons_mod (p : Nat → Bool) (v : Nat) (w : List Nat) : wordMap p (v :: w) % 2 = if p v then 1 else 0 := by
  rw [wordMap, Nat.add_mul_mod_self_left]
  split <;> rfl

theorem wordMap_cons_div (p : Nat → Bool) (v : Nat) (w : List Nat) : wordMap p (v :: w) / 2 = wordMap p w := by
  rw [wordMap]
  split <;> omega

theorem wordMap_lt (p : Nat → Bool) (w : List Nat) : wordMap p w < 2 ^ w.length := by
  induction w with
  | nil => exact Nat.two_pow_pos 0
  | cons v w ih =>
    rw [wordMap, List.length_cons, Nat.pow_succ]
    split <;> omega

theorem popCount_wordMap (p : Nat → Bool) (w : List Nat) : popCount w.length (wordMap p w) = (w.filter p).length := by
  induction w with
  | nil => rfl
  | cons v w ih =>
    rw [List.length_cons, popCount, wordMap_cons_mod, wordMap_cons_div, ih, List.filter_cons]
    split
    · rw [List.length_cons, Nat.add_comm]
    · exact Nat.zero_add _

theorem testBit_succ_comp (m : Nat) : (fun j => m.testBit j) ∘ Nat.succ = fun j => (m / 2).testBit j :=
  funext fun j => Nat.testBit_succ m j

theorem popCount_eq_countP (n m : Nat) : popCount n m = (List.range n).countP fun j => m.testBit j := by
  induction n generalizing m with
  | zero => rfl
  | succ n ih =>
    rw [popCount, ih, List.range_succ_eq_map, List.countP_cons, List.countP_map, testBit_succ_comp, Nat.testBit_zero, Nat.add_comm]
    rcases Nat.mod_two_eq_zero_or_one m with h | h <;> rw [h] <;> rfl

/-- R215: word i of SPARSE is the stored word whose place is the number of bits set below i. -/
theorem sparseWords_eq_map (n m : Nat) (ws : List Nat) : sparseWords n m ws =
    (List.range n).map fun i => if m.testBit i = true then ws.getD ((List.range i).countP fun j => m.testBit j) 0 else 0 := by
  induction n generalizing m ws with
  | zero => rfl
  | succ n ih =>
    have later : ∀ i, (List.range (i + 1)).countP (fun j => m.testBit j) =
        (List.range i).countP (fun j => (m / 2).testBit j) + if m % 2 = 1 then 1 else 0 := by
      intro i
      rw [List.range_succ_eq_map, List.countP_cons, List.countP_map, testBit_succ_comp, Nat.testBit_zero]
      simp only [decide_eq_true_eq]
    rw [sparseWords, ih, ih, List.range_succ_eq_map, List.map_cons, List.map_map]
    simp only [Function.comp_def, Nat.succ_eq_add_one, later, Nat.testBit_succ, Nat.testBit_zero, decide_eq_true_eq]
    split
    · cases ws <;> rfl
    · rfl

/-- R215: word i of DUAL-BASE adds delta i to the base that bit i of the mask selects. -/
theorem dualWords_map_range (k b m n : Nat) (f : Nat → Nat) : dualWords k b m ((List.range n).map f) =
    (List.range n).map fun i => ((if m.testBit i = true then b else 0) + sextWord k (f i)) % 2 ^ 64 := by
  induction n generalizing m f with
  | zero => rfl
  | succ n ih =>
    rw [List.range_succ_eq_map, List.map_cons, List.map_map, dualWords, ih, List.map_cons, List.map_map]
    simp only [Function.comp_def, Nat.succ_eq_add_one, Nat.testBit_succ, Nat.testBit_zero, decide_eq_true_eq]

/-! ### The decoder by scheme (R215, R216) -/

/-- The header of BASE-DELTA holds scheme 2 and k / 4. -/
theorem base_header {k : Nat} (hk : k ∈ [4, 8, 16, 24]) : (0x20 + k / 4) / 16 = 2 ∧ 4 * ((0x20 + k / 4) % 16) = k := by
  fin_cases hk <;> decide

/-- The header of DUAL-BASE holds scheme 3 and k / 4. -/
theorem dual_header {k : Nat} (hk : k ∈ [8, 16, 24]) : (0x30 + k / 4) / 16 = 3 ∧ 4 * ((0x30 + k / 4) % 16) = k := by
  fin_cases hk <;> decide

section Schemes
variable {s : List Nat}

theorem slotWords_zero (h : s.headD 0 = 0x00) : slotWords s = List.replicate 32 0 := by
  simp only [slotWords, h, Nat.zero_div]

theorem slotWords_repeat (h : s.headD 0 = 0x10) : slotWords s = List.replicate 32 (ofBytes ((s.drop 1).take 8)) := by
  simp only [slotWords, h]

theorem slotWords_sparse (h : s.headD 0 = 0x40) :
    slotWords s = sparseWords 32 (ofBytes ((s.drop 1).take 4)) (unpackBits 64 32 (ofBytes (s.drop 5))) := by
  simp only [slotWords, h]

theorem slotWords_base {k : Nat} (hk : k ∈ [4, 8, 16, 24]) (h : s.headD 0 = 0x20 + k / 4) : slotWords s =
    (unpackBits k 32 (ofBytes ((s.drop 9).take (4 * k)))).map fun d => (ofBytes ((s.drop 1).take 8) + sextWord k d) % 2 ^ 64 := by
  obtain ⟨hscheme, hparam⟩ := base_header hk
  simp only [slotWords, h, hscheme, hparam]

theorem slotWords_dual {k : Nat} (hk : k ∈ [8, 16, 24]) (h : s.headD 0 = 0x30 + k / 4) : slotWords s =
    dualWords k (ofBytes ((s.drop 1).take 8)) (ofBytes ((s.drop 9).take 4)) (unpackBits k 32 (ofBytes ((s.drop 13).take (4 * k)))) := by
  obtain ⟨hscheme, hparam⟩ := dual_header hk
  simp only [slotWords, h, hscheme, hparam]

theorem slotLength_zero (h : s.headD 0 = 0x00) : slotLength s = some 1 := by
  simp only [slotLength, h]

theorem slotLength_repeat (h : s.headD 0 = 0x10) : slotLength s = some 9 := by
  simp only [slotLength, h]

theorem slotLength_sparse (h : s.headD 0 = 0x40) : slotLength s = some (5 + 8 * popCount 32 (ofBytes ((s.drop 1).take 4))) := by
  simp only [slotLength, h]

theorem slotLength_base {k : Nat} (hk : k ∈ [4, 8, 16, 24]) (h : s.headD 0 = 0x20 + k / 4) : slotLength s = some (9 + 4 * k) := by
  rw [slotLength, h]
  fin_cases hk <;> rfl

theorem slotLength_dual {k : Nat} (hk : k ∈ [8, 16, 24]) (h : s.headD 0 = 0x30 + k / 4) : slotLength s = some (13 + 4 * k) := by
  rw [slotLength, h]
  fin_cases hk <;> rfl

theorem header_of_slotLength {n : Nat} (h : slotLength s = some n) :
    s.headD 0 ∈ [0x00, 0x10, 0x40, 0x21, 0x22, 0x24, 0x26, 0x32, 0x34, 0x36] := by
  unfold slotLength at h
  split at h
  case h_11 => cases h
  all_goals next hs => rw [hs]; decide

/-- R216: a slot of known length answers its words, unless it ends too early or a byte after its payload is not 0. -/
theorem decodeSlot_of_slotLength {n : Nat} (h : slotLength s = some n) :
    decodeSlot s = if s.length < n ∨ ∃ b ∈ s.drop n, b ≠ 0 then none else some (slotWords s) := by
  have hgood : (n ≤ s.length ∧ (s.drop n).all (· == 0) = true) ↔ ¬ (s.length < n ∨ ∃ b ∈ s.drop n, b ≠ 0) := by
    rw [List.all_eq_true, not_or, not_lt, not_exists]
    simp only [beq_iff_eq, not_and, not_not]
  unfold decodeSlot
  simp only [h, hgood, ite_not]

end Schemes

/-! ### The table of R215 -/

/-- The number that bytes `off` to `off + n - 1` of a slot spell. -/
def slotField (s : List Nat) (off n : Nat) : Nat := ofBytes ((s.drop off).take n)

/-- R210: how many words below word `i` a SPARSE slot stores. -/
def storedBelow (s : List Nat) (i : Nat) : Nat := (List.range i).countP fun j => (slotField s 1 4).testBit j

/-- R210: scheme `c` allows deltas of `k` bits, 0 where it has no parameter. -/
abbrev SchemeAllows (c k : Nat) : Prop :=
  (c = 0 ∧ k = 0) ∨ (c = 1 ∧ k = 0) ∨ (c = 4 ∧ k = 0) ∨ (c = 2 ∧ k ∈ [4, 8, 16, 24]) ∨ (c = 3 ∧ k ∈ [8, 16, 24])

/-- R216: scheme and parameter of a slot's header are ones that R210 allows. -/
abbrev HeaderAllowed (s : List Nat) : Prop := SchemeAllows (s.headD 0 / 16) (4 * (s.headD 0 % 16))

/-- R210: the length that the header of a slot calls for. -/
def tableLength (s : List Nat) : Nat :=
  if s.headD 0 / 16 = 0 then 1
  else if s.headD 0 / 16 = 1 then 9
  else if s.headD 0 / 16 = 4 then 5 + 8 * storedBelow s 32
  else if s.headD 0 / 16 = 2 then 9 + 4 * (4 * (s.headD 0 % 16))
  else 13 + 4 * (4 * (s.headD 0 % 16))

/-- R215: word `i` of a slot's block. -/
def tableWord (s : List Nat) (i : Nat) : Nat :=
  let k := 4 * (s.headD 0 % 16)
  if s.headD 0 / 16 = 0 then 0
  else if s.headD 0 / 16 = 1 then slotField s 1 8
  else if s.headD 0 / 16 = 4 then (if (slotField s 1 4).testBit i = true then slotField s (5 + 8 * storedBelow s i) 8 else 0)
  else if s.headD 0 / 16 = 2 then (slotField s 1 8 + sextWord k (bits (slotField s 9 (4 * k)) (k * i) k)) % 2 ^ 64
  else ((if (slotField s 9 4).testBit i = true then slotField s 1 8 else 0) + sextWord k (bits (slotField s 13 (4 * k)) (k * i) k)) % 2 ^ 64

/-- R216: the faults that make a slot malformed. -/
def Malformed (s : List Nat) : Prop :=
  ¬ HeaderAllowed s ∨ s.length < tableLength s ∨ ∃ b ∈ s.drop (tableLength s), b ≠ 0

section Table
variable {s : List Nat}

theorem headerAllowed_of_slotLength {n : Nat} (h : slotLength s = some n) : HeaderAllowed s := by
  have known : ∀ b ∈ [0x00, 0x10, 0x40, 0x21, 0x22, 0x24, 0x26, 0x32, 0x34, 0x36], SchemeAllows (b / 16) (4 * (b % 16)) := by decide
  exact known _ (header_of_slotLength h)

theorem slotLength_of_headerAllowed (h : HeaderAllowed s) : slotLength s = some (tableLength s) := by
  rcases h with ⟨hc, hk⟩ | ⟨hc, hk⟩ | ⟨hc, hk⟩ | ⟨hc, hk⟩ | ⟨hc, hk⟩
  · rw [slotLength_zero (by omega)]; simp only [tableLength, hc, Nat.reduceEqDiff, if_false, if_true]
  · rw [slotLength_repeat (by omega)]; simp only [tableLength, hc, Nat.reduceEqDiff, if_false, if_true]
  · rw [slotLength_sparse (by omega), popCount_eq_countP]; simp only [tableLength, hc, Nat.reduceEqDiff, if_false, if_true]; rfl
  · rw [slotLength_base hk (by omega)]; simp only [tableLength, hc, Nat.reduceEqDiff, if_false, if_true]
  · rw [slotLength_dual hk (by omega)]; simp only [tableLength, hc, Nat.reduceEqDiff, if_false]

/-- The words stored in a SPARSE slot, each from its eight bytes. -/
theorem unpackBits_sparse_getD (s : List Nat) {j : Nat} (hj : j < 32) :
    (unpackBits 64 32 (ofBytes (s.drop 5))).getD j 0 = slotField s (5 + 8 * j) 8 := by
  have hfield : bits (ofBytes (s.drop 5)) (8 * (8 * j)) (8 * 8) = slotField s (5 + 8 * j) 8 := by
    rw [ofBytes, bits_packBits, List.drop_drop]; rfl
  rw [unpackBits_eq_map_bits, List.getD_eq_getElem _ _ (by simpa using hj), List.getElem_map, List.getElem_range, ← hfield,
    ← Nat.mul_assoc]

theorem storedBelow_le (s : List Nat) (i : Nat) : storedBelow s i ≤ i :=
  List.countP_le_length.trans_eq List.length_range

theorem slotWords_of_headerAllowed (h : HeaderAllowed s) : slotWords s = (List.range 32).map (tableWord s) := by
  rcases h with ⟨hc, hk⟩ | ⟨hc, hk⟩ | ⟨hc, hk⟩ | ⟨hc, hk⟩ | ⟨hc, hk⟩
  · have hword : tableWord s = fun _ => 0 := funext fun i => by simp only [tableWord, hc, if_true]
    rw [slotWords_zero (by omega), hword]; rfl
  · have hword : tableWord s = fun _ => slotField s 1 8 := funext fun i => by
      simp only [tableWord, hc, Nat.reduceEqDiff, if_false, if_true]
    rw [slotWords_repeat (by omega), hword]; rfl
  · rw [slotWords_sparse (by omega), sparseWords_eq_map]
    refine List.map_congr_left fun i hi => ?_
    have hplace : storedBelow s i < 32 := (storedBelow_le s i).trans_lt (List.mem_range.mp hi)
    simp only [tableWord, hc, Nat.reduceEqDiff, if_false, if_true, ← unpackBits_sparse_getD s hplace]
    rfl
  · rw [slotWords_base hk (by omega), unpackBits_eq_map_bits, List.map_map]
    refine List.map_congr_left fun i _ => ?_
    simp only [tableWord, hc, Nat.reduceEqDiff, if_false, if_true]
    rfl
  · rw [slotWords_dual hk (by omega), unpackBits_eq_map_bits, dualWords_map_range]
    refine List.map_congr_left fun i _ => ?_
    simp only [tableWord, hc, Nat.reduceEqDiff, if_false]
    rfl

theorem decodeSlot_of_malformed (h : Malformed s) : decodeSlot s = none := by
  by_cases ha : HeaderAllowed s
  · rw [decodeSlot_of_slotLength (slotLength_of_headerAllowed ha), if_pos (h.resolve_left (not_not_intro ha))]
  · have hnone : slotLength s = none := Option.eq_none_iff_forall_ne_some.mpr fun _ hn => ha (headerAllowed_of_slotLength hn)
    rw [decodeSlot, hnone]

theorem decodeSlot_of_not_malformed (h : ¬ Malformed s) : decodeSlot s = some ((List.range 32).map (tableWord s)) := by
  obtain ⟨ha, hform⟩ := not_or.mp h
  have ha := not_not.mp ha
  rw [decodeSlot_of_slotLength (slotLength_of_headerAllowed ha), if_neg hform, slotWords_of_headerAllowed ha]

end Table

/-- Settles O58: a header that R210 allows gives the length and the words of its scheme, any other header gives no length. -/
theorem slotDecoderFollowsTheTable : Obligations.SlotDecoderFollowsTheTable :=
  fun _ => ⟨decodeSlot_of_malformed, decodeSlot_of_not_malformed⟩

/-! ### Deltas (R211, R212) -/

/-- A word that fits `k` bits signed is its low `k` bits, sign-extended. -/
theorem sextWord_mod_of_fitsBits {k v : Nat} (hk : 0 < k) (hk' : k ≤ 64) (hv : v < 2 ^ 64) (h : fitsBits k v = true) :
    sextWord k (v % 2 ^ k) = v := by
  have half : 2 ^ k = 2 * 2 ^ (k - 1) := by rw [← Nat.pow_succ']; congr 1; omega
  have whole : 2 ^ 64 = 2 ^ k * (2 ^ (64 - k) - 1) + 2 ^ k := by
    rw [← Nat.mul_succ, Nat.succ_eq_add_one, Nat.sub_add_cancel (Nat.two_pow_pos _), ← Nat.pow_add]; congr 1; omega
  generalize 2 ^ (64 - k) - 1 = q at whole
  simp only [fitsBits, Bool.or_eq_true, decide_eq_true_eq] at h
  rcases h with h | h
  · rw [Nat.mod_eq_of_lt (by omega), sextWord, if_pos h]
  · obtain ⟨e, rfl⟩ : ∃ e, v = 2 ^ k * q + e := ⟨v - 2 ^ k * q, by omega⟩
    rw [Nat.mul_add_mod, Nat.mod_eq_of_lt (by omega), sextWord, if_neg (by omega)]
    omega

theorem wsub_lt (a b : Nat) : wsub a b < 2 ^ 64 := Nat.mod_lt _ (Nat.two_pow_pos 64)

theorem add_wsub_mod {v : Nat} (b : Nat) (hv : v < 2 ^ 64) : (b + wsub v b) % 2 ^ 64 = v := by
  unfold wsub; omega

/-- A word whose distance from a base fits `k` bits is rebuilt from base and delta. -/
theorem rebuild_delta {k v b : Nat} (hk : 0 < k) (hk' : k ≤ 64) (hv : v < 2 ^ 64) (h : fitsBits k (wsub v b) = true) :
    (b + sextWord k (wsub v b % 2 ^ k)) % 2 ^ 64 = v := by
  rw [sextWord_mod_of_fitsBits hk hk' (wsub_lt v b) h, add_wsub_mod b hv]

theorem dualBase_lt (k : Nat) {w : List Nat} (hw : ∀ x ∈ w, x < 2 ^ 64) : dualBase k w < 2 ^ 64 := by
  induction w with
  | nil => exact Nat.two_pow_pos 64
  | cons v w ih =>
    obtain ⟨hv, hw⟩ := List.forall_mem_cons.mp hw
    rw [dualBase]
    split
    · exact ih hw
    · exact hv

theorem headD_lt {w : List Nat} (hw : ∀ x ∈ w, x < 2 ^ 64) : w.headD 0 < 2 ^ 64 := by
  cases w with
  | nil => exact Nat.two_pow_pos 64
  | cons v w => exact hw v List.mem_cons_self

/-! ### Payloads give back their words -/

theorem sparseWords_wordMap (w ws : List Nat) :
    sparseWords w.length (wordMap (· != 0) w) (w.filter (· != 0) ++ ws) = w := by
  induction w with
  | nil => rfl
  | cons v w ih =>
    rw [List.length_cons, sparseWords, wordMap_cons_mod, wordMap_cons_div]
    by_cases hv : v = 0
    · simp [hv, ih]
    · simp [hv, ih]

/-- R212: a word that fits base 0 is its own delta. -/
theorem dualWords_wordMap {k b : Nat} (hk : 0 < k) (hk' : k ≤ 64) {w : List Nat} (hw : ∀ x ∈ w, x < 2 ^ 64)
    (hfit : ∀ v ∈ w, fitsBits k v = true ∨ fitsBits k (wsub v b) = true) :
    dualWords k b (wordMap (fun v => !fitsBits k v) w) (w.map fun v => (if (!fitsBits k v) = true then wsub v b else v) % 2 ^ k) = w := by
  induction w with
  | nil => rfl
  | cons v w ih =>
    obtain ⟨hv, hw⟩ := List.forall_mem_cons.mp hw
    obtain ⟨hfv, hfit⟩ := List.forall_mem_cons.mp hfit
    rw [List.map_cons, dualWords, wordMap_cons_mod, wordMap_cons_div, ih hw hfit]
    congr 1
    by_cases hnear : fitsBits k v = true
    · simpa [hnear, sextWord_mod_of_fitsBits hk hk' hv hnear] using hv
    · simpa [hnear] using rebuild_delta hk hk' hv (hfv.resolve_left hnear)

/-- The delta string of 32 words is read back field by field. -/
theorem unpackBits_deltas {k : Nat} {w : List Nat} (hlen : w.length = 32) (f : Nat → Nat) :
    unpackBits k 32 (packBits k (w.map f)) = w.map fun v => f v % 2 ^ k := by
  have h := unpackBits_packBits k (w.map f)
  rwa [List.length_map, hlen, List.map_map] at h

theorem deltas_lt {k : Nat} {w : List Nat} (hlen : w.length = 32) (f : Nat → Nat) : packBits k (w.map f) < 2 ^ (8 * (4 * k)) := by
  have h := packBits_lt k (w.map f)
  rwa [List.length_map, hlen, show k * 32 = 8 * (4 * k) by omega] at h

/-! ### The decoder undoes each scheme (R210, R213) -/

/-- `p` is a code of the block `w`: bytes from whose header the decoder finds their own length and the block, whatever follows them in the slot. -/
structure Encodes (p w : List Nat) : Prop where
  bytes : ∀ b ∈ p, b < 256
  length : ∀ {s pad}, s = p ++ pad → slotLength s = some p.length
  words : ∀ {s pad}, s = p ++ pad → slotWords s = w

section Encoders
variable {w p : List Nat} (hlen : w.length = 32) (hw : ∀ x ∈ w, x < 2 ^ 64)
include hlen

theorem eq_replicate_of_all {v : Nat} (hall : w.all (· == v) = true) : List.replicate 32 v = w :=
  (List.eq_replicate_iff.mpr ⟨hlen, fun x hx => beq_iff_eq.mp (List.all_eq_true.mp hall x hx)⟩).symm

theorem encZero_encodes (h : encZero w = some p) : Encodes p w := by
  obtain ⟨hall, rfl⟩ := (Option.ite_none_right_eq_some.mp h).imp_right Option.some.inj
  exact ⟨by decide, fun hs => slotLength_zero (by rw [hs]; rfl),
    fun hs => (slotWords_zero (by rw [hs]; rfl)).trans (eq_replicate_of_all hlen hall)⟩

include hw

theorem encRepeat_encodes (h : encRepeat w = some p) : Encodes p w := by
  obtain ⟨hall, rfl⟩ := (Option.ite_none_right_eq_some.mp h).imp_right Option.some.inj
  refine ⟨List.forall_mem_cons.mpr ⟨by decide, fun _ => lt_of_mem_leBytes⟩, fun hs => slotLength_repeat (by rw [hs]; rfl),
    fun {s pad} hs => ?_⟩
  have hvalue : ofBytes ((s.drop 1).take 8) = w.headD 0 := ofBytes_stored (a := [0x10]) hs rfl (headD_lt hw)
  rw [slotWords_repeat (by rw [hs]; rfl), hvalue, eq_replicate_of_all hlen hall]

theorem encSparse_encodes (h : encSparse w = some p) : Encodes p w := by
  obtain rfl := Option.some.inj h
  have hmap {s pad : List Nat} (hs : s = 0x40 :: leBytes 4 (wordMap (· != 0) w) ++ (w.filter (· != 0)).flatMap (leBytes 8) ++ pad) :
      ofBytes ((s.drop 1).take 4) = wordMap (· != 0) w :=
    ofBytes_stored (a := [0x40]) (hs.trans (List.append_assoc _ _ _)) rfl ((wordMap_lt _ w).trans_eq (by rw [hlen]))
  refine ⟨?_, fun {s pad} hs => ?_, fun {s pad} hs => ?_⟩
  · refine List.forall_mem_append.mpr ⟨List.forall_mem_cons.mpr ⟨by decide, fun _ => lt_of_mem_leBytes⟩, fun b hb => ?_⟩
    obtain ⟨x, -, hb⟩ := List.mem_flatMap.mp hb
    exact lt_of_mem_leBytes hb
  · have hcount : popCount 32 (wordMap (· != 0) w) = (w.filter (· != 0)).length := by rw [← hlen, popCount_wordMap]
    rw [slotLength_sparse (by rw [hs]; rfl), hmap hs, hcount]
    refine congrArg some ?_
    simp only [List.length_append, List.length_cons, length_leBytes, List.length_flatMap, List.map_const', List.sum_replicate, smul_eq_mul]
    omega
  · obtain ⟨ws, hws⟩ := unpackBits_stored_words pad ((List.length_filter_le (· != 0) w).trans_eq hlen)
      fun x hx => hw x (List.mem_of_mem_filter hx)
    have hstored : s.drop 5 = (w.filter (· != 0)).flatMap (leBytes 8) ++ pad := by
      rw [hs, List.append_assoc, List.drop_left' (by simp)]
    rw [slotWords_sparse (by rw [hs]; rfl), hmap hs, hstored, hws, ← hlen, sparseWords_wordMap]

theorem encBase_encodes {k : Nat} (hk : k ∈ [4, 8, 16, 24]) (h : encBase k w = some p) : Encodes p w := by
  obtain ⟨hall, rfl⟩ := (Option.ite_none_right_eq_some.mp h).imp_right Option.some.inj
  obtain ⟨hpos, hle⟩ : 0 < k ∧ k ≤ 24 := by fin_cases hk <;> decide
  refine ⟨?_, fun {s pad} hs => ?_, fun {s pad} hs => ?_⟩
  · have hhead : 0x20 + k / 4 < 256 := by omega
    exact List.forall_mem_append.mpr ⟨List.forall_mem_cons.mpr ⟨hhead, fun _ => lt_of_mem_leBytes⟩, fun _ => lt_of_mem_leBytes⟩
  · rw [slotLength_base hk (by rw [hs]; rfl)]
    simp only [List.length_append, List.length_cons, length_leBytes]
  · have hlast := hs.trans (List.append_assoc _ _ _)
    have hbase : ofBytes ((s.drop 1).take 8) = w.headD 0 := ofBytes_stored (a := [0x20 + k / 4]) hlast rfl (headD_lt hw)
    have hdeltas := ofBytes_stored (off := 9) hlast (by simp) (deltas_lt hlen _)
    rw [slotWords_base hk (by rw [hs]; rfl), hbase, hdeltas, unpackBits_deltas hlen, List.map_map]
    conv_rhs => rw [← List.map_id w]
    exact List.map_congr_left fun v hv => rebuild_delta hpos (by omega) (hw v hv) (List.all_eq_true.mp hall v hv)

theorem encDual_encodes {k : Nat} (hk : k ∈ [8, 16, 24]) (h : encDual k w = some p) : Encodes p w := by
  obtain ⟨hall, rfl⟩ := (Option.ite_none_right_eq_some.mp h).imp_right Option.some.inj
  obtain ⟨hpos, hle⟩ : 0 < k ∧ k ≤ 24 := by fin_cases hk <;> decide
  refine ⟨?_, fun {s pad} hs => ?_, fun {s pad} hs => ?_⟩
  · have hhead : 0x30 + k / 4 < 256 := by omega
    exact List.forall_mem_append.mpr ⟨List.forall_mem_append.mpr
      ⟨List.forall_mem_cons.mpr ⟨hhead, fun _ => lt_of_mem_leBytes⟩, fun _ => lt_of_mem_leBytes⟩, fun _ => lt_of_mem_leBytes⟩
  · rw [slotLength_dual hk (by rw [hs]; rfl)]
    simp only [List.length_append, List.length_cons, length_leBytes]
  · have hlast := hs.trans (List.append_assoc _ _ _)
    have hmiddle := hlast.trans (List.append_assoc _ _ _)
    have hbase : ofBytes ((s.drop 1).take 8) = dualBase k w := ofBytes_stored (a := [0x30 + k / 4]) hmiddle rfl (dualBase_lt k hw)
    have hmask := ofBytes_stored (off := 9) (n := 4) hmiddle (by simp) ((wordMap_lt _ w).trans_eq (by rw [hlen]))
    have hdeltas := ofBytes_stored (off := 13) hlast (by simp) (deltas_lt hlen _)
    rw [slotWords_dual hk (by rw [hs]; rfl), hbase, hmask, hdeltas, unpackBits_deltas hlen]
    refine dualWords_wordMap hpos (by omega) hw fun v hv => ?_
    have hv := List.all_eq_true.mp hall v hv
    rwa [Bool.or_eq_true] at hv

/-- R213: every candidate of the encoder is a code of the block. -/
theorem encodes_of_mem_candidates (h : some p ∈ candidates w) : Encodes p w := by
  simp only [candidates, List.mem_cons, List.not_mem_nil, or_false] at h
  rcases h with h | h | h | h | h | h | h | h | h | h
  · exact encZero_encodes hlen h.symm
  · exact encRepeat_encodes hlen hw h.symm
  · exact encSparse_encodes hlen hw h.symm
  iterate 4 exact encBase_encodes hlen hw (by decide) h.symm
  iterate 3 exact encDual_encodes hlen hw (by decide) h.symm

end Encoders

/-! ### The slot (R209, R213) -/

theorem mem_of_firstFit {target : Nat} {p : List Nat} {cs : List (Option (List Nat))} (h : firstFit target cs = some p) :
    some p ∈ cs ∧ p.length ≤ target := by
  induction cs with
  | nil => cases h
  | cons c cs ih =>
    cases c with
    | none => exact (ih h).imp_left (List.mem_cons_of_mem _)
    | some q =>
      rw [firstFit] at h
      split at h
      · next hq => cases h; exact ⟨List.mem_cons_self, hq⟩
      · exact (ih h).imp_left (List.mem_cons_of_mem _)

/-- A code that zeros follow decodes to its block. -/
theorem Encodes.decodeSlot_padded {p w : List Nat} (h : Encodes p w) (n : Nat) : decodeSlot (p ++ List.replicate n 0) = some w := by
  rw [decodeSlot_of_slotLength (h.length rfl), List.drop_left, if_neg, h.words rfl]
  rintro (hshort | ⟨b, hb, hb0⟩)
  · rw [List.length_append] at hshort; omega
  · exact hb0 (List.eq_of_mem_replicate hb)

/-- Settles O59: the slot is a candidate of the encoder followed by zeros, and the decoder undoes each candidate. -/
theorem slotsDecodeToTheirBlock : Obligations.SlotsDecodeToTheirBlock := by
  intro target w slot _ hlen hw henc
  obtain ⟨p, hp, rfl⟩ := Option.map_eq_some_iff.mp henc
  obtain ⟨hmem, hle⟩ := mem_of_firstFit hp
  have hcode : Encodes p w := encodes_of_mem_candidates hlen hw hmem
  refine ⟨?_, fun b hb => ?_, hcode.decodeSlot_padded _⟩
  · rw [List.length_append, List.length_replicate, Nat.add_sub_cancel' hle]
  · rcases List.mem_append.mp hb with hb | hb
    · exact hcode.bytes b hb
    · rw [List.eq_of_mem_replicate hb]; decide

end Sys2Proof.Machine
end

