-- ==== Sys2Proof/Proofs/ReknitCommands.lean ====
section
/-! PROOFS. The Re-knit commands (R252 to R258): its start and refusal, its activation, an item of each walk, its end. -/

set_option Elab.async false

namespace Sys2Proof.Machine

open Sys2Proof.Laws

namespace Dev

variable {d : Dev}

/-- R252: what a request to start a Re-knit is refused for. -/
theorem reknitRefused_iff (d : Dev) : d.reknitRefused = true ↔ d.reknit = true ∨ d.mem.cry.starting = true ∨ d.enabled Pg.cry = false ∨
    d.sn < d.reknitRef + (if d.anyAttached = true then 86400 else 3600) * 7812500 := by
  unfold reknitRefused reknitLimit
  rw [Bool.or_eq_true, Bool.or_eq_true, Bool.or_eq_true, Bool.not_eq_true', decide_eq_true_iff, or_assoc, or_assoc]

theorem reknitRequest_refused (h : d.reknitRefused = true) : d.reknitRequest = d.setFlag Pg.cry F.CRY_REKNIT_STS_REFUSED true := if_pos h

/-- R253 step 1: an accepted request records its stitch, names the keys it draws, and waits for its activation. -/
theorem reknitRequest_accepted (h : ¬ d.reknitRefused = true) :
    let x := d.set Pg.cry F.CRY_REKNIT_START_SN_SN d.sn
    d.reknitRequest =
      draw { x with mem := { x.mem with cry := { x.mem.cry with starting := true, accepted := true, drawNext := d.fresh } } } :=
  if_neg h

/-- R253: the walk goes on: it has not ended, no pause or quiesce holds it, and its stitch has lines left. -/
structure WalkGoesOn (d : Dev) : Prop where
  active : d.reknit = true
  unfinished : d.mem.cry.walkDone = false
  unpaused : d.flag Pg.cry F.CRY_REKNIT_CTL_PAUSE = false
  unquiesced : d.quiesced = false
  within : d.mem.cry.lines < d.get Pg.cry F.CRY_REKNIT_RATE_LINES

theorem WalkGoesOn.reknitItem_eq (h : d.WalkGoesOn) (f : LineFault) :
    reknitItem f d = (if d.flag Pg.cry F.CRY_STS_PHASE then d.knitWindow f else d.knitStruct f).after :=
  when_true (by rw [h.active, h.unfinished, h.unpaused, h.unquiesced, decide_eq_true h.within]; rfl)

theorem WalkGoesOn.reknitItem_structure (h : d.WalkGoesOn) {f : LineFault} (hphase : d.flag Pg.cry F.CRY_STS_PHASE = false) :
    reknitItem f d = (d.knitStruct f).after := by
  rw [h.reknitItem_eq, if_neg (Bool.eq_false_iff.mp hphase)]

theorem WalkGoesOn.reknitItem_window (h : d.WalkGoesOn) {f : LineFault} (hphase : d.flag Pg.cry F.CRY_STS_PHASE = true) :
    reknitItem f d = (d.knitWindow f).after := by
  rw [h.reknitItem_eq, if_pos hphase]

end Dev

/-- Settles O40, by the guard of each command: a request is accepted or refused by `reknitRefused`, and a walk that goes on takes the item of its
phase. -/
theorem reknitCommandsComplete : Obligations.ReknitCommandsComplete := by
  refine ⟨fun s a hserves => ⟨fun hfree => run_writeTo _ hserves (Dev.reknitRequest_accepted fun hr => hfree ((Dev.reknitRefused_iff _).mp hr)),
      fun hrefused => run_writeTo _ hserves (Dev.reknitRequest_refused ((Dev.reknitRefused_iff _).mpr hrefused))⟩,
    fun s hauto hfree hdue => run_eq_withDev ((when_true ?_).trans (Dev.reknitRequest_accepted (Bool.eq_false_iff.mp hfree))),
    fun s hstarting => run_eq_withDev (when_true hstarting),
    fun s f hactive hwalk hpause hquiet hlines => ?_,
    fun s hactive hdone => run_eq_withDev (when_true ?_),
    fun s a on hserves => run_writeTo _ hserves rfl⟩
  · rw [hauto, hfree, decide_eq_true hdue]; rfl
  · have hgoes : s.dev.WalkGoesOn := ⟨hactive, hwalk, hpause, hquiet, hlines⟩
    exact ⟨fun hphase => run_eq_withDev (hgoes.reknitItem_structure hphase), fun hphase => run_eq_withDev (hgoes.reknitItem_window hphase)⟩
  · rw [hactive, hdone]; rfl

end Sys2Proof.Machine
end

