-- ==== Sys2Proof/Proofs/DramCommands.lean ====
section
/-! PROOFS. The commands of the DRAM channels (R276 to R287), and their restart, repair and sparing (R268, R289 to R294). -/

set_option Elab.async false

namespace Sys2Proof.Machine

open Sys2Proof.Laws

namespace Dev

variable {d : Dev} {c sub : Nat}

/-! ### Commands of a subchannel (R276 to R282) -/

/-- R291: a channel whose ranks are all in service answers no request for a failed one. -/
theorem failedAnswers_none {l : Nat} (hfailed : d.get (Pg.dc (l / 2)) F.DC_RANK_MAP_FAILED = 0) : d.failedAnswers l = d := if_pos hfailed

/-- R276: a running channel without a failed rank issues the candidate of the least key. -/
theorem commandSlot_issues {t : DdrReady} {x : Cand} (hon : d.dcOn c = true) (hplays : (d.sub (2 * c + sub % 2)).replaying = false)
    (hruns : d.chHalted c = false) (hfailed : d.get (Pg.dc ((2 * c + sub % 2) / 2)) F.DC_RANK_MAP_FAILED = 0) :
    let l := 2 * c + sub % 2
    let e := if d.drains l = false ∧ (d.sub l).queue.isEmpty = false then d.modSub l fun y => { y with draining := false } else d
    minBy (e.candKey l) (e.moveCands l t) = some x → commandSlot c sub t d = (e.issueCand l x).after := by
  intro l e hleast
  have hdrain : (if !(d.drains l) && !(d.sub l).queue.isEmpty then d.modSub l fun y => { y with draining := false } else d) = e := by
    simp only [Bool.and_eq_true, Bool.not_eq_true', e]
  unfold commandSlot
  rw [when_true hon, if_neg (Bool.eq_false_iff.mp hplays), if_neg (Bool.eq_false_iff.mp hruns), failedAnswers_none hfailed]
  dsimp only
  rw [hdrain, hleast]

/-- R277: the open row of a bank that no queued request hits is precharged. -/
theorem idleClose_closes {bank row : Nat} (hon : d.dcOn c = true) (hruns : d.chHalted c = false) :
    let l := 2 * c + sub % 2
    (bankOfKey (d.sub l) bank).row = some row → (d.sub l).replaying = false →
    ((d.queued l).any fun r => (d.bankRow l r.dra).2 == (bank, row)) = false →
    idleClose c sub bank d =
      (d.modSub l fun y => setBank y bank { bankOfKey y bank with row := none, hits := 0, kept := false }).keepCmd l (.precharge bank) := by
  intro l hrow hplays hunhit
  unfold idleClose
  rw [when_true (by rw [hon, hruns]; rfl)]
  dsimp only
  rw [hrow]
  exact if_neg (by rw [hplays, hunhit]; exact Bool.false_ne_true)

/-- R281: a rank in service owes four more refreshes, and what a refresh that becomes mandatory waits for is fixed. -/
theorem refreshInterval_owes {r : Nat} (hon : d.dcOn c = true) (hr : r < 8) (hcount : r < d.rankCount c)
    (hserves : (d.get (Pg.dc c) F.DC_RANK_MAP_FAILED).testBit r = false) :
    let l := 2 * c + sub % 2
    let e := d.modSub l fun y => { y with owed := tput (fun _ => 0) y.owed r (owedOf y r + 4) }
    refreshInterval c sub r d = if d.mandatory l r = true then e else e.noteMandatory l r :=
  when_true (by rw [hon, decide_eq_true (Nat.lt_min.mpr ⟨hr, hcount⟩), hserves]; rfl)

/-! ### Command retry (R287, R288) -/

/-- R287: an alert outside a replay starts the replay of both subchannels. -/
theorem ddrAlert_replays (hon : d.dcOn c = true) (hruns : d.chHalted c = false) (hhigh : (d.chan c).alertLow = false)
    (hA : (d.chan c).subA.replaying = false) (hB : (d.chan c).subB.replaying = false) :
    let e := d.modChan c fun y => { y with alertLow := true }
    e.chHalted c = false →
    ddrAlert c d =
      (((e.modSubs c fun y => { y with replaying := true }).setFlag (Pg.dc c) F.DC_STS_REPLAY true).dcTally (2 * c) 9 1).tally (Pg.dc c) 0x0309 1 := by
  intro e hstill
  unfold ddrAlert
  rw [when_true (by rw [hon, hruns, hhigh]; rfl), hA, hB]
  exact if_neg (Bool.eq_false_iff.mp hstill)

/-- R287, R288: the replay of a subchannel ends once alert_n is high. -/
theorem replayDone_ends (hplays : (d.sub (2 * c + sub % 2)).replaying = true) (hhigh : (d.chan c).alertLow = false) :
    let l := 2 * c + sub % 2
    let e := ((d.modSub l fun y =>
      { y with replaying := false, banks := (y.banks.map (·.1)).foldl (fun t b => tput (fun _ => ({} : BankSt)) t b (reissued y b)) [] }).addSat
        (Pg.dc c) F.DC_RETRY_CNT_COUNT 1).raise (Src.cmdRetry c) 0 0xFF 0
    replayDone c sub d =
      if ((e.chan c).subA.replaying || (e.chan c).subB.replaying) = true then e
      else (e.setFlag (Pg.dc c) F.DC_STS_REPLAY false).replayEnded c :=
  if_neg (by rw [hplays, hhigh]; exact Bool.false_ne_true)

/-! ### Repair (R290) -/

/-- R290: GO starts a repair where none runs. -/
theorem pprStart_go {v : Nat} (hgo : v.testBit 0 = true) (hidle : d.flag (Pg.dc c) F.DC_PPR_ROW_BUSY = false) :
    let p := Pg.dc c
    let e := d.store p 0x188 (if (d.chan c).everTrained = true then 0x7FFC else 0x7FFE) v false
    pprStart c v d = ((e.setFlag p F.DC_PPR_CTL_GO true).setFlag p F.DC_PPR_ROW_BUSY true).modChan c fun x =>
      { x with pprBank := some (e.get p F.DC_PPR_CTL_SUB, e.get p F.DC_PPR_CTL_RANK,
                                4 * e.get p F.DC_PPR_CTL_BG + e.get p F.DC_PPR_CTL_BANK, e.get p F.DC_PPR_ROW_ROW) } :=
  if_neg (by rw [hgo, hidle]; exact Bool.false_ne_true)

/-! ### Sparing (R291 to R294) -/

/-- R292: START of rank sparing while a spare rank is held and no copy runs starts the copy at the first line of the rank. -/
theorem rankSpare_starts {v : Nat} (hgo : v.testBit 0 = true) (hidle : d.flag (Pg.dc c) F.DC_SPARE_CTL_START = false)
    (hkind : (d.spareFields c v).flag (Pg.dc c) F.DC_SPARE_CTL_KIND = false)
    (hheld : (d.spareFields c v).flag (Pg.dc c) F.DC_RANK_MAP_SPARE_EN = true) :
    let e := d.spareFields c v
    rankSpare c v d = e.spareGo c (e.get (Pg.dc c) F.DC_SPARE_CTL_RANK * e.rankSize c) :=
  (if_neg (by rw [hgo, hidle, hkind]; exact Bool.false_ne_true)).trans (if_neg (by rw [hheld]; exact Bool.false_ne_true))

/-- R293: what a START of channel sparing is refused for, once its fields are written. -/
def ChanSpareRefused (d : Dev) (c v : Nat) : Prop :=
  (d.spareFields c v).remapOk c = false ∨ (d.spareFields c v).flag (Pg.dc 0) F.DC_CHSPARE_ACTIVE = true ∨
    ((List.range 16).any fun k => d.flag (Pg.dc k) F.DC_SPARE_CTL_START && d.flag (Pg.dc k) F.DC_SPARE_CTL_KIND) = true

section

variable {v : Nat} (hgo : v.testBit 0 = true) (hidle : d.flag (Pg.dc c) F.DC_SPARE_CTL_START = false)
  (hkind : (d.spareFields c v).flag (Pg.dc c) F.DC_SPARE_CTL_KIND = true)

include hgo hidle hkind

theorem chanSpare_refused (hrefused : d.ChanSpareRefused c v) :
    chanSpare c v d = (d.spareFields c v).setFlag (Pg.dc c) F.DC_SPARE_CTL_REFUSED true :=
  (if_neg (by rw [hgo, hidle, hkind]; exact Bool.false_ne_true)).trans
    (if_pos (by rwa [Bool.or_eq_true, Bool.or_eq_true, Bool.not_eq_true', or_assoc]))

theorem chanSpare_starts (haccepted : ¬ d.ChanSpareRefused c v) : chanSpare c v d = (d.spareFields c v).spareGo c 0 :=
  (if_neg (by rw [hgo, hidle, hkind]; exact Bool.false_ne_true)).trans
    (if_neg (by rwa [Bool.or_eq_true, Bool.or_eq_true, Bool.not_eq_true', or_assoc]))

end

/-- R292: a sparing copy of a running channel has lines left in its window, and no retry buffer holds its last write. -/
structure CopyGoesOn (d : Dev) (c : Nat) : Prop where
  on : d.dcOn c = true
  runs : d.chHalted c = false
  started : d.flag (Pg.dc c) F.DC_SPARE_CTL_START = true
  within : (d.chan c).spareUsed < d.get (Pg.dc c) F.DC_SPARE_CFG_LINES
  unheld : d.spareHeld c = false

/-- R292: an installed line of the copy is checked and enters the write queue of its new place, where that has room; the pointer passes it. -/
theorem CopyGoesOn.spareLine_copies (h : d.CopyGoesOn c) (f : LineFault) :
    let p := Pg.dc c
    let sa := d.get p F.DC_SPARE_PTR_SA
    let b := (d.chan c).spareB
    let l := 2 * c + b2n b
    let dra := d.draOf l sa
    let last := if d.flag p F.DC_SPARE_CTL_KIND = true then d.lsize else (d.get p F.DC_SPARE_CTL_RANK + 1) * d.rankSize c
    dra < d.installed → l < d.ilvW →
    let e := d.checkLine dra 0 f
    let dest := if d.flag p F.DC_SPARE_CTL_KIND = true
      then d.remap (16 * b2n b + sa / (max 1 (d.lsize / 16))) F.DC_REMAP_TARGET else l
    e.wqFull dest dra = false →
    let copied := ((e.pushWqNew dest dra).modChan c fun x => { x with spareOn := some e.mem.nextReq }).modChan c fun x =>
      { x with spareB := !b, spareUsed := x.spareUsed + 1 }
    let passed := if b = true then copied.set p F.DC_SPARE_PTR_SA (sa + 64) else copied
    spareLine c f d = if b = true ∧ last ≤ sa + 64 then passed.spareEnd c else passed := by
  intro p sa b l dra last hinstalled hwidth e dest hroom copied passed
  have hends : (b && decide (last ≤ sa + 64)) = true ↔ b = true ∧ last ≤ sa + 64 := by rw [Bool.and_eq_true, decide_eq_true_iff]
  unfold spareLine
  rw [when_true (by rw [h.on, h.runs, h.started, decide_eq_true h.within, h.unheld]; rfl)]
  refine (if_neg (not_or.mpr ⟨Nat.not_le.mpr hinstalled, Nat.not_le.mpr hwidth⟩)).trans ((if_neg (Bool.eq_false_iff.mp hroom)).trans ?_)
  exact if_congr hends rfl rfl

/-! ### Interleave (R268, R294) -/

/-- R268: EN asks for the interleave that the write names; it is put in force where it can be, and refused where not. -/
theorem ilvEnable_asks {v : Nat} (hask : v.testBit 3 = true) (hkeep : v.testBit 4 = false) (hoff : d.flag (Pg.dc 0) F.DC_ILV_EN = false) :
    let e := d.store (Pg.dc 0) 0x200 0x1FF0007 v false
    ilvEnable v d =
      if e.ilvOk e.ilvN (e.get (Pg.dc 0) F.DC_ILV_LSIZE) = true then
        (List.range 16).foldl (fun d c => if 2 * c < d.ilvW then d else d.setAbsent (pageDomain (Pg.dc c)))
          ((e.setFlag (Pg.dc 0) F.DC_ILV_EN true).setFlag (Pg.dc 0) F.DC_ILV_REFUSED false)
      else e.setFlag (Pg.dc 0) F.DC_ILV_REFUSED true := by
  unfold ilvEnable
  dsimp only
  rw [if_neg (Bool.eq_false_iff.mp hoff), if_neg (Bool.eq_false_iff.mp hkeep), if_neg (by rw [hask]; exact Bool.false_ne_true)]

theorem chspareWrite_replaces {v : Nat} (hactive : v.testBit 4 = true) (hoff : d.flag (Pg.dc 0) F.DC_ILV_EN = false)
    (hnone : d.flag (Pg.dc 0) F.DC_CHSPARE_ACTIVE = false) (hremap : d.remapOk (v % 16) = true) :
    chspareWrite v d = ((d.set (Pg.dc 0) F.DC_CHSPARE_CH (v % 16)).setFlag (Pg.dc 0) F.DC_CHSPARE_ACTIVE true).refreshPlan (v % 16) :=
  if_neg (by rw [hoff, hnone, hactive, hremap]; exact Bool.false_ne_true)

end Dev

/-- Settles O41, from the effect of each command where its conditions hold. -/
theorem dramCommandsComplete : Obligations.DramCommandsComplete := by
  refine ⟨fun s c k t x hon hplays hruns hfailed hleast => run_eq_withDev (Dev.commandSlot_issues hon hplays hruns hfailed hleast),
    fun s c k b row hon hruns hrow hplays hunhit => run_eq_withDev (Dev.idleClose_closes hon hruns hrow hplays hunhit),
    fun s c k r hon hr hcount hserves => run_eq_withDev (Dev.refreshInterval_owes hon hr hcount hserves),
    fun s c k r n hon hruns hr hdue => run_eq_withDev (when_true ?_), fun s c k r hon hruns hr hdue => run_eq_withDev (when_true ?_),
    fun s c fs hon hruns henabled hinstalled hwidth => run_eq_withDev (when_true ?_),
    fun s c hon hruns hhigh hA hB hstill => run_eq_withDev (Dev.ddrAlert_replays hon hruns hhigh hA hB hstill),
    fun s c hc hlow => run_eq_withDev (when_true ?_), fun s c k hplays hhigh => run_eq_withDev (Dev.replayDone_ends hplays hhigh)⟩
  · rw [hon, hruns, decide_eq_true hr, hdue]; rfl
  · rw [hon, hruns, decide_eq_true hr, hdue]; rfl
  · rw [hon, hruns, henabled, decide_eq_true ⟨hinstalled, hwidth⟩]; rfl
  · rw [decide_eq_true hc, hlow]; rfl

/-- A command that names a channel below 16 writes the page of that channel. -/
theorem run_writeTo_channel {s : State} {a : Agent} {c off : Nat} {f : Nat → Effect} {d : Dev} (v : Nat) (hc : c < 16)
    (h : s.dev.Serves a (Pg.dc c) off) (hd : f c (s.dev.wrote (Pg.dc c)) = d) :
    s.run (Dev.writeTo v a (Pg.dc (c % 16)) off (f (c % 16))) = .next (s.withDev d) := by
  rw [Nat.mod_eq_of_lt hc]
  exact run_writeTo v h hd

/-- Settles O42, from the effect of each command where its conditions hold. -/
theorem dramRepairCommandsComplete : Obligations.DramRepairCommandsComplete := by
  refine ⟨fun s a c hc h hhalted => ⟨run_writeTo_channel _ hc h rfl, when_true hhalted⟩,
    fun s a c v hc h hgo hidle => run_writeTo_channel (f := fun c => Dev.pprStart c v.toNat) _ hc h (Dev.pprStart_go hgo hidle),
    fun s c ok hc hbusy => run_eq_withDev ?_,
    fun s a c v hc h hgo hidle hkind hheld =>
      run_writeTo_channel (f := fun c => Dev.rankSpare c v.toNat) _ hc h (Dev.rankSpare_starts hgo hidle hkind hheld),
    fun s a c v hc h hgo hidle hkind => ?_,
    fun s c f hon hruns hstarted hwithin hunheld hinstalled hwidth hroom => run_eq_withDev
      (Dev.CopyGoesOn.spareLine_copies ⟨hon, hruns, hstarted, hwithin, hunheld⟩ f hinstalled hwidth hroom),
    fun s a v h hask hkeep hoff => run_writeTo _ h (Dev.ilvEnable_asks hask hkeep hoff),
    fun s a v h hactive hoff hnone hremap => run_writeTo _ h (Dev.chspareWrite_replaces hactive hoff hnone hremap)⟩
  · rw [Nat.mod_eq_of_lt hc]
    exact when_true hbusy
  · have hrun := fun {e : Dev} => run_writeTo_channel (f := fun c => Dev.chanSpare c v.toNat) (d := e) (2 ^ 32 + v.toNat) hc h
    refine ⟨fun hremap hinactive hother => hrun (Dev.chanSpare_starts hgo hidle hkind ?_),
      fun hrefused => hrun (Dev.chanSpare_refused hgo hidle hkind hrefused)⟩
    rintro (hr | ha | ho)
    · exact Bool.false_ne_true (hr.symm.trans hremap)
    · exact Bool.false_ne_true (hinactive.symm.trans ha)
    · exact Bool.false_ne_true (hother.symm.trans ho)

end Sys2Proof.Machine
end

