-- ==== Sys2Proof/Proofs/GaugeCommands.lean ====
section
/-! PROOFS. The Gauge's commit and admission check (R308, R309), and the scales of the classes (R323). -/

set_option Elab.async false

namespace Sys2Proof.Machine

open Sys2Proof.Laws

namespace Dev

variable {d : Dev} {b : BudgetSet}

/-! ### The commit and its check (R308, R309) -/

/-- R308: a commit while no check runs takes the staged set to the check. -/
theorem commitGo_idle (hidle : d.flag Pg.gau F.GAU_COMMIT_BUSY = false) :
    commitGo d = ((d.setFlag Pg.gau F.GAU_COMMIT_GO true).setFlag Pg.gau F.GAU_COMMIT_BUSY true).modGau fun g =>
      { g with checking := some d.stagedSet } := when_true (by rw [hidle]; rfl)

theorem checkDone_checking (hset : d.mem.gau.checking = some b) : checkDone d = d.recordCheck b := by
  unfold checkDone
  rw [hset]

theorem admitSet_noInterleave (hoff : d.flag (Pg.dc 0) F.DC_ILV_EN = false) : d.admitSet b = (6, 0, 0) := if_pos (by rw [hoff]; rfl)

/-- R309: the test of RESULT 5 finds no entry in a set whose every CEIL is 0 or at least its GUAR. -/
theorem ceilBelowGuar_none (hceil : ∀ x ∈ b.budgets, x.2.2 = 0 ∨ x.2.1 ≤ x.2.2) :
    ¬ b.budgets.any (fun x => x.2.2 != 0 && decide (x.2.2 < x.2.1)) = true := fun hany => by
  obtain ⟨x, hx, hbad⟩ := List.any_eq_true.mp hany
  obtain ⟨hset, hbelow⟩ := (Bool.and_eq_true _ _).mp hbad
  rcases hceil x hx with hzero | hle
  · exact bne_iff_ne.mp hset hzero
  · exact Nat.not_lt.mpr hle (of_decide_eq_true hbelow)

theorem admitSet_hearthAboveMax (hon : d.flag (Pg.dc 0) F.DC_ILV_EN = true) (hceil : ∀ x ∈ b.budgets, x.2.2 = 0 ∨ x.2.1 ≤ x.2.2)
    (hmax : b.adm.hearthMax < hrOf b d.ilvW) : d.admitSet b = (1, 0, 0) :=
  (if_neg (by rw [hon]; decide)).trans ((if_neg (ceilBelowGuar_none hceil)).trans (if_pos hmax))

/-! ### Scales (R323) -/

variable {dm mr hr gp gk gc : Nat}

theorem scalesFor_hearthOver (h : dm < mr + hr) : scalesFor dm mr hr gp gk gc = (0, 0, 0, true) := if_pos h

/-- R323: with the Hearth reserve inside the capacity, the scales go by how many classes the rest of it holds. -/
theorem scalesFor_hearthHeld (hcap : mr + hr ≤ dm) :
    let n := 64 * (dm - mr - hr)
    scalesFor dm mr hr gp gk gc =
      if gp + gk + gc ≤ n then (256, 256, 256, false)
      else if gp + gk ≤ n then (256, 256, 256 * (n - gp - gk) / gc, false)
      else if gp ≤ n then (256, 256 * (n - gp) / gk, 0, false)
      else (256 * n / gp, 0, 0, false) := if_neg (Nat.not_lt.mpr hcap)

theorem scalesFor_unscaled (hcap : mr + hr ≤ dm) (h : gp + gk + gc ≤ 64 * (dm - mr - hr)) :
    scalesFor dm mr hr gp gk gc = (256, 256, 256, false) := (scalesFor_hearthHeld hcap).trans (if_pos h)

theorem scalesFor_cellar (hcap : mr + hr ≤ dm) :
    let n := 64 * (dm - mr - hr)
    gp + gk ≤ n → n < gp + gk + gc → scalesFor dm mr hr gp gk gc = (256, 256, 256 * (n - gp - gk) / gc, false) := by
  intro n hfits hover
  rw [scalesFor_hearthHeld hcap, if_neg (Nat.not_le.mpr hover), if_pos hfits]

theorem scalesFor_kitchen (hcap : mr + hr ≤ dm) :
    let n := 64 * (dm - mr - hr)
    gp ≤ n → n < gp + gk → scalesFor dm mr hr gp gk gc = (256, 256 * (n - gp) / gk, 0, false) := by
  intro n hfits hover
  have hall : ¬ gp + gk + gc ≤ n := Nat.not_le.mpr (Nat.lt_add_right gc hover)
  rw [scalesFor_hearthHeld hcap, if_neg hall, if_neg (Nat.not_le.mpr hover), if_pos hfits]

theorem scalesFor_parlour (hcap : mr + hr ≤ dm) :
    let n := 64 * (dm - mr - hr)
    n < gp → scalesFor dm mr hr gp gk gc = (256 * n / gp, 0, 0, false) := by
  intro n hover
  have hkitchen : n < gp + gk := Nat.lt_add_right gk hover
  have hall : ¬ gp + gk + gc ≤ n := Nat.not_le.mpr (Nat.lt_add_right gc hkitchen)
  rw [scalesFor_hearthHeld hcap, if_neg hall, if_neg (Nat.not_le.mpr hkitchen), if_neg (Nat.not_le.mpr hover)]

end Dev

/-- Settles O43, from the effect of each command, the order of the check's conditions, and the classes that the capacity holds. -/
theorem gaugeCommandsComplete : Obligations.GaugeCommandsComplete :=
  ⟨fun _ _ hserves hidle => run_writeTo _ hserves (Dev.commitGo_idle hidle), fun _ _ hset => run_eq_withDev (Dev.checkDone_checking hset),
    fun _ _ => Dev.admitSet_noInterleave, fun _ _ => Dev.admitSet_hearthAboveMax,
    fun _ _ _ _ _ _ => ⟨Dev.scalesFor_hearthOver, Dev.scalesFor_unscaled, Dev.scalesFor_cellar, Dev.scalesFor_kitchen, Dev.scalesFor_parlour⟩⟩

end Sys2Proof.Machine
end

