-- ==== Sys2Proof/Proofs/FcuSources.lean ====
section
/-! PROOFS. The capture of an FCU source: what a first error loads (R458, R459) and what a clear leaves (R463). -/

set_option Elab.async false

namespace Sys2Proof.Machine

open Sys2Proof.Laws

namespace Dev

variable (d : Dev)

/-- A field of a 64-bit register reads as it was written. -/
theorem get_set_wide (p : Nat) (f : Fld) (v : Nat) (h32 : 32 < f.lsb + f.width) (h64 : f.lsb + f.width ≤ 64) :
    (d.set p f v).get p f = v % 2 ^ f.width := by
  have hnarrow : ¬ f.lsb + f.width ≤ 32 := Nat.not_le.mpr h32
  have hkey : rkey p f.off ≠ rkey p (f.off + 4) := by simp only [rkey]; omega
  have halves (r : Nat) : r % 2 ^ 32 + r / 2 ^ 32 % 2 ^ 32 * 2 ^ 32 = r % 2 ^ 64 := by omega
  unfold Dev.get reg64
  rw [if_neg hnarrow, set_wide d p f v hnarrow, word_eq, word_eq, wordAt_setWord, if_neg hkey, wordAt_setWord, if_pos rfl,
    wordAt_setWord, if_pos rfl, BitVec.toNat_ofNat, BitVec.toNat_ofNat, Nat.shiftRight_eq_div_pow, halves, bits_mod _ _ _ _ h64, bits_setBits]

/-- The status word of an FCU source, its captured address and SN, and its count, written together. -/
def fcuCapture (i : Nat) (sts : Word) (addr sn count : Nat) : Dev :=
  (((d.setWord (Bk.fcu i) 0x118 sts).set (Bk.fcu i) F.FCU_SRC_ADDR_ADDR addr).set (Bk.fcu i) F.FCU_SRC_SN_SN sn).set
    (Bk.fcu i) F.FCU_SRC_COUNT_COUNT count

theorem fcuClear_eq (i : Nat) : d.fcuClear i = d.fcuCapture i 0 0 0 0 := rfl

/-- The status word that a first error loads (R458). -/
def firstStatus (e : Ev) : Nat := 1 + e.sev * 2 ^ 4 + b2n (e.sn != d.sn) * 2 ^ 7 + e.acc % 16 * 2 ^ 8 + e.master % 256 * 2 ^ 12

theorem fcuFirst_eq (e : Ev) :
    d.fcuFirst e = d.fcuCapture e.src (BitVec.ofNat 32 (d.firstStatus e)) e.addr e.sn (min (2 ^ 32 - 1) e.errs) := rfl

section

variable (i : Nat) (sts : Word) (addr sn count : Nat)

theorem word_fcuCapture : (d.fcuCapture i sts addr sn count).word (Bk.fcu i) 0x118 = sts := by
  have hkey : ∀ o, 0x118 < o → rkey (Bk.fcu i) 0x118 ≠ rkey (Bk.fcu i) o := fun o ho => by simp only [rkey]; omega
  unfold fcuCapture
  rw [word_eq, wordAt_set_ne _ _ _ _ _ (hkey _ (by decide)) fun _ => hkey _ (by decide),
    wordAt_set_ne _ _ _ _ _ (hkey _ (by decide)) fun _ => hkey _ (by decide),
    wordAt_set_ne _ _ _ _ _ (hkey _ (by decide)) fun _ => hkey _ (by decide), wordAt_setWord, if_pos rfl]

/-- The registers of the capture share no word. -/
theorem get_fcu_set_ne (v : Nat) {f g : Fld} (h : g.off + 8 ≤ f.off) : (d.set (Bk.fcu i) f v).get (Bk.fcu i) g = d.get (Bk.fcu i) g := by
  have hkey : ∀ o o', o < o' → rkey (Bk.fcu i) o ≠ rkey (Bk.fcu i) o' := fun o o' ho => by simp only [rkey]; omega
  exact get_set_ne d _ _ _ _ _ (hkey _ _ (by omega)) (fun _ => hkey _ _ (by omega))
    fun _ => ⟨hkey _ _ (by omega), fun _ => hkey _ _ (by omega)⟩

theorem get_fcuCapture_addr : (d.fcuCapture i sts addr sn count).get (Bk.fcu i) F.FCU_SRC_ADDR_ADDR = addr % 2 ^ 64 := by
  unfold fcuCapture
  rw [get_fcu_set_ne _ _ _ (by decide), get_fcu_set_ne _ _ _ (by decide)]
  exact get_set_wide _ _ _ _ (by decide) (by decide)

theorem get_fcuCapture_sn : (d.fcuCapture i sts addr sn count).get (Bk.fcu i) F.FCU_SRC_SN_SN = sn % 2 ^ 64 := by
  unfold fcuCapture
  rw [get_fcu_set_ne _ _ _ (by decide)]
  exact get_set_wide _ _ _ _ (by decide) (by decide)

theorem get_fcuCapture_count : (d.fcuCapture i sts addr sn count).get (Bk.fcu i) F.FCU_SRC_COUNT_COUNT = count % 2 ^ 32 :=
  get_set _ _ _ _ (by decide)

/-- A field of the status word reads its bits of the word loaded. -/
theorem get_fcuCapture_status {f : Fld} (hoff : f.off = 0x118) (hw : f.lsb + f.width ≤ 32) :
    (d.fcuCapture i sts addr sn count).get (Bk.fcu i) f = bits sts.toNat f.lsb f.width := by
  unfold Dev.get
  rw [if_pos hw, hoff, word_fcuCapture]

theorem fcuCapture_eq : ∃ r, d.fcuCapture i sts addr sn count = { d with regs := r } := by
  obtain ⟨r₁, h₁⟩ := set_eq (d.setWord (Bk.fcu i) 0x118 sts) (Bk.fcu i) F.FCU_SRC_ADDR_ADDR addr
  obtain ⟨r₂, h₂⟩ := set_eq { d with regs := r₁ } (Bk.fcu i) F.FCU_SRC_SN_SN sn
  obtain ⟨r₃, h₃⟩ := set_eq { d with regs := r₂ } (Bk.fcu i) F.FCU_SRC_COUNT_COUNT count
  refine ⟨r₃, ?_⟩
  unfold fcuCapture
  rw [h₁]
  exact (congrArg (fun d : Dev => d.set (Bk.fcu i) F.FCU_SRC_COUNT_COUNT count) h₂).trans h₃

theorem fcuCapture_kept :
    WordsKept d (d.fcuCapture i sts addr sn count) fun k => rkey (Bk.fcu i) 0x118 ≤ k ∧ k < rkey (Bk.fcu i) 0x134 := by
  have hin : ∀ o, 0x118 ≤ o → o < 0x134 → rkey (Bk.fcu i) 0x118 ≤ rkey (Bk.fcu i) o ∧ rkey (Bk.fcu i) o < rkey (Bk.fcu i) 0x134 :=
    fun o h h' => by simp only [rkey]; omega
  have hset : ∀ (d : Dev) (f : Fld) (v : Nat), 0x118 ≤ f.off → f.off + 4 ≤ 0x130 ∨ (f.off < 0x134 ∧ f.lsb + f.width ≤ 32) →
      WordsKept d (d.set (Bk.fcu i) f v) fun k => rkey (Bk.fcu i) 0x118 ≤ k ∧ k < rkey (Bk.fcu i) 0x134 :=
    fun d f v hlo hhi => WordsKept.set _ _ _ (hin _ hlo (by omega)) fun _ => hin _ (by omega) (by omega)
  have hstatus : WordsKept d (d.setWord (Bk.fcu i) 0x118 sts) fun k => rkey (Bk.fcu i) 0x118 ≤ k ∧ k < rkey (Bk.fcu i) 0x134 :=
    fun k hk => (wordAt_setWord _ _ _ _ _).trans (if_neg fun e => by subst e; exact hk (hin _ (by decide) (by decide)))
  exact ((hstatus.trans (hset _ _ _ (by decide) (by decide))).trans (hset _ _ _ (by decide) (by decide))).trans
    (hset _ _ _ (by decide) (by decide))

end

/-- R458: the fields of the status word of a first error, as they lie side by side. -/
theorem bits_firstStatus (e : Ev) (hsev : e.sev < 8) :
    let w := (BitVec.ofNat 32 (d.firstStatus e)).toNat
    bits w 0 1 = 1 ∧ bits w 1 1 = 0 ∧ bits w 2 1 = 0 ∧ bits w 3 1 = 0 ∧ bits w 4 3 = e.sev ∧ bits w 7 1 = b2n (e.sn != d.sn) ∧ bits w 8 4 = e.acc % 16 ∧
      bits w 12 8 = e.master % 256 := by
  have hcarried : b2n (e.sn != d.sn) ≤ 1 := by unfold b2n; split <;> decide
  simp only [bits, firstStatus, BitVec.toNat_ofNat, Nat.shiftRight_eq_div_pow]
  omega

end Dev

/-- Settles O20: the clear loads an empty capture. -/
theorem fcuClearForgets : Obligations.FcuClearForgets := by
  intro d i
  rw [Dev.fcuClear_eq]
  refine ⟨Dev.word_fcuCapture _ _ _ _ _ _, Dev.get_fcuCapture_addr _ _ _ _ _ _, Dev.get_fcuCapture_sn _ _ _ _ _ _,
    Dev.get_fcuCapture_count _ _ _ _ _ _, ?_, Dev.fcuCapture_kept _ _ _ _ _ _⟩
  obtain ⟨r, hr⟩ := Dev.fcuCapture_eq d i 0 0 0 0
  rw [hr]

/-- Settles O21: a first error loads its status word and its capture. -/
theorem fcuFirstErrorCaptures : Obligations.FcuFirstErrorCaptures := by
  intro d e hsev
  obtain ⟨hset, hmore, hesc, hpersist, hseverity, hcarried, hacc, hmaster⟩ := Dev.bits_firstStatus d e hsev
  have hstatus {f : Fld} (hoff : f.off = 0x118) (hw : f.lsb + f.width ≤ 32) : (d.fcuFirst e).get (Bk.fcu e.src) f =
      bits (BitVec.ofNat 32 (d.firstStatus e)).toNat f.lsb f.width := Dev.get_fcuCapture_status _ _ _ _ _ _ hoff hw
  have hflag {f : Fld} {b : Bool} (h : (d.fcuFirst e).get (Bk.fcu e.src) f = b2n b) : (d.fcuFirst e).flag (Bk.fcu e.src) f = b := by
    unfold Dev.flag
    rw [h]
    cases b <;> rfl
  refine ⟨hflag (b := true) ((hstatus rfl (by decide)).trans hset), (hstatus rfl (by decide)).trans hseverity,
    (hstatus rfl (by decide)).trans hacc, (hstatus rfl (by decide)).trans hmaster, hflag (b := false) ((hstatus rfl (by decide)).trans hmore),
    hflag (b := false) ((hstatus rfl (by decide)).trans hesc), hflag (b := false) ((hstatus rfl (by decide)).trans hpersist),
    hflag ((hstatus rfl (by decide)).trans hcarried), Dev.get_fcuCapture_addr _ _ _ _ _ _, Dev.get_fcuCapture_sn _ _ _ _ _ _,
    (Dev.get_fcuCapture_count _ _ _ _ _ _).trans (Nat.mod_eq_of_lt (by omega))⟩

end Sys2Proof.Machine
end

