-- ==== Sys2Proof/Proofs/SecuredRequests.lean ====
section
/-! PROOFS. The secured requests (R509, R510, R512, R514): their checks, the transitions of the life-cycle and the fuses they program. -/

set_option Elab.async false

namespace Sys2Proof.Machine

open Sys2Proof.Laws

namespace Dev

variable {d : Dev} {q : SecureReq}

/-- R509, R514: a request that is heard, whose signature and nonce hold, while no life-cycle request is in progress. -/
structure Presented (d : Dev) (q : SecureReq) : Prop where
  heard : d.secureHeard q = true
  signed : q.signatureOk = true
  nonce : d.nonceValid q.session q.nonce = true
  idle : d.lcBusy = false

namespace Presented

variable (h : d.Presented q) {code : Nat} {fuse : FuseResult} {stateOk signerOk room : Dev → Bool} {dest item : Nat}
include h

theorem secureStatus_eq (stateOk signerOk : Bool) : d.secureStatus q stateOk signerOk = if stateOk = true ∧ signerOk = true then 0 else 3 := by
  unfold secureStatus
  rw [h.signed, h.nonce, h.idle]
  cases stateOk <;> cases signerOk <;> rfl

theorem secureStatus_allowed {stateOk signerOk : Bool} (hstate : stateOk = true) (hsigner : signerOk = true) :
    d.secureStatus q stateOk signerOk = 0 := (h.secureStatus_eq _ _).trans (if_pos ⟨hstate, hsigner⟩)

theorem secureStatus_barred {stateOk signerOk : Bool} (hbarred : stateOk = false ∨ signerOk = false) :
    d.secureStatus q stateOk signerOk = 3 := by
  refine (h.secureStatus_eq _ _).trans (if_neg fun ⟨hstate, hsigner⟩ => ?_)
  rcases hbarred with hno | hno
  · exact Bool.false_ne_true (hno.symm.trans hstate)
  · exact Bool.false_ne_true (hno.symm.trans hsigner)

/-! ### Life-cycle transitions (R512, R514) -/

section

variable {consume : Fuses → Fuses}

/-- A transition in another state than the table's, or from another signer. -/
theorem transition_barred (hbarred : stateOk d = false ∨ signerOk d = false) :
    transition q code fuse stateOk signerOk room dest consume d = d.answerSecure q code 3 := by
  unfold transition
  rw [h.heard, h.secureStatus_barred hbarred]
  rfl

variable (hstate : stateOk d = true) (hsigner : signerOk d = true)
include hstate hsigner

theorem transition_usedUp (hused : room d = false ∨ 32 ≤ d.str.fuses.lcLog.length) :
    transition q code fuse stateOk signerOk room dest consume d = d.answerSecure q code 4 := by
  unfold transition
  rw [h.heard, h.secureStatus_allowed hstate hsigner]
  refine (if_neg Bool.false_ne_true).trans ((if_neg (not_not_intro rfl)).trans (if_pos ?_))
  rcases hused with hroom | hlog
  · rw [hroom]; rfl
  · rw [decide_eq_true hlog, Bool.or_true]

variable (hroom : room d = true) (hlog : d.str.fuses.lcLog.length < 32)
include hroom hlog

/-- A transition whose checks pass and whose fuses are left comes down to its fuses. -/
theorem transition_fuses :
    transition q code fuse stateOk signerOk room dest consume d =
      match fuse with
      | .failed item => d.fuseFailed q code item
      | .ok =>
        let d1 := (d.modFuses fun f => { consume f with lcLog := f.lcLog ++ [dest], lcCopies := 3 }).answerSecure q code 0
        (({ d1 with str := { d1.str with committing := true } } : Dev).setFlag Pg.str F.STR_STS_LC_BUSY true).latch Src.lifeCycle := by
  unfold transition
  rw [h.heard, h.secureStatus_allowed hstate hsigner, hroom, decide_eq_false (Nat.not_le.mpr hlog)]
  rfl

theorem transition_ok :
    transition q code .ok stateOk signerOk room dest consume d =
      let d1 := (d.modFuses fun f => { consume f with lcLog := f.lcLog ++ [dest], lcCopies := 3 }).answerSecure q code 0
      (({ d1 with str := { d1.str with committing := true } } : Dev).setFlag Pg.str F.STR_STS_LC_BUSY true).latch Src.lifeCycle :=
  h.transition_fuses hstate hsigner hroom hlog

theorem transition_failed :
    transition q code (.failed item) stateOk signerOk room dest consume d =
      ((d.useNonce q.session q.nonce).emit (.spdmSession q.session code [5])).raise Src.lcFailed item 0x85 0 :=
  h.transition_fuses hstate hsigner hroom hlog

end

end Presented

/-- The signer that a request outside the table of transitions needs: the owner in Deployed, Halvas elsewhere. -/
theorem ownerOrHalvas_true (h : d.signerOf q.signed q.signer = if d.lcState = 2 then 2 else 1) : ownerOrHalvas q d = true := by
  unfold ownerOrHalvas
  dsimp only
  rw [h]
  split <;> rfl

end Dev

/-- Settles O28, from the checks of a transition and the fuses it consumes. -/
theorem lifeCycleTransitionsFollowTheTable : Obligations.LifeCycleTransitionsFollowTheTable := by
  intro s q hheard hsigned hnonce hidle
  have h : s.dev.Presented q := ⟨hheard, hsigned, hnonce, hidle⟩
  refine ⟨fun hlog => ⟨fun hstate hsigner => ?_, fun hstate hsigner hroom => ?_, fun hstate hsigner hroom => ?_,
      fun hstate hsigner => ?_, fun hstate hsigner hroom => ?_, fun hstate hsigner => ?_⟩,
    fun r => ⟨fun hno => ?_, fun hno => ?_, fun hno => ⟨?_, ?_⟩, fun hno => ?_, fun hstate => ?_⟩,
    fun r => ⟨fun hstate hsigner hused => ?_, fun hstate hsigner hused => ?_, fun hstate hsigner hused => ?_,
      fun hstate hsigner hused => ?_, fun hstate hsigner hused => ?_, fun hstate hsigner hused => ?_⟩⟩
  · exact run_eq_withDev (h.transition_ok (beq_iff_eq.mpr hstate) (beq_iff_eq.mpr hsigner) rfl hlog)
  · exact run_eq_withDev (h.transition_ok (beq_iff_eq.mpr hstate) hsigner (decide_eq_true hroom) hlog)
  · exact run_eq_withDev (h.transition_ok (beq_iff_eq.mpr hstate) (beq_iff_eq.mpr hsigner) (decide_eq_true hroom) hlog)
  · exact run_eq_withDev (h.transition_ok (beq_iff_eq.mpr hstate) (beq_iff_eq.mpr hsigner) rfl hlog)
  · exact run_eq_withDev (h.transition_ok (beq_iff_eq.mpr hstate) (beq_iff_eq.mpr hsigner) (decide_eq_true hroom) hlog)
  · exact run_eq_withDev (h.transition_ok (bne_iff_ne.mpr hstate) (Dev.ownerOrHalvas_true hsigner) rfl hlog)
  · exact run_eq_withDev (h.transition_barred (hno.imp beq_false_of_ne beq_false_of_ne))
  · exact run_eq_withDev (h.transition_barred (hno.imp_left beq_false_of_ne))
  · exact run_eq_withDev (h.transition_barred (hno.imp beq_false_of_ne beq_false_of_ne))
  · exact run_eq_withDev (h.transition_barred (hno.imp beq_false_of_ne beq_false_of_ne))
  · exact run_eq_withDev (h.transition_barred (hno.imp beq_false_of_ne beq_false_of_ne))
  · exact run_eq_withDev (h.transition_barred (.inl (bne_eq_false_iff_eq.mpr hstate)))
  · exact run_eq_withDev (h.transition_usedUp (beq_iff_eq.mpr hstate) (beq_iff_eq.mpr hsigner) (.inr hused))
  · exact run_eq_withDev (h.transition_usedUp (beq_iff_eq.mpr hstate) hsigner (hused.imp_left (decide_eq_false ∘ Nat.not_lt.mpr)))
  · exact run_eq_withDev (h.transition_usedUp (beq_iff_eq.mpr hstate) (beq_iff_eq.mpr hsigner)
      (hused.imp_left (decide_eq_false ∘ Nat.not_lt.mpr)))
  · exact run_eq_withDev (h.transition_usedUp (beq_iff_eq.mpr hstate) (beq_iff_eq.mpr hsigner) (.inr hused))
  · exact run_eq_withDev (h.transition_usedUp (beq_iff_eq.mpr hstate) (beq_iff_eq.mpr hsigner)
      (hused.imp_left (decide_eq_false ∘ Nat.not_lt.mpr)))
  · exact run_eq_withDev (h.transition_usedUp (bne_iff_ne.mpr hstate) (Dev.ownerOrHalvas_true hsigner) (.inr hused))

namespace Dev

/-! ### Requests that program fuses without a transition (R510) -/

namespace Presented

variable {d : Dev} {q : SecureReq} (h : d.Presented q) {code : Nat} {fuse : FuseResult} {stateOk signerOk : Dev → Bool} {early : Dev → Nat}
  {consume : Dev → Fuses → Fuses} (hstate : stateOk d = true) (hsigner : signerOk d = true) (hearly : early d = 0)
include h hstate hsigner hearly

theorem fuseRequest_fuses :
    fuseRequest q code fuse stateOk signerOk early consume d =
      match fuse with
      | .failed item => d.fuseFailed q code item
      | .ok => (d.modFuses (consume d)).answerSecure q code 0 := by
  unfold fuseRequest
  rw [h.heard, h.secureStatus_allowed hstate hsigner, hearly]
  rfl

theorem fuseRequest_ok : fuseRequest q code .ok stateOk signerOk early consume d = (d.modFuses (consume d)).answerSecure q code 0 :=
  h.fuseRequest_fuses hstate hsigner hearly

theorem fuseRequest_failed {item : Nat} :
    fuseRequest q code (.failed item) stateOk signerOk early consume d =
      ((d.useNonce q.session q.nonce).emit (.spdmSession q.session code [5])).raise Src.lcFailed item 0x85 0 :=
  h.fuseRequest_fuses hstate hsigner hearly

end Presented

/-- Anchors are programmed by Halvas in Manufacture and by the owner in Deployed. -/
theorem anchorChecks {d : Dev} {q : SecureReq} {signer : Nat} (hsigner : d.signerOf q.signed q.signer = signer)
    (h : (d.lcState = 0 ∧ signer = 1) ∨ (d.lcState = 2 ∧ signer = 2)) :
    (d.lcState == 0 || d.lcState == 2) = true ∧ ownerOrHalvas q d = true := by
  rcases h with ⟨hstate, rfl⟩ | ⟨hstate, rfl⟩
  · exact ⟨by rw [hstate]; rfl, ownerOrHalvas_true (by rw [hsigner, hstate]; rfl)⟩
  · exact ⟨by rw [hstate]; rfl, ownerOrHalvas_true (by rw [hsigner, hstate]; rfl)⟩

end Dev

/-- Settles O29, from the checks of a request and the fuses it programs. -/
theorem fuseRequestsComplete : Obligations.FuseRequestsComplete := by
  intro s q hheard hsigned hnonce hidle
  have h : s.dev.Presented q := ⟨hheard, hsigned, hnonce, hidle⟩
  refine ⟨?_, fun im hstate hsigner him => ?_,
    fun item hstate hsigner hlog => run_eq_withDev (h.transition_failed (beq_iff_eq.mpr hstate) (beq_iff_eq.mpr hsigner) rfl hlog)⟩
  · rintro st rfl hanchor
    obtain ⟨hstate, hsigner⟩ := Dev.anchorChecks rfl hanchor
    exact ⟨fun hleft => run_eq_withDev (h.fuseRequest_ok hstate hsigner (if_neg (Nat.not_le.mpr hleft))),
      fun hprogrammed hslot => run_eq_withDev (h.fuseRequest_ok hstate hsigner
        ((if_neg (Nat.not_le.mpr hslot)).trans (if_neg (Nat.not_le.mpr hprogrammed)))),
      fun item hleft => run_eq_withDev (h.fuseRequest_failed hstate hsigner (if_neg (Nat.not_le.mpr hleft)))⟩
  · have hrunning : (if s.dev.str.running.isNone then 3 else 0) = 0 := by rw [him]; rfl
    have hsvn : (match s.dev.str.running with | some im => im.svn | none => 0) = im.svn := by rw [him]
    rw [← hsvn]
    exact run_eq_withDev (h.fuseRequest_ok (bne_iff_ne.mpr hstate) (Dev.ownerOrHalvas_true hsigner) hrunning)

end Sys2Proof.Machine
end

