-- ==== Sys2Proof/Proofs/Activation.lean ====
section
/-! PROOFS. SPDM (R508), nonces and rights (R509, R521), and the pause of a live activation (R518 to R520). -/

set_option Elab.async false

namespace Sys2Proof.Machine

open Sys2Proof.Laws

/-- A command whose effect is written out in its meaning. -/
theorem next_withDev {s : State} {d d' : Dev} (h : d = d') :
    (.next (s.withDev d) : Host.Outcome State Fault Refusal) = .next (s.withDev d') := by rw [h]

section

variable {d : Dev} {t : Transport} {need code : Nat} {always : Bool} {payload : Dev → List Nat} {f : Effect}

/-- An SPDM request is answered once its transport has reached its step, in Decommissioned only where R513 names it. -/
theorem spdmAnswer_reached (hserves : d.spdmServes = true) (hstep : need ≤ d.spdmStep t) (hstate : (always || d.lcState != 4) = true) :
    spdmAnswer t need always code payload f d = (f d).emit (.spdm t code (payload d)) :=
  when_true (by rw [hserves, decide_eq_true hstep, hstate]; rfl)

theorem spdmAnswer_always (hserves : d.spdmServes = true) (hstep : need ≤ d.spdmStep t) :
    spdmAnswer t need true code payload f d = (f d).emit (.spdm t code (payload d)) := spdmAnswer_reached hserves hstep rfl

theorem spdmAnswer_lives (hserves : d.spdmServes = true) (hstep : need ≤ d.spdmStep t) (hstate : d.lcState ≠ 4) :
    spdmAnswer t need false code payload f d = (f d).emit (.spdm t code (payload d)) :=
  spdmAnswer_reached hserves hstep (bne_iff_ne.mpr hstate)

end

/-- R508: GET_MEASUREMENTS of one block, signed. -/
theorem measurementPayload_block (d : Dev) {n : Nat} (hpos : 1 ≤ n) (hle : n ≤ 5) :
    (if n = 0 then [5] else if n = 0xFF then (List.range 5).map (fun k => d.measurement (k + 1)) else [d.measurement n]) =
      [d.measurement n] :=
  (if_neg (by omega)).trans (if_neg (by omega))

/-- Settles O27, from what SPDM answers once the step of a request is reached. -/
theorem spdmCommandsComplete : Obligations.SpdmCommandsComplete := by
  refine ⟨fun s t hserves => run_eq_withDev (spdmAnswer_always hserves (Nat.zero_le _)),
    fun s t hserves hstep => run_eq_withDev (spdmAnswer_always hserves hstep),
    fun s t hserves hstep hstate => run_eq_withDev (spdmAnswer_lives hserves hstep hstate),
    fun s t hserves hstep hstate => run_eq_withDev (spdmAnswer_lives hserves hstep hstate),
    fun s t n hserves hstep hstate => next_withDev ?_, fun s t n hserves hstep hstate => next_withDev ?_,
    fun s t hserves hstep => run_eq_withDev (spdmAnswer_always hserves hstep),
    fun s t n hserves hstep hstate hpos hle => run_eq_withDev ?_,
    fun s t n hserves hstep hstate hslot hroom => next_withDev ?_, fun s n hopen => run_eq_withDev (when_true hopen),
    fun s n hsession => ⟨run_eq_withDev (when_true hsession), run_eq_withDev (when_true hsession), run_eq_withDev (when_true hsession)⟩,
    fun s n x hserves hsession hsecure => run_eq_withDev (when_true ?_)⟩
  · exact if_congr Iff.rfl (spdmAnswer_lives hserves hstep hstate) (spdmAnswer_lives hserves hstep hstate)
  · exact if_congr Iff.rfl (spdmAnswer_lives hserves hstep hstate) (spdmAnswer_lives hserves hstep hstate)
  · rw [if_pos rfl, if_pos rfl, Bool.not_true, spdmAnswer_lives hserves hstep hstate, measurementPayload_block _ hpos hle]
    rfl
  · exact (if_pos (by rw [hslot, decide_eq_true hroom]; rfl)).trans (spdmAnswer_lives hserves hstep hstate)
  · rw [hserves, hsession, Bool.true_and]
    exact hsecure

/-! ### Nonces and rights (R509, R521) -/

theorem Dev.rightRequest_go (d : Dev) {v : Nat} (hgo : v.testBit 8 = true) :
    Dev.rightRequest v d =
      let d1 := d.set Pg.str F.STR_RIGHT_CTL_ENTRY (bits v 0 6)
      if d.rightRefused (bits v 0 6) (d.get Pg.str F.STR_RIGHT_REQ_IMAGE) = true then d1.setFlag Pg.str F.STR_RIGHT_CTL_RESULT true
      else (d1.writeRight (bits v 0 6) (d.get Pg.str F.STR_RIGHT_REQ_IMAGE)).setFlag Pg.str F.STR_RIGHT_CTL_RESULT false :=
  if_neg (by rw [hgo]; exact Bool.false_ne_true)

/-- Settles O31, from the effect of a request with GO. -/
theorem noncesAndRightsComplete : Obligations.NoncesAndRightsComplete :=
  ⟨fun _ _ => rfl, fun _ _ _ hserves hgo => run_writeTo _ hserves (Dev.rightRequest_go _ hgo)⟩

/-! ### The pause of a live activation (R518 to R520) -/

namespace Dev

variable {d : Dev} {x : Activation}

theorem actReady_paused (hact : d.str.activation = some x) (hpaused : d.flag Pg.str F.STR_ACT_CTL_PAUSED = true) :
    actReady d = { d with str := { d.str with activation := some { x with ready := true, readySn := d.sn } } } := by
  unfold actReady
  rw [hact]
  exact if_pos hpaused

/-- R518: the new image that has written READY runs from boundary E. -/
theorem actResume_ready {im : FwImage} (hact : d.str.activation = some x) (hpaused : d.flag Pg.str F.STR_ACT_CTL_PAUSED = true)
    (hready : x.ready = true) (hsn : x.readySn < d.sn) (hnew : x.reverted = false) (him : (d.slot x.slot).image = some im) :
    actResume d =
      let d1 : Dev := { d with str := { d.str with running := some im, activeSlot := x.slot, loaded := d.str.loaded ++ [im.digest] } }
      ((d1.set Pg.str F.STR_FW_SLOT_RUNNING x.slot).set Pg.str F.STR_FW_SLOT_STAGED 0).endPause Src.fwActivated := by
  unfold actResume
  rw [hact]
  dsimp only
  rw [hpaused, hready, decide_eq_true hsn, hnew, him]
  rfl

end Dev

/-- R520: an effect after which the pause has ended is followed by the commands held in it. -/
theorem afterPause_ended {s : State} {f : Effect} {d : Dev} (h : f s.dev = d) (hended : d.flag Pg.str F.STR_ACT_CTL_PAUSED = false) :
    afterPause (s.run f) = runHeld d.host.held (s.withDev { d with host := { d.host with held := [] } }) := by
  subst h
  exact if_neg (ne_true_of_eq_false hended)

theorem afterPause_noneHeld {s : State} {f : Effect} {d : Dev} (h : f s.dev = d) (hended : d.flag Pg.str F.STR_ACT_CTL_PAUSED = false)
    (hheld : d.host.held = []) : afterPause (s.run f) = .next (s.withDev { d with host := { d.host with held := [] } }) := by
  rw [afterPause_ended h hended, hheld]
  rfl

/-- R519: the old image, put back, writes no READY in its time. -/
theorem execActivationFail_late {s : State} {x : Activation} (hact : s.dev.str.activation = some x)
    (hpaused : s.dev.flag Pg.str F.STR_ACT_CTL_PAUSED = true) (hwaits : x.ready = false) (hreverted : x.reverted = true)
    (hlate : s.dev.actP + 15625 ≤ s.dev.sn) :
    let e := (s.dev.endPause Src.fwReverted).raise Src.fwActFailed s.dev.actP 0x85 0
    e.flag Pg.str F.STR_ACT_CTL_PAUSED = false → e.host.held = [] →
      execActivationFail s = .next (s.withDev { e with host := { e.host with held := [] } }) := by
  intro e hended hheld
  refine afterPause_noneHeld ?_ hended hheld
  rw [hact]
  exact if_pos (by rw [hpaused, hwaits, hreverted, decide_eq_true hlate]; rfl)

/-- Settles O30, from the effect of each command and what follows the end of a pause. -/
theorem liveActivationCommandsComplete : Obligations.LiveActivationCommandsComplete := by
  refine ⟨fun s hpending hsn => run_eq_withDev (when_true ?_), fun s a x hserves hact hpaused => run_writeTo _ hserves ?_,
    fun s x im hact hpaused hready hsn hnew him => ?_, fun s x hact hpaused hwaits hnew hlate => next_withDev ?_,
    fun s x hact hpaused hwaits hreverted hlate => execActivationFail_late hact hpaused hwaits hreverted hlate⟩
  · rw [hpending, decide_eq_true hsn]; rfl
  · rw [← Dev.tally_sn s.dev Pg.str 0x0004 1]
    exact Dev.actReady_paused (by rw [Dev.wrote, Dev.tally_str, hact]) (by rw [Dev.flag_wrote _ _ _ (by decide) (by decide), hpaused])
  · have hresume := Dev.actResume_ready hact hpaused hready hsn hnew him
    exact fun hended => ⟨afterPause_ended hresume hended, afterPause_noneHeld hresume hended⟩
  · dsimp only
    rw [hact]
    exact if_pos (by rw [hpaused, hwaits, hnew, decide_eq_true hlate]; rfl)

end Sys2Proof.Machine
end

