-- ==== Sys2Proof/Proofs/DebugAccess.lean ====
section
/-! PROOFS. The debug grant (R523, R524) and a memory access through the debug port (R525). -/

set_option Elab.async false

namespace Sys2Proof.Machine

open Sys2Proof.Laws

namespace Dev

variable {d : Dev}

/-! ### The grant (R523, R524) -/

/-- R523: the end of a grant of level `lv`. -/
theorem endGrant_granted {lv : Nat} (h : d.str.grant = some lv) :
    d.endGrant =
      let e := ((({ d with str := { d.str with grant := none } } : Dev).writeRight 60 0).writeRight 61 0).writeRight 62 0
      ((e.set Pg.dbg F.DBG_STS_LEVEL d.noTokenCap).set Pg.dbg F.DBG_EXPIRY_SN_SN 0).raise Src.dbgEnded lv 0x84 13 := by
  unfold endGrant
  rw [h]

/-- R524: an unlock through the port whose signature and nonce hold is granted its level, and a fresh challenge follows. -/
theorem portUnlock_granted {ok : Bool} {lv : Nat} :
    let signerBytes := (List.range 64).map fun k => d.tokenByte (100 + k)
    let signed := signerBytes.any (· ≠ 0)
    d.pendGet Pg.dbg F.DBG_CTL_PORT_DIS = 0 → d.tokenByte 0 = 7 → (signed = true → ok = true) →
    BitVec.ofNat 256 (d.tokenField 4 32) = Config.nonce d.str.dbgNonce →
    d.unlockLevel signed (BitVec.ofNat 256 (Sm3.digest signerBytes)) (d.tokenByte 36) = some lv →
    portUnlock ok d = (d.grantDebug lv (d.tokenField 40 4) (d.tokenField 44 4) (d.tokenField 48 4)).newDebugNonce := by
  intro signerBytes signed hport hcode hsigned hnonce hlevel
  have hverified : ¬ (signed && !ok) = true := fun h => by
    obtain ⟨hs, hno⟩ := Bool.and_eq_true_iff.mp h
    rw [hsigned hs] at hno
    exact Bool.false_ne_true hno
  refine (if_neg (not_not_intro hport)).trans ((if_neg (not_not_intro hcode)).trans ((if_neg hverified).trans
    ((if_neg (not_not_intro hnonce)).trans ?_)))
  rw [hlevel]

/-! ### A memory access (R525) -/

section

variable {x : DbgAccess} {f : LineFault} {e : Dev} (hspace : x.space = 1) (hview : x.view = 0)
include hspace hview

/-- R525: a read of DRAM that passes its check and ends at once. -/
theorem dbgTry_reads {bs : List Nat} {poison : Bool} (hop : x.op = 1) (hcheck : d.draCheck 0x84 x.addr 2 true = none)
    (hread : d.readDra (dbgWho x) x.addr false f = .done (bs, poison) e) :
    d.dbgTry x f = (e.dbgPut bs).dbgEnd (if poison then 2 else 0) := by
  unfold dbgTry
  simp only [hspace, hview, hop, Nat.reduceBEq, Bool.and_false, Bool.not_false, hcheck, hread, Nat.one_ne_zero, false_and, and_false,
    Nat.reduceEqDiff, if_true, if_false, Bool.false_eq_true]

/-- R525: a write of DRAM that passes its check and ends at once. -/
theorem dbgTry_writes {u : Unit} (hop : x.op = 2) (hcheck : d.draCheck 0x84 x.addr 3 true = none)
    (hwrite : d.writeDra (dbgWho x) x.addr d.dbgData (BitVec.allOnes 64) false f = .done u e) :
    d.dbgTry x f = e.dbgEnd 0 := by
  unfold dbgTry
  simp only [hspace, hview, hop, Nat.reduceBEq, Bool.and_false, Bool.not_false, hcheck, hwrite, Nat.one_ne_zero, false_and, and_false,
    Nat.reduceEqDiff, if_true, if_false, Bool.false_eq_true]

end

/-- R525: an access of DRAM without its view is tried while none runs. -/
theorem dbgStart_dram {op v : Nat} {f : LineFault} (hspace : bits v 2 1 = 1) (hview : bits v 3 1 = 0) (hidle : d.str.dbgAcc = none) :
    dbgStart op v f d =
      let b := ((d.set Pg.dbg F.DBG_MEM_CTL_SPACE 1).set Pg.dbg F.DBG_MEM_CTL_VIEW 0).setFlag Pg.dbg F.DBG_MEM_CTL_BUSY true
      (b.dbgTry { op := op, space := 1, view := 0, addr := d.get Pg.dbg F.DBG_MEM_ADDR_ADDR / 64 * 64 } f).after := by
  unfold dbgStart
  rw [if_neg (by rw [hidle]; exact Bool.false_ne_true), hspace, hview]

end Dev

/-- Settles O32, from the effect of each command where its conditions hold. -/
theorem debugCommandsComplete : Obligations.DebugCommandsComplete := by
  refine ⟨fun s q lv hheard hsigned hnonce hlevel => next_withDev ?_, fun s a ok lv hserves => ?_,
    fun s a lv hserves hgrant => run_writeTo _ hserves ?_, fun s n hserves => run_writeTo _ hserves rfl,
    fun s hgrant hset hsn => run_eq_withDev (when_true ?_),
    fun s a v f bs poison e hserves hspace hview hidle hcheck hread => next_withDev ?_,
    fun s a v f u e hserves hspace hview hidle hcheck hwrite => next_withDev ?_⟩
  · have hverified : ¬ (q.signed && !q.signatureOk) = true := fun h => by
      obtain ⟨hs, hno⟩ := Bool.and_eq_true_iff.mp h
      rw [hsigned hs] at hno
      exact Bool.false_ne_true hno
    dsimp only
    rw [hheard, Bool.not_true, if_neg Bool.false_ne_true, if_neg hverified, hnonce, Bool.not_true, if_neg Bool.false_ne_true, hlevel]
  · exact fun hport hcode hsigned hnonce hlevel =>
      next_withDev ((Dev.writeTo_serves _ _ _ _ _ _ hserves).trans (Dev.portUnlock_granted hport hcode hsigned hnonce hlevel))
  · exact Dev.endGrant_granted (by rw [Dev.wrote, Dev.tally_str, hgrant])
  · rw [hgrant, bne_iff_ne.mpr hset, decide_eq_true hsn]; rfl
  · exact (Dev.writeTo_serves _ _ _ _ _ _ hserves).trans
      ((Dev.dbgStart_dram hspace hview hidle).trans (congrArg Dev.after (Dev.dbgTry_reads rfl rfl rfl hcheck hread)))
  · exact (Dev.writeTo_serves _ _ _ _ _ _ hserves).trans
      ((Dev.dbgStart_dram hspace hview hidle).trans (congrArg Dev.after (Dev.dbgTry_writes rfl rfl rfl hcheck hwrite)))

end Sys2Proof.Machine
end

