-- ==== Sys2Proof/Proofs/PowerCommands.lean ====
section
/-! PROOFS. Power requests, transitions and wakes (R480 to R497). -/

set_option Elab.async false

namespace Sys2Proof.Machine

open Sys2Proof.Laws

/-- Settles O17: source 0x470 is active where its four conditions hold. -/
theorem powerRequestReadiness : Obligations.PowerRequestReadiness := by
  intro d
  unfold Dev.readyToStart Dev.inTransition Dev.powerState
  simp only [Bool.and_eq_true, Bool.or_eq_true, Bool.not_eq_true', bne_iff_ne, ne_eq, beq_iff_eq, and_assoc]

namespace Dev

variable {d : Dev}

/-! ### Requests (R484, R490) -/

/-- The field that a request writes first leaves the flag of a running transition alone. -/
theorem inTransition_setTarget (d : Dev) (t : Nat) : (d.set Pg.pwr F.PWR_MODE_TARGET t).inTransition = d.inTransition := by
  unfold inTransition flag
  rw [get_set_apart _ _ _ (by decide)]

/-- R484: a request while no transition runs is pending. -/
theorem powerRequest_pending {v : Nat} (after : Bool) (hgo : v.testBit 2 = true) (hidle : d.inTransition = false) :
    powerRequest v after d =
      let d1 := (d.set Pg.pwr F.PWR_MODE_TARGET (v % 4)).setFlag Pg.pwr F.PWR_STS_PENDING true
      ({ d1 with pwr := { d1.pwr with reqTarget := v % 4 } } : Dev).syncGo := by
  unfold powerRequest
  dsimp only
  rw [hgo, Bool.not_true, if_neg Bool.false_ne_true, inTransition_setTarget, hidle, Bool.false_and, Bool.false_and, Bool.false_and,
    if_neg Bool.false_ne_true]
  rfl

/-! ### Hush (R487, R488, R493) -/

/-- R487 step 5: a host link that is not in L1 counts as a wake at boundary `sn`; a wake then, or since the commit point, starts the exit. -/
def wakeAtEntry (d : Dev) (sn : Nat) (later : Option (Nat × Nat)) : Dev :=
  let woken : Dev := { d with stc := { d.stc with events := d.stc.events ++ d.linkWakes.map fun w => ⟨sn, w, 4, 0, 0, 0, 0, 0⟩ } }
  match later, d.linkWakes.filter woken.wakeEnabled with
  | some (src, sn), _ => woken.exitHush src sn
  | none, w :: _ => woken.exitHush w sn
  | none, [] => woken

theorem wakeAtEntry_quiet (sn : Nat) (h : d.linkWakes = []) : d.wakeAtEntry sn none = d := by
  unfold wakeAtEntry
  rw [h]
  simp only [List.map_nil, List.append_nil, List.filter_nil]

/-- R487 step 4: an active link dozes from boundary `sn`. -/
def dozeLink (sn : Nat) (d : Dev) (l : Nat) : Dev :=
  if d.linkActive l then (d.lset l (fState l) 5).modLnk l fun x => { x with stateSn := sn, waking := false } else d

theorem dozeLink_sn (sn : Nat) (d : Dev) (l : Nat) : (d.dozeLink sn l).sn = d.sn := by
  unfold dozeLink
  split
  · exact set_sn _ _ _ _
  · rfl

theorem selfRefresh_foldl_sn (cs : List Nat) (d : Dev) :
    (cs.foldl (fun d c => if d.domOn (5 + c) then d.selfRefresh c else d) d).sn = d.sn := by
  induction cs generalizing d with
  | nil => rfl
  | cons c cs ih =>
    rw [List.foldl_cons, ih]
    split <;> rfl

/-- The links doze at the boundary at which the first of them does. -/
theorem dozeLink_foldl (ls : List Nat) {d : Dev} {sn : Nat} (h : d.sn = sn) :
    ls.foldl (fun d l => d.dozeLink d.sn l) d = ls.foldl (dozeLink sn) d := by
  induction ls generalizing d with
  | nil => rfl
  | cons l ls ih => rw [List.foldl_cons, List.foldl_cons, h, ih ((dozeLink_sn sn d l).trans h)]

/-- R487: Hush is entered with no wake before its end and every host link in L1. -/
theorem hushEntry_quiet (hentering : entering 2 d = true) (hended : d.workEnded = true) (hnone : d.pwr.wakeAfter = none) :
    let quiet := (List.range 16).foldl (fun d c => if d.domOn (5 + c) then d.selfRefresh c else d) d
    let dozing := (List.range 17).foldl (dozeLink d.sn) quiet
    let hushed := (((({ dozing with clk := { dozing.clk with fabricOn := false } } : Dev).setReady (List.range 29) false).set
      Pg.pwr F.PWR_STS_STATE 2).set Pg.pwr F.PWR_STS_RETURN d.pwr.source).endTransition.heldWake
    hushed.linkWakes = [] → hushEntry d = hushed := by
  intro quiet dozing hushed hlinks
  have hcommitted : (d.inTransition && d.flag Pg.pwr F.PWR_STS_COMMITTED && d.pwr.target == 2 && d.workEnded) = true := by
    rw [hended, Bool.and_true]
    exact hentering
  have hentry : hushEntry d = hushed.wakeAtEntry d.sn d.pwr.wakeAfter := by
    have hdozing : (List.range 17).foldl (fun d l => d.dozeLink d.sn l) quiet = dozing :=
      dozeLink_foldl _ (selfRefresh_foldl_sn (List.range 16) d)
    unfold hushEntry wakeAtEntry
    rw [when_true hcommitted]
    simp only [hushed, ← hdozing]
    rfl
  rw [hentry, hnone, wakeAtEntry_quiet _ hlinks]

/-- The least enabled wake source among events none of which is below it. -/
theorem foldl_min_eq {α : Type} (p : α → Bool) (f : α → Nat) (m : Nat) (l : List α) (h : ∀ x ∈ l, p x = true → m ≤ f x) :
    l.foldl (fun m x => if p x then min m (f x) else m) m = m := by
  induction l with
  | nil => rfl
  | cons x l ih =>
    obtain ⟨hx, hl⟩ := List.forall_mem_cons.mp h
    rw [List.foldl_cons]
    split
    · next hp => rw [Nat.min_eq_left (hx hp)]; exact ih hl
    · exact ih hl

/-- R493: the exit records the lowest enabled wake source of its stitch. -/
theorem hushWake_first {e : Ev} (hhush : d.powerState = 2) (hstill : d.pwr.exiting = false) (hen : d.wakeEnabled e.src = true)
    (hfind : d.stc.events.find? (fun x => x.src == e.src) = some e)
    (hleast : ∀ x ∈ d.stc.events, x.sn = e.sn → d.wakeEnabled x.src = true → e.src ≤ x.src) :
    hushWake e.src d = d.exitHush e.src e.sn := by
  have hfirst := foldl_min_eq (fun x : Ev => x.sn == e.sn && d.wakeEnabled x.src) (·.src) e.src d.stc.events fun x hx hp => by
    obtain ⟨hsn, hwake⟩ := Bool.and_eq_true_iff.mp hp
    exact hleast x hx (beq_iff_eq.mp hsn) hwake
  unfold hushWake
  rw [when_true (by rw [hhush, hstill, hen]; rfl), hfind]
  exact congrArg (d.exitHush · e.sn) hfirst

end Dev

/-- Settles O18, from the effect of each command where its conditions hold. -/
theorem powerCommandsComplete : Obligations.PowerCommandsComplete := by
  refine ⟨fun s a v after hserves hgo hidle => run_writeTo _ hserves (Dev.powerRequest_pending after hgo ?_),
    fun s core hcore hready hruns => run_eq_withDev (when_true ?_),
    fun s hentering hended hnone => fun hlinks => run_eq_withDev (Dev.hushEntry_quiet hentering hended hnone hlinks),
    fun s hentering => run_eq_withDev (when_true hentering), fun s hentering => run_eq_withDev (when_true hentering),
    fun s e hhush hstill hen hfind hleast => run_eq_withDev (Dev.hushWake_first hhush hstill hen hfind hleast),
    fun s hhush hexiting => run_eq_withDev (when_true ?_), fun s k hruns => run_eq_withDev (when_true ?_),
    fun s above hpor => run_eq_withDev ((when_true hpor).trans ?_), fun s hset hsn => run_eq_withDev (when_true ?_),
    fun s hpor => run_eq_withDev (when_true hpor)⟩
  · rw [Dev.inTransition, Dev.flag_wrote _ _ _ (by decide) (by decide), hidle]
  · rw [decide_eq_true hcore, hready, hruns]; rfl
  · rw [hhush, hexiting]; rfl
  · rcases hruns with ⟨hin, ht⟩ | hexiting
    · rw [hin, ht]; rfl
    · rw [hexiting, Bool.or_true]
  · exact if_congr beq_iff_eq rfl rfl
  · rw [bne_iff_ne.mpr hset, hsn, beq_self_eq_true]; rfl

end Sys2Proof.Machine
end

