-- ==== Sys2Proof/Proofs/NetworkCommands.lean ====
section
/-! PROOFS. The on-chip network (R439 to R447, R495), the completion of a Frog (R470, R474), and the FCU's registers (R463, R469). -/

set_option Elab.async false

namespace Sys2Proof.Machine

open Sys2Proof.Laws

namespace Dev

variable {d : Dev}

/-! ### Routes and planes (R442, R447) -/

theorem rtCommand_free {f : NocSt → NocSt} (hfree : d.flag Pg.noc F.NOC_RT_CTL_SWAP = false) : rtCommand f d = d.modNoc f :=
  when_true (by rw [hfree]; rfl)

/-- R447: a write that clears the bits of planes that no live entry and no undrained old epoch selects is taken. -/
theorem planeWrite_unused {v : Nat} :
    let cleared := clearBits (d.get Pg.noc F.NOC_PLANE_CFG_EN) v
    (∀ b < 8, cleared.testBit b = true → d.noc.live.selects (b / 2) (b % 2 == 1) = false ∧
      ∀ t, d.noc.old = some t → t.selects (b / 2) (b % 2 == 1) = false) →
    planeWrite v d = d.store Pg.noc 0x118 0xFF v true := by
  intro cleared hfree
  refine if_neg fun hused => ?_
  obtain ⟨b, hb, hsel⟩ := List.any_eq_true.mp hused
  obtain ⟨hclear, hany⟩ := Bool.and_eq_true_iff.mp hsel
  obtain ⟨hlive, hold⟩ := hfree b (List.mem_range.mp hb) hclear
  rw [hlive, Bool.false_or] at hany
  cases ht : d.noc.old with
  | none =>
    rw [ht] at hany
    exact Bool.false_ne_true hany
  | some t =>
    rw [ht] at hany
    exact Bool.false_ne_true ((hold t ht).symm.trans hany)

theorem headerError_onPage {router port : Nat} (kind : FlitError) (request : Option Nat) (hrouter : router < 24) (hport : port < 10)
    (hready : d.pageReady Pg.noc = true) :
    headerError router port kind request d =
      match kind with
      | .corrected => (d.addSat Pg.noc F.NOC_ECC_CNT_COUNT 1).raise Src.nocEccCe (router * 16 + port) 0xFF 0
      | .uncorrectable =>
        let d1 := d.raise Src.nocHeaderUe (router * 16 + port) 0xFF 0
        match request with
        | some id => (d1.losePacket id).after
        | none => d1 := when_true (by rw [decide_eq_true ⟨hrouter, hport⟩, hready]; rfl)

/-! ### Domains (R440, R441) -/

/-- A domain that has reported itself down is not on its way down. -/
theorem not_goingDown {k : Nat} (h : d.domDown k = true) : (d.domGoing k && !d.domDown k) = false := by
  rw [h]
  exact Bool.and_false _

/-- R441: a request held for domain 2 longer than NOC_WAKE_TO is refused. -/
theorem wakeTimeout_late {id : Nat} {r : Req} (hfind : d.findReq id = some r) (hstage : r.stage = .domain) (hpat : r.granted = false)
    (hready : d.pageReady Pg.pat = false) (hdown : d.domDown 2 = true)
    (hlate : r.subSn + max 1 (d.get Pg.noc F.NOC_WAKE_TO_STITCHES) ≤ d.sn) :
    wakeTimeout id d = ((d.raise Src.nocWakeTo 0x0A0 r.ld r.kind.acc).refuse r).after := by
  unfold wakeTimeout
  rw [hfind]
  dsimp only
  rw [hpat]
  refine if_neg ?_
  simp only [hstage, decide_true, Bool.not_true, Bool.false_eq_true, if_false, hready, not_goingDown hdown, Bool.or_self,
    decide_eq_false (Nat.not_lt.mpr hlate), not_false_eq_true]

theorem domainReady_on {k : Nat} (hpos : 0 < k) (hlt : k < 29) (hon : d.domOn k = true) (hreset : d.pwr.ready.testBit k = false) :
    domainReady k d =
      let d1 : Dev := if (domainLinks k).isEmpty then d else d.linkDomainOn k
      ({ d1 with pwr := { d1.pwr with ready := setBit d1.pwr.ready k } } : Dev).deliverHeld.after :=
  when_true (by rw [decide_eq_true ⟨hpos, hlt⟩, hon, hreset]; rfl)

theorem trimmedWake_trimmed {k : Nat} (hlow : 4 ≤ k) (hlt : k < 29) (htrim : d.powerState = 1) (hoff : d.domOn k = false)
    (hnamed : (d.get Pg.pwr F.PWR_TRIM_DOM_OFF).testBit k = true) (hpresent : d.pwr.absent.testBit k = false) :
    trimmedWake k d = (d.setDom k true).set Pg.pwr F.PWR_DOM_WOKEN_WOKEN (setBit (d.get Pg.pwr F.PWR_DOM_WOKEN_WOKEN) k) := by
  have hstate : (d.get Pg.pwr F.PWR_STS_STATE == 1) = true := beq_iff_eq.mpr htrim
  exact when_true (by rw [decide_eq_true ⟨hlow, hlt⟩, hstate, hoff, hnamed, hpresent]; rfl)

/-! ### The completion of a Frog (R470, R474) -/

/-- R470: a Frog that no Frog accepted as early covers, and before which its target has none, completes. -/
theorem frogComplete_uncovered {f : FrogRec} (hfind : d.frogs.find? (fun x => x.id == f.id && x.acceptSn != 0) = some f)
    (hfree : ∀ g ∈ d.frogs, g.acceptSn ≠ 0 → g.acceptSn ≤ f.acceptSn →
      d.frogCovers g.target f.target = false ∧ ¬ (g.target = f.target ∧ g.id < f.id)) :
    frogComplete f.id d = d.frogEnd f := by
  unfold frogComplete
  rw [hfind]
  refine if_neg fun hany => ?_
  obtain ⟨g, hg, hcovers⟩ := List.any_eq_true.mp hany
  simp only [Bool.and_eq_true, Bool.or_eq_true, bne_iff_ne, decide_eq_true_eq] at hcovers
  obtain ⟨⟨haccepted, hearly⟩, hover⟩ := hcovers
  obtain ⟨hwide, hsame⟩ := hfree g hg haccepted hearly
  rcases hover with hc | hs
  · exact Bool.false_ne_true (hwide.symm.trans hc)
  · exact hsame hs

theorem injectWrite_idle {v : Nat} (hidle : d.flag Pg.fcu F.FCU_INJ_GO = false) :
    injectWrite v d = (d.set Pg.fcu F.FCU_INJ_INDEX (v % 2 ^ 10)).setFlag Pg.fcu F.FCU_INJ_GO
      (v.testBit 31 && (fcuInfo (v % 2 ^ 10)).isSome) := if_neg (by rw [hidle]; exact Bool.false_ne_true)

theorem noc_wrote (d : Dev) (p : Nat) : (d.wrote p).noc = d.noc := tally_noc d p _ _

end Dev

/-- Settles O19, from the effect of each command where its conditions hold. -/
theorem networkFrogAndFcuCommandsComplete : Obligations.NetworkFrogAndFcuCommandsComplete := by
  refine ⟨fun s a hserves => run_writeTo _ hserves rfl, fun s hdraining => run_eq_withDev (when_true hdraining),
    fun s a hserves hfree => run_writeTo _ hserves ?_, fun s a net plane hserves hfree => run_writeTo _ hserves ?_,
    fun s a v hserves => ?_, fun s net plane k hnet hplane hset hle => run_eq_withDev (when_true ?_),
    fun s router port request hrouter hport hready => run_eq_withDev (Dev.headerError_onPage .corrected request hrouter hport hready),
    fun s router port id hrouter hport hready => run_eq_withDev (Dev.headerError_onPage .uncorrectable (some id) hrouter hport hready),
    fun s r hfind hstage hpat hready hdown hlate => run_eq_withDev (Dev.wakeTimeout_late hfind hstage hpat hready hdown hlate),
    fun s k hpos hlt hon hreset => run_eq_withDev (Dev.domainReady_on hpos hlt hon hreset),
    fun s k hlow hlt htrim hoff hnamed hpresent => run_eq_withDev (Dev.trimmedWake_trimmed hlow hlt htrim hoff hnamed hpresent),
    fun s f hfind hfree => run_eq_withDev (Dev.frogComplete_uncovered hfind hfree),
    fun s a w v hw hserves => run_writeTo _ (by rwa [Nat.mod_eq_of_lt hw]) ?_,
    fun s a v hserves hidle => run_writeTo _ hserves (Dev.injectWrite_idle ?_)⟩
  · rw [Dev.rtCommand_free (by rw [Dev.flag_wrote _ _ _ (by decide) (by decide), hfree]), Dev.modNoc, Dev.noc_wrote]
  · rw [Dev.rtCommand_free (by rw [Dev.flag_wrote _ _ _ (by decide) (by decide), hfree]), Dev.modNoc, Dev.noc_wrote]
  · intro cleared hunused
    refine run_writeTo _ hserves (Dev.planeWrite_unused ?_)
    rwa [Dev.get_wrote _ _ _ (by decide) (by decide), Dev.noc_wrote]
  · rw [decide_eq_true ⟨hnet, hplane⟩, bne_iff_ne.mpr hset, decide_eq_true hle]; rfl
  · rw [Nat.mod_eq_of_lt hw]; rfl
  · rwa [Dev.flag_wrote _ _ _ (by decide) (by decide)]

end Sys2Proof.Machine
end

