-- ==== Sys2Proof/Proofs/ServiceRings.lean ====
section
/-! PROOFS. The doorbell slots of a pair (R339 to R342), its fetches, starts and completions (R337 to R347), and what carries a job on (R348). -/

set_option Elab.async false

namespace Sys2Proof.Machine

open Sys2Proof.Laws

namespace Dev

variable {d : Dev} {n : Nat}

/-! ### The doorbell slot (R339 to R342) -/

section

variable {ld off width v : Nat} {f : Effect}

/-- R339, R56: a write by the pair's LD while the pages of the pairs are ready. -/
theorem slotWrite_own (hlt : ld < 64) (hown : d.qpLd n = ld) (hheld : d.domHeld (pageDomain Pg.qmg) = false)
    (hready : d.pageReady Pg.qmg = true) : slotWrite ld n off width v f d = f d := by
  unfold slotWrite
  rw [Nat.mod_eq_of_lt hlt, if_neg (not_not_intro hown.symm), hheld, if_neg Bool.false_ne_true, if_pos hready]

theorem slotWrite_foreign (hlt : ld < 64) (hforeign : d.qpLd n ≠ ld) :
    slotWrite ld n off width v f d = d.raise Src.foreignDoorbell (64 * n + off) ld 10 := by
  unfold slotWrite
  rw [Nat.mod_eq_of_lt hlt, if_pos hforeign.symm]

end

section

variable {v : Nat}

theorem tailWrite_pending (h : d.pairOn n = false ∨ v < d.sqSize n) :
    d.tailWrite n v = ((d.putRing n F.SLOT_SQ_TAIL v).modPair n fun p => { p with pending := true }).ringLatch (d.qpGroup n) := by
  refine if_neg fun hbad => ?_
  obtain ⟨hon, hbeyond⟩ := Bool.and_eq_true_iff.mp hbad
  rcases h with hoff | hlt
  · exact Bool.false_ne_true (hoff.symm.trans hon)
  · exact Nat.not_le.mpr hlt (of_decide_eq_true hbeyond)

theorem tailWrite_beyond (hon : d.pairOn n = true) (h : d.sqSize n ≤ v) : d.tailWrite n v = (d.putRing n F.SLOT_SQ_TAIL v).haltPair n 1 10 :=
  if_pos (by rw [hon, decide_eq_true h]; rfl)

/-- R342: a CQ_HEAD that lies between the old head and CQ_TAIL, or of a disabled pair. -/
theorem headWrite_frees (h : d.pairOn n = false ∨ (v < d.cqSize n ∧ d.cqAhead n v ≤ d.cqAhead n (d.qslot n F.SLOT_CQ_TAIL))) :
    d.headWrite n v = d.putRing n F.SLOT_CQ_HEAD v := by
  unfold headWrite
  rcases h with hoff | ⟨hlt, hle⟩
  · exact if_pos (by rw [hoff]; rfl)
  · rw [if_neg (not_or.mpr ⟨Nat.not_le.mpr hlt, Nat.not_lt.mpr hle⟩), ite_self]

theorem headWrite_outside (hon : d.pairOn n = true) (h : d.cqSize n ≤ v ∨ d.cqAhead n (d.qslot n F.SLOT_CQ_TAIL) < d.cqAhead n v) :
    d.headWrite n v = d.haltPair n 5 10 :=
  (if_neg (by rw [hon]; exact Bool.false_ne_true)).trans (if_pos h)

/-- R340: a write with EN 1 to a disabled pair is refused, or enables it. -/
theorem ringOn_disabled (hoff : d.pairOn n = false) :
    d.ringOn n v =
      let d1 := d.storeCfg n v
      if d1.enableOk n = false then d1.putRing n F.SLOT_ERR 6
      else
        let on := ((((((d1.putRing n F.SLOT_EN 1).putRing n F.SLOT_SQ_HEAD 0).putRing n F.SLOT_CQ_TAIL 0).putRing n F.SLOT_PHASE 1).putRing n
          F.SLOT_HALTED 0).putRing n F.SLOT_FROGGED 0).putRing n F.SLOT_ERR 0
        (on.modPair n fun p => { p with active := false, irqCnt := 0, due := false }).modRings fun r =>
          { r with live := r.live.filter (· < n) ++ n :: r.live.filter (n < ·) } := by
  unfold ringOn
  dsimp only
  rw [hoff, if_neg Bool.false_ne_true]
  simp only [Bool.not_eq_true']

theorem ringOff_enabled (hon : d.pairOn n = true) : d.ringOff n v = ((d.storeCfg n v).clearEn n).pairIdle n := if_pos hon

/-- R332: an assignment of a disabled pair with no job left. -/
theorem qpAssign_idle (hoff : d.pairOn (d.get Pg.qmg F.QMG_QP_SEL_PAIR) = false) (hnone : d.pairJobs (d.get Pg.qmg F.QMG_QP_SEL_PAIR) = []) :
    qpAssign v d = d.store (Bk.qp (d.get Pg.qmg F.QMG_QP_SEL_PAIR)) 0x10C 0x01033F3F v false :=
  if_neg (by rw [hoff, hnone]; exact Bool.false_ne_true)

end

end Dev

section

variable {s : State} {ld n off width v : Nat} {f : Nat → Effect} {d : Dev} (hld : ld < 64) (hn : n < 8192)
include hld hn

/-- A write of a slot below 8192 by the LD of its pair. -/
theorem run_slotWrite_own (hown : s.dev.qpLd n = ld) (hheld : s.dev.domHeld (pageDomain Pg.qmg) = false)
    (hready : s.dev.pageReady Pg.qmg = true) (hd : f n s.dev = d) :
    s.run (Dev.slotWrite ld (n % 8192) off width v (f (n % 8192))) = .next (s.withDev d) := by
  rw [Nat.mod_eq_of_lt hn]
  exact run_eq_withDev ((Dev.slotWrite_own hld hown hheld hready).trans hd)

theorem run_slotWrite_foreign (hforeign : s.dev.qpLd n ≠ ld) :
    s.run (Dev.slotWrite ld (n % 8192) off width v (f (n % 8192))) =
      .next (s.withDev (s.dev.raise Src.foreignDoorbell (64 * n + off) ld 10)) := by
  rw [Nat.mod_eq_of_lt hn]
  exact run_eq_withDev (Dev.slotWrite_foreign hld hforeign)

end

/-- Settles O44, from the LD that a doorbell slot belongs to and the effect of each write. -/
theorem ringWritesComplete : Obligations.RingWritesComplete := by
  refine ⟨fun s ld n v hld hn hown hheld hready => ?_, fun s ld n v hld hn hown hheld hready => ?_,
    fun s ld n v w hld hn hforeign => ⟨?_, ?_, ?_, ?_⟩,
    fun s a v hserves hoff hnone => run_writeTo _ hserves (Dev.qpAssign_idle hoff hnone)⟩
  · have htail {d : Dev} := run_slotWrite_own (off := 0x00) (width := 4) (v := v.toNat) (f := fun n d => d.tailWrite n v.toNat) (d := d)
      hld hn hown hheld hready
    have hhead {d : Dev} := run_slotWrite_own (off := 0x04) (width := 4) (v := v.toNat) (f := fun n d => d.headWrite n v.toNat) (d := d)
      hld hn hown hheld hready
    exact ⟨fun h => htail (Dev.tailWrite_pending h), fun hon h => htail (Dev.tailWrite_beyond hon h),
      fun h => hhead (Dev.headWrite_frees h), fun hon h => hhead (Dev.headWrite_outside hon h)⟩
  · have hon {d : Dev} := run_slotWrite_own (off := 0x18) (width := 4) (v := setBit v.toNat 24) (f := fun n d => d.ringOn n v.toNat) (d := d)
      hld hn hown hheld hready
    exact ⟨fun hoff hbad => hon ((Dev.ringOn_disabled hoff).trans (if_pos hbad)),
      fun hoff hok => hon ((Dev.ringOn_disabled hoff).trans (if_neg (ne_false_of_eq_true hok))),
      fun henabled => run_slotWrite_own (f := fun n d => d.ringOff n v.toNat) hld hn hown hheld hready (Dev.ringOff_enabled henabled)⟩
  · exact run_slotWrite_foreign (f := fun n d => d.tailWrite n v.toNat) hld hn hforeign
  · exact run_slotWrite_foreign (f := fun n d => d.headWrite n v.toNat) hld hn hforeign
  · exact run_slotWrite_foreign (f := fun n d => d.ringOn n w.toNat) hld hn hforeign
  · exact run_slotWrite_foreign (f := fun n d => d.ringOff n w.toNat) hld hn hforeign

namespace Dev

variable {d : Dev} {n : Nat}

/-! ### Fetch, start and completion of a job (R337, R338, R341, R343, R346) -/

/-- R341: a descriptor read without poison enters the pair's jobs. -/
theorem fetchDesc_read {f : LineFault} {bs : List Nat} {e : Dev} :
    let h := d.qslot n F.SLOT_SQ_HEAD
    d.readOff (d.pairWho n) (d.qslot n F.SLOT_SQ_BASE + 64 * h) f = .done (bs, false) e →
    let j : Job := { id := e.mem.nextReq, pair := n, desc := parseDesc bs, ended := if descOk bs = true then none else some { status := 0x09 } }
    let next := (h + 1) % d.sqSize n
    let listed := (e.modMem fun m => { m with nextReq := m.nextReq + 1 }).modRings fun r => { r with jobs := r.jobs ++ [j] }
    d.fetchDesc n f = (((listed.putRing n F.SLOT_SQ_HEAD next).modPair n fun p =>
      { p with active := next != d.qslot n F.SLOT_SQ_TAIL, snooped := none, since := none }).dropUser (2 ^ 65 + n)).tally Pg.qmg 0x0100 1 := by
  intro h hread
  unfold fetchDesc
  dsimp only
  rw [hread]

theorem startJob_may {j : Job} (hfind : ((d.pairJobs n).find? fun j => !j.started) = some j) (hmay : d.mayStart n j = true) :
    d.startJob n = (d.putJob { j with started := true }).tally Pg.qmg 0x0101 1 := by
  unfold startJob
  rw [hfind]
  exact if_pos hmay

/-- R338: the completion of a job of an LD that is not viral is written at CQ_TAIL. -/
theorem writeDone_written {j : Job} {e : JobEnd} {f : LineFault} {u : Unit} {w : Dev} (hviral : d.isViral (d.qpLd j.pair) = false) :
    let a := d.qslot j.pair F.SLOT_CQ_BASE + 16 * d.qslot j.pair F.SLOT_CQ_TAIL
    let image := lineImage (a % 64) (d.completion j e)
    d.writeOff (d.pairWho j.pair) a image.1 image.2 false f = .done u w →
    d.writeDone j e f = ((w.pairWait j.pair none false).dropUser (2 ^ 65 + j.pair)).completed j e := by
  intro a image hwrite
  unfold writeDone
  dsimp only
  rw [hviral, if_neg Bool.false_ne_true, hwrite]

theorem jobComplete_ended {id : Nat} {f : LineFault} {j : Job} {e : JobEnd} (hfind : d.findJob id = some j) (hended : j.ended = some e)
    (hstarted : j.started = true) (hvisible : (d.twin.out.any fun i => i.req == id) = false) :
    jobComplete id f d = (d.writeDone j e f).after := by
  unfold jobComplete
  rw [hfind]
  dsimp only
  rw [hended]
  exact if_pos (by rw [hstarted, hvisible]; rfl)

/-- R346: the time limit of a pair whose interrupt has waited for it. -/
theorem coalesce_late (hen : d.qslot n F.SLOT_IRQ_EN = 1) (hset : d.qslot n F.SLOT_COAL_STITCH ≠ 0) (hcount : (d.pair n).irqCnt ≠ 0)
    (hdue : (d.pair n).due = false) (hlate : (d.pair n).irqSn + d.qslot n F.SLOT_COAL_STITCH ≤ d.sn) :
    coalesce n d = d.ringDue n := by
  unfold coalesce
  exact if_pos ⟨hen, hset, hcount, by rw [hdue]; rfl, hlate⟩

end Dev

/-- Settles O45, from the effect of each step of a job. -/
theorem jobLifeCycleCompletes : Obligations.JobLifeCycleCompletes := by
  refine ⟨fun s n f bs d hmay hread => run_eq_withDev ((when_true hmay).trans (congrArg Dev.after (Dev.fetchDesc_read hread))),
    fun s n j hfind hmay => run_eq_withDev (f := (·.startJob n)) (Dev.startJob_may hfind hmay),
    fun s id f j e u d hfind hended hstarted hvisible hviral hwrite => run_eq_withDev ?_,
    fun s n hen hset hcount hdue hlate => run_eq_withDev (Dev.coalesce_late hen hset hcount hdue hlate)⟩
  exact (Dev.jobComplete_ended hfind hended hstarted hvisible).trans (congrArg Dev.after (Dev.writeDone_written hviral hwrite))

namespace Dev

/-! ### Carrying a job on (R348, R353) -/

/-- A job that a command has carried on, in its list: what it held is freed at its end. -/
def leaveJob (id : Nat) (r : JobRun) : Dev :=
  if r.2.1.ended.isSome = true then
    ((((r.1.freeInst r.2.1).dropUser id).forgetJob id).putJob { r.2.1 with inst := none, buf := [], out := none }).after
  else (r.1.putJob r.2.1).after

/-- A job of an LD that is not viral has started and not ended. -/
structure Runs (d : Dev) (id : Nat) (j : Job) : Prop where
  found : d.findJob id = some j
  started : j.started = true
  unended : j.ended = none
  unviral : d.isViral (d.qpLd j.pair) = false

theorem Runs.runJob_eq {d : Dev} {id : Nat} {j : Job} (h : d.Runs id j) {opcodeOk : Nat → Bool} (zeroLen : Bool) (run : Dev → Job → JobRun)
    (hcode : opcodeOk j.desc.opcode = true) :
    runJob opcodeOk zeroLen run id d = leaveJob id (if (zeroLen && j.desc.len == 0) = true then stopJob (d, j) 0x00 0 else run d j) := by
  unfold runJob
  rw [h.found]
  refine (if_neg ?_).trans ?_
  · rw [h.started, h.unended, hcode]
    exact Bool.false_ne_true
  · rw [h.unviral, if_neg Bool.false_ne_true]
    generalize (if (zeroLen && j.desc.len == 0) = true then stopJob (d, j) 0x00 0 else run d j) = r
    obtain ⟨d1, j1, b⟩ := r
    rfl

end Dev

section

variable {s : State} {id : Nat} {j : Job} (h : s.dev.Runs id j) {opcodeOk : Nat → Bool} {run : Dev → Job → Dev.JobRun}
  (hcode : opcodeOk j.desc.opcode = true)
include h hcode

/-- R348: a job of LEN 0 ends with Success at once, another is carried on by its opcode. -/
theorem run_runJob_len :
    (j.desc.len ≠ 0 → s.run (Dev.runJob opcodeOk true run id) = .next (s.withDev (Dev.leaveJob id (run s.dev j)))) ∧
      (j.desc.len = 0 → s.run (Dev.runJob opcodeOk true run id) = .next (s.withDev (Dev.leaveJob id (Dev.stopJob (s.dev, j) 0x00 0)))) :=
  ⟨fun hlen => run_eq_withDev ((h.runJob_eq true run hcode).trans (congrArg _ (if_neg (by rw [beq_false_of_ne hlen]; exact Bool.false_ne_true)))),
    fun hlen => run_eq_withDev ((h.runJob_eq true run hcode).trans (congrArg _ (if_pos (by rw [hlen]; rfl))))⟩

theorem run_runJob_always : s.run (Dev.runJob opcodeOk false run id) = .next (s.withDev (Dev.leaveJob id (run s.dev j))) :=
  run_eq_withDev (h.runJob_eq false run hcode)

end

/-- Settles O46: each opcode's command runs the work of its opcode on the job. -/
theorem jobCommandsComplete : Obligations.JobCommandsComplete := by
  intro s id j fs mismatch hfind hstarted hunended hunviral
  have h : s.dev.Runs id j := ⟨hfind, hstarted, hunended, hunviral⟩
  refine ⟨fun c code run hmem hcode => ?_, fun hcode => run_runJob_always h (beq_iff_eq.mpr hcode), fun (hcode : j.desc.opcode = 0x00) => ?_,
    fun hcode => run_runJob_always h (by rw [hcode]; rfl)⟩
  · simp only [List.mem_cons, List.not_mem_nil, or_false, Prod.mk.injEq] at hmem
    rcases hmem with ⟨rfl, rfl, rfl⟩ | ⟨rfl, rfl, rfl⟩ | ⟨rfl, rfl, rfl⟩ | ⟨rfl, rfl, rfl⟩ | ⟨rfl, rfl, rfl⟩ | ⟨rfl, rfl, rfl⟩ |
      ⟨rfl, rfl, rfl⟩ | ⟨rfl, rfl, rfl⟩ | ⟨rfl, rfl, rfl⟩ | ⟨rfl, rfl, rfl⟩ <;> exact run_runJob_len h (beq_iff_eq.mpr hcode)
  · obtain ⟨hruns, hempty⟩ := run_runJob_len (run := fun d j => Dev.stopJob (d, j) 0x00 0) h (opcodeOk := (· == 0x00)) (beq_iff_eq.mpr hcode)
    exact (em (j.desc.len = 0)).elim hempty hruns

end Sys2Proof.Machine
end

