-- ==== Sys2Proof/Proofs/DataMover.lean ====
section
/-! PROOFS. The Data Mover: the control of a channel (R374, R376), triggers and timers (R364, R365), beats (R366) and read-back (R368). -/

set_option Elab.async false

namespace Sys2Proof.Machine

open Sys2Proof.Laws

/-- A bit that was set, and the others. -/
theorem testBit_setBit (n i j : Nat) : (setBit n i).testBit j = (n.testBit j || j == i) := by
  unfold setBit
  rw [Nat.testBit_or, Nat.one_shiftLeft, Nat.testBit_two_pow, beq_eq_decide]
  exact congrArg _ (decide_eq_decide.mpr eq_comm)

namespace Dev

variable {d : Dev} {n v : Nat}

/-! ### The control of a channel (R374, R376) -/

/-- A field of the selected channel is written from the word `v`. -/
def putField (n v : Nat) (d : Dev) (f : Fld) : Dev := d.putChan n f (bits v f.lsb f.width)

/-- R376: a write of DMV_CH_CTL to a channel that is not enabled. -/
theorem chCtl_off (hsel : d.get Pg.dmv F.DMV_CH_SEL_CH = n) (hoff : d.chReg n F.DMV_CH_CTL_EN = 0) (hen : v.testBit 0 = true)
    (hgo : v.testBit 1 = false) : chCtl v d = (chFields.foldl (putField n v) d).chOn n := by
  subst hsel
  unfold chCtl
  dsimp only
  rw [hoff, if_neg (by decide), hen, if_pos rfl, hgo, if_neg Bool.false_ne_true]
  rfl

theorem chCtl_on_disable (hsel : d.get Pg.dmv F.DMV_CH_SEL_CH = n) (hon : d.chReg n F.DMV_CH_CTL_EN = 1) (hen : v.testBit 0 = false) :
    chCtl v d = (putField n v d F.DMV_CH_CTL_LEVEL).chOff n := by
  subst hsel
  unfold chCtl
  dsimp only
  rw [hon, if_pos rfl, hen, if_neg Bool.false_ne_true]
  rfl

theorem chCtl_on_go (hsel : d.get Pg.dmv F.DMV_CH_SEL_CH = n) (hon : d.chReg n F.DMV_CH_CTL_EN = 1) (hen : v.testBit 0 = true)
    (hgo : v.testBit 1 = true) : chCtl v d = (putField n v d F.DMV_CH_CTL_LEVEL).chTrigger n := by
  subst hsel
  unfold chCtl
  dsimp only
  rw [hon, if_pos rfl, hen, if_pos rfl, hgo, if_pos rfl]
  rfl

/-- R374: an enable whose fields pass. -/
theorem chOn_passes (hpage : d.enabled Pg.dmv = true) (hok : d.chOk n = true) :
    d.chOn n = ([F.DMV_CH_STS_HALTED, F.DMV_CH_STS_FROGGED, F.DMV_CH_STS_ERR, F.DMV_CH_STS_PEND, F.DMV_CH_STS_OVR, F.DMV_CH_STS_POISON,
      F.DMV_CH_DONE_CNT_COUNT].foldl (fun d f => d.putChan n f 0) d).putChan n F.DMV_CH_CTL_EN 1 := by
  unfold chOn
  rw [hpage, hok, Bool.not_true, if_neg Bool.false_ne_true, if_neg Bool.false_ne_true]

theorem chOn_refused (hpage : d.enabled Pg.dmv = true) (hbad : d.chOk n = false) :
    d.chOn n = (d.putChan n F.DMV_CH_STS_ERR 1).raise Src.dmvError 0 (0x40 + n) 6 := by
  unfold chOn
  rw [hpage, hbad, Bool.not_true, if_neg Bool.false_ne_true, Bool.not_false, if_pos rfl]

/-! ### Triggers and timers (R364, R365) -/

section

variable (hen : d.chReg n F.DMV_CH_CTL_EN = 1) (hpage : d.enabled Pg.dmv = true)
include hen hpage

/-- R364: a trigger of an enabled channel starts a round, or is pending, or overruns. -/
theorem chTrigger_enabled :
    d.chTrigger n =
      if (!(d.mover n).running && !d.chBlocked) = true then d.startRound n
      else if d.chReg n F.DMV_CH_STS_PEND < 15 then d.putChan n F.DMV_CH_STS_PEND (d.chReg n F.DMV_CH_STS_PEND + 1)
      else (d.putChan n F.DMV_CH_STS_OVR 1).raise Src.dmvOverrun n (0x40 + n) 6 := by
  unfold chTrigger
  rw [hen, hpage, if_neg (by decide)]

theorem chTrigger_idle (hidle : (d.mover n).running = false) (hfree : d.chBlocked = false) : d.chTrigger n = d.startRound n :=
  (chTrigger_enabled hen hpage).trans (if_pos (by rw [hidle, hfree]; rfl))

variable (hruns : (d.mover n).running = true)
include hruns

theorem chTrigger_running :
    d.chTrigger n =
      if d.chReg n F.DMV_CH_STS_PEND < 15 then d.putChan n F.DMV_CH_STS_PEND (d.chReg n F.DMV_CH_STS_PEND + 1)
      else (d.putChan n F.DMV_CH_STS_OVR 1).raise Src.dmvOverrun n (0x40 + n) 6 :=
  (chTrigger_enabled hen hpage).trans (if_neg (by rw [hruns]; exact Bool.false_ne_true))

theorem chTrigger_pends (hleft : d.chReg n F.DMV_CH_STS_PEND < 15) :
    d.chTrigger n = d.putChan n F.DMV_CH_STS_PEND (d.chReg n F.DMV_CH_STS_PEND + 1) :=
  (chTrigger_running hen hpage hruns).trans (if_pos hleft)

theorem chTrigger_overruns (hfull : 15 ≤ d.chReg n F.DMV_CH_STS_PEND) :
    d.chTrigger n = (d.putChan n F.DMV_CH_STS_OVR 1).raise Src.dmvOverrun n (0x40 + n) 6 :=
  (chTrigger_running hen hpage hruns).trans (if_neg (Nat.not_lt.mpr hfull))

end

theorem timerFire_fires {t : Nat} (hen : d.timer F.DMV_TMR_EN t = 1) (hcount : d.timer F.DMV_TMR_COUNT t = 0)
    (hset : d.timer F.DMV_TMR_PERIOD t ≠ 0) :
    timerFire t d =
      let d1 := d.set Pg.dmv (timerFld F.DMV_TMR_COUNT t) (d.timer F.DMV_TMR_PERIOD t)
      (d1.chained 1 t).foldl chTrigger d1 := if_pos ⟨hen, hcount, hset⟩

/-! ### Beats and read-back (R366, R368) -/

theorem moverBeat_ready {e : Nat} {f : LineFault} (hready : d.pageReady Pg.dmv = true) :
    moverBeat e f d = (serve e f ([3, 2, 1, 0].flatMap (d.chOrder e)) d).after :=
  if_neg (by rw [hready]; exact Bool.false_ne_true)

/-- R366: the first channel that can issue its beat takes the engine. -/
theorem serve_issued {eng : Nat} {rest : List Nat} {f : LineFault} {w : Dev} (h : d.chBeat n f = .issued w) :
    serve eng f (n :: rest) d = w.takeEngine eng n := by
  rw [serve, h]

/-- R368: the line written last reads back, and the round completes. -/
theorem readBack_returns {a : Nat} {f : LineFault} {bs : List Nat} {w : Dev} (hruns : (d.mover n).running = true)
    (hback : (d.mover n).readBack = true) (hvisible : (d.twin.out.any fun i => i.req == (d.chWho n).id) = false)
    (hlast : (d.mover n).last = some a) (hread : d.chRead n (d.chReg n F.DMV_CH_CTL_DST_SPACE) a 0 false f = (some bs, .issued w)) :
    readBack n f d = (w.roundDone n).after := by
  unfold readBack
  dsimp only
  rw [if_neg (by rw [hruns, hback, hvisible]; decide), hlast]
  dsimp only
  rw [hread]

end Dev

/-- Settles O47, from the effect of each command on the channel that is selected. -/
theorem dataMoverCommandsComplete : Obligations.DataMoverCommandsComplete := by
  refine ⟨fun s a v hserves => ⟨fun hoff hgo hpage hok => run_writeTo _ hserves ?_, fun hoff hgo hpage hbad => run_writeTo _ hserves ?_,
      fun hon => run_writeTo _ hserves (Dev.chCtl_on_disable rfl hon ?_), fun hon hen => run_writeTo _ hserves (Dev.chCtl_on_go rfl hon ?_ ?_)⟩,
    fun d n hen hpage => ⟨Dev.chTrigger_idle hen hpage, Dev.chTrigger_pends hen hpage, Dev.chTrigger_overruns hen hpage⟩,
    fun s t ht hen hcount hset => run_eq_withDev ?_, fun s e f he hready => run_eq_withDev ?_,
    fun d e eng n rest f => Dev.serve_issued, fun s n a f bs d hn hruns hback hvisible hlast hread => run_eq_withDev ?_⟩
  · refine (Dev.chCtl_off rfl hoff ?_ ?_).trans (Dev.chOn_passes hpage hok)
    · rw [testBit_setBit, beq_self_eq_true, Bool.or_true]
    · rw [testBit_setBit, hgo]; rfl
  · refine (Dev.chCtl_off rfl hoff ?_ ?_).trans (Dev.chOn_refused hpage hbad)
    · rw [testBit_setBit, beq_self_eq_true, Bool.or_true]
    · rw [testBit_setBit, hgo]; rfl
  · rw [testBit_clrBit, bne_self_eq_false, Bool.and_false]
  · rw [testBit_setBit, hen, Bool.true_or]
  · rw [testBit_setBit, beq_self_eq_true, Bool.or_true]
  · rw [Nat.mod_eq_of_lt ht]
    exact Dev.timerFire_fires hen hcount hset
  · rw [Nat.mod_eq_of_lt he]
    exact Dev.moverBeat_ready hready
  · rw [Nat.mod_eq_of_lt hn]
    exact Dev.readBack_returns hruns hback hvisible hlast hread

end Sys2Proof.Machine
end

