-- ==== Sys2Proof/Proofs/YarnLinks.lean ====
section
/-! PROOFS. The commands of a Yarn-type link (R390 to R401, R405). -/

set_option Elab.async false

namespace Sys2Proof.Machine

open Sys2Proof.Laws

namespace Dev

variable {d : Dev} {l : Nat}

theorem linkActive_true (hon : d.linkOff l = false) (hstate : d.linkState l = 3) : d.linkActive l = true := by
  unfold linkActive
  rw [hon, hstate]
  rfl

theorem min_link (hl : l < 17) : min l 16 = l := Nat.min_eq_left (Nat.le_of_lt_succ hl)

theorem domainPower_changes {k : Nat} {on : Bool} (hlinks : domainLinks k ≠ []) (hchange : d.domOn k = !on) :
    domainPower k on d =
      if on then
        let d1 := (d.setDom k true).linkDomainOn k
        { d1 with pwr := { d1.pwr with ready := setBit d1.pwr.ready k } }
      else
        let d1 := ((domainLinks k).foldl (fun d l => d.linkDomainOff l) d).setDom k false
        { d1 with pwr := { d1.pwr with ready := clrBit d1.pwr.ready k } } := by
  have hnone : (domainLinks k).isEmpty = false := List.isEmpty_eq_false_iff.mpr hlinks
  exact when_true (by rw [hnone, hchange]; cases on <;> rfl)

end Dev

section

variable {s : State} {l : Nat} (hl : l < 17) (hon : s.dev.linkOff l = false)
include hl hon

/-- A command of a link that exists and is powered leaves its effect. -/
theorem run_onLink {f : Effect} {d : Dev} (hd : f s.dev = d) : s.run (Dev.onLink l f) = .next (s.withDev d) :=
  run_eq_withDev ((when_true (by rw [decide_eq_true hl, hon]; rfl)).trans hd)

/-- A command of a powered link that acts where its condition holds. -/
theorem run_onLink_when {c : Dev → Bool} {f : Effect} (hc : c s.dev = true) : s.run (Dev.onLink l (when c f)) = .next (s.withDev (f s.dev)) :=
  run_onLink hl hon (when_true hc)

/-! ### A link that is Active (R390 to R400) -/

section

variable (hactive : s.dev.linkActive l = true)
include hactive

theorem run_onLink_active {f : Effect} : s.run (Dev.onLink l (when (·.linkActive l) f)) = .next (s.withDev (f s.dev)) :=
  run_onLink_when hl hon hactive

theorem run_onLink_activeAnd {p : Dev → Bool} {f : Effect} (hp : p s.dev = true) :
    s.run (Dev.onLink l (when (fun d => d.linkActive l && p d) f)) = .next (s.withDev (f s.dev)) :=
  run_onLink_when hl hon (by rw [hactive, hp]; rfl)

end

end

/-- Settles O48, from the state of the link and what each command does in it. -/
theorem yarnLinkCommandsComplete : Obligations.YarnLinkCommandsComplete := by
  refine ⟨fun s l hl hon => ⟨fun hstate => ?_, fun hstate hauto hlate => run_onLink_when hl hon ?_, fun hstate r p => run_onLink hl hon ?_,
      fun hstate p r hagree => run_onLink hl hon ?_, fun hstate p r hagree => run_onLink hl hon ?_,
      fun hstate hlate => run_onLink_when hl hon ?_, fun hstate => ⟨run_onLink_when hl hon (beq_iff_eq.mpr hstate), fun hwaking => ?_⟩⟩,
    fun s a l hl hserves => ⟨fun hactive => run_writeTo _ hserves ?_, fun hup => run_writeTo _ hserves ?_⟩,
    fun s k hlinks => ⟨fun hoff => run_eq_withDev (Dev.domainPower_changes (on := true) hlinks hoff),
      fun hon => run_eq_withDev (Dev.domainPower_changes (on := false) hlinks hon)⟩⟩
  · have hactive := Dev.linkActive_true hon hstate
    refine ⟨fun ack => run_onLink_active hl hon hactive, fun seq ack => run_onLink_active hl hon hactive, fun why hwhy => ?_,
      run_onLink_active hl hon hactive, run_onLink_active hl hon hactive, run_onLink_active hl hon hactive,
      fun hdue => run_onLink_activeAnd hl hon hactive hdue, fun p rest hlate hstored => ?_,
      fun hsilent => run_onLink_activeAnd hl hon hactive (decide_eq_true hsilent),
      fun lane hlane => run_onLink_activeAnd hl hon hactive hlane, fun p => run_onLink hl hon ?_,
      fun hprogress htarget => run_onLink_activeAnd hl hon hactive ?_⟩
    · simp only [List.mem_cons, List.not_mem_nil, or_false] at hwhy
      rcases hwhy with rfl | rfl | rfl <;> exact run_onLink_active hl hon hactive
    · refine run_onLink hl hon ((when_true (by rw [hactive, decide_eq_true hlate]; rfl)).trans ?_)
      rw [hstored]
    · dsimp only
      rw [hstate]
      rfl
    · rw [if_pos rfl, hprogress, htarget]
      rfl
  · rw [hstate, hauto, decide_eq_true hlate]
    rfl
  · dsimp only
    rw [hstate]
    rfl
  · rw [hagree, hstate]
    rfl
  · rw [hagree, hstate]
    rfl
  · rcases hstate with h | h | h <;> rw [h, decide_eq_true hlate] <;> rfl
  · have hdoze : (s.dev.linkState l == 5 && (s.dev.lnk l).waking) = true := by
      rw [hstate, hwaking]
      rfl
    exact ⟨run_onLink_when hl hon hdoze, run_onLink_when hl hon hdoze⟩
  · rw [Dev.min_link hl]
    exact when_true hactive
  · rw [Dev.min_link hl]
    exact when_true (bne_iff_ne.mpr hup)

end Sys2Proof.Machine
end

