-- ==== Sys2Proof/Proofs/Cartridges.lean ====
section
/-! PROOFS. Cartridges: the attach exchange (R409, R410, R421) and the commands of a cartridge in service (R414 to R426). -/

set_option Elab.async false

namespace Sys2Proof.Machine

open Sys2Proof.Laws

namespace Dev

theorem not_absent {d : Dev} {n : Nat} (hn : n < 16) (hon : d.linkOff n = false) : ¬ (16 ≤ n ∨ d.linkOff n = true) := by
  rintro (h | h)
  · exact absurd hn (Nat.not_lt.mpr h)
  · exact absurd (hon.symm.trans h) Bool.false_ne_true

/-! ### A management message the link delivers for the step in progress -/

section

variable {d0 d : Dev} {n : Nat} {h : YarnHeader} (hn : n < 16) (hon : d0.linkOff n = false) (hrecv : d0.receive n h true = (true, d))
include hn hon hrecv

theorem onMgmt_delivered {ok : Dev → Bool} {f : Effect} (hok : ok d = true) : onMgmt n h ok f d0 = f d := by
  unfold onMgmt
  rw [if_neg (not_absent hn hon), hrecv]
  exact if_pos hok

theorem identify_rejects {b : IdentifyBody} (hstep : d.mgmtFor n h.tag 1 = true) (hbad : d.identCheck n b ≠ 0) :
    identify n h b d0 = d.reject n (d.identCheck n b) :=
  (onMgmt_delivered hn hon hrecv hstep).trans (if_pos hbad)

theorem identify_accepts {b : IdentifyBody} (hstep : d.mgmtFor n h.tag 1 = true) (hgood : d.identCheck n b = 0) :
    identify n h b d0 =
      let d1 := ((d.ctgSet n F.CTG_SERIAL_LO_SERIAL (b.serial.toNat % 2 ^ 64)).ctgSet n F.CTG_SERIAL_HI_SERIAL (b.serial.toNat / 2 ^ 64)).ctgSet n
        F.CTG_CAP_EXTENTS b.extents
      let d2 := ((d1.setWear n b.wear b.budget).ctgSet n F.CTG_STS_RO (b2n b.readOnly)).ctgSet n F.CTG_STS_DEGRADED (b2n b.degraded)
      (d2.modCart n fun c => { c with step := 2, ident := some b, chainRead := 0 }).sendMgmt n (.certReq 0) :=
  (onMgmt_delivered hn hon hrecv hstep).trans (if_neg (not_not_intro hgood))

/-- The certificate chain of an IDENTIFY with a length in range, read by parts of a size in range. -/
theorem certPart_reads {b : IdentifyBody} {bytes verdict : Nat} (hstep : d.mgmtFor n h.tag 2 = true) (hident : (d.cart n).ident = some b)
    (hlen : b.chainLen ≠ 0) (hmax : b.chainLen ≤ 4096) (hpart : bytes ≤ 1020) (hsome : bytes ≠ 0) :
    certPart n h bytes verdict d0 =
      if (d.cart n).chainRead + bytes < b.chainLen then
        (d.modCart n fun c => { c with chainRead := (d.cart n).chainRead + bytes }).sendMgmt n (.certReq ((d.cart n).chainRead + bytes))
      else if verdict = 0 then
        ((d.modCart n fun c => { c with step := 3, chainRead := (d.cart n).chainRead + bytes, nonceDraw := d.fresh }).draw).sendMgmt n
          (.challenge (Config.nonce d.fresh))
      else d.reject n (if verdict = 2 then 2 else 1) := by
  refine (onMgmt_delivered hn hon hrecv hstep).trans ?_
  rw [hident]
  dsimp only
  exact if_neg (by omega)

theorem certSignature_holds (hstep : d.mgmtFor n h.tag 3 = true) :
    certSignature n h true d0 = ((d.modCart n fun c => { c with step := 4 }).draw).sendMgmt n (.keyInit (Config.nonce d.fresh)) :=
  (onMgmt_delivered hn hon hrecv hstep).trans (if_pos rfl)

theorem certSignature_fails (hstep : d.mgmtFor n h.tag 3 = true) : certSignature n h false d0 = d.reject n 3 :=
  (onMgmt_delivered hn hon hrecv hstep).trans (if_neg Bool.false_ne_true)

theorem keyResponse_holds (hstep : d.mgmtFor n h.tag 4 = true) :
    keyResponse n h true d0 =
      ((((((d.sendMgmt n .keyConfirm).endAttach n).lset n (fSecure n) 1).ctgSet n F.CTG_STS_STATE 2).raise Src.ctgAuth n 0xFF 0).flush n) :=
  (onMgmt_delivered hn hon hrecv hstep).trans (if_pos rfl)

theorem keyResponse_fails (hstep : d.mgmtFor n h.tag 4 = true) : keyResponse n h false d0 = d.reject n 4 :=
  (onMgmt_delivered hn hon hrecv hstep).trans (if_neg Bool.false_ne_true)

theorem wearMsg_unasked {b : WearBody} (hlow : 2 ≤ d.cartState n) (hhigh : d.cartState n ≤ 4) (htag : h.tag = 0) :
    wearMsg n h b d0 = (d.wearReport n b.wear b.budget b.readOnly b.degraded).pump := by
  refine (onMgmt_delivered hn hon hrecv ?_).trans ?_
  · rw [decide_eq_true ⟨hlow, hhigh⟩, htag]
    rfl
  · rw [if_pos htag]

end

/-! ### The answer to a transaction (R414 to R416, R420) -/

section

variable {d0 d : Dev} {n : Nat} {h : YarnHeader} {t : Txn} (hn : n < 16) (hon : d0.linkOff n = false)
  (hrecv : d0.receive n h false = (true, d)) (htxn : d.txnOf n h.tag = some t)
include hn hon hrecv htxn

theorem rxRsp_read_lands {b : RspBody} {f : Fetch} (hop : t.op = 1)
    (hfetch : (d.endTxn n h.tag).fetches.find? (fun f => f.id == t.fetch) = some f) (hknit : f.knit = false) :
    rxRsp n h b d0 =
      let x := (d.endTxn n h.tag).acceptSlot n f t b
      ((x.2.2.landFetch f.id x.1 x.2.1).kick).pump := by
  unfold rxRsp
  rw [if_neg (not_absent hn hon), hrecv]
  dsimp only
  rw [htxn]
  dsimp only
  rw [if_pos hop, hfetch]
  dsimp only
  rw [if_neg (Bool.eq_false_iff.mp hknit)]

theorem rxRsp_write {b : RspBody} (hop : t.op = 2) :
    rxRsp n h b d0 = (((d.endTxn n h.tag).writeAnswered t b.status).kick).pump := by
  unfold rxRsp
  rw [if_neg (not_absent hn hon), hrecv]
  dsimp only
  rw [htxn]
  dsimp only
  rw [if_neg (by omega), if_pos hop]

theorem rxRsp_dealloc {b : RspBody} (hop : t.op = 3) (hok : b.status = 0) :
    rxRsp n h b d0 = (((d.endTxn n h.tag).modCart n fun c => { c with clean := tput (fun _ => false) c.clean t.extent true }).kick).pump := by
  unfold rxRsp
  rw [if_neg (not_absent hn hon), hrecv]
  dsimp only
  rw [htxn]
  dsimp only
  rw [if_neg (by omega), if_neg (by omega), if_pos hok]

theorem rxData_read {ls : List CartLine} (hop : t.op = 1) :
    rxData n h ls d0 = d.modTxn n (fun x => x == t) (fun x => { x with got := x.got ++ ls }) := by
  unfold rxData
  rw [if_neg (not_absent hn hon), hrecv]
  dsimp only
  rw [htxn]
  exact if_pos hop

end

/-! ### Time limits, reclaim and the wear poll (R409, R423, R424, R426) -/

theorem attachTimeout_late {d : Dev} {n : Nat} (hn : n < 16) (hstate : d.cartState n = 1) (hlate : (d.cart n).startSn + d.attachTo ≤ d.sn) :
    attachTimeout n d = d.reject n 5 :=
  when_true (by rw [decide_eq_true hn, hstate, decide_eq_true hlate]; rfl)

theorem retireTimeout_late {d : Dev} {n sn : Nat} (hn : n < 16) (hsn : (d.cart n).retireSn = some sn) (hlate : sn + d.attachTo ≤ d.sn) :
    retireTimeout n d = d.retireEnd n := by
  unfold retireTimeout
  rw [hsn]
  exact if_pos ⟨hn, hlate⟩

section

variable {d : Dev} {n tag : Nat} {t : Txn} (htxn : d.txnOf n tag = some t)
  (hlate : t.sn + max 64 (d.get Pg.ctg F.CTG_TXN_TO_STITCHES) ≤ d.sn)
include htxn hlate

theorem txnTimeout_again (hagain : t.reissued = true) :
    txnTimeout n tag d = ((d.raise Src.ctgTxnTimeout tag 0xFF 0).enterDown n).pump := by
  unfold txnTimeout
  rw [htxn]
  exact (if_neg (Nat.not_lt.mpr hlate)).trans (if_pos hagain)

theorem txnTimeout_first {x : Txn} (hfirst : t.reissued = false) :
    let e := (d.raise Src.ctgTxnTimeout tag 0xFF 0).modTxn n (fun x => x == t) (fun x => { x with detached := true })
    (e.cart n).txns.find? (fun x => x.sent && x.detached && x.tag == tag) = some x → e.portOpen n = true →
      txnTimeout n tag d = e.issueTxn n x := by
  intro e hfound hopen
  unfold txnTimeout
  rw [htxn]
  refine (if_neg (Nat.not_lt.mpr hlate)).trans ((if_neg (Bool.eq_false_iff.mp hfirst)).trans ?_)
  show (match (e.cart n).txns.find? (fun x => x.sent && x.detached && x.tag == tag) with
    | some x => if e.portOpen n then e.issueTxn n x else e
    | none => e) = _
  rw [hfound]
  exact if_pos hopen

end

end Dev

/-- Settles O49, step by step of the attach exchange. -/
theorem cartridgeAttachCompletes : Obligations.CartridgeAttachCompletes := by
  refine ⟨fun s a v => ⟨fun hserves => run_writeTo _ hserves rfl, fun hserves => run_writeTo _ hserves rfl⟩,
    fun s n h d hn hon hrecv => ?_,
    fun s n hn hstate hlate => run_eq_withDev (Dev.attachTimeout_late hn hstate hlate)⟩
  refine ⟨fun hstep b => ⟨fun hbad => ?_, fun hgood => ?_⟩, ?_, fun hstep => ⟨?_, ?_⟩, fun hstep => ⟨?_, ?_⟩⟩
  · exact run_eq_withDev (Dev.identify_rejects hn hon hrecv hstep hbad)
  · exact run_eq_withDev (Dev.identify_accepts hn hon hrecv hstep hgood)
  · intro hstep b bytes verdict hident hlen hmax hpart hsome read
    have hreads := Dev.certPart_reads (verdict := verdict) hn hon hrecv hstep hident hlen hmax hpart hsome
    exact ⟨fun hmore => run_eq_withDev (hreads.trans (if_pos hmore)),
      fun hall hvalid => run_eq_withDev (hreads.trans ((if_neg (Nat.not_lt.mpr hall)).trans (if_pos hvalid))),
      fun hall hinvalid => run_eq_withDev (hreads.trans ((if_neg (Nat.not_lt.mpr hall)).trans (if_neg hinvalid)))⟩
  · exact run_eq_withDev (Dev.certSignature_holds hn hon hrecv hstep)
  · exact run_eq_withDev (Dev.certSignature_fails hn hon hrecv hstep)
  · exact run_eq_withDev (Dev.keyResponse_holds hn hon hrecv hstep)
  · exact run_eq_withDev (Dev.keyResponse_fails hn hon hrecv hstep)

/-- Settles O50, from the transaction or the request each command answers. -/
theorem cartridgeServiceCommandsComplete : Obligations.CartridgeServiceCommandsComplete := by
  refine ⟨fun s n h d t hn hon hrecv htxn => ⟨?_, ?_, ?_, ?_⟩, fun s n h d hn hon hrecv => ⟨?_, ?_⟩, ?_, ?_, fun s n tag t htxn hlate => ⟨?_, ?_⟩, ?_⟩
  · exact fun b f hop hfetch hknit => run_eq_withDev (Dev.rxRsp_read_lands hn hon hrecv htxn hop hfetch hknit)
  · exact fun b hop => run_eq_withDev (Dev.rxRsp_write hn hon hrecv htxn hop)
  · exact fun b hop hok => run_eq_withDev (Dev.rxRsp_dealloc hn hon hrecv htxn hop hok)
  · exact fun ls hop => run_eq_withDev (Dev.rxData_read hn hon hrecv htxn hop)
  · exact fun b hlow hhigh htag => run_eq_withDev (Dev.wearMsg_unasked hn hon hrecv hlow hhigh htag)
  · exact fun hretire hmgmt => run_eq_withDev (Dev.onMgmt_delivered hn hon hrecv (by rw [hretire, beq_iff_eq.mpr hmgmt]; rfl))
  · exact fun s n sn hn hsn hlate => run_eq_withDev (Dev.retireTimeout_late hn hsn hlate)
  · exact fun s hen hreclaim => run_eq_withDev (if_neg (by rw [hen, hreclaim]; exact Bool.false_ne_true))
  · exact fun hagain => run_eq_withDev (Dev.txnTimeout_again htxn hlate hagain)
  · exact fun x hfirst hfound hopen => run_eq_withDev (Dev.txnTimeout_first htxn hlate hfirst hfound hopen)
  · exact fun s hpolls => run_eq_withDev (if_neg hpolls)

end Sys2Proof.Machine
end

