-- ==== Sys2Proof/Proofs/TwinPairs.lean ====
section
/-! PROOFS. Twin pairs: packets from the peer (R532, R533, R537 to R541, R553, R554), and the Twin's timers and writes (R532, R541 to R559). -/

set_option Elab.async false

namespace Sys2Proof.Machine

open Sys2Proof.Laws

namespace Dev

/-! ### A packet of the peer that the Hallway delivers -/

theorem fromPeer_delivered {d0 d : Dev} {h : YarnHeader} {early : Bool} {f : Effect} (hon : d0.linkOff 16 = false)
    (hrecv : d0.receive 16 h early = (true, d)) : fromPeer h early f d0 = (f d).after := by
  refine (when_true (by rw [hon]; rfl)).trans ?_
  rw [hrecv]
  exact congrArg after (if_pos rfl)

/-! ### The steps of pairing (R532, R533, R553) -/

section

variable {d : Dev}

theorem rxHello_pairing {b : HelloBody} (hstate : d.twnState = 1) (hstep : d.twin.step = 1) : rxHello b d = d.takeHello b :=
  if_pos ⟨hstate, hstep⟩

theorem takeHello_refused {b : HelloBody} (hbad : d.helloCheck b ≠ 0) :
    d.takeHello b = (d.modTwin fun t => { t with peer := none }).pairFail (d.helloCheck b) := by
  unfold takeHello
  split
  next hzero => exact absurd hzero hbad
  next => rfl

theorem rxIdentity_fails (hat : d.atPairing 2 = true) : rxIdentity false d = d.pairFail 5 :=
  (if_neg (by rw [hat]; exact Bool.false_ne_true)).trans (if_pos rfl)

theorem rxIdentity_holds (hat : d.atPairing 2 = true) :
    rxIdentity true d =
      if d.twnFlag F.TWN_STS_ROLE then d.modTwin fun t => { t with step := 3 }
      else (d.modTwin fun t => { t with step := 3 }).toPeerNonce .keyInit :=
  (if_neg (by rw [hat]; exact Bool.false_ne_true)).trans (if_neg Bool.false_ne_true)

theorem rxKey_fails (hat : d.atPairing 3 = true) : rxKey false d = d.pairFail 6 :=
  (if_neg (by rw [hat]; exact Bool.false_ne_true)).trans (if_pos rfl)

theorem rxKey_holds (hat : d.atPairing 3 = true) :
    rxKey true d =
      let d1 := if d.twnFlag F.TWN_STS_ROLE then d.toPeerNonce .keyInit else d.toPeer .keyConfirm
      ((d1.lset 16 (fSecure 16) 1).modTwin fun t => { t with step := 4 }).toPeer (.source ⟨d.twin.was, d.get Pg.twn F.TWN_EPOCH_EPOCH⟩) :=
  (if_neg (by rw [hat]; exact Bool.false_ne_true)).trans (if_neg Bool.false_ne_true)

theorem rxSource_diverged {b : SourceBody} (hat : d.atPairing 4 = true) (hwas : d.twin.was = 5) (hpeer : b.state = 5) :
    rxSource b d = (((d.setTwnState 5).twnSet F.TWN_STS_REASON 7).modTwin fun t => { t with step := 0 }).raise Src.twinDivergence 0 0xFF 0 :=
  (if_neg (by rw [hat]; exact Bool.false_ne_true)).trans (if_pos ⟨hwas, hpeer⟩)

theorem rxSource_agreed {b : SourceBody} (hat : d.atPairing 4 = true) (hagree : ¬ (d.twin.was = 5 ∧ b.state = 5)) :
    rxSource b d =
      let own := if d.twin.was = 5 then true else if b.state = 5 then false else !d.twnFlag F.TWN_STS_ROLE
      let named := (((d.twnSet F.TWN_STS_OWNER (b2n own)).twnSet F.TWN_STS_SOURCE (b2n own)).twnSet F.TWN_EPOCH_EPOCH
        ((max (d.get Pg.twn F.TWN_EPOCH_EPOCH) b.epoch + 1) % 2 ^ 32))
      (((named.twnSet F.TWN_WITNESS_STS_HELD 0).twnSet F.TWN_WITNESS_STS_WINNER 0).modTwin fun t => { t with offered := none }).startSync :=
  (if_neg (by rw [hat]; exact Bool.false_ne_true)).trans (if_neg hagree)

end

/-! ### Lines, repairs and the end of the copy, while the pair stands (R537 to R541, R554) -/

section

variable {d : Dev} (hstands : d.pairStands = true)
include hstands

theorem takeLine_queues {i : RxItem} : d.takeLine i = (d.modTwin fun t => { t with rx := t.rx ++ [i] }).rxPump :=
  if_pos hstands

theorem rxSync_line {b : SyncBody} (hline : b.repair = false) :
    rxSync b d = (d.modTwin fun t => { t with rx := t.rx ++
      [⟨b.mid, b.dpa / 64 * 64, b.data, BitVec.allOnes 64, b.poison, 3, false, true, b.zero⟩] }).rxPump :=
  (if_neg (Bool.eq_false_iff.mp hline)).trans (takeLine_queues hstands)

theorem rxSync_repair {b : SyncBody} (hrepair : b.repair = true) : rxSync b d = d.takeRepair b :=
  (if_pos hrepair).trans (if_pos hstands)

theorem rxLreq_asks {dpa : Nat} : rxLreq dpa d = (d.modTwin fun t => { t with asked := t.asked ++ [dpa / 64 * 64] }).serveAsked :=
  if_pos hstands

theorem rxSyncDone_pumps : rxSyncDone d = (d.modTwin fun t => { t with ackWait := true }).rxPump :=
  if_pos hstands

theorem rxSyncAck_pairs (hdone : d.twin.syncDone = true) :
    rxSyncAck d = ((d.becomePaired d.twin.copied).modTwin fun t => { t with copied := 0 }).toPeer .paired :=
  if_pos (by rw [hstands, hdone]; rfl)

theorem rxPaired_pairs (hdest : d.twnFlag F.TWN_STS_SOURCE = false) :
    rxPaired d = (d.becomePaired d.twin.fenced.length).modTwin fun t => { t with fenced := [] } :=
  if_pos (by rw [hstands, hdest]; rfl)

theorem detectSplit_latches : d.detectSplit = d.latch Src.twinSplit :=
  if_pos hstands

end

/-! ### Timers and writes (R544 to R548, R553, R554, R559) -/

/-- What keeps a resynchronisation window from sending SYNC_DONE (R554). -/
def ResyncLeft (d : Dev) : Prop :=
  d.twin.syncRooms ≠ [] ∨ d.twin.syncDone = true ∨ (∃ i ∈ d.twin.out, i.sync = true ∧ i.repair = false ∧ i.sent = false) ∨
    (d.twnState ≠ 2 ∧ d.twin.copied = 0)

theorem not_resyncLeft_iff {d : Dev} :
    ¬ d.ResyncLeft ↔ (d.twin.syncRooms.isEmpty && !d.twin.syncDone && !d.twin.out.any (fun i => i.sync && !i.repair && !i.sent) &&
      (d.twnState == 2 || d.twin.copied != 0)) = true := by
  simp [ResyncLeft, and_assoc, Classical.or_iff_not_imp_left]

section

variable {d : Dev}

theorem pairingTimeout_late (hstate : d.twnState = 1) (hlate : d.twin.startSn + 78125 ≤ d.sn) : pairingTimeout d = d.pairFail 8 :=
  when_true (by rw [hstate, decide_eq_true hlate]; rfl)

/-- A window of the copy sends SYNC_DONE where no line is left to send. -/
theorem resyncWindow_copies (hstands : d.pairStands = true) (hsource : d.twnFlag F.TWN_STS_SOURCE = true) (hfatal : d.fatal = false) :
    let e := (copyLines (d.get Pg.twn F.TWN_SYNC_CFG_LINES) d).after
    (e.ResyncLeft → resyncWindow d = e) ∧ (¬ e.ResyncLeft → resyncWindow d = (e.modTwin fun t => { t with syncDone := true }).toPeer .syncDone) := by
  have hruns : (d.pairStands && d.twnFlag F.TWN_STS_SOURCE && !d.fatal) = true := by
    rw [hstands, hsource, hfatal]
    rfl
  exact ⟨fun hleft => (when_true hruns).trans (if_neg fun hdone => not_resyncLeft_iff.mpr hdone hleft),
    fun hnone => (when_true hruns).trans (if_pos (not_resyncLeft_iff.mp hnone))⟩

/-- R544: a heartbeat with its mark and checksum. -/
theorem heartbeatIn_good {x : BitVec 128} (hon : d.linkOff 16 = false) (hstate : d.linkState 16 ≠ 0) :
    let b := fun (i n : Nat) => bits x.toNat (8 * i) (8 * n)
    b 0 1 = 0x4C → b 14 2 = crc32c 0 ((List.range 14).map (fun i => b i 1)) % 2 ^ 16 →
      heartbeatIn x d = ((((d.twnSet F.TWN_PEER_STS_STATE (b 1 1 / 2 % 8)).twnSet F.TWN_PEER_STS_ROLE (b 1 1 % 2)).twnSet
        F.TWN_PEER_STS_EPOCH (b 2 4)).twnSet F.TWN_PEER_STS_COUNT (b 6 1)).modTwin fun t => { t with hbSn := d.sn } := by
  intro b hmark hsum
  have hcarries : (!d.linkOff 16 && d.linkState 16 != 0) = true := by
    rw [hon, bne_iff_ne.mpr hstate]
    rfl
  exact (when_true hcarries).trans (if_pos ⟨hmark, hsum⟩)

theorem silenceSplit_late (hstands : d.pairStands = true) (hlate : d.twin.hbSn + d.silence ≤ d.sn) : silenceSplit d = d.latch Src.twinSplit :=
  (when_true (by rw [hstands, decide_eq_true hlate]; rfl)).trans (detectSplit_latches hstands)

theorem downSplit_late (hstands : d.pairStands = true)
    (hdown : d.linkState 16 = 0 ∨ ∃ k, d.twin.downSn = some k ∧ k + d.downLim ≤ d.sn) : downSplit d = d.latch Src.twinSplit := by
  refine (when_true ?_).trans (detectSplit_latches hstands)
  rcases hdown with hstate | ⟨k, hsn, hlate⟩
  · rw [hstands, hstate]
    rfl
  · rw [hstands, hsn]
    simp [hlate]

theorem writeCfg_splits {v : Nat} :
    writeCfg v d =
      let e := d.store Pg.twn 0x100 3 (v % 4) true
      if v % 2 = 0 ∧ e.pairStands = true then e.latch Src.twinSplit else e :=
  (ite_and ..).symm

theorem decision_due (hstate : d.twnState = 4) (hdue : d.get Pg.twn F.TWN_DECIDE_SN_SN ≤ d.sn) :
    decision d =
      let d1 := (d.modTwin fun t => { t with silent := false }).latch Src.twinFence
      (if d.staysAlone then (d1.setTwnState 5).twnSet F.TWN_STS_OWNER 1 else d1.becomeFenced).after :=
  when_true (by rw [hstate, decide_eq_true hdue]; rfl)

theorem solo_due (hstate : d.twnStands = 5) (hholds : d.twinHolds = true) (hdue : d.get Pg.twn F.TWN_SPLIT_SN_SN + d.twin.fw ≤ d.sn) :
    solo d =
      let d1 := d.twnSet F.TWN_SOLO_SN_SN (d.get Pg.twn F.TWN_SPLIT_SN_SN + d.twin.fw)
      let e := d1.twin.out.foldl soloItem d1
      (((e.mem.reqs.filter (fun r => decide (r.stage = .parked .twin))).map (·.id)).foldl unpark e).rxPump.after :=
  when_true (by rw [hstate, hholds, decide_eq_true hdue]; rfl)

theorem forfeit_alone (hstate : d.twnState = 5) :
    forfeit d = (if d.becomeFenced.mayPair then d.becomeFenced.startPairing else d.becomeFenced).after :=
  when_true (beq_iff_eq.mpr hstate)

end

end Dev

theorem run_fromPeer {s : State} {d e : Dev} {h : YarnHeader} {early : Bool} {f : Effect} (hon : s.dev.linkOff 16 = false)
    (hrecv : s.dev.receive 16 h early = (true, d)) (hend : f d = e) : s.run (Dev.fromPeer h early f) = .next (s.withDev e.after) :=
  run_eq_withDev ((Dev.fromPeer_delivered hon hrecv).trans (congrArg Dev.after hend))

/-- Settles O51, packet by packet. -/
theorem twinPacketsComplete : Obligations.TwinPacketsComplete := by
  refine fun s h d hon => ⟨fun hrecv => ?_, fun hrecv => ?_⟩
  · have ends {f : Effect} {e : Dev} (he : f d = e) : s.run (Dev.fromPeer h true f) = .next (s.withDev e.after) := run_fromPeer hon hrecv he
    refine ⟨fun b hstate hstep => ends (Dev.rxHello_pairing hstate hstep), ?_, fun hat => ⟨ends (Dev.rxIdentity_fails hat), ?_, ?_⟩,
      fun hat => ⟨ends (Dev.rxKey_fails hat), ends (Dev.rxKey_holds hat)⟩,
      fun hat b => ⟨fun hwas hpeer => ends (Dev.rxSource_diverged hat hwas hpeer), fun hagree => ends (Dev.rxSource_agreed hat hagree)⟩,
      fun drn m i => ends rfl,
      fun hstands => ⟨ends (Dev.rxSyncDone_pumps hstands), fun hdone => ends (Dev.rxSyncAck_pairs hstands hdone),
        fun hdest => ends (Dev.rxPaired_pairs hstands hdest)⟩⟩
    · rintro b r rfl hbad
      exact Dev.takeHello_refused hbad
    · exact fun hrole => ends ((Dev.rxIdentity_holds hat).trans (if_pos hrole))
    · exact fun hrole => ends ((Dev.rxIdentity_holds hat).trans (if_neg (Bool.eq_false_iff.mp hrole)))
  · have ends {f : Effect} {e : Dev} (he : f d = e) : s.run (Dev.fromPeer h false f) = .next (s.withDev e.after) := run_fromPeer hon hrecv he
    exact ⟨fun hstands => ⟨fun b => ends (Dev.takeLine_queues hstands), fun b hline => ends (Dev.rxSync_line hstands hline),
        fun b hrepair => ends (Dev.rxSync_repair hstands hrepair), fun dpa => ends (Dev.rxLreq_asks hstands)⟩,
      fun mids => ends rfl⟩

/-- Settles O52, timer by timer and write by write. -/
theorem twinTimersAndWritesComplete : Obligations.TwinTimersAndWritesComplete := by
  refine ⟨fun s => ⟨?_, ?_, ?_, ?_, ?_, ?_, ?_, ?_⟩, fun s a => ⟨fun v hserves => ?_, fun v hserves => ?_, fun hserves hstate => ?_⟩⟩
  · exact fun hstate hlate => run_eq_withDev (Dev.pairingTimeout_late hstate hlate)
  · intro hstands hsource hfatal
    obtain ⟨hcopies, hends⟩ := Dev.resyncWindow_copies hstands hsource hfatal
    exact ⟨fun hleft => run_eq_withDev (hcopies hleft), fun hnone => run_eq_withDev (hends hnone)⟩
  · exact fun dpa => run_eq_withDev rfl
  · intro x hon hstate b hmark hsum
    exact run_eq_withDev (Dev.heartbeatIn_good hon hstate hmark hsum)
  · exact fun hstands hlate => run_eq_withDev (Dev.silenceSplit_late hstands hlate)
  · exact fun hstands hdown => run_eq_withDev (Dev.downSplit_late hstands hdown)
  · intro hstate hdue
    have hdecides := Dev.decision_due hstate hdue
    exact ⟨fun halone => run_eq_withDev (hdecides.trans (congrArg Dev.after (if_pos halone))),
      fun hfenced => run_eq_withDev (hdecides.trans (congrArg Dev.after (if_neg (Bool.eq_false_iff.mp hfenced))))⟩
  · exact fun hstate hholds hdue => run_eq_withDev (Dev.solo_due hstate hholds hdue)
  · exact run_writeTo _ hserves Dev.writeCfg_splits
  · exact ⟨run_writeTo _ hserves rfl, run_writeTo _ hserves rfl, run_writeTo _ hserves rfl⟩
  · exact run_writeTo _ hserves (Dev.forfeit_alone hstate)

end Sys2Proof.Machine
end
